-- ==== Sys2Proof/Word.lean ====
section
/-! DEFINITION. The word types of the Kizor and the numbers that name its units (00 R6, 02 R57). -/

namespace Sys2Proof

/-- One byte of any of the machine's byte-addressed spaces. -/
abbrev Byte := BitVec 8

/-- A 64-bit scalar register, system register or queue entry. -/
abbrev Word := BitVec 64

/-- A 32-bit lane, and an instruction word. -/
abbrev Word32 := BitVec 32

/-- The 512 bits of a mask register, one for each lane (06 R164). -/
abbrev Mask := BitVec 512

/-- A vector register: 512 lanes of 32 bits, lane i at bytes 4i to 4i + 3 of its image (06 R160). -/
abbrev Lanes := Vector Word32 512

/-- Global core number 24 * DIEID + COREID (03 R82). -/
abbrev CoreNo := Fin 192

/-- Scalar register number: 0 is s0, 48-63 are q0-q15 (02 R57). -/
abbrev SReg := Fin 64
/-- Vector register number: 24-31 are vq0-vq7 (02 R57). -/
abbrev VReg := Fin 32
/-- Mask register number. -/
abbrev KReg := Fin 8
/-- Tile register number. -/
abbrev TReg := Fin 32
/-- Stream register number. -/
abbrev ZReg := Fin 16
/-- Copy-engine address register number. -/
abbrev CReg := Fin 16
/-- Arrival counter number. -/
abbrev AReg := Fin 64

end Sys2Proof
end

