-- ==== Sys2Proof/Syntax.lean ====
section
/-! DEFINITION. The instructions and steps of the Kizor: one constructor of `Instr` for each row of
spec/opcode_table.json, with the operand types of their fields (02 R44-R69). -/

namespace Sys2Proof

/-- The four engines of a core; their codes are s = 0, v = 1, m = 2, c = 3 (02 R59). -/
inductive Engine | scu | ve | me | ce
  deriving DecidableEq, Repr

/-- The token bits [31:30] of a VE, ME or CE word (02 R47). -/
structure Tok where
  /-- TW: pop one token of the default inbound FIFO before issue. -/
  tw : Bool
  /-- TS: push one token to the default outbound FIFO at retirement. -/
  ts : Bool
  deriving DecidableEq, Repr

/-- A rounding field, Table 1.5; values 5 and 6 do not exist (01 R20). -/
inductive Rounding | rne | rtz | rup | rdn | rna | dyn
  deriving DecidableEq, Repr

/-- Floating-point format codes 0-3 of Table 2.9. -/
inductive FpFmt | f32 | f64 | bf16 | f16
  deriving DecidableEq, Repr

/-- Integer format codes 4-6 of Table 2.9. -/
inductive IntFmt | i32 | u32 | i64
  deriving DecidableEq, Repr

/-- Format codes 0-6 of Table 2.9 (02 R60). -/
inductive VFmt | f32 | f64 | bf16 | f16 | i32 | u32 | i64
  deriving DecidableEq, Repr

/-- A lane width: code 0 is 32 bits, 1 is 64 bits (06 R183, R197). -/
inductive LaneW | b32 | b64
  deriving DecidableEq, Repr

/-- The formats FP32 (0) and FP64 (1) (06 R182, R185, 07 R212, R216). -/
inductive HFmt | f32 | f64
  deriving DecidableEq, Repr

/-- The formats of vredmin and vredmax: codes 0, 1, 4, 5, 6 (06 R186). -/
inductive RedFmt | f32 | f64 | i32 | u32 | i64
  deriving DecidableEq, Repr

/-- The formats 0, 1, 4 and 6, of vxacc (06 R181) and viota (06 R183). -/
inductive FixFmt | f32 | f64 | i32 | i64
  deriving DecidableEq, Repr

/-- The element formats of vtrd and vtwr: codes 0, 4 and 1 (06 R191). -/
inductive TileFmt | f32 | i32 | f64
  deriving DecidableEq, Repr

/-- Comparison conditions of vcmp (06 Table 6.5). -/
inductive Cond | eq | ne | lt | le | gt | ge | un | or
  deriving DecidableEq, Repr

/-- Comparison conditions of vicmp (06 Table 6.5). -/
inductive ICond | eq | ne | lt | le | gt | ge
  deriving DecidableEq, Repr

/-- Conditions of wmon and of WAIT packets (04 Table 4.6). -/
inductive WCond | eq | ne | lt | ge | ltu | geu | any
  deriving DecidableEq, Repr

/-- Atomic operations (14 Table 14.5). -/
inductive AmoOp | add | and | or | xor | min | max | minu | maxu | swap | fadd
  deriving DecidableEq, Repr

/-- Ordering forms of amo and cas (14 R379). -/
inductive AmoOrder | none | acq | rel | ar
  deriving DecidableEq, Repr

/-- Scopes of fence (14 R377). -/
inductive FenceScope | core | die | pkg | pod
  deriving DecidableEq, Repr

/-- Kinds of fence (14 R377). -/
inductive FenceKind | ld | st | all
  deriving DecidableEq, Repr

/-- Tile line directions (02 Table 2.8). -/
inductive Dir | row | col | diag | anti
  deriving DecidableEq, Repr

/-- Element types of vqnt (06 R178). -/
inductive QntType | e4 | e5 | e2
  deriving DecidableEq, Repr

/-- Operand formats of mma.b16 and mmas (02 Table 2.10). -/
inductive B16Fmt | bf16 | f16
  deriving DecidableEq, Repr

/-- Tile forms of talloc (09 Table 9.1). -/
inductive TileForm | d32 | d64 | lr
  deriving DecidableEq, Repr

/-- Typed buffers, codes 1-3 (08 R227). -/
inductive Buf | w | a | c
  deriving DecidableEq, Repr

/-- Destination spaces of cp, codes 0-6 (12 Table 12.3). -/
inductive CpDst | mem | w | a | c | mdq | ve | ring
  deriving DecidableEq, Repr

/-- Source spaces of cp, codes 0-4 (12 Table 12.3). -/
inductive CpSrc | mem | w | a | c | ve
  deriving DecidableEq, Repr

/-- Destination spaces of cpx, codes 0-3 and 6 (12 R326). -/
inductive CpxDst | mem | w | a | c | ring
  deriving DecidableEq, Repr

/-- Where a cpatm record list stands, codes 0-3 (14 R385). -/
inductive ListSrc | mem | w | a | c
  deriving DecidableEq, Repr

/-- The ring and header bits of a command packet (17 R443): LEN in 64-byte units and BAR. -/
structure Pkt where
  ring : Fin 256
  len : Nat
  bar : Bool
  deriving DecidableEq, Repr

/-- SIGADDR, SIGVAL and STATUS of an operator record or a transform (17 Tables 17.7, 17.8). -/
structure Report where
  sigAddr : Word
  sigVal : Word
  status : Word
  deriving DecidableEq, Repr

/-- What firmware made of a firmware-first trap (16 R422): page-table words it wrote to make the page
resident (physical address, entry), or that the address cannot be mapped. -/
inductive Service
  | served (writes : List (Nat × Word))
  | unmappable
  deriving DecidableEq, Repr

/-- A unit on one of the ladders: a matrix engine, a buffer bank or a pseudo-channel (11 R297, R303, 15 R398). -/
inductive AgedUnit
  | me (g : CoreNo)
  | bank (g : CoreNo) (b : Buf) (n : Fin 16)
  | channel (n : Fin 1024)
  deriving DecidableEq, Repr

/-- A cache in which an error is found: the L1D of a core, or the slice that holds the line (15 R397). -/
inductive CacheSite
  | l1d (g : CoreNo)
  | l2
  deriving DecidableEq, Repr

/-- The rows of Table 15.2 (15 R401); the step names the granule (PA div 32, or the offset in a spill area div 32) at which the
error was detected, and a row on caches the cache whose copy failed. -/
inductive ErrorCase
  /-- At most two symbols in error, in a cache or in HBM. -/
  | corrected (site : Option CacheSite)
  /-- An HBM read finds a granule uncorrectable. -/
  | hbmRead
  /-- A partial write's metadata granule is uncorrectable. -/
  | partialMetadata
  /-- A partial write's old data or check bytes are uncorrectable. -/
  | partialData
  /-- A line is written back while some byte of a poisoned granule in it is not dirty. -/
  | writeBackPoisoned
  /-- A dirty cached granule is uncorrectable. -/
  | dirtyCached (site : CacheSite)
  /-- The same with last-writer tag 0xFFFF or a CTX that no longer exists. -/
  | dirtyCachedUntagged (site : CacheSite)
  /-- A clean cached granule is uncorrectable. -/
  | cleanCached (site : CacheSite)
  /-- A spill line of the instance on a core is uncorrectable. -/
  | spillLine (g : CoreNo)
  /-- Three or more symbols are in error and the decoder finds another codeword: the granule takes its bytes (15 R395). -/
  | miscorrected (site : Option CacheSite) (bytes : List Byte)
  /-- The parity of the last-writer tag of a cache's line fails (15 R397). -/
  | tagParity (site : CacheSite)
  /-- An error in a resource of the assists on a core (11 R308, R311). -/
  | assistResource (g : CoreNo)
  deriving DecidableEq, Repr

/-- What the destination answered for a remote unit or signal (18 R468): it landed, or its first failing byte, counted from the
unit's first, cannot be mapped, is protected, or is poisoned. -/
inductive RemoteAnswer
  | landed
  | pageW (off : Fin 256)
  | prot (off : Fin 256)
  | poison (off : Fin 256)
  deriving DecidableEq, Repr

/-- What a module sends to another one over the links (18 R462, R467-R469). -/
inductive Message
  /-- One unit of a cprm: CTX, address and at most 256 bytes. -/
  | unit (ctx : Nat) (addr : Word) (data : List Byte)
  /-- A sig.st. -/
  | sigSt (ctx : Nat) (addr : Word) (w32 : Bool) (value : Word)
  /-- A sig.add. -/
  | sigAdd (ctx : Nat) (addr : Word) (w32 : Bool) (value : Word)
  /-- What the destination of a unit or a signal answers to its source. -/
  | answer (a : RemoteAnswer)
  deriving DecidableEq, Repr

/-- A message on its way (18 R466): the modules that it comes from and goes to, and the core, copy and unit at the source of the unit
or signal that it carries or answers. -/
structure Envelope where
  src : Nat
  dest : Nat
  tag : CoreNo × Nat × Nat
  msg : Message
  deriving DecidableEq, Repr

/-- A flit as the receiver finds it (18 R462): whether its CRC and FEC are good, its SEQ, the ACK it carries
for the reverse direction, its type and routing, and the messages that end in its payload. -/
structure Flit where
  good : Bool
  seq : BitVec 16
  ack : BitVec 16
  hdr : Word32
  msgs : List Envelope
  deriving DecidableEq, Repr

/-- A firmware image without its version (19 R476): body, the SHA-256 digest of its body, and Quamin's RSA-3072 signature over that
digest. -/
structure SignedBody where
  body : List Byte
  digest : Nat
  signature : Nat
  deriving DecidableEq, Repr

/-- Host AtomicOps (18 Table 18.1). -/
inductive HostAtomic | fetchAdd | swap | cas
  deriving DecidableEq, Repr

/-- The contribution of one slot to a collective: its source elements as bytes, little-endian (18 R473). -/
structure Contribution where
  slot : Fin 64
  data : List Byte
  deriving DecidableEq, Repr

/-- The rows of spec/opcode_table.json. Word rows carry the fields of their word; the other rows carry what tells one
occurrence of the step from another. `t` is the token bits (02 R47), `k` the mask field. -/
inductive Instr
  -- Words of the SCU stream (02 Table 2.2, 04).
  /-- ADD, R110: SCU register add: d receives a + b modulo 2^64. -/
  | add (d a b : SReg)
  /-- SUB, R110: SCU register subtract: d receives a - b modulo 2^64. -/
  | sub (d a b : SReg)
  /-- AND, R110: SCU bitwise AND of a and b. -/
  | and (d a b : SReg)
  /-- OR, R110: SCU bitwise OR of a and b. -/
  | or (d a b : SReg)
  /-- XOR, R110: SCU bitwise XOR of a and b. -/
  | xor (d a b : SReg)
  /-- SHL, R110: SCU shift left of a by b[5:0]. -/
  | shl (d a b : SReg)
  /-- SHR, R110: SCU logical shift right of a by b[5:0]. -/
  | shr (d a b : SReg)
  /-- SAR, R110: SCU arithmetic shift right of a by b[5:0]. -/
  | sar (d a b : SReg)
  /-- SLT, R110: SCU signed set-less-than. -/
  | slt (d a b : SReg)
  /-- SLTU, R110: SCU unsigned set-less-than. -/
  | sltu (d a b : SReg)
  /-- MUL, R110: SCU multiply, low 64 bits of the product. -/
  | mul (d a b : SReg)
  /-- MULH, R110: SCU signed multiply, high 64 bits. -/
  | mulh (d a b : SReg)
  /-- MULHU, R110: SCU unsigned multiply, high 64 bits. -/
  | mulhu (d a b : SReg)
  /-- DIV, R112: SCU signed division truncated toward zero, never trapping. -/
  | div (d a b : SReg)
  /-- DIVU, R112: SCU unsigned division, never trapping. -/
  | divu (d a b : SReg)
  /-- REM, R112: SCU signed remainder with the sign of the dividend. -/
  | rem (d a b : SReg)
  /-- REMU, R112: SCU unsigned remainder. -/
  | remu (d a b : SReg)
  /-- MIN, R110: SCU signed minimum. -/
  | min (d a b : SReg)
  /-- MINU, R110: SCU unsigned minimum. -/
  | minu (d a b : SReg)
  /-- MAX, R110: SCU signed maximum. -/
  | max (d a b : SReg)
  /-- MAXU, R110: SCU unsigned maximum. -/
  | maxu (d a b : SReg)
  /-- ADDI, R113: SCU add of a sign-extended 14-bit immediate. -/
  | addi (d a : SReg) (i : BitVec 14)
  /-- ANDI, R113: SCU AND with a zero-extended immediate. -/
  | andi (d a : SReg) (i : BitVec 14)
  /-- ORI, R113: SCU OR with a zero-extended immediate. -/
  | ori (d a : SReg) (i : BitVec 14)
  /-- XORI, R113: SCU XOR with a zero-extended immediate. -/
  | xori (d a : SReg) (i : BitVec 14)
  /-- SHLI, R113: SCU shift left by an immediate. -/
  | shli (d a : SReg) (i : Fin 64)
  /-- SHRI, R113: SCU logical shift right by an immediate. -/
  | shri (d a : SReg) (i : Fin 64)
  /-- SARI, R113: SCU arithmetic shift right by an immediate. -/
  | sari (d a : SReg) (i : Fin 64)
  /-- SLTI, R113: SCU signed compare with an immediate. -/
  | slti (d a : SReg) (i : BitVec 14)
  /-- SLTUI, R113: SCU unsigned compare with a sign-extended immediate. -/
  | sltui (d a : SReg) (i : BitVec 14)
  /-- LUI, R114: SCU load of imm20 into bits [33:14], sign-extended. -/
  | lui (d : SReg) (i : BitVec 20)
  /-- PCADD, R114: SCU PC plus four times a signed imm20. -/
  | pcadd (d : SReg) (i : BitVec 20)
  /-- LDB, R115: SCU load of a sign-extended byte. -/
  | ldb (d a : SReg) (i : BitVec 14)
  /-- LDBU, R115: SCU load of a zero-extended byte. -/
  | ldbu (d a : SReg) (i : BitVec 14)
  /-- LDH, R115: SCU load of a sign-extended halfword. -/
  | ldh (d a : SReg) (i : BitVec 14)
  /-- LDHU, R115: SCU load of a zero-extended halfword. -/
  | ldhu (d a : SReg) (i : BitVec 14)
  /-- LDW, R115: SCU load of a sign-extended word. -/
  | ldw (d a : SReg) (i : BitVec 14)
  /-- LDWU, R115: SCU load of a zero-extended word. -/
  | ldwu (d a : SReg) (i : BitVec 14)
  /-- LDD, R115: SCU load of a doubleword. -/
  | ldd (d a : SReg) (i : BitVec 14)
  /-- STB, R115: SCU store of d[7:0]. -/
  | stb (d a : SReg) (i : BitVec 14)
  /-- STH, R115: SCU store of d[15:0]. -/
  | sth (d a : SReg) (i : BitVec 14)
  /-- STW, R115: SCU store of d[31:0]. -/
  | stw (d a : SReg) (i : BitVec 14)
  /-- STD, R115: SCU store of a doubleword. -/
  | std (d a : SReg) (i : BitVec 14)
  /-- BEQ, R118: SCU branch if equal, with one delay slot. -/
  | beq (a b : SReg) (i : BitVec 14)
  /-- BNE, R118: SCU branch if not equal, with one delay slot. -/
  | bne (a b : SReg) (i : BitVec 14)
  /-- BLT, R118: SCU branch if signed less than. -/
  | blt (a b : SReg) (i : BitVec 14)
  /-- BGE, R118: SCU branch if signed greater or equal. -/
  | bge (a b : SReg) (i : BitVec 14)
  /-- BLTU, R118: SCU branch if unsigned less than. -/
  | bltu (a b : SReg) (i : BitVec 14)
  /-- BGEU, R118: SCU branch if unsigned greater or equal. -/
  | bgeu (a b : SReg) (i : BitVec 14)
  /-- J, R118: SCU unconditional jump with a delay slot. -/
  | j (i : BitVec 26)
  /-- JAL, R118: SCU jump and link into s47. -/
  | jal (i : BitVec 26)
  /-- JALR, R119: SCU jump to register a, linking into d. -/
  | jalr (d a : SReg)
  /-- SCU_LOOP, R123: SCU hardware loop over a body of L words, count from a. -/
  | scuLoop (a : SReg) (l : Fin 16384)
  /-- CSRR, R127: SCU read of a system register by number. -/
  | csrr (d : SReg) (n : Fin 16384)
  /-- CSRW, R127: SCU write of a system register without behaviour of its own, under the rights of R62. -/
  | csrw (a : SReg) (n : Fin 16384)
  /-- WMON, R130: SCU wait until a memory word satisfies a condition against b. -/
  | wmon (d a b : SReg) (w : Bool) (c : WCond)
  /-- AMO, R379: SCU atomic read-modify-write of an aligned word with optional acquire and release. -/
  | amo (d a b : SReg) (o : AmoOrder) (w : Bool) (c : AmoOp)
  /-- CAS, R381: SCU compare-and-swap of an aligned word. -/
  | cas (d a b : SReg) (o : AmoOrder) (w : Bool)
  /-- FENCE, R377: SCU memory fence of a kind and scope. -/
  | fence (s : FenceScope) (k : FenceKind)
  /-- SCU_TKW, R144: SCU waits for and pops a token from a named FIFO. -/
  | scuTkw (f : Engine)
  /-- SCU_TKS, R144: SCU pushes a token to a named FIFO at retirement. -/
  | scuTks (f : Engine)
  /-- SPAWN, R132: SCU places a command packet on a granted command ring. -/
  | spawn (d a b : SReg)
  /-- SCU_SAFE, R428: SCU safe point, holding while a pre-emption is pending. -/
  | scuSafe
  /-- SCU_SEG, R434: SCU two-word segment header opening a checked segment. -/
  | scuSeg (cnt : BitVec 24) (crc : BitVec 16)
  /-- SCU_END, R134: SCU stops until the pass ends and closes its segment. -/
  | scuEnd
  /-- TRAP, R135: SCU raises a USER trap with TVAL = imm20. -/
  | trap (i : BitVec 20)
  /-- ERET, R425: Ends the trap handler and resumes the streams. -/
  | eret
  -- Words of the VE stream (02 Table 2.3, 06, 07).
  /-- VADD, R169: Vector floating-point add. -/
  | vadd (tk : Tok) (d a b : VReg) (r : Rounding) (f : FpFmt) (k : KReg)
  /-- VSUB, R169: Vector floating-point subtract. -/
  | vsub (tk : Tok) (d a b : VReg) (r : Rounding) (f : FpFmt) (k : KReg)
  /-- VMUL, R169: Vector floating-point multiply. -/
  | vmul (tk : Tok) (d a b : VReg) (r : Rounding) (f : FpFmt) (k : KReg)
  /-- VDIV, R169: Vector floating-point divide. -/
  | vdiv (tk : Tok) (d a b : VReg) (r : Rounding) (f : FpFmt) (k : KReg)
  /-- VSQRT, R169: Vector floating-point square root. -/
  | vsqrt (tk : Tok) (d a : VReg) (r : Rounding) (f : FpFmt) (k : KReg)
  /-- VFMA, R170: Vector fused multiply-add a*b+d. -/
  | vfma (tk : Tok) (d a b : VReg) (r : Rounding) (f : FpFmt) (k : KReg)
  /-- VFMS, R170: Vector fused multiply-subtract a*b-d. -/
  | vfms (tk : Tok) (d a b : VReg) (r : Rounding) (f : FpFmt) (k : KReg)
  /-- VFNMA, R170: Vector fused negative multiply-add -(a*b)+d. -/
  | vfnma (tk : Tok) (d a b : VReg) (r : Rounding) (f : FpFmt) (k : KReg)
  /-- VMIN, R171: Vector IEEE minimum. -/
  | vmin (tk : Tok) (d a b : VReg) (f : FpFmt) (k : KReg)
  /-- VMAX, R171: Vector IEEE maximum. -/
  | vmax (tk : Tok) (d a b : VReg) (f : FpFmt) (k : KReg)
  /-- VSGN_NEG, R172: Vector sign inversion without arithmetic. -/
  | vsgnNeg (tk : Tok) (d a : VReg) (f : FpFmt) (k : KReg)
  /-- VSGN_ABS, R172: Vector clearing of the sign bit. -/
  | vsgnAbs (tk : Tok) (d a : VReg) (f : FpFmt) (k : KReg)
  /-- VSGN_CP, R172: Vector copy of the sign of b onto a. -/
  | vsgnCp (tk : Tok) (d a b : VReg) (f : FpFmt) (k : KReg)
  /-- VSGN_XS, R172: Vector sign of a XOR sign of b. -/
  | vsgnXs (tk : Tok) (d a b : VReg) (f : FpFmt) (k : KReg)
  /-- VSGN_EXP, R172: Vector extraction of floor(log2|a|) as an integer. -/
  | vsgnExp (tk : Tok) (d a : VReg) (f : FpFmt) (k : KReg)
  /-- VIADD, R173: Vector integer add modulo 2^w. -/
  | viadd (tk : Tok) (d a b : VReg) (f : IntFmt) (k : KReg)
  /-- VISUB, R173: Vector integer subtract. -/
  | visub (tk : Tok) (d a b : VReg) (f : IntFmt) (k : KReg)
  /-- VIMUL, R173: Vector integer multiply, low w bits. -/
  | vimul (tk : Tok) (d a b : VReg) (f : IntFmt) (k : KReg)
  /-- VAND, R173: Vector bitwise AND. -/
  | vand (tk : Tok) (d a b : VReg) (f : IntFmt) (k : KReg)
  /-- VOR, R173: Vector bitwise OR. -/
  | vor (tk : Tok) (d a b : VReg) (f : IntFmt) (k : KReg)
  /-- VXOR, R173: Vector bitwise XOR. -/
  | vxor (tk : Tok) (d a b : VReg) (f : IntFmt) (k : KReg)
  /-- VSHL, R173: Vector shift left. -/
  | vshl (tk : Tok) (d a b : VReg) (f : IntFmt) (k : KReg)
  /-- VSHR, R173: Vector logical shift right. -/
  | vshr (tk : Tok) (d a b : VReg) (f : IntFmt) (k : KReg)
  /-- VSAR, R173: Vector arithmetic shift right. -/
  | vsar (tk : Tok) (d a b : VReg) (f : IntFmt) (k : KReg)
  /-- VIMIN, R173: Vector integer minimum. -/
  | vimin (tk : Tok) (d a b : VReg) (f : IntFmt) (k : KReg)
  /-- VIMAX, R173: Vector integer maximum. -/
  | vimax (tk : Tok) (d a b : VReg) (f : IntFmt) (k : KReg)
  /-- VCMP, R174: Vector floating-point comparison into a mask register. -/
  | vcmp (tk : Tok) (d : KReg) (a b : VReg) (c : Cond) (f : FpFmt) (k : KReg)
  /-- VICMP, R174: Vector integer comparison into a mask register. -/
  | vicmp (tk : Tok) (d : KReg) (a b : VReg) (c : ICond) (f : IntFmt) (k : KReg)
  /-- VCVT, R176: Vector conversion between formats, with half selection. -/
  | vcvt (tk : Tok) (d a : VReg) (h : Bool) (g : VFmt) (r : Rounding) (f : VFmt) (k : KReg)
  /-- VQNT, R178: Vector block-scale quantisation of 512 FP32 lanes to an 8- or 4-bit type. -/
  | vqnt (tk : Tok) (d a : VReg) (r : Rounding) (t : QntType) (k : KReg)
  /-- VXACC, R181: Adds truncated values into an exact 128-bit accumulator quad. -/
  | vxacc (tk : Tok) (d a b : VReg) (f : FixFmt) (k : KReg)
  /-- VXRND, R182: Rounds an exact accumulator into a floating-point register. -/
  | vxrnd (tk : Tok) (d a b : VReg) (r : Rounding) (f : HFmt) (k : KReg)
  /-- VPERM, R183: Vector permutation of lanes by index. -/
  | vperm (tk : Tok) (d a b : VReg) (f : LaneW) (k : KReg)
  /-- VBCAST, R184: Broadcast of one lane to all elements. -/
  | vbcast (tk : Tok) (d a : VReg) (l : Fin 512) (x : LaneW) (k : KReg)
  /-- VSLIDE, R183: Slide across the concatenation of two registers. -/
  | vslide (tk : Tok) (d a b : VReg) (n : Fin 64) (k : KReg)
  /-- VSEL, R183: Per-element select between a and b by mask. -/
  | vsel (tk : Tok) (d a b : VReg) (f : LaneW) (k : KReg)
  /-- VREDSUM, R185: Floating-point sum reduction in a fixed pairwise tree. -/
  | vredsum (tk : Tok) (d a : VReg) (r : Rounding) (f : HFmt) (k : KReg)
  /-- VREDMIN, R186: Order-free minimum reduction. -/
  | vredmin (tk : Tok) (d a : VReg) (f : RedFmt) (k : KReg)
  /-- VREDMAX, R186: Order-free maximum reduction. -/
  | vredmax (tk : Tok) (d a : VReg) (f : RedFmt) (k : KReg)
  /-- VIREDSUM, R186: Integer sum reduction modulo 2^w. -/
  | viredsum (tk : Tok) (d a : VReg) (f : IntFmt) (k : KReg)
  /-- VLD, R187: Contiguous vector load. -/
  | vld (tk : Tok) (d a : VReg) (c : Fin 8) (f : VFmt) (k : KReg)
  /-- VST, R187: Contiguous vector store. -/
  | vst (tk : Tok) (d a : VReg) (c : Fin 8) (f : VFmt) (k : KReg)
  /-- VLDS, R187: Strided vector load. -/
  | vlds (tk : Tok) (d a b : VReg) (c : Fin 8) (f : VFmt) (k : KReg)
  /-- VSTS, R187: Strided vector store. -/
  | vsts (tk : Tok) (d a b : VReg) (c : Fin 8) (f : VFmt) (k : KReg)
  /-- VGATH, R187: Vector gather by 32-bit offsets. -/
  | vgath (tk : Tok) (d a b : VReg) (c : Fin 8) (f : VFmt) (k : KReg)
  /-- VSCAT, R187: Vector scatter by 32-bit offsets. -/
  | vscat (tk : Tok) (d a b : VReg) (c : Fin 8) (f : VFmt) (k : KReg)
  /-- VTRD, R191: Vector read of tile lines from the tile pool. -/
  | vtrd (tk : Tok) (v : VReg) (t : TReg) (e : Dir) (n : Fin 64) (f : TileFmt) (k : KReg)
  /-- VTWR, R191: Vector write of tile lines into the tile pool. -/
  | vtwr (tk : Tok) (v : VReg) (t : TReg) (e : Dir) (n : Fin 64) (f : TileFmt) (k : KReg)
  /-- VFLG_RD, R194: Reads the sticky lane flags into a vector register. -/
  | vflgRd (tk : Tok) (d : VReg) (k : KReg)
  /-- VFLG_CLR, R194: Clears selected sticky flags in active lanes. -/
  | vflgClr (tk : Tok) (f : BitVec 5) (k : KReg)
  /-- VFLG_WR, R194: Writes the sticky flags from a vector register. -/
  | vflgWr (tk : Tok) (a : VReg) (k : KReg)
  /-- VFLG_ANY, R194: Sets a mask from lanes whose flags intersect F. -/
  | vflgAny (tk : Tok) (d : KReg) (f : BitVec 5) (k : KReg)
  /-- VFLG_TM, R194: Copies the trap lane mask into a mask register. -/
  | vflgTm (tk : Tok) (d : KReg)
  /-- VFLG_CTM, R194: Clears the trap lane mask. -/
  | vflgCtm (tk : Tok)
  /-- VPUSH, R197: Appends active elements as records to a conditional stream. -/
  | vpush (tk : Tok) (q a : VReg) (x : LaneW) (k : KReg)
  /-- VPOP_PACK, R198: Pops records into the low elements and sets a mask of them. -/
  | vpopPack (tk : Tok) (d q : VReg) (b : KReg) (x : LaneW)
  /-- VPOP_EXP, R198: Pops records back into the active lanes in ascending order. -/
  | vpopExp (tk : Tok) (d q : VReg) (x : LaneW) (k : KReg)
  /-- VEXP, R213: Correctly rounded exponential on Hollyhock. -/
  | vexp (tk : Tok) (d a : VReg) (r : Rounding) (f : HFmt) (k : KReg)
  /-- VLOG, R213: Correctly rounded natural logarithm on Hollyhock. -/
  | vlog (tk : Tok) (d a : VReg) (r : Rounding) (f : HFmt) (k : KReg)
  /-- VERF, R213: Correctly rounded error function on Hollyhock. -/
  | verf (tk : Tok) (d a : VReg) (r : Rounding) (f : HFmt) (k : KReg)
  /-- VORIENT2, R218: Exact 2D orientation predicate. -/
  | vorient2 (tk : Tok) (d a b : VReg) (t q : Bool) (f : HFmt) (k : KReg)
  /-- VORIENT3, R218: Exact 3D orientation predicate. -/
  | vorient3 (tk : Tok) (d a b : VReg) (t q : Bool) (f : HFmt) (k : KReg)
  /-- VINCIRC, R218: Exact in-circle predicate. -/
  | vincirc (tk : Tok) (d a b : VReg) (t q : Bool) (f : HFmt) (k : KReg)
  /-- VINSPH, R218: Exact in-sphere predicate. -/
  | vinsph (tk : Tok) (d a b : VReg) (t q : Bool) (f : HFmt) (k : KReg)
  /-- VSEGX, R219: Exact classification of two closed segments. -/
  | vsegx (tk : Tok) (d a b : VReg) (t q : Bool) (f : HFmt) (k : KReg)
  /-- VMSK_AND, R175: Mask AND. -/
  | vmskAnd (tk : Tok) (d a b k : KReg)
  /-- VMSK_OR, R175: Mask OR. -/
  | vmskOr (tk : Tok) (d a b k : KReg)
  /-- VMSK_XOR, R175: Mask XOR. -/
  | vmskXor (tk : Tok) (d a b k : KReg)
  /-- VMSK_ANDN, R175: Mask AND NOT. -/
  | vmskAndn (tk : Tok) (d a b k : KReg)
  /-- VMSK_TOV, R175: Mask bits to INT32 lanes. -/
  | vmskTov (tk : Tok) (d : VReg) (a k : KReg)
  /-- VMSK_FROMV, R175: Mask from bit 0 of each lane. -/
  | vmskFromv (tk : Tok) (d : KReg) (a : VReg) (k : KReg)
  /-- VMSK_CNT, R175: Population count of a mask into lanes. -/
  | vmskCnt (tk : Tok) (d : VReg) (a k : KReg)
  /-- VMSK_FIRST, R175: Lowest set bit index of a mask into lanes. -/
  | vmskFirst (tk : Tok) (d : VReg) (a k : KReg)
  /-- VMOV, R183: Vector register move. -/
  | vmov (tk : Tok) (d a : VReg) (f : LaneW) (k : KReg)
  /-- VIOTA, R183: Writes each element index into its element. -/
  | viota (tk : Tok) (d : VReg) (f : FixFmt) (k : KReg)
  /-- VE_TKW, R144: VE waits for and pops a token from a named FIFO. -/
  | veTkw (tk : Tok) (f : Engine)
  /-- VE_TKS, R144: VE pushes a token to a named FIFO. -/
  | veTks (tk : Tok) (f : Engine)
  /-- VE_LOOP, R200: VE hardware loop with immediate or vq2 count. -/
  | veLoop (tk : Tok) (l : Fin 1024) (c : Bool) (n : Fin 8192)
  /-- VE_SEG, R434: VE two-word segment header. -/
  | veSeg (tk : Tok) (cnt : BitVec 24) (crc : BitVec 16)
  /-- VE_SAFE, R428: VE safe point. -/
  | veSafe (tk : Tok)
  /-- VE_END, R428: VE stops until the pass ends. -/
  | veEnd (tk : Tok)
  -- Words of the ME stream (02 Table 2.4, 09, 10).
  /-- MMA_F64, R256: FP64 matrix multiply-accumulate into a d64 tile. -/
  | mmaF64 (tk : Tok) (d : TReg) (a b : ZReg) (r : Rounding) (c t e : Bool)
  /-- MMA_B16, R256: BF16 or FP16 matrix multiply-accumulate into FP32. -/
  | mmaB16 (tk : Tok) (d : TReg) (a b : ZReg) (f : B16Fmt) (r : Rounding) (c t e : Bool)
  /-- MMAS, R261: 2:4 sparse BF16/FP16 matrix multiply using an MDQ entry. -/
  | mmas (tk : Tok) (d : TReg) (a b : ZReg) (f : B16Fmt) (r : Rounding) (c t e : Bool)
  /-- MMA_F8, R256: FP8 matrix multiply-accumulate into FP32. -/
  | mmaF8 (tk : Tok) (d : TReg) (a b : ZReg) (f : BitVec 2) (r : Rounding) (c t e : Bool)
  /-- MMA_I8, R256: 8-bit integer matrix multiply-accumulate into INT32. -/
  | mmaI8 (tk : Tok) (d : TReg) (a b : ZReg) (f : BitVec 2) (c t e : Bool)
  /-- MMA_F4, R256: MXFP4 matrix multiply-accumulate into FP32. -/
  | mmaF4 (tk : Tok) (d : TReg) (a b : ZReg) (r : Rounding) (c t e : Bool)
  /-- MMA_I4, R256: INT4 or plane-nested matrix multiply-accumulate into INT32. -/
  | mmaI4 (tk : Tok) (d : TReg) (a b : ZReg) (f : BitVec 2) (c t e : Bool)
  /-- LRSET, R282: Builds a full-cap factor pair from two FP32 streams. -/
  | lrset (tk : Tok) (d : TReg) (a b : ZReg) (e : Bool)
  /-- LRMUL, R283: Product of low-rank and dense or low-rank tiles. -/
  | lrmul (tk : Tok) (d a b : TReg)
  /-- LRADD, R284: Sum of tiles by factor concatenation or dense sum. -/
  | lradd (tk : Tok) (d a b : TReg) (n : Bool)
  /-- LRCMP, R287: Recompression of a low-rank tile against MTOL. -/
  | lrcmp (tk : Tok) (d a : TReg)
  /-- LRDEN, R285: Densification of a low-rank tile, optionally accumulating. -/
  | lrden (tk : Tok) (d a : TReg) (c : Bool)
  /-- LRRANK, R286: Pushes the rank field of a low-rank tile to q9. -/
  | lrrank (tk : Tok) (a : TReg)
  /-- LRRANK_SET, R286: Sets the rank field of a low-rank tile from q8. -/
  | lrrankSet (tk : Tok) (d : TReg)
  /-- MRD, R266: Pushes tile lines to the VE through vq0. -/
  | mrd (tk : Tok) (t : TReg) (e : Dir) (n : Fin 64)
  /-- MWR, R266: Writes tile lines popped from vq1. -/
  | mwr (tk : Tok) (t : TReg) (e : Dir) (n : Fin 64)
  /-- MLDC, R267: Loads a whole tile from a C buffer frame. -/
  | mldc (tk : Tok) (t : TReg) (e : Dir) (n : Fin 64) (f : Fin 32) (g : Bool)
  /-- MSTC, R267: Stores a whole tile into a C buffer frame. -/
  | mstc (tk : Tok) (t : TReg) (e : Dir) (n : Fin 64) (f : Fin 32) (g : Bool)
  /-- TALLOC, R252: Allocates a tile name with a form and row count. -/
  | talloc (tk : Tok) (d : TReg) (n : Fin 2048) (f : TileForm)
  /-- TFREE, R253: Frees a tile and returns its rows to the budget. -/
  | tfree (tk : Tok) (d : TReg)
  /-- TCLR, R254: Clears a dense tile or sets a low-rank rank to 0. -/
  | tclr (tk : Tok) (d : TReg)
  /-- TMOV, R254: Copies a tile bit for bit to another of the same form. -/
  | tmov (tk : Tok) (d a : TReg)
  /-- MLOOP, R269: Runs a body as a software pipeline with an initiation interval. -/
  | mloop (tk : Tok) (l : Fin 1024) (i : Fin 64) (c : Bool) (n : Fin 128)
  /-- ME_LOOP, R268: ME hardware loop with immediate or q8 count. -/
  | meLoop (tk : Tok) (l : Fin 1024) (c : Bool) (n : Fin 8192)
  /-- ME_TKW, R144: ME waits for and pops a token. -/
  | meTkw (tk : Tok) (f : Engine)
  /-- ME_TKS, R144: ME pushes a token. -/
  | meTks (tk : Tok) (f : Engine)
  /-- ME_SEG, R434: ME two-word segment header. -/
  | meSeg (tk : Tok) (cnt : BitVec 24) (crc : BitVec 16)
  /-- ME_SAFE, R428: ME safe point after every earlier ME instruction retires. -/
  | meSafe (tk : Tok)
  /-- ME_END, R428: ME stops until the pass ends. -/
  | meEnd (tk : Tok)
  /-- ME_NOP, R272: ME no operation beyond its token bits. -/
  | meNop (tk : Tok)
  -- Words of the CE (02 Table 2.5, 12, 13, 14, 18).
  /-- CP, R328: Copy between memory, buffers, MDQ, VE streams and ring slots, counted into a counter. -/
  | cp (tk : Tok) (p q : CReg) (a : AReg) (x : CpDst) (y : CpSrc) (o : Bool) (z : Fin 8)
  /-- CPN, R332: Element-wise copy between two stream layouts. -/
  | cpn (tk : Tok) (p q : ZReg) (a : AReg) (o : Bool)
  /-- CPX, R331: Copy of a compressed buffer with expansion by its point. -/
  | cpx (tk : Tok) (p q : CReg) (a : AReg) (x : CpxDst) (o : Bool) (z : Fin 8)
  /-- CPRM, R468: Copy to memory of another module of the pod. -/
  | cprm (tk : Tok) (p q : CReg) (a : AReg) (m : Fin 64) (o : Bool) (z : Fin 8)
  /-- PF, R334: Prefetch of a range into L2 and optionally L1D. -/
  | pf (tk : Tok) (q : CReg) (l : Bool) (z : Fin 8)
  /-- KEEP, R365: Sets a retention range that pins lines as they are accessed. -/
  | keep (tk : Tok) (n : Fin 8) (q : CReg)
  /-- KEEP_F, R365: Sets a retention range and fetches it pinned, counted as a copy. -/
  | keepF (tk : Tok) (n : Fin 8) (q : CReg) (a : AReg)
  /-- UNKEEP, R366: Empties a retention register and releases its pins. -/
  | unkeep (tk : Tok) (n : Fin 8)
  /-- CFLUSH, R335: Writes back dirty bytes of a range, optionally to HBM. -/
  | cflush (tk : Tok) (q : CReg) (a : AReg) (h : Bool)
  /-- CINV, R335: Writes back and removes a range from L1D. -/
  | cinv (tk : Tok) (q : CReg) (a : AReg)
  /-- CPATM, R385: Applies a batch of atomic update records, optionally into a deterministic window. -/
  | cpatm (tk : Tok) (p q : CReg) (a : AReg) (c : AmoOp) (x e o : Bool) (z : ListSrc)
  /-- COLL_AR, R473: Pod all-reduce collective. -/
  | collAr (tk : Tok) (p : CReg) (a : AReg) (o : Bool)
  /-- COLL_RS, R473: Pod reduce-scatter collective. -/
  | collRs (tk : Tok) (p : CReg) (a : AReg) (o : Bool)
  /-- COLL_AG, R473: Pod all-gather collective. -/
  | collAg (tk : Tok) (p : CReg) (a : AReg) (o : Bool)
  /-- COLL_BC, R473: Pod broadcast collective from ROOT. -/
  | collBc (tk : Tok) (p : CReg) (a : AReg) (o : Bool)
  /-- SIG_ST, R468: Remote signal that stores a value at another module. -/
  | sigSt (tk : Tok) (p q : CReg) (a : AReg) (m : Fin 64) (o x : Bool)
  /-- SIG_ADD, R468: Remote signal that adds a value at another module. -/
  | sigAdd (tk : Tok) (p q : CReg) (a : AReg) (m : Fin 64) (o x : Bool)
  /-- ACSET, R338: Sets an arrival counter and clears its overrun bit. -/
  | acset (tk : Tok) (q : CReg) (a : AReg)
  /-- ACADD, R338: Adds to an arrival counter. -/
  | acadd (tk : Tok) (q : CReg) (a : AReg)
  /-- ACWAIT, R339: Waits until an arrival counter is at most zero. -/
  | acwait (tk : Tok) (a : AReg)
  /-- LYT, R354: Larkspur rearrangement of tensor dimensions between streams. -/
  | lyt (tk : Tok) (p q : ZReg) (a : AReg) (m : CReg) (o : Bool)
  /-- SCFG, R342: Loads a stream register from a 64-byte descriptor. -/
  | scfg (tk : Tok) (p : ZReg) (q : CReg)
  /-- CGET_POP, R344: Pops q10 into a c register. -/
  | cgetPop (tk : Tok) (p : CReg)
  /-- CGET_C, R344: Pushes a c register to q11. -/
  | cgetC (tk : Tok) (p : CReg)
  /-- CGET_CUR, R344: Pushes a stream cursor to q11. -/
  | cgetCur (tk : Tok) (p : ZReg)
  /-- CGET_SCALE, R344: Pushes a stream's effective scale to q11. -/
  | cgetScale (tk : Tok) (p : ZReg)
  /-- CGET_AC, R344: Pushes an arrival counter and overrun bit to q11. -/
  | cgetAc (tk : Tok) (n : AReg)
  /-- CGET_LI, R344: Loads a sign-extended imm16 into a c register. -/
  | cgetLi (tk : Tok) (p : CReg) (i : BitVec 16)
  /-- CADD, R343: Adds a signed imm16 to a c register. -/
  | cadd (tk : Tok) (p q : CReg) (i : BitVec 16)
  /-- HRET, R350: Helper program end that pushes a helper report to q4. -/
  | hret (c : BitVec 8)
  /-- HFLAG, R351: Helper write of a flag word into buffer A after its copies complete. -/
  | hflag (p q : CReg)
  /-- SPILL, R368: Copies typed-buffer bytes into the locked spill area. -/
  | spill (tk : Tok) (p q : CReg) (a : AReg) (b : Buf) (o : Bool)
  /-- FILL, R368: Copies spill-area bytes into a typed buffer. -/
  | fill (tk : Tok) (p q : CReg) (a : AReg) (b : Buf) (o : Bool)
  /-- DATM_OPEN, R388: Opens or joins a deterministic window. -/
  | datmOpen (tk : Tok) (p q : CReg) (o : Bool)
  /-- DATM_CLOSE, R388: Closes this instance's part of a deterministic window. -/
  | datmClose (tk : Tok) (p : CReg) (a : AReg) (r : Bool)
  /-- CE_LOOP, R345: CE hardware loop with immediate or q10 count. -/
  | ceLoop (tk : Tok) (l : Fin 1024) (c : Bool) (n : Fin 8192)
  /-- CE_TKW, R144: CE waits for and pops a token. -/
  | ceTkw (tk : Tok) (f : Engine)
  /-- CE_TKS, R144: CE pushes a token. -/
  | ceTks (tk : Tok) (f : Engine)
  /-- CE_SEG, R434: CE two-word segment header. -/
  | ceSeg (tk : Tok) (cnt : BitVec 24) (crc : BitVec 16)
  /-- CE_SAFE, R428: CE safe point. -/
  | ceSafe (tk : Tok)
  /-- CE_END, R428: CE stops until the pass ends. -/
  | ceEnd (tk : Tok)
  /-- CE_NOP, R345: CE no operation beyond its token bits. -/
  | ceNop (tk : Tok)
  -- Steps that are no instruction word.
  /-- LAUNCH, R450: Command packet that accepts operator records and launches tasks. -/
  | launch (h : Pkt) (first : Word) (count : Nat)
  /-- WAIT, R445: Command packet that waits until a memory word meets a condition. -/
  | wait (h : Pkt) (addr value : Word) (c : WCond) (w32 : Bool)
  /-- SIGNAL, R445: Command packet that stores a value as a pod-scope release. -/
  | signal (h : Pkt) (addr value : Word) (w32 : Bool)
  /-- WRITE, R445: Command packet that stores up to 16 doublewords. -/
  | write (h : Pkt) (addr : Word) (data : List Word)
  /-- WRITE_SIGNAL, R445: Command packet that stores doublewords and then a signal. -/
  | writeSignal (h : Pkt) (addr : Word) (data : List Word) (sigAddr sigVal : Word)
  /-- TRANSFORM_COMPRESS, R456: Transform that writes the compressed image of a range. -/
  | transformCompress (h : Pkt) (src dst length : Word) (exp : BitVec 2) (rep : Report)
  /-- TRANSFORM_EXPAND, R456: Transform that expands a compressed buffer to plain bytes. -/
  | transformExpand (h : Pkt) (src dst length : Word) (rep : Report)
  /-- TRANSFORM_LAYOUT, R456: Transform that performs a Larkspur layout between memory streams. -/
  | transformLayout (h : Pkt) (sdesc ddesc map : Word) (rep : Report)
  /-- TRANSFORM_QUANT, R456: Transform that block-quantises FP32 groups as vqnt does. -/
  | transformQuant (h : Pkt) (src dst length : Word) (q : QntType) (mode : Rounding) (rep : Report)
  /-- NODE, R455: Command packet that arms a dependence counter with a payload. -/
  | node (h : Pkt) (counter payload : Word) (succ : List Word)
  /-- MARK, R445: Command packet that pads or stores its SEQ. -/
  | mark (h : Pkt) (addr : Word)
  /-- INVAL, R445: Command packet that invalidates translations of a range. -/
  | inval (h : Pkt) (ctx : Nat) (va length : Word)
  /-- ECHO, R459: Mailbox service that returns its argument. -/
  | echo (g : CoreNo) (arg : BitVec 56)
  /-- MODULE_TIME, R459: Mailbox service that returns nanoseconds since reset. -/
  | moduleTime (g : CoreNo) (arg : BitVec 56)
  /-- CHECKPOINT, R459: Mailbox service that requests a checkpointing pre-emption. -/
  | checkpoint (g : CoreNo) (arg : BitVec 56)
  /-- YIELD, R459: Mailbox service that requests a refusable pre-emption. -/
  | yield (g : CoreNo) (arg : BitVec 56)
  /-- IN_SERVICE_CORE_COUNT, R459: Mailbox service that returns the in-service core count. -/
  | inServiceCoreCount (g : CoreNo) (arg : BitVec 56)
  /-- UNKNOWN_SERVICE, R459: Mailbox request with an unknown code, answered with status 1. -/
  | unknownService (g : CoreNo) (code : BitVec 8) (arg : BitVec 56)
  /-- FMODE_WRITE, R22: Write of FMODE with its mode and reserved-bit checks. -/
  | fmodeWrite (g : CoreNo) (fw : Bool) (v : Word)
  /-- MFLG_WRITE, R35: Write of MFLG, merged with retirement flags of the same cycle. -/
  | mflgWrite (g : CoreNo) (fw : Bool) (v : Word)
  /-- MTOL_WRITE, R277: Write of the recompression tolerance with its checks. -/
  | mtolWrite (g : CoreNo) (fw : Bool) (v : Word)
  /-- MRMODE_WRITE, R278: Write of the rank-overflow mode with its checks. -/
  | mrmodeWrite (g : CoreNo) (fw : Bool) (v : Word)
  /-- RUNG_WRITE, R298: Firmware write that steps the ME down a rung and changes CAPV. -/
  | rungWrite (g : CoreNo) (v : Word)
  /-- FSHARE_WRITE, R107: Firmware write of its issue share, clamped to 1-64. -/
  | fshareWrite (g : CoreNo) (v : Word)
  /-- WDOG_WRITE, R158: Firmware write of the watchdog interval, held at its floor. -/
  | wdogWrite (g : CoreNo) (v : Word)
  /-- Q6_TO_VQ2_TRANSFER, R150: Conversion stage moves the oldest q6 entry into vq2 when it has room. -/
  | q6ToVq2Transfer (g : CoreNo)
  /-- VQ3_TO_Q7_TRANSFER, R150: Conversion stage moves doubleword 0 of the oldest vq3 entry into q7. -/
  | vq3ToQ7Transfer (g : CoreNo)
  /-- HELPER_START, R348: Idle helper pops a program pointer from q4 and starts issuing. -/
  | helperStart (g : CoreNo)
  /-- LARKSPUR_START, R355: Larkspur starts a queued lyt command and reads its source. -/
  | larkspurStart (g : CoreNo)
  /-- COPY_UNIT_LAND, R337: A piece of a copy lands and decrements its arrival counter. -/
  | copyUnitLand (g : CoreNo) (copy : Nat) (unit : Nat)
  /-- COPY_COMPLETE, R323: A copy's whole count is counted and it leaves flight. -/
  | copyComplete (g : CoreNo) (copy : Nat)
  /-- Q2_ATOMIC_APPLY, R382: Memory-side unit applies or accepts a q2 atomic command and pushes its result. -/
  | q2AtomicApply (g : CoreNo)
  /-- WINDOW_APPLY, R391: Deterministic window applies its updates in issuer-key order and reports. -/
  | windowApply (task : Nat) (win : Fin 64)
  /-- WMON_SATISFY, R131: A waiting wmon reads a satisfying value and completes. -/
  | wmonSatisfy (g : CoreNo)
  /-- HOLLYHOCK_SETTLE, R210: Hollyhock settles its last element and the instruction retires or traps. -/
  | hollyhockSettle (g : CoreNo)
  /-- ME_FEEDER_DECODE, R273: Operand feeder finds a bad tile and the ME instruction traps DECODE after issue. -/
  | meFeederDecode (g : CoreNo)
  /-- ASSIST_ENTER, R306: An ME instruction of a lost class enters the assist path and waits. -/
  | assistEnter (g : CoreNo)
  /-- ASSIST_DONE, R309: Primrose ends the assist, commits the instruction and releases the streams. -/
  | assistDone (g : CoreNo)
  /-- TRAP_TAKE, R424: A trap is delivered to the user handler after the other streams freeze. -/
  | trapTake (g : CoreNo)
  /-- FIRMWARE_FIRST_SERVICE, R422: Firmware serves a page fault or poison before resuming or delivering. -/
  | firmwareFirstService (g : CoreNo) (answer : Service)
  /-- SEG_MISMATCH_REPLAY, R437: Firmware replays from the last checkpoint or kills after a signature mismatch. -/
  | segMismatchReplay (g : CoreNo) (passed : Bool) (dest : CoreNo)
  /-- PASS_END, R90: All streams have ended and no copy is outstanding, so the next pass starts. -/
  | passEnd (g : CoreNo)
  /-- INSTANCE_PLACE, R97: The dispatcher places an offered instance on a free core. -/
  | instancePlace (task : Nat) (g : CoreNo)
  /-- SHADOW_SWAP, R454: The shadow bank swaps in after the occupant leaves and the streams start. -/
  | shadowSwap (g : CoreNo)
  /-- TASK_KILL, R104: Firmware stops every instance of a task and completes it with error. -/
  | taskKill (task : Nat) (detail : BitVec 8)
  /-- PREEMPT_REQUEST, R430: A pre-emption request becomes pending on an instance. -/
  | preemptRequest (g : CoreNo)
  /-- CONTEXT_SAVE, R430: All streams hold with no outstanding copy and the context is saved. -/
  | contextSave (g : CoreNo)
  /-- CONTEXT_RESTORE, R432: A saved context is restored on a core and its streams resume. -/
  | contextRestore (n : Nat) (g : CoreNo)
  /-- WATCHDOG_EXPIRY, R159: Sink watchdog reaches its interval and posts a hang report. -/
  | watchdogExpiry (g : CoreNo)
  /-- MARGIN_TEST, R300: Periodic margin test of a core or channel, stepping it down on failure. -/
  | marginTest (u : AgedUnit) (fails again : Bool)
  /-- FOXGLOVE, R301: Targeted self-test after an error, stepping the unit down on failure. -/
  | foxglove (u : AgedUnit) (fails : Bool)
  /-- ERROR_DETECTED, R401: A protection code detects an error and poisons or corrects per Table 15.2. -/
  | errorDetected (c : ErrorCase) (granule : Nat)
  /-- CAPACITY_REDUCTION, R399: Firmware posts a capacity-reduction event before retiring a channel. -/
  | capacityReduction (ch : Fin 1024)
  /-- CHANNEL_RETIRE, R399: After host acknowledgement the module quiesces and re-interleaves without the channel. -/
  | channelRetire (ch : Fin 1024) (bad : List Nat)
  /-- NODE_FIRE, R455: An armed counter reads at most zero and its payload is dispatched. -/
  | nodeFire (n : Nat)
  /-- RING_PARK, R447: A ring gives up its slot at an unsatisfied or non-resident WAIT. -/
  | ringPark (r : Fin 256)
  /-- RING_REARM, R447: Firmware re-arms a parked ring, which becomes READY. -/
  | ringRearm (r : Fin 256)
  /-- RING_RESTART, R448: Firmware restarts a stopped ring at an index it chooses. -/
  | ringRestart (r : Fin 256) (ridx : Word)
  /-- SLOT_GRANT, R449: Firmware grants a hardware slot to a READY ring. -/
  | slotGrant (r : Fin 256)
  /-- RING_SLICE_EXPIRY, R449: A ring's time slice expires between packets and it returns to READY. -/
  | ringSliceExpiry (r : Fin 256)
  /-- TASK_DISPATCH, R452: A tracked task's range dependences clear and it is dispatched. -/
  | taskDispatch (task : Nat)
  /-- TASK_COMPLETE, R457: Completion writes status, signal and successor decrements. -/
  | taskComplete (task : Nat)
  /-- FLIT_RECEIVE, R463: Link receiver accepts or discards a flit and acknowledges or NAKs. -/
  | flitReceive (l : Fin 16) (f : Flit)
  /-- NAK_RECEIVE, R463: Sender receives a NAK and resends from the last acknowledged SEQ. -/
  | nakReceive (l : Fin 16) (ack : BitVec 16)
  /-- ACK_TIMER, R463: Receiver returns ACK at least every 64 flits or 0.5 us. -/
  | ackTimer (l : Fin 16)
  /-- REPLAY_TIMEOUT, R463: No ACK for 2 us makes the sender resend unacknowledged flits. -/
  | replayTimeout (l : Fin 16)
  /-- RETRAIN_COMPLETE, R464: Retraining ends at a width chosen by lane test, stepping down if needed. -/
  | retrainComplete (l : Fin 16) (trained : Bool)
  /-- LANE_FAILURE, R464: A lane of a link fails. -/
  | laneFailure (l : Fin 16) (lane : Fin 16)
  /-- LINK_RETIRE_REROUTE, R465: A retired link's unacknowledged flits are resent over another route. -/
  | linkRetireReroute (l : Fin 16)
  /-- REMOTE_UNIT_ACK, R469: Destination acknowledges a landed remote unit or signal, which is counted. -/
  | remoteUnitAck (g : CoreNo) (copy : Nat) (unit : Nat) (answer : RemoteAnswer)
  /-- MEMBER_REMOVE, R471: A collective group member is removed and EPOCH increments. -/
  | memberRemove (grp : Fin 64) (slot : Fin 64)
  /-- COLLECTIVE_COMMIT, R474: The lowest live slot has every contribution and the collective completes. -/
  | collectiveCommit (g : CoreNo) (copy : Nat) (others : List Contribution) (agree : Bool)
  /-- HOST_BAR1_WRITE, R461: Host write through BAR1 as an RC store. -/
  | hostBar1Write (pa : Nat) (data : List Byte)
  /-- HOST_ATOMICOP, R461: Host PCI Express AtomicOp through BAR1. -/
  | hostAtomicop (op : HostAtomic) (w32 : Bool) (pa : Nat) (x cmp : Word)
  /-- POWER_ON, R479: Power-good starts bring-up in the order of Table 19.1. -/
  | powerOn
  /-- THERMAL_TRIP, R481: A die junction reaches 105 C and every clock stops. -/
  | thermalTrip
  /-- POWER_CAP_SET, R481: Host sets a power cap that firmware holds by lowering clocks. -/
  | powerCapSet (watts : Nat)
  /-- D3HOT_ENTRY, R482: Entry into D3hot once no work is pending. -/
  | d3hotEntry
  /-- D3COLD_ENTRY, R482: Main supply removed, only standby runs. -/
  | d3coldEntry
  /-- QUOTE_REQUEST, R478: Verifier nonce answered by a signed attestation quote. -/
  | quoteRequest (nonce : BitVec 256)
  /-- FIRMWARE_UPDATE, R483: Firmware update written to the slot that is not running. -/
  | firmwareUpdate (version : Nat) (code : SignedBody)
  /-- D3HOT_EXIT, R482: The module leaves D3hot for D0, with HBM contents kept from self-refresh. -/
  | d3hotExit
  /-- WAIT_SATISFIED, R445: A WAIT packet's watched word satisfies its condition and the packet completes, advancing RIDX with an acquire. -/
  | waitSatisfied (r : Fin 256)
  /-- CORE_OUT_OF_SERVICE, R105: Firmware takes a core out of service for a non-ME fault or a management request, pre-empting any occupant. -/
  | coreOutOfService (g : CoreNo)
  /-- SHADOW_WITHDRAW, R454: Firmware withdraws an instance from a shadow bank before the swap, returning it to the head of its task's order. -/
  | shadowWithdraw (g : CoreNo)
  deriving DecidableEq, Repr

end Sys2Proof
end

