-- ==== Sys2Proof/Machine/State.lean ====
section
/-! DEFINITION. The state of one module as plain data, the reasons for which it stops, and its state after reset.
Rules are those of spec/; INVENTORY.md lists every field with its rule and reset value. -/

namespace Sys2Proof.Machine

/-- Bytes of a byte-addressed space: the listed ones, addresses strictly rising, none of them 0; every other byte is 0
(LOG 3 for device memory; 08 R231, 02 R45 and 13 R367 for the spaces of an instance). -/
abbrev Bytes := List Host.Cell

/-- Trap causes (16 Table 16.9). -/
inductive Cause
  | illegal | dsIllegal | priv | misalign | pageR | pageW | prot | mxcap | rankovf | slotexh | fpx | arrivalOverrun
  | streamCfg | decode | poison | segMismatch | queueProtocol | bufferRange | user
  deriving DecidableEq, Repr

/-- Where an issued word comes from: the four streams, the CE command queue q0, the Larkspur queue q1, the collective
queue q3 and the helper sequencer (12 R321, 18 R472). -/
inductive Source | scu | ve | me | ce | q0 | q1 | q3 | helper
  deriving DecidableEq, Repr, Inhabited

/-- Why the machine stops. -/
inductive Fault
  /-- Raised by the host's BAR1 accesses (HOST_BAR1_WRITE, HOST_ATOMICOP) beyond the physical address space of 15 R393.
  Safe: the spec names no such byte. -/
  | outsideMemory (pa : Nat)
  deriving DecidableEq, Repr

/-- Why an instruction has no meaning here. -/
inductive Refusal
  /-- Raised by `exec` for an instruction whose arm stands without a meaning. Safe. -/
  | notModelled (mnemonic : String)
  deriving DecidableEq, Repr

/-- Who a ring is granted to (17 R439). -/
inductive Grant | none | firmware | ctx (n : Nat)
  deriving DecidableEq, Repr

/-- Which access of a vector or matrix word is performed on its own, ahead of the rest of the word (06 R189, R193). -/
inductive Early
  /-- The read of element n, of memory or of a tile. -/
  | read (n : Nat)
  /-- One of the element writes that the word has still to perform, by its place among them. -/
  | write (k : Nat)
  /-- The read of element (i, j) of a tile by the next word of the ME. -/
  | tile (t : Fin 32) (i j : Nat)
  deriving DecidableEq, Repr

/-- Which part of the landing of a copy is performed on its own (14 R370, 08 R232). -/
inductive Part
  /-- The read of the aligned 32-bit word of its source that holds a byte: of memory (space 0) by virtual address, of W, A or C
  (spaces 1 to 3) by offset. -/
  | read (space a : Nat)
  /-- The reads of unit u, whose bytes are then written word by word. -/
  | begin (u : Nat)
  /-- One of the words that the unit begun has still to write, by its place among them. -/
  | write (k : Nat)
  deriving DecidableEq, Repr

/-- What an end of the host port supports (18 Table 18.1): whether it speaks flit mode, its highest rate in tenths of GT/s, and its
width in lanes. -/
structure PortEnd where
  flitMode : Bool
  rate : Nat
  width : Nat
  deriving DecidableEq, Repr, Inhabited

/-- One step of one agent: issue of a core's next word, the next packet of a ring, the oldest mailbox request of a core, one of
the part's other steps; one access of the next word of the VE, or a part of the landing of a copy, ahead of the rest of it; the
read of a sector that a part of a byte is to be written into (12 R333); and the steps of firmware: the next word of the firmware
context of a core (04 R139), the root of a context's page tables (16 R412), the descriptor of a ring (17 R439), a ring that holds
packets again (17 R449), a node decrement that waited for a page (17 R446), a piece of a transform that begins on a core or does the
next part of its work (17 R456), the release of a quiesced module (15 R399), the pod's tables (18 R466, R467, R470), the position of
BAR1 (18 R460), the pod timeout (18 R471), a transfer by DMA on the firmware rings (18 R461), the rollback floor and the margin limits
(19 R476, R477), and a report (19 R483). The steps of the links: a flit that is not full is sent, the oldest message received reaches
its place, the oldest answer is sent, and the module on the far side of a link (18 R462-R469). The steps of the world outside: the loss
of a later hop of a route (18 R466), a heartbeat and the report of a failure (18 R471), what the host's port supports and its reads
(18 R460, R461), the helper data as flash gives it back (19 R475), and the loss of power while a record is written (19 R477). -/
inductive Action
  | issue (g : CoreNo) (src : Source)
  | packet (r : Fin 256)
  | mailbox (g : CoreNo)
  | event (i : Instr)
  | early (g : CoreNo) (e : Early)
  | landPart (g : CoreNo) (copy : Nat) (p : Part)
  | sectorRead (g : CoreNo) (copy : Nat) (pa : Nat)
  | firmware (g : CoreNo) (w w1 : Word32)
  | setRoot (ctx : Nat) (root : Option Nat)
  | setRing (r : Fin 256) (grant : Grant) (base : Word) (logSize : Nat) (stateAddr : Word) (slice : Nat)
  | ringReady (r : Fin 256)
  | decrement
  | pieceStart (task : Nat) (g : CoreNo)
  | pieceStep (g : CoreNo)
  | release
  | setPod (n : Fin 64)
  | setPeer (ctx : Nat) (m : Fin 64) (peer : Option Nat)
  | setRoutes (m : Fin 64) (links : List (Fin 16))
  | setGroup (grp : Fin 64) (modules : List (Fin 64)) (live : BitVec 64) (epoch : Word32) (ctx : Option Nat)
  | setBar1 (pa : Nat)
  | setPodTimeout (ns : Nat)
  | dmaIn (pa : Nat) (data : List Byte)
  | dmaOut (pa n : Nat)
  | setFloor (version : Nat)
  | setMargins (limits : List Nat)
  | report
  | flitFlush (l : Fin 16)
  | deliver (l : Fin 16)
  | reply
  | setFar (l : Fin 16) (m : Option Nat)
  | hopLost (m : Fin 64)
  | heartbeat (m : Fin 64)
  | moduleFailed (m : Fin 64)
  | setHostEnd (e : PortEnd)
  | hostRead (bar : Fin 2) (a n : Nat)
  | setHelper (h : Option Nat)
  | tornRecord (k : Fin 6)
  deriving DecidableEq, Repr, Inhabited

/-- The word being executed: its core, source, address and words, the step at which it issued, and whether it is a word of
the firmware context (04 R139). -/
structure Cur where
  core : CoreNo
  src : Source
  pc : Nat
  word : Word32
  word1 : Word32
  stamp : Nat
  fw : Bool := false
  deriving DecidableEq, Repr

/-- An active hardware loop (04 R123): first and last word address of the body, iterations left. -/
structure LoopFrame where
  start : Nat
  last : Nat
  left : Word
  deriving DecidableEq, Repr

/-- An open segment (16 R434, R435): CNT and CRC of its seg, observed count and signature. -/
structure Segment where
  cnt : BitVec 24
  crc : BitVec 16
  count : BitVec 24
  sig : BitVec 16
  deriving DecidableEq, Repr

/-- One instruction stream: PC, instruction memory, loops, ended (03 R90), standing just past a safe (16 R429), segment. -/
structure Stream where
  pc : Nat
  imem : Bytes
  loops : List LoopFrame
  ended : Bool
  held : Bool
  seg : Option Segment
  deriving DecidableEq, Repr

/-- A branch or jump that awaits its slot (04 R118, R121): its address and word, where control goes after the slot, whether
the transfer is taken, its link, and the queue entries it popped, oldest operand first. -/
structure Branch where
  pc : Nat
  word : Word32
  target : Nat
  taken : Bool
  link : Option (SReg × Word)
  popped : List (SReg × Word)
  deriving DecidableEq, Repr

/-- A waiting wmon (04 R131): its operands as read at issue, the queue entries it popped, and the step of its issue. -/
structure Wmon where
  d : SReg
  addr : Word
  b : Word
  w32 : Bool
  cond : WCond
  pc : Nat
  word : Word32
  popped : List (SReg × Word)
  stamp : Nat
  deriving DecidableEq, Repr

/-- The q2 assembly (14 R383): position 0 to 2 and the entries accepted. -/
structure Assembly where
  pos : Fin 3
  ctl : Word
  addr : Word
  deriving DecidableEq, Repr

/-- An atomic command pushed whole to q2 (14 R383), with its place among the instance's updates of its window (14 R389). -/
structure AtomicCmd where
  ctl : Word
  addr : Word
  operand : Word
  seq : Nat
  deriving DecidableEq, Repr

/-- A result of q2: its value, or the trap of its pop: POISON where the target proved poisoned (14 R382), the cause of its
translation where that had been withdrawn by then (LOG 75). -/
structure AtomicResult where
  value : Word
  bad : Option (Cause × Word)
  deriving DecidableEq, Repr

/-- A record of a conditional stream: one 32- or 64-bit value with its width (06 R196). -/
structure Record where
  wide : Bool
  value : Word
  deriving DecidableEq, Repr

/-- A Hollyhock instruction in flight (07 R202): the instruction, its address and word, its issue step, the sources, mask
and FMODE it read at issue, and the queue entries it popped. -/
structure InFlight where
  instr : Instr
  pc : Nat
  word : Word32
  stamp : Nat
  srcs : List Lanes
  mask : Mask
  fmode : Word
  popped : List (VReg × Lanes)
  deriving DecidableEq, Repr

/-- A row of the tile pool: 256 bytes as 64 little-endian words (09 R249). -/
abbrev Row := Vector Word32 64

/-- An allocated tile (09 R249, 10 R275): its form, its rows in order, and for the low-rank form its rank field. -/
structure Tile where
  form : TileForm
  rows : List Row
  rank : Nat
  deriving DecidableEq, Repr

/-- An entry of the metadata queue (09 R261): its 1,024 bytes, and whether all of them have landed. -/
structure MdqEntry where
  id : Nat
  data : Bytes
  landed : Bool
  deriving DecidableEq, Repr

/-- The mloop sequencer (09 R269, R271): address of the mloop, L, II, n, step c, slot word w and stage s. -/
structure MLoop where
  pc : Nat
  len : Nat
  ii : Nat
  n : Word
  c : Nat
  w : Nat
  st : Nat
  deriving DecidableEq, Repr

/-- The resources of assists, outside every instance (11 R308): 24 vector registers, 8 masks, lane flags, two tiles, and a staging
store for each of three operands. -/
structure AssistUnit where
  v : Vector Lanes 24
  k : Vector Mask 8
  flags : Vector (BitVec 5) 512
  tiles : Vector (Option Tile) 2
  staging : Vector (List Lanes) 3
  deriving DecidableEq, Repr

/-- A write of one element that a vector word performs: bytes at a virtual and physical address, or words of a tile by row and place
in the row. -/
inductive ElemStore
  | mem (va pa : Nat) (bs : List Byte)
  | tile (t : Fin 32) (ws : List (Nat × Nat × Word32))
  deriving DecidableEq, Repr

/-- What the next word of the VE has performed ahead (06 R189, R193): the elements read with their values, and, once one of its element
writes is performed, those still to perform, lower-numbered elements first. -/
structure Done where
  reads : List (Nat × Nat)
  writes : Option (List ElemStore)
  deriving DecidableEq, Repr

/-- Bytes of one aligned 32-bit word that a copy has still to write: the space (0 memory by physical address, 1 to 3 a buffer), and
each byte with its address. -/
structure WordStore where
  space : Nat
  bytes : List (Nat × Byte)
  deriving DecidableEq, Repr

/-- An assist trap in progress (11 R306): the instruction, its address and word; streams frozen or not yet, the clock when
they froze (05 R157), and whether it is abandoned until Foxglove has run (11 R311). -/
structure Assist where
  instr : Instr
  pc : Nat
  word : Word32
  stamp : Nat
  frozen : Bool
  since : Nat
  abandoned : Bool
  deriving DecidableEq, Repr

/-- A stream register (08 R242): the descriptor's fields (Table 8.4), the cursor and the effective scale (08 R246). -/
structure ZReg where
  base : Word
  ctrl : Word32
  qscale : Word32
  count : Vector (BitVec 16) 6
  stride : Vector Word32 6
  soff : Word32
  sstride : Word32
  pstride : Word32
  cursor : Word32
  scale : Word32
  deriving DecidableEq, Repr

/-- An arrival counter (12 R336). -/
structure Arrival where
  value : Word32
  overrun : Bool
  deriving DecidableEq, Repr

/-- A ring of W or A (08 R235, R236): base, slot bytes, slots; H, T and R modulo 2^32; slots marked landed. -/
structure BufRing where
  base : Nat
  slotBytes : Nat
  slots : Nat
  head : Word32
  tail : Word32
  res : Word32
  landed : List Word32
  deriving DecidableEq, Repr

/-- A slot that a copy reserved (08 R237). -/
structure SlotRef where
  buf : Buf
  ring : Fin 8
  slot : Word32
  deriving DecidableEq, Repr

/-- What a collective delivers once it has committed (18 R474): its STATUS, and the bytes of its destination, if it writes any. -/
structure Commit where
  status : Word
  data : Option (List Byte)
  deriving DecidableEq, Repr

/-- A copy in flight (12 R322, R323, R419): its command with the registers it read at issue, its counter, count and number
of landing units, its progress record, the earlier copies an ORD copy waits for, the remote units sent and not yet answered
(18 R469), its reservations, bytes popped from vq7 and not yet landed, bytes of the vq6 entry that it fills, a fault it has met, source bytes that a write of the copy itself
replaced (14 R373) and source bytes read ahead (14 R370), by space and address, sectors read for the write of a part of a byte (12
R333), a unit begun with the words that it has still to write, whether it waits for a place in an overflow list (14 R390), and what a
collective has committed (18 R474). -/
structure Copy where
  id : Nat
  src : Source
  seq : BitVec 16
  pc : Nat
  instr : Instr
  p : Word
  q : Word
  len : Nat
  m : Word
  zp : ZReg
  zq : ZReg
  count : Nat
  units : Nat
  first : Nat
  map : BitVec 64
  after : List Nat
  sent : List Nat
  slot : Option SlotRef
  mdq : Option Nat
  started : Bool
  input : List Word
  stage : List Byte
  entry : List Byte
  fault : Option (Cause × Word)
  faultUnit : Nat
  kept : List ((Nat × Nat) × Option Byte)
  ahead : List ((Nat × Nat) × Byte)
  sectors : List (Nat × List Byte)
  begun : Option (Nat × List WordStore)
  stalled : Bool
  committed : Option Commit
  deriving DecidableEq, Repr

/-- A fault of a CE command that is no copy (12 R341): scfg. -/
structure CmdFault where
  src : Source
  seq : BitVec 16
  pc : Nat
  stamp : Nat
  cause : Cause
  tval : Word
  deriving DecidableEq, Repr

/-- The helper while it runs a program (12 R348). -/
structure Helper where
  pc : Nat
  tag : BitVec 16
  deriving DecidableEq, Repr

/-- A retention register (13 R363): BASE, LEN and generation. -/
structure Keep where
  base : Word
  len : Word32
  gen : Nat
  deriving DecidableEq, Repr

/-- Who takes a trap first (16 Table 16.9). -/
inductive Route | user | firmware | segment
  deriving DecidableEq, Repr

/-- What the delivery of an FPX trap leaves: the exceptions of each lane and the trap lane mask (01 R32). -/
structure FpxMark where
  flags : Vector (BitVec 5) 512
  mask : Mask
  deriving DecidableEq, Repr

/-- A trap raised and not yet delivered (16 R421, R424): with the copy that faulted, if one did (12 R341), the values that a
mismatch gives SEGCNT and SEGSIG (16 R436), whether a q2 write trapped (14 R383), and the lanes of an FPX trap (01 R32): one that loses
to an older trap leaves nothing (16 R427). -/
structure Pending where
  cause : Cause
  tval : Word
  tpc : Nat
  eng : Engine
  ceSrc : BitVec 2
  ds : Bool
  stamp : Nat
  route : Route
  served : Bool
  copy : Option Nat := none
  seg : Option (Word × Word) := none
  q2 : Bool := false
  fpx : Option FpxMark := none
  deriving DecidableEq, Repr

/-- The system registers of an instance (02 Table 2.11) that are not computed from other state. -/
structure SysRegs where
  capreq : Word
  tcause : Word
  tpc : Word
  tval : Word
  tstat : Word
  tvec : Word
  fshare : Word
  segcnt : Word
  segsig : Word
  wdog : Word
  mtol : Word
  mrmode : Word
  mflg : Word
  fmode : Word
  idl : Vector Word 6
  deriving DecidableEq, Repr

/-- Everything that belongs to the instance on a core (16 Table 16.11) and its transient state. -/
structure Inst where
  scu : Stream
  ve : Stream
  me : Stream
  ce : Stream
  /-- s1 to s47 at their numbers; the other places are never read (04 R108). -/
  s : Vector Word 48
  slot : Option Branch
  wmon : Option Wmon
  asm : Assembly
  asmAside : Option Assembly
  /-- Write sides of q0, q1, q3-q6, q8 and q10, oldest entry first (05 R147). -/
  qw : Vector (List Word) 16
  /-- Read sides of q0, q1, q3-q5, q7, q9, q11 and the mesh receive queues q12-q15. -/
  qr : Vector (List Word) 16
  q2w : List AtomicCmd
  q2r : List AtomicResult
  /-- Token FIFOs at 4x + y (05 R142). -/
  tokens : Vector Nat 16
  sys : SysRegs
  pending : Option Pending
  /-- Of the trap in the handler: the copy that faulted (12 R341), and whether a q2 write trapped (14 R383). -/
  trapCopy : Option Nat
  trapQ2 : Bool
  v : Vector Lanes 24
  /-- k1 to k7; place 0 is never read (06 R165). -/
  k : Vector Mask 8
  flags : Vector (BitVec 5) 512
  trapMask : Mask
  /-- vq0 to vq3, vq6 and vq7, oldest entry first (05 R149). -/
  vq : Vector (List Lanes) 8
  condA : List Record
  condB : List Record
  hollyhock : Option InFlight
  tiles : Vector (Option Tile) 32
  budget : Nat
  mdq : List MdqEntry
  mloop : Option MLoop
  assist : Option Assist
  c : Vector Word 16
  z : Vector ZReg 16
  a : Vector Arrival 64
  copies : List Copy
  nextId : Nat
  q0Seq : BitVec 16
  q1Seq : BitVec 16
  /-- Completion records of q0 and status records of q1 that wait for a place (12 R346, R347). -/
  q0Held : List Word
  q1Held : List Word
  /-- Collectives of q3 in issue order: copy and STATUS once complete (18 R472). -/
  q3Order : List (Nat × Option Word)
  helper : Option Helper
  cmdFault : Option CmdFault
  bufW : Bytes
  bufA : Bytes
  bufC : Bytes
  claimW : Nat
  claimA : Nat
  claimC : Nat
  /-- Feeder tags: the 256-byte units of W and of A that hold a stored tile, with its stored length (15 R405, R409). -/
  tagsW : List (Nat × Nat)
  tagsA : List (Nat × Nat)
  ringsW : Vector (Option BufRing) 8
  ringsA : Vector (Option BufRing) 8
  keep : Vector Keep 8
  spill : Bytes
  spillLen : Nat
  /-- Poisoned 256-byte lines of the spill area (15 Table 15.2). -/
  spillBad : List Nat
  /-- Accesses of the next word of the VE already performed (06 R189, R193). -/
  doneVe : Done
  /-- Elements of tiles that the next word of the ME has already read, as words with their places (06 R193). -/
  doneMe : List (Fin 32 × List (Nat × Nat × Word32))
  deriving DecidableEq, Repr

/-- The instance on a core: task and ordinal (03 R87), and the coordinates of its pass stand in IDL. -/
structure Occupant where
  task : Nat
  ordinal : Nat
  deriving DecidableEq, Repr

/-- A cached translation (16 R416): context, virtual base and size in bytes, physical base, permissions and kind. -/
structure TlbEntry where
  ctx : Nat
  va : Nat
  size : Nat
  pa : Nat
  r : Bool
  w : Bool
  fwo : Bool
  kind : BitVec 2
  deriving DecidableEq, Repr

/-- A line of an L1D (13 R356, R358, 15 R397): core, physical line number, way, RRPV, its 64-byte sectors held and those of them
that are dirty, last-writer tag. -/
structure L1Line where
  core : CoreNo
  line : Nat
  way : Fin 16
  rrpv : Fin 8
  valid : BitVec 4
  dirty : BitVec 4
  writer : Nat
  deriving DecidableEq, Repr

/-- A line of L2: slice that holds it, way, RRPV, its 64-byte sectors held and those of them that are dirty, last-writer tag, tracker
(13 R360), pin tag: core, KEEP register and generation (13 R363), whether protected. -/
structure L2Line where
  slice : Fin 192
  line : Nat
  way : Fin 16
  rrpv : Fin 8
  valid : BitVec 4
  dirty : BitVec 4
  writer : Nat
  tracker : Option (CoreNo × Nat)
  pin : Option (CoreNo × Fin 8 × Nat)
  guarded : Bool
  deriving DecidableEq, Repr

/-- A poisoned 32-byte granule (15 R400), with the map of its bytes already dirty in L2, and in an L1D. -/
structure Poisoned where
  granule : Nat
  l2 : Word32
  l1 : Word32
  deriving DecidableEq, Repr

/-- A line of a spill area in a way of an L2 set (13 R367): slice, set, way, the task and ordinal it belongs to, and its place in
the area. -/
structure SpillLock where
  slice : Fin 192
  set : Fin 1024
  way : Fin 16
  task : Nat
  ordinal : Nat
  index : Nat
  deriving DecidableEq, Repr

/-- The firmware context of a core (04 R139): PC, s1-s47, loops, a branch that awaits its slot, and its own trap state: cause and
value (11 R309). -/
structure FwContext where
  pc : Nat
  s : Vector Word 48
  loops : List LoopFrame
  slot : Option Branch
  cause : Nat
  tval : Word
  deriving DecidableEq, Repr

/-- Why a pre-emption request was raised (16 R430, R433): `service` for a margin test or a core taken out of service, `test` before
Foxglove. -/
inductive Request | slice | yield | checkpoint | service | test | quiesce
  deriving DecidableEq, Repr

/-- A piece of a transform that a core works on (17 R456): its task, its number, and the next part of the work. -/
structure PieceRun where
  task : Nat
  num : Nat
  part : Nat
  deriving DecidableEq, Repr

/-- One core: in service (03 R85), to leave service once it is empty (03 R105), ME rung (11 R297), bank rungs (11 R303), occupant,
shadow bank (17 R454), the piece of a transform in its place (17 R456), the instance-owned state, TLB, firmware context, the resources of assists, pre-emption request, whether a
checkpoint is among what was asked (16 R437), its mailbox answer, watchdog (05 R157). -/
structure Core where
  inService : Bool
  leaving : Bool
  rung : Fin 5
  bankW : Vector (Fin 3) 16
  bankA : Vector (Fin 3) 16
  bankC : Vector (Fin 3) 16
  occupant : Option Occupant
  shadow : Option Occupant
  piece : Option PieceRun
  inst : Inst
  tlb : List TlbEntry
  fw : FwContext
  aux : AssistUnit
  request : Option Request
  keeping : Bool
  /-- A mailbox Checkpoint request whose reply is owed (17 Table 17.10). -/
  replyOwed : Bool
  watchdog : Nat
  deriving DecidableEq, Repr

/-- A level of the loop table (03 R86): count and kind code. -/
structure Level where
  count : Nat
  kind : Nat
  deriving DecidableEq, Repr

/-- An entry of the ring table (02 R79). -/
structure RingDecl where
  buf : Nat
  index : Nat
  slots : Nat
  base : Nat
  slotBytes : Nat
  deriving DecidableEq, Repr

/-- A task image (02 Table 2.18): header, tables and sections. -/
structure Image where
  coResident : Bool
  capreq : BitVec 16
  tileRows : Nat
  levels : List Level
  spill : Nat
  claimW : Nat
  claimA : Nat
  claimC : Nat
  scalar : Bytes
  vector : Bytes
  matrix : Bytes
  copy : Bytes
  data : List Byte
  rings : List RingDecl
  streams : List (Fin 16 × ZReg)
  deriving DecidableEq, Repr

/-- A range of a task (17 R450). -/
structure Range where
  addr : Nat
  len : Nat
  write : Bool
  deriving DecidableEq, Repr

/-- An update accepted into a window (14 R389): its issuer key's fields, physical target, operation, width and operand, and
whether it stands in the overflow list (14 R390). -/
structure Update where
  die : Nat
  core : Nat
  lane : Nat
  seq : Nat
  ordinal : Nat
  pa : Nat
  op : AmoOp
  w32 : Bool
  operand : Word
  overflow : Bool
  deriving DecidableEq, Repr

/-- An instance that joined a window: die and core at its open, its D = 1 commands so far, and how it closed: the core and
copy of its datm.close, and whether it asked for a report. -/
structure Joiner where
  ordinal : Nat
  die : Nat
  core : Nat
  seq : Nat
  closed : Bool
  closer : Option (CoreNo × Nat × Bool)
  deriving DecidableEq, Repr

/-- A window that is not Idle (14 Table 14.6). -/
structure Window where
  num : Fin 64
  n : Nat
  okey : Bool
  joined : List Joiner
  updates : List Update
  deriving DecidableEq, Repr

/-- Where a task stands (17 R452, R457). -/
inductive TaskPhase | waiting | dispatched | done (result detail : Nat)
  deriving DecidableEq, Repr

/-- What a tracked task does: run instances of an image, or one transform (17 R456). -/
inductive Work
  | image (i : Image)
  | transform (i : Instr)
  deriving DecidableEq, Repr

/-- A tracked task (17 R452): context, ring it came from, node whose payload it is, work, DATA, signal, status, ranges,
ordering kind, replay, phase, tasks it waits for, next instance, die group or piece to place (03 R99), ordinals returned to its order,
ordinals or pieces that are finished, windows, and the ordinals whose spill lines are locked (13 R367). -/
structure Task where
  id : Nat
  ctx : Nat
  ring : Option (Fin 256)
  node : Option Nat
  work : Work
  data : Word
  sigAddr : Word
  sigVal : Word
  status : Word
  ranges : List Range
  kind : BitVec 2
  replay : Bool
  phase : TaskPhase
  deps : List Nat
  next : Nat
  returned : List Nat
  retired : List Nat
  windows : List Window
  spills : List Nat
  deriving DecidableEq, Repr

/-- A saved context or checkpoint (16 R431, R433): whose it is, the instance-owned state, its request, and whether a saved context is
kept as the instance's checkpoint when it is restored (16 R437). -/
structure Saved where
  task : Nat
  ordinal : Nat
  inst : Inst
  replyOwed : Bool
  kept : Bool
  deriving DecidableEq, Repr

/-- Ring states (17 Table 17.6). -/
inductive RingState | idle | ready | active | parked | stopped
  deriving DecidableEq, Repr

/-- A command ring (17 Table 17.1): grant, BASE, LOGSIZE, STATE, SLICE; its state, the processor's RIDX, records of the
LAUNCH at RIDX already accepted, whether the packet at RIDX has begun, and whether the WAIT at RIDX waits. -/
structure CmdRing where
  grant : Grant
  base : Word
  logSize : Nat
  stateAddr : Word
  slice : Nat
  st : RingState
  ridx : Word
  accepted : Nat
  begun : Bool
  waiting : Bool
  deriving DecidableEq, Repr

/-- Where a node stands (17 R455): armed, its counter read at most 0 and `taken` records of its payload accepted, or all its work
accepted. -/
inductive NodeStage | armed | fired (taken : Nat) | running
  deriving DecidableEq, Repr

/-- A node (17 R455). -/
structure Node where
  id : Nat
  ring : Fin 256
  ctx : Nat
  counter : Word
  payload : Word
  succ : List Word
  stage : NodeStage
  deriving DecidableEq, Repr

/-- A flit in a replay buffer (18 R462, R463): SEQ, times sent, the ACK that it carries, type and routing, and the messages that end
in it. -/
structure SentFlit where
  seq : BitVec 16
  sends : Nat
  ack : BitVec 16
  hdr : Word32
  msgs : List Envelope
  deriving DecidableEq, Repr

/-- The flit that a link is filling (18 R462): bytes of its payload used, and the messages that end in it. -/
structure OpenFlit where
  used : Nat
  msgs : List Envelope
  deriving DecidableEq, Repr

/-- A link (18 R462-R464): the module on its far side, rung, lanes used, intact lanes, half used at rung 1, SEQ of the next flit to send and to receive,
replay buffer, the flit being filled, messages received that have not yet reached their place, times of its replays and of the last ACK, failed retrainings at this width, flits accepted since an ACK was
returned, the SEQ last returned as ACK, the NAKs returned and the time of the last one, and whether it discards or retrains. -/
structure Link where
  far : Option Nat
  rung : Fin 4
  lanes : BitVec 16
  intact : BitVec 16
  half : Option Bool
  sendSeq : BitVec 16
  recvSeq : BitVec 16
  replay : List SentFlit
  part : OpenFlit
  inbox : List Envelope
  replays : List Nat
  ackAt : Nat
  fails : Nat
  unacked : Nat
  ackOut : BitVec 16
  naks : Nat
  nakAt : Nat
  discarding : Bool
  retraining : Bool
  deriving DecidableEq, Repr

/-- A collective group (18 Table 18.4) and the CTX it is bound to. -/
structure Group where
  size : Nat
  modules : List Nat
  live : BitVec 64
  epoch : Word32
  ctx : Option Nat
  deriving DecidableEq, Repr

/-- Classes of error records (15 R402). -/
inductive ErrorClass | corrected | deferred | unattributed
  deriving DecidableEq, Repr

/-- The unit that an error record names (15 R402): the spec does not number the units (LOG 76). -/
inductive ErrorUnit
  | hbm (channel : Nat)
  | l1d (core : Nat)
  | l2 (slice : Nat)
  | spill (core : Nat)
  | cache
  deriving DecidableEq, Repr

/-- What the module reports to firmware, the host or a verifier: hang reports (05 R159), error records with the first physical
address, or for a spill line its spill offset (15 R402), soft errors of a unit that passed its test (11 R301), capacity
reductions (15 R399), malformed payloads (17 R455), quotes (19 R478), a step of bring-up that failed, and that the module is ready (19
R479), what the host reads through a BAR, none on a Completer Abort, and what it gets by DMA (18 R460, R461, 19 R479), and a report of
temperatures, power, cores in service, CAPV of every core and capacity in MiB (19 R483). -/
inductive Notice
  | hang (task ordinal die core : Nat) (pcs : List Nat) (stalls : List String) (tkstat : Word) (queues : List Nat)
  | error (c : ErrorClass) (unit : ErrorUnit) (addr count ctx : Nat)
  | soft (u : AgedUnit)
  | capacity (lo hi : Nat)
  | payload (counter : Word) (reason : Nat)
  | bringUp (failed : Nat)
  | ready
  | hostRead (bar : Fin 2) (a : Nat) (data : Option (List Byte))
  | dma (pa : Nat) (data : List Byte)
  | report (temperatures : List Nat) (watts cores : Nat) (capv : List (BitVec 16)) (capacity : Nat)
  | quote (nonce : BitVec 256) (capv : List (BitVec 16)) (banks channels links records : List Nat) (cores capacity : Nat)
      (firmware primrose signature : Nat)
  deriving DecidableEq, Repr

/-- Power states (19 R482), the thermal trip (19 R481), and a module held in reset by a failed step of bring-up (19 R479). -/
inductive Power | d0 | d3hot | d3cold | tripped | held
  deriving DecidableEq, Repr

/-- One of the two copies of a configuration record (19 R477): version, body, and whether its signature by the record key is good,
which it is not when its write was interrupted. -/
structure RecordCopy where
  version : Nat
  body : List Nat
  good : Bool
  deriving DecidableEq, Repr

/-- The key pairs that the root derives (19 R475). -/
structure Keys where
  identity : Nat
  attestation : Nat
  record : Nat
  deriving DecidableEq, Repr, Inhabited

/-- A firmware image in a slot (19 R476). -/
structure FirmwareImage where
  version : Nat
  code : SignedBody
  deriving DecidableEq, Repr

/-- Flash (19 R475-R477): the two image slots, the slot running, the rollback floor, the helper data (none when they are lost), the
identity key that the certificate names, and two copies of the record of each type: core rungs, bank rungs, channel rungs, link rungs,
margin limits, rollback floor. -/
structure Flash where
  slots : Vector FirmwareImage 2
  running : Fin 2
  floor : Nat
  helper : Option Nat
  certificate : Nat
  records : Vector (Vector RecordCopy 2) 6
  deriving DecidableEq, Repr

/-- The state of the module. -/
structure State where
  /-- The model's own: the steps still to happen, in order (LOG 1). -/
  agenda : List Action
  /-- The model's own: the number of the step, which draws free values (LOG 2). -/
  tick : Nat
  /-- The model's own: the word being executed (LOG 1). -/
  cur : Cur
  cores : Vector Core 192
  /-- Device memory by physical address (15 R393). -/
  mem : Bytes
  /-- Poisoned granules (15 R400). -/
  poison : List Poisoned
  /-- The model's own: the granules that the last write, one past the caches, covered only in part, with its CTX (15 Table 15.2;
  LOG 71). -/
  partials : List (Nat × Nat)
  /-- Page-table root of each context (16 R412). -/
  roots : List (Nat × Nat)
  /-- The peering table: local context, pod number, peer context (18 R467). -/
  peers : List (Nat × Nat × Nat)
  dieTlb : Vector (List TlbEntry) 8
  /-- Lines of the L1Ds and of L2; they hold no value, since every cache is coherent (13 R356, 14 R370). -/
  l1 : List L1Line
  l2 : List L2Line
  /-- Forwarding entries: line and the slice that holds it (13 R361). -/
  forwards : List (Nat × Fin 192)
  /-- The ways of L2 sets that hold lines of spill areas (13 R367). -/
  spillLocks : List SpillLock
  channels : Vector (Fin 3) 1024
  /-- A capacity-reduction event posted for this channel (15 R399). -/
  reduction : Option (Fin 1024)
  /-- The module is being quiesced: nothing is placed, no ring gets a slot, host requests are held (15 R399). -/
  quiescing : Bool
  rings : Vector CmdRing 256
  nodes : List Node
  /-- Node decrements that wait for the page of their counter: context and address (17 R446, R455). -/
  owed : List (Nat × Word)
  tasks : List Task
  nextTask : Nat
  saved : List Saved
  checkpoints : List Saved
  links : Vector Link 16
  pod : Nat
  /-- The physical address at which the window of BAR1 starts (18 R460). -/
  bar1 : Nat
  /-- What the host's end of the port supports, and the rate and width at which the port has trained (18 R460). -/
  hostEnd : PortEnd
  port : Option (Nat × Nat)
  /-- Answers to remote units and signals that are still to be sent, oldest first (18 R468, R469). -/
  outbox : List Envelope
  /-- Per destination module, the module's own links in order (18 R466). -/
  routes : List (Nat × List (Fin 16))
  groups : Vector Group 64
  /-- The time of the last heartbeat of each module heard, the modules reported to have failed, and the pod timeout in nanoseconds (18
  R471). -/
  heard : List (Nat × Nat)
  failed : List Nat
  podTimeout : Nat
  power : Power
  /-- Bring-up step reached (19 R479). -/
  bringUp : Nat
  capWatts : Nat
  /-- The fault signal that a thermal trip asserts (19 R481). -/
  faultSignal : Bool
  flash : Flash
  notices : List Notice
  deriving DecidableEq, Repr

/-- A stream at byte 0 of an empty memory (02 R44, R45). -/
def Stream.reset : Stream := ⟨0, [], [], false, false, none⟩

/-- All lanes zero. -/
def zeroLanes : Lanes := Vector.replicate 512 0

/-- An empty stream register (03 R94). -/
def ZReg.reset : ZReg :=
  ⟨0, 0, 0, Vector.replicate 6 0, Vector.replicate 6 0, 0, 0, 0, 0, 0⟩

/-- System registers at the reset values of their tables: FSHARE 4 (03 Table 3.8), WDOG 2,930 (05 Table 5.5), the rest 0. -/
def SysRegs.reset : SysRegs := ⟨0, 0, 0, 0, 0, 0, 4, 0, 0, 2930, 0, 0, 0, 0, Vector.replicate 6 0⟩

/-- No access is performed ahead of its instruction. -/
def Done.none : Done := ⟨[], .none⟩

/-- The resources of assists, all zero: the spec gives no reset value (LOG 74). -/
def AssistUnit.reset : AssistUnit :=
  ⟨Vector.replicate 24 zeroLanes, Vector.replicate 8 0, Vector.replicate 512 0, Vector.replicate 2 .none, Vector.replicate 3 []⟩

/-- The state of an instance before its start values are written (03 Table 3.6). -/
def Inst.reset : Inst where
  scu := .reset
  ve := .reset
  me := .reset
  ce := .reset
  s := Vector.replicate 48 0
  slot := none
  wmon := none
  asm := ⟨0, 0, 0⟩
  asmAside := none
  qw := Vector.replicate 16 []
  qr := Vector.replicate 16 []
  q2w := []
  q2r := []
  tokens := Vector.replicate 16 0
  sys := .reset
  pending := none
  trapCopy := none
  trapQ2 := false
  v := Vector.replicate 24 zeroLanes
  k := Vector.replicate 8 0
  flags := Vector.replicate 512 0
  trapMask := 0
  vq := Vector.replicate 8 []
  condA := []
  condB := []
  hollyhock := none
  tiles := Vector.replicate 32 none
  budget := 0
  mdq := []
  mloop := none
  assist := none
  c := Vector.replicate 16 0
  z := Vector.replicate 16 .reset
  a := Vector.replicate 64 ⟨0, false⟩
  copies := []
  nextId := 0
  q0Seq := 0
  q1Seq := 0
  q0Held := []
  q1Held := []
  q3Order := []
  helper := none
  cmdFault := none
  bufW := []
  bufA := []
  bufC := []
  claimW := 0
  claimA := 0
  claimC := 0
  tagsW := []
  tagsA := []
  ringsW := Vector.replicate 8 none
  ringsA := Vector.replicate 8 none
  keep := Vector.replicate 8 ⟨0, 0, 0⟩
  spill := []
  spillLen := 0
  spillBad := []
  doneVe := .none
  doneMe := []

/-- A core after bring-up: in service, every rung 0 as a new module's records give it (LOG 5), no instance. -/
def Core.reset : Core where
  inService := true
  leaving := false
  rung := 0
  bankW := Vector.replicate 16 0
  bankA := Vector.replicate 16 0
  bankC := Vector.replicate 16 0
  occupant := none
  shadow := none
  piece := none
  inst := .reset
  tlb := []
  fw := ⟨0, Vector.replicate 48 0, [], none, 0, 0⟩
  aux := .reset
  request := none
  keeping := false
  replyOwed := false
  watchdog := 0

/-- A link at rung 0 with every lane intact and nothing sent (LOG 6). -/
def Link.reset : Link :=
  ⟨none, 0, BitVec.allOnes 16, BitVec.allOnes 16, none, 0, 0, [], ⟨0, []⟩, [], [], 0, 0, 0, BitVec.allOnes 16, 0, 0, false, false⟩

/-- A command ring with no descriptor (17 R439); rings 0 to 7 belong to firmware. -/
def CmdRing.reset (firmware : Bool) : CmdRing :=
  ⟨if firmware then .firmware else .none, 0, 12, 0, 0, .idle, 0, 0, false, false⟩

/-- The records of a new module: a first version of each, with every rung 0 (LOG 7). -/
def freshRecord (body : List Nat) : Vector RecordCopy 2 := #v[⟨1, body, true⟩, ⟨0, [], false⟩]

/-- Flash of a new module, running the image of slot 0 (LOG 7). -/
def Flash.reset : Flash :=
  ⟨Vector.replicate 2 ⟨1, [], 0, 0⟩, 0, 0, some 0, 0,
    #v[freshRecord (List.replicate 192 0), freshRecord (List.replicate 9216 0), freshRecord (List.replicate 1024 0),
      freshRecord (List.replicate 16 0), freshRecord [], freshRecord [0]]⟩

/-- The module after bring-up step 7 (19 Table 19.1), with no instance placed and nothing in memory (LOG 3, LOG 8). -/
def State.reset : State where
  agenda := []
  tick := 0
  cur := ⟨0, .scu, 0, 0, 0, 0, false⟩
  cores := Vector.replicate 192 .reset
  mem := []
  poison := []
  partials := []
  roots := []
  peers := []
  dieTlb := Vector.replicate 8 []
  l1 := []
  l2 := []
  forwards := []
  spillLocks := []
  channels := Vector.replicate 1024 0
  reduction := none
  quiescing := false
  rings := Vector.replicate 8 (CmdRing.reset true) ++ Vector.replicate 248 (CmdRing.reset false)
  nodes := []
  owed := []
  tasks := []
  nextTask := 0
  saved := []
  checkpoints := []
  links := Vector.replicate 16 .reset
  pod := 0
  bar1 := 0
  hostEnd := ⟨true, 1280, 16⟩
  port := some (1280, 16)
  outbox := []
  routes := []
  groups := Vector.replicate 64 ⟨0, [], 0, 0, none⟩
  heard := []
  failed := []
  podTimeout := 1000000
  power := .d0
  bringUp := 7
  capWatts := 3400
  faultSignal := false
  flash := .reset
  notices := []

end Sys2Proof.Machine
end

