-- ==== Sys2Proof/Config.lean ====
section
/-! DEFINITION. What the spec leaves open or to the world outside the module: free values. None of them has a body, so nothing
can be proved of the value it has. Each is applied to the step's number (`State.tick`), which makes it fresh at every step. -/

namespace Sys2Proof.Config

/-- Which agent makes its next step when the agenda is empty (03 R101, 16 R427; LOG 1). -/
opaque nextAction : Nat → Machine.Action

/-- Values that the spec leaves open, by step and place (LOG 2). -/
opaque freeWord : Nat → Nat → Word

/-- Bytes that the spec leaves open, by step and place (12 R330, 18 R474; LOG 2). -/
opaque freeByte : Nat → Nat → Byte

/-- The core clock at a step, in cycles (05 R157; LOG 11). -/
opaque clock : Nat → Nat

/-- Nanoseconds since reset at a step (17 R459; LOG 11). -/
opaque nanoseconds : Nat → Nat

/-- Whether an access uses a cached translation that a walk of the tables no longer gives (16 R417; LOG 12). -/
opaque useCached : Nat → Bool

/-- The L2 way that line `index` of a new spill area asks for: slice, set and way as one number (13 R367; LOG 13). -/
opaque spillWay : Nat → Nat → Nat → Nat

/-- Firmware's choices where policy decides: lesser cores, served classes, refusals (17 R458; LOG 14). -/
opaque policy : Nat → Nat → Bool

/-- SHA-256 of the body of a firmware image (19 R476; LOG 15). -/
opaque sha256 : List Byte → Nat

/-- Whether a signature over a digest is Quamin's (19 R476; LOG 15). -/
opaque quaminSigned : Nat → Nat → Bool

/-- The keys that the root derives from its SRAM pattern as helper data correct it (19 R475; LOG 15). -/
opaque rootKeys : Nat → Machine.Keys

/-- The digest of the Primrose of a version (19 R478; LOG 15). -/
opaque primrose : Nat → Nat

/-- The signature of a quote, by the attestation key, its nonce and the step (19 R478; LOG 15). -/
opaque signature : Nat → Nat → BitVec 256 → Nat

/-- Temperatures that the module reports at a step (19 R483; LOG 101). -/
opaque temperatures : Nat → List Nat

/-- The power that the module reports at a step, in watts (19 R483; LOG 101). -/
opaque watts : Nat → Nat

end Sys2Proof.Config
end

