-- ==== Sys2Proof/WellFormed.lean ====
section
/-! DEFINITION. The checks that an instruction's own fields must meet together (02 R56, R64 check 3, R165) and that
`Instr`'s field types do not already express. A word whose fields break them is no instruction: ILLEGAL. A command packet
whose fields break them is malformed (17 R444, Table 17.5). -/

namespace Sys2Proof

/-- Whether a format code of Table 2.9 is a 64-bit format (06 R161). -/
def VFmt.is64 : VFmt → Bool
  | .f64 | .i64 => true
  | _ => false

/-- A mask destination: k0 is not one (06 R165). -/
def destMask (d : KReg) : Bool := d.val != 0

/-- A quad base: v0, v4, ..., v20 (06 R180). -/
def quadBase (n : VReg) : Bool := n.val % 4 == 0 && n.val < 24

/-- The count fields of an X.L word (02 R55, R56): a body length of 1 to 1,023, and a count of 1 to 8,191 unless popped. -/
def loopFields (l : Fin 1024) (c : Bool) (n : Fin 8192) : Bool := l.val != 0 && (c == (n.val == 0))

/-- A predicate's blocks lie within v0 to v23, and vb is 0 without ties (07 R217). -/
def predBlocks (coords indexes : Nat) (a b : VReg) (tie : Bool) : Bool :=
  decide (a.val + coords ≤ 24) && if tie then decide (b.val + indexes ≤ 24) else b.val == 0

/-- A pair operand: q = 15 names none (12 R326). -/
def pairReg (q : CReg) : Bool := q.val != 15

/-- An address that is a multiple of n (00 R6). -/
def alignedTo (n : Nat) (a : Word) : Bool := a.toNat % n == 0

/-- The signal and status addresses of a transform are 8-byte aligned (17 Tables 17.5, 17.7, 17.8). -/
def reportOk (r : Report) : Bool := alignedTo 8 r.sigAddr && alignedTo 8 r.status

/-- The row count that goes with a tile form (09 Table 9.1). -/
def rowsOk (f : TileForm) (n : Nat) : Bool :=
  match f with
  | .d32 => n == 64
  | .d64 => n == 128
  | .lr => decide (2 ≤ n ∧ n ≤ 64) && n % 2 == 0

/-- The fields of an instruction agree with each other and with its entry. -/
def wellFormed : Instr → Bool
  | .scuLoop _ l => l.val != 0
  | .scuTkw f => f != .scu
  | .scuTks f => f != .scu
  | .vcmp _ d _ _ _ _ _ => destMask d
  | .vicmp _ d _ _ _ _ _ => destMask d
  | .vmskAnd _ d _ _ _ => destMask d
  | .vmskOr _ d _ _ _ => destMask d
  | .vmskXor _ d _ _ _ => destMask d
  | .vmskAndn _ d _ _ _ => destMask d
  | .vmskFromv _ d _ _ => destMask d
  | .vflgAny _ d _ _ => destMask d
  | .vflgTm _ d => destMask d
  | .vpopPack _ _ _ b _ => destMask b
  | .vcvt _ _ _ h g _ f _ => g != f && (!h || g.is64 != f.is64)
  | .vbcast _ _ _ l x _ => x == .b32 || decide (l.val < 256)
  | .vxacc _ d _ _ _ _ => quadBase d
  | .vxrnd _ _ a _ _ _ _ => quadBase a
  | .vorient2 _ _ a b t _ _ _ => predBlocks 6 3 a b t
  | .vorient3 _ _ a b t _ _ _ => predBlocks 12 4 a b t
  | .vincirc _ _ a b t _ _ _ => predBlocks 8 4 a b t
  | .vinsph _ _ a b t _ _ _ => predBlocks 15 5 a b t
  | .vsegx _ _ a b t _ _ _ => predBlocks 8 4 a b t
  | .veLoop _ l c n => loopFields l c n
  | .veTkw _ f => f != .ve
  | .veTks _ f => f != .ve
  | .talloc _ _ n f => rowsOk f n.val
  | .mloop _ l ii c n =>
      ii.val != 0 && l.val % ii.val == 0 && decide (l.val / ii.val ≤ 16) && (c == (n.val == 0))
  | .meLoop _ l c n => loopFields l c n
  | .meTkw _ f => f != .me
  | .meTks _ f => f != .me
  | .cp _ p q _ x y _ _ =>
      pairReg q && !((x == .mdq || x == .ve) && p.val != 0) && !(x == .ve && y == .ve)
  | .cpx _ _ q _ _ _ _ => pairReg q
  | .cprm _ _ q _ _ _ _ => pairReg q
  | .pf _ q _ _ => pairReg q
  | .keep _ _ q => pairReg q
  | .keepF _ _ q _ => pairReg q
  | .cflush _ q _ _ => pairReg q
  | .cinv _ q _ => pairReg q
  | .cpatm _ p q _ _ _ e _ _ => pairReg q && (e || p.val == 0)
  | .spill _ _ q _ _ _ => pairReg q
  | .fill _ _ q _ _ _ => pairReg q
  | .ceLoop _ l c n => loopFields l c n
  | .ceTkw _ f => f != .ce
  | .ceTks _ f => f != .ce
  | .launch _ first count => alignedTo 64 first && decide (1 ≤ count ∧ count ≤ 256)
  | .wait _ addr _ _ w32 => alignedTo (if w32 then 4 else 8) addr
  | .signal _ addr _ w32 => alignedTo (if w32 then 4 else 8) addr
  | .write _ addr data => alignedTo 8 addr && decide (1 ≤ data.length ∧ data.length ≤ 16)
  | .writeSignal _ addr data sigAddr _ =>
      alignedTo 8 addr && alignedTo 8 sigAddr && decide (1 ≤ data.length ∧ data.length ≤ 15)
  | .transformCompress _ _ _ len _ rep => alignedTo 256 len && reportOk rep
  | .transformExpand _ _ _ _ rep => reportOk rep
  | .transformLayout _ _ _ _ rep => reportOk rep
  | .transformQuant _ _ _ len _ mode rep => alignedTo 2048 len && mode != .dyn && reportOk rep
  | .node _ counter payload succ => alignedTo 8 counter && alignedTo 64 payload && decide (succ.length ≤ 5)
  | .mark _ addr => alignedTo 8 addr
  | .inval _ ctx va len => decide (ctx < 65536) && alignedTo 65536 va && alignedTo 65536 len
  | _ => true

end Sys2Proof
end

