-- ==== Sys2Proof/Decode.lean ====
section
/-! DEFINITION. The decoder of the four engines' words (02 R64-R69), the decoder of command packets (17 R443, R444),
and the encoder. Decoding is total: a word that is no instruction is rejected by name. -/

namespace Sys2Proof

/-- Why a word is no instruction (02 R64): checks 1, 2 and 3. -/
inductive Reject
  /-- Check 1: the major is unallocated in that engine. -/
  | major
  /-- Check 2: an ME major of a defined-absent class 8-15. -/
  | absentClass (n : Nat)
  /-- Check 3: a minor value is unallocated. -/
  | minor
  /-- Check 3: a reserved bit is set. -/
  | reserved
  /-- Check 3: a field holds a value that its entry forbids. -/
  | field
  deriving DecidableEq, Repr

/-- Bits [hi:lo] of a word (00 R6). -/
def bits (w hi lo : Nat) : Nat := w / 2 ^ lo % 2 ^ (hi + 1 - lo)

/-- The register number or count in the field at bit lo that admits n values. -/
def fld (n : Nat) [NeZero n] (w lo : Nat) : Fin n := Fin.ofNat n (w / 2 ^ lo)

/-- The one-bit field at bit lo. -/
def flag (w lo : Nat) : Bool := w / 2 ^ lo % 2 == 1

/-- A field that must be zero. -/
def zero (w hi lo : Nat) : Except Reject Unit := if bits w hi lo = 0 then .ok () else .error .reserved

/-- A field whose codes name values; another code is rejected. -/
def enum {α : Type} (f : Nat → Option α) (code : Nat) : Except Reject α :=
  match f code with
  | some x => .ok x
  | none => .error .field

/-- The token bits of a VE, ME or CE word. -/
def tok (w : Nat) : Tok := ⟨flag w 31, flag w 30⟩

/-- The token bits in place. -/
def Tok.bits (t : Tok) : Nat := t.tw.toNat * 2 ^ 31 + t.ts.toNat * 2 ^ 30

/-- The field code of a value of `Rounding`. -/
def Rounding.code : Rounding → Nat
  | .rne => 0
  | .rtz => 1
  | .rup => 2
  | .rdn => 3
  | .rna => 4
  | .dyn => 7

/-- The value of `Rounding` that a field code names, if any. -/
def Rounding.ofCode : Nat → Option Rounding
  | 0 => some .rne
  | 1 => some .rtz
  | 2 => some .rup
  | 3 => some .rdn
  | 4 => some .rna
  | 7 => some .dyn
  | _ => none

/-- The field code of a value of `FpFmt`. -/
def FpFmt.code : FpFmt → Nat
  | .f32 => 0
  | .f64 => 1
  | .bf16 => 2
  | .f16 => 3

/-- The value of `FpFmt` that a field code names, if any. -/
def FpFmt.ofCode : Nat → Option FpFmt
  | 0 => some .f32
  | 1 => some .f64
  | 2 => some .bf16
  | 3 => some .f16
  | _ => none

/-- The field code of a value of `IntFmt`. -/
def IntFmt.code : IntFmt → Nat
  | .i32 => 4
  | .u32 => 5
  | .i64 => 6

/-- The value of `IntFmt` that a field code names, if any. -/
def IntFmt.ofCode : Nat → Option IntFmt
  | 4 => some .i32
  | 5 => some .u32
  | 6 => some .i64
  | _ => none

/-- The field code of a value of `VFmt`. -/
def VFmt.code : VFmt → Nat
  | .f32 => 0
  | .f64 => 1
  | .bf16 => 2
  | .f16 => 3
  | .i32 => 4
  | .u32 => 5
  | .i64 => 6

/-- The value of `VFmt` that a field code names, if any. -/
def VFmt.ofCode : Nat → Option VFmt
  | 0 => some .f32
  | 1 => some .f64
  | 2 => some .bf16
  | 3 => some .f16
  | 4 => some .i32
  | 5 => some .u32
  | 6 => some .i64
  | _ => none

/-- The field code of a value of `LaneW`. -/
def LaneW.code : LaneW → Nat
  | .b32 => 0
  | .b64 => 1

/-- The value of `LaneW` that a field code names, if any. -/
def LaneW.ofCode : Nat → Option LaneW
  | 0 => some .b32
  | 1 => some .b64
  | _ => none

/-- The field code of a value of `HFmt`. -/
def HFmt.code : HFmt → Nat
  | .f32 => 0
  | .f64 => 1

/-- The value of `HFmt` that a field code names, if any. -/
def HFmt.ofCode : Nat → Option HFmt
  | 0 => some .f32
  | 1 => some .f64
  | _ => none

/-- The field code of a value of `RedFmt`. -/
def RedFmt.code : RedFmt → Nat
  | .f32 => 0
  | .f64 => 1
  | .i32 => 4
  | .u32 => 5
  | .i64 => 6

/-- The value of `RedFmt` that a field code names, if any. -/
def RedFmt.ofCode : Nat → Option RedFmt
  | 0 => some .f32
  | 1 => some .f64
  | 4 => some .i32
  | 5 => some .u32
  | 6 => some .i64
  | _ => none

/-- The field code of a value of `FixFmt`. -/
def FixFmt.code : FixFmt → Nat
  | .f32 => 0
  | .f64 => 1
  | .i32 => 4
  | .i64 => 6

/-- The value of `FixFmt` that a field code names, if any. -/
def FixFmt.ofCode : Nat → Option FixFmt
  | 0 => some .f32
  | 1 => some .f64
  | 4 => some .i32
  | 6 => some .i64
  | _ => none

/-- The field code of a value of `TileFmt`. -/
def TileFmt.code : TileFmt → Nat
  | .f32 => 0
  | .f64 => 1
  | .i32 => 4

/-- The value of `TileFmt` that a field code names, if any. -/
def TileFmt.ofCode : Nat → Option TileFmt
  | 0 => some .f32
  | 1 => some .f64
  | 4 => some .i32
  | _ => none

/-- The field code of a value of `Cond`. -/
def Cond.code : Cond → Nat
  | .eq => 0
  | .ne => 1
  | .lt => 2
  | .le => 3
  | .gt => 4
  | .ge => 5
  | .un => 6
  | .or => 7

/-- The value of `Cond` that a field code names, if any. -/
def Cond.ofCode : Nat → Option Cond
  | 0 => some .eq
  | 1 => some .ne
  | 2 => some .lt
  | 3 => some .le
  | 4 => some .gt
  | 5 => some .ge
  | 6 => some .un
  | 7 => some .or
  | _ => none

/-- The field code of a value of `ICond`. -/
def ICond.code : ICond → Nat
  | .eq => 0
  | .ne => 1
  | .lt => 2
  | .le => 3
  | .gt => 4
  | .ge => 5

/-- The value of `ICond` that a field code names, if any. -/
def ICond.ofCode : Nat → Option ICond
  | 0 => some .eq
  | 1 => some .ne
  | 2 => some .lt
  | 3 => some .le
  | 4 => some .gt
  | 5 => some .ge
  | _ => none

/-- The field code of a value of `WCond`. -/
def WCond.code : WCond → Nat
  | .eq => 0
  | .ne => 1
  | .lt => 2
  | .ge => 3
  | .ltu => 4
  | .geu => 5
  | .any => 6

/-- The value of `WCond` that a field code names, if any. -/
def WCond.ofCode : Nat → Option WCond
  | 0 => some .eq
  | 1 => some .ne
  | 2 => some .lt
  | 3 => some .ge
  | 4 => some .ltu
  | 5 => some .geu
  | 6 => some .any
  | _ => none

/-- The field code of a value of `AmoOp`. -/
def AmoOp.code : AmoOp → Nat
  | .add => 0
  | .and => 1
  | .or => 2
  | .xor => 3
  | .min => 4
  | .max => 5
  | .minu => 6
  | .maxu => 7
  | .swap => 8
  | .fadd => 9

/-- The value of `AmoOp` that a field code names, if any. -/
def AmoOp.ofCode : Nat → Option AmoOp
  | 0 => some .add
  | 1 => some .and
  | 2 => some .or
  | 3 => some .xor
  | 4 => some .min
  | 5 => some .max
  | 6 => some .minu
  | 7 => some .maxu
  | 8 => some .swap
  | 9 => some .fadd
  | _ => none

/-- The field code of a value of `AmoOrder`. -/
def AmoOrder.code : AmoOrder → Nat
  | .none => 0
  | .acq => 1
  | .rel => 2
  | .ar => 3

/-- The value of `AmoOrder` that a field code names, if any. -/
def AmoOrder.ofCode : Nat → Option AmoOrder
  | 0 => some .none
  | 1 => some .acq
  | 2 => some .rel
  | 3 => some .ar
  | _ => none

/-- The field code of a value of `FenceScope`. -/
def FenceScope.code : FenceScope → Nat
  | .core => 0
  | .die => 1
  | .pkg => 2
  | .pod => 3

/-- The value of `FenceScope` that a field code names, if any. -/
def FenceScope.ofCode : Nat → Option FenceScope
  | 0 => some .core
  | 1 => some .die
  | 2 => some .pkg
  | 3 => some .pod
  | _ => none

/-- The field code of a value of `FenceKind`. -/
def FenceKind.code : FenceKind → Nat
  | .ld => 0
  | .st => 1
  | .all => 2

/-- The value of `FenceKind` that a field code names, if any. -/
def FenceKind.ofCode : Nat → Option FenceKind
  | 0 => some .ld
  | 1 => some .st
  | 2 => some .all
  | _ => none

/-- The field code of a value of `Dir`. -/
def Dir.code : Dir → Nat
  | .row => 0
  | .col => 1
  | .diag => 2
  | .anti => 3

/-- The value of `Dir` that a field code names, if any. -/
def Dir.ofCode : Nat → Option Dir
  | 0 => some .row
  | 1 => some .col
  | 2 => some .diag
  | 3 => some .anti
  | _ => none

/-- The field code of a value of `QntType`. -/
def QntType.code : QntType → Nat
  | .e4 => 0
  | .e5 => 1
  | .e2 => 2

/-- The value of `QntType` that a field code names, if any. -/
def QntType.ofCode : Nat → Option QntType
  | 0 => some .e4
  | 1 => some .e5
  | 2 => some .e2
  | _ => none

/-- The field code of a value of `B16Fmt`. -/
def B16Fmt.code : B16Fmt → Nat
  | .bf16 => 0
  | .f16 => 1

/-- The value of `B16Fmt` that a field code names, if any. -/
def B16Fmt.ofCode : Nat → Option B16Fmt
  | 0 => some .bf16
  | 1 => some .f16
  | _ => none

/-- The field code of a value of `TileForm`. -/
def TileForm.code : TileForm → Nat
  | .d32 => 0
  | .d64 => 1
  | .lr => 2

/-- The value of `TileForm` that a field code names, if any. -/
def TileForm.ofCode : Nat → Option TileForm
  | 0 => some .d32
  | 1 => some .d64
  | 2 => some .lr
  | _ => none

/-- The field code of a value of `Buf`. -/
def Buf.code : Buf → Nat
  | .w => 1
  | .a => 2
  | .c => 3

/-- The value of `Buf` that a field code names, if any. -/
def Buf.ofCode : Nat → Option Buf
  | 1 => some .w
  | 2 => some .a
  | 3 => some .c
  | _ => none

/-- The field code of a value of `CpDst`. -/
def CpDst.code : CpDst → Nat
  | .mem => 0
  | .w => 1
  | .a => 2
  | .c => 3
  | .mdq => 4
  | .ve => 5
  | .ring => 6

/-- The value of `CpDst` that a field code names, if any. -/
def CpDst.ofCode : Nat → Option CpDst
  | 0 => some .mem
  | 1 => some .w
  | 2 => some .a
  | 3 => some .c
  | 4 => some .mdq
  | 5 => some .ve
  | 6 => some .ring
  | _ => none

/-- The field code of a value of `CpSrc`. -/
def CpSrc.code : CpSrc → Nat
  | .mem => 0
  | .w => 1
  | .a => 2
  | .c => 3
  | .ve => 4

/-- The value of `CpSrc` that a field code names, if any. -/
def CpSrc.ofCode : Nat → Option CpSrc
  | 0 => some .mem
  | 1 => some .w
  | 2 => some .a
  | 3 => some .c
  | 4 => some .ve
  | _ => none

/-- The field code of a value of `CpxDst`. -/
def CpxDst.code : CpxDst → Nat
  | .mem => 0
  | .w => 1
  | .a => 2
  | .c => 3
  | .ring => 6

/-- The value of `CpxDst` that a field code names, if any. -/
def CpxDst.ofCode : Nat → Option CpxDst
  | 0 => some .mem
  | 1 => some .w
  | 2 => some .a
  | 3 => some .c
  | 6 => some .ring
  | _ => none

/-- The field code of a value of `ListSrc`. -/
def ListSrc.code : ListSrc → Nat
  | .mem => 0
  | .w => 1
  | .a => 2
  | .c => 3

/-- The value of `ListSrc` that a field code names, if any. -/
def ListSrc.ofCode : Nat → Option ListSrc
  | 0 => some .mem
  | 1 => some .w
  | 2 => some .a
  | 3 => some .c
  | _ => none

/-- Engine codes (02 R59). -/
def Engine.code : Engine → Nat
  | .scu => 0
  | .ve => 1
  | .me => 2
  | .ce => 3

/-- The engine of a 2-bit code. -/
def Engine.ofCode : Nat → Option Engine
  | 0 => some .scu
  | 1 => some .ve
  | 2 => some .me
  | 3 => some .ce
  | _ => none

/-- The pushing engine x of the FIFO that a tkw of engine e names: its code is 4x + y with y = e (02 R59). -/
def fifoIn (e : Engine) (w : Nat) : Except Reject Engine :=
  if bits w 1 0 = e.code then enum Engine.ofCode (bits w 3 2) else .error .field

/-- The popping engine y of the FIFO that a tks of engine e names: its code is 4x + y with x = e (02 R59). -/
def fifoOut (e : Engine) (w : Nat) : Except Reject Engine :=
  if bits w 3 2 = e.code then enum Engine.ofCode (bits w 1 0) else .error .field


/-- A word: its fixed bits, and each field's code at its lowest bit (02 Tables 2.2 to 2.6). -/
def word (base : Nat) (fields : List (Nat × Nat)) : List Word32 :=
  [BitVec.ofNat 32 (fields.foldl (fun n f => n + f.1 * 2 ^ f.2) base)]

/-- A word with token bits. -/
def tword (base : Nat) (t : Tok) (fields : List (Nat × Nat)) : List Word32 := word (base + t.bits) fields

/-- The SCU column of Table 2.12 (02 R67), with the minor values and reserved bits of each entry. -/
def parseScu (w w1 : Nat) : Except Reject Instr :=
  match w / 2 ^ 26 % 64 with
  | 0x01 => do zero w 7 0; pure (.add (fld 64 w 20) (fld 64 w 14) (fld 64 w 8))
  | 0x02 => do zero w 7 0; pure (.sub (fld 64 w 20) (fld 64 w 14) (fld 64 w 8))
  | 0x03 => do zero w 7 0; pure (.and (fld 64 w 20) (fld 64 w 14) (fld 64 w 8))
  | 0x04 => do zero w 7 0; pure (.or (fld 64 w 20) (fld 64 w 14) (fld 64 w 8))
  | 0x05 => do zero w 7 0; pure (.xor (fld 64 w 20) (fld 64 w 14) (fld 64 w 8))
  | 0x06 => do zero w 7 0; pure (.shl (fld 64 w 20) (fld 64 w 14) (fld 64 w 8))
  | 0x07 => do zero w 7 0; pure (.shr (fld 64 w 20) (fld 64 w 14) (fld 64 w 8))
  | 0x08 => do zero w 7 0; pure (.sar (fld 64 w 20) (fld 64 w 14) (fld 64 w 8))
  | 0x09 =>
    match bits w 0 0 with
    | 0 => do zero w 7 1; pure (.slt (fld 64 w 20) (fld 64 w 14) (fld 64 w 8))
    | 1 => do zero w 7 1; pure (.sltu (fld 64 w 20) (fld 64 w 14) (fld 64 w 8))
    | _ => .error .minor
  | 0x0a => do zero w 7 0; pure (.mul (fld 64 w 20) (fld 64 w 14) (fld 64 w 8))
  | 0x0b =>
    match bits w 0 0 with
    | 0 => do zero w 7 1; pure (.mulh (fld 64 w 20) (fld 64 w 14) (fld 64 w 8))
    | 1 => do zero w 7 1; pure (.mulhu (fld 64 w 20) (fld 64 w 14) (fld 64 w 8))
    | _ => .error .minor
  | 0x0c =>
    match bits w 0 0 with
    | 0 => do zero w 7 1; pure (.div (fld 64 w 20) (fld 64 w 14) (fld 64 w 8))
    | 1 => do zero w 7 1; pure (.divu (fld 64 w 20) (fld 64 w 14) (fld 64 w 8))
    | _ => .error .minor
  | 0x0d =>
    match bits w 0 0 with
    | 0 => do zero w 7 1; pure (.rem (fld 64 w 20) (fld 64 w 14) (fld 64 w 8))
    | 1 => do zero w 7 1; pure (.remu (fld 64 w 20) (fld 64 w 14) (fld 64 w 8))
    | _ => .error .minor
  | 0x0e =>
    match bits w 0 0 with
    | 0 => do zero w 7 1; pure (.min (fld 64 w 20) (fld 64 w 14) (fld 64 w 8))
    | 1 => do zero w 7 1; pure (.minu (fld 64 w 20) (fld 64 w 14) (fld 64 w 8))
    | _ => .error .minor
  | 0x0f =>
    match bits w 0 0 with
    | 0 => do zero w 7 1; pure (.max (fld 64 w 20) (fld 64 w 14) (fld 64 w 8))
    | 1 => do zero w 7 1; pure (.maxu (fld 64 w 20) (fld 64 w 14) (fld 64 w 8))
    | _ => .error .minor
  | 0x10 => do pure (.addi (fld 64 w 20) (fld 64 w 14) (BitVec.ofNat 14 (w / 2 ^ 0)))
  | 0x11 => do pure (.andi (fld 64 w 20) (fld 64 w 14) (BitVec.ofNat 14 (w / 2 ^ 0)))
  | 0x12 => do pure (.ori (fld 64 w 20) (fld 64 w 14) (BitVec.ofNat 14 (w / 2 ^ 0)))
  | 0x13 => do pure (.xori (fld 64 w 20) (fld 64 w 14) (BitVec.ofNat 14 (w / 2 ^ 0)))
  | 0x14 => do zero w 13 6; pure (.shli (fld 64 w 20) (fld 64 w 14) (fld 64 w 0))
  | 0x15 => do zero w 13 6; pure (.shri (fld 64 w 20) (fld 64 w 14) (fld 64 w 0))
  | 0x16 => do zero w 13 6; pure (.sari (fld 64 w 20) (fld 64 w 14) (fld 64 w 0))
  | 0x17 => do pure (.slti (fld 64 w 20) (fld 64 w 14) (BitVec.ofNat 14 (w / 2 ^ 0)))
  | 0x18 => do pure (.sltui (fld 64 w 20) (fld 64 w 14) (BitVec.ofNat 14 (w / 2 ^ 0)))
  | 0x19 => do pure (.lui (fld 64 w 20) (BitVec.ofNat 20 (w / 2 ^ 0)))
  | 0x1a => do pure (.pcadd (fld 64 w 20) (BitVec.ofNat 20 (w / 2 ^ 0)))
  | 0x1b => do pure (.ldb (fld 64 w 20) (fld 64 w 14) (BitVec.ofNat 14 (w / 2 ^ 0)))
  | 0x1c => do pure (.ldbu (fld 64 w 20) (fld 64 w 14) (BitVec.ofNat 14 (w / 2 ^ 0)))
  | 0x1d => do pure (.ldh (fld 64 w 20) (fld 64 w 14) (BitVec.ofNat 14 (w / 2 ^ 0)))
  | 0x1e => do pure (.ldhu (fld 64 w 20) (fld 64 w 14) (BitVec.ofNat 14 (w / 2 ^ 0)))
  | 0x1f => do pure (.ldw (fld 64 w 20) (fld 64 w 14) (BitVec.ofNat 14 (w / 2 ^ 0)))
  | 0x20 => do pure (.ldwu (fld 64 w 20) (fld 64 w 14) (BitVec.ofNat 14 (w / 2 ^ 0)))
  | 0x21 => do pure (.ldd (fld 64 w 20) (fld 64 w 14) (BitVec.ofNat 14 (w / 2 ^ 0)))
  | 0x22 => do pure (.stb (fld 64 w 20) (fld 64 w 14) (BitVec.ofNat 14 (w / 2 ^ 0)))
  | 0x23 => do pure (.sth (fld 64 w 20) (fld 64 w 14) (BitVec.ofNat 14 (w / 2 ^ 0)))
  | 0x24 => do pure (.stw (fld 64 w 20) (fld 64 w 14) (BitVec.ofNat 14 (w / 2 ^ 0)))
  | 0x25 => do pure (.std (fld 64 w 20) (fld 64 w 14) (BitVec.ofNat 14 (w / 2 ^ 0)))
  | 0x26 => do pure (.beq (fld 64 w 20) (fld 64 w 14) (BitVec.ofNat 14 (w / 2 ^ 0)))
  | 0x27 => do pure (.bne (fld 64 w 20) (fld 64 w 14) (BitVec.ofNat 14 (w / 2 ^ 0)))
  | 0x28 => do pure (.blt (fld 64 w 20) (fld 64 w 14) (BitVec.ofNat 14 (w / 2 ^ 0)))
  | 0x29 => do pure (.bge (fld 64 w 20) (fld 64 w 14) (BitVec.ofNat 14 (w / 2 ^ 0)))
  | 0x2a => do pure (.bltu (fld 64 w 20) (fld 64 w 14) (BitVec.ofNat 14 (w / 2 ^ 0)))
  | 0x2b => do pure (.bgeu (fld 64 w 20) (fld 64 w 14) (BitVec.ofNat 14 (w / 2 ^ 0)))
  | 0x2c => do pure (.j (BitVec.ofNat 26 (w / 2 ^ 0)))
  | 0x2d => do pure (.jal (BitVec.ofNat 26 (w / 2 ^ 0)))
  | 0x2e => do zero w 13 0; pure (.jalr (fld 64 w 20) (fld 64 w 14))
  | 0x2f => do zero w 25 20; pure (.scuLoop (fld 64 w 14) (fld 16384 w 0))
  | 0x30 => do zero w 19 14; pure (.csrr (fld 64 w 20) (fld 16384 w 0))
  | 0x31 => do zero w 25 20; pure (.csrw (fld 64 w 14) (fld 16384 w 0))
  | 0x32 => do zero w 7 4; pure (.wmon (fld 64 w 20) (fld 64 w 14) (fld 64 w 8) (flag w 3) (← enum WCond.ofCode (bits w 2 0)))
  | 0x33 => do zero w 7 7; pure (.amo (fld 64 w 20) (fld 64 w 14) (fld 64 w 8) (← enum AmoOrder.ofCode (bits w 6 5)) (flag w 4) (← enum AmoOp.ofCode (bits w 3 0)))
  | 0x34 => do zero w 7 7; zero w 3 0; pure (.cas (fld 64 w 20) (fld 64 w 14) (fld 64 w 8) (← enum AmoOrder.ofCode (bits w 6 5)) (flag w 4))
  | 0x35 => do zero w 25 4; pure (.fence (← enum FenceScope.ofCode (bits w 3 2)) (← enum FenceKind.ofCode (bits w 1 0)))
  | 0x36 => do zero w 25 4; pure (.scuTkw (← fifoIn .scu w))
  | 0x37 => do zero w 25 4; pure (.scuTks (← fifoOut .scu w))
  | 0x38 => do zero w 7 0; pure (.spawn (fld 64 w 20) (fld 64 w 14) (fld 64 w 8))
  | 0x39 => do zero w 25 0; pure (.scuSafe)
  | 0x3a => do zero w 25 24; zero w1 31 16; pure (.scuSeg (BitVec.ofNat 24 w) (BitVec.ofNat 16 w1))
  | 0x3b => do zero w 25 0; pure (.scuEnd)
  | 0x3c => do zero w 25 20; pure (.trap (BitVec.ofNat 20 (w / 2 ^ 0)))
  | 0x3d => do zero w 25 0; pure (.eret)
  | _ => .error .major

/-- The VE column of Table 2.12 (02 R67), with the minor values and reserved bits of each entry. -/
def parseVe (w w1 : Nat) : Except Reject Instr :=
  match w / 2 ^ 24 % 64 with
  | 0x01 => do pure (.vadd (tok w) (fld 32 w 19) (fld 32 w 14) (fld 32 w 9) (← enum Rounding.ofCode (bits w 8 6)) (← enum FpFmt.ofCode (bits w 5 3)) (fld 8 w 0))
  | 0x02 => do pure (.vsub (tok w) (fld 32 w 19) (fld 32 w 14) (fld 32 w 9) (← enum Rounding.ofCode (bits w 8 6)) (← enum FpFmt.ofCode (bits w 5 3)) (fld 8 w 0))
  | 0x03 => do pure (.vmul (tok w) (fld 32 w 19) (fld 32 w 14) (fld 32 w 9) (← enum Rounding.ofCode (bits w 8 6)) (← enum FpFmt.ofCode (bits w 5 3)) (fld 8 w 0))
  | 0x04 => do pure (.vdiv (tok w) (fld 32 w 19) (fld 32 w 14) (fld 32 w 9) (← enum Rounding.ofCode (bits w 8 6)) (← enum FpFmt.ofCode (bits w 5 3)) (fld 8 w 0))
  | 0x05 => do zero w 13 9; pure (.vsqrt (tok w) (fld 32 w 19) (fld 32 w 14) (← enum Rounding.ofCode (bits w 8 6)) (← enum FpFmt.ofCode (bits w 5 3)) (fld 8 w 0))
  | 0x06 => do pure (.vfma (tok w) (fld 32 w 19) (fld 32 w 14) (fld 32 w 9) (← enum Rounding.ofCode (bits w 8 6)) (← enum FpFmt.ofCode (bits w 5 3)) (fld 8 w 0))
  | 0x07 => do pure (.vfms (tok w) (fld 32 w 19) (fld 32 w 14) (fld 32 w 9) (← enum Rounding.ofCode (bits w 8 6)) (← enum FpFmt.ofCode (bits w 5 3)) (fld 8 w 0))
  | 0x08 => do pure (.vfnma (tok w) (fld 32 w 19) (fld 32 w 14) (fld 32 w 9) (← enum Rounding.ofCode (bits w 8 6)) (← enum FpFmt.ofCode (bits w 5 3)) (fld 8 w 0))
  | 0x09 => do zero w 8 6; pure (.vmin (tok w) (fld 32 w 19) (fld 32 w 14) (fld 32 w 9) (← enum FpFmt.ofCode (bits w 5 3)) (fld 8 w 0))
  | 0x0a => do zero w 8 6; pure (.vmax (tok w) (fld 32 w 19) (fld 32 w 14) (fld 32 w 9) (← enum FpFmt.ofCode (bits w 5 3)) (fld 8 w 0))
  | 0x0b =>
    match bits w 8 6 with
    | 0 => do zero w 13 9; pure (.vsgnNeg (tok w) (fld 32 w 19) (fld 32 w 14) (← enum FpFmt.ofCode (bits w 5 3)) (fld 8 w 0))
    | 1 => do zero w 13 9; pure (.vsgnAbs (tok w) (fld 32 w 19) (fld 32 w 14) (← enum FpFmt.ofCode (bits w 5 3)) (fld 8 w 0))
    | 2 => do pure (.vsgnCp (tok w) (fld 32 w 19) (fld 32 w 14) (fld 32 w 9) (← enum FpFmt.ofCode (bits w 5 3)) (fld 8 w 0))
    | 3 => do pure (.vsgnXs (tok w) (fld 32 w 19) (fld 32 w 14) (fld 32 w 9) (← enum FpFmt.ofCode (bits w 5 3)) (fld 8 w 0))
    | 4 => do zero w 13 9; pure (.vsgnExp (tok w) (fld 32 w 19) (fld 32 w 14) (← enum FpFmt.ofCode (bits w 5 3)) (fld 8 w 0))
    | _ => .error .minor
  | 0x0c => do zero w 8 6; pure (.viadd (tok w) (fld 32 w 19) (fld 32 w 14) (fld 32 w 9) (← enum IntFmt.ofCode (bits w 5 3)) (fld 8 w 0))
  | 0x0d => do zero w 8 6; pure (.visub (tok w) (fld 32 w 19) (fld 32 w 14) (fld 32 w 9) (← enum IntFmt.ofCode (bits w 5 3)) (fld 8 w 0))
  | 0x0e => do zero w 8 6; pure (.vimul (tok w) (fld 32 w 19) (fld 32 w 14) (fld 32 w 9) (← enum IntFmt.ofCode (bits w 5 3)) (fld 8 w 0))
  | 0x0f => do zero w 8 6; pure (.vand (tok w) (fld 32 w 19) (fld 32 w 14) (fld 32 w 9) (← enum IntFmt.ofCode (bits w 5 3)) (fld 8 w 0))
  | 0x10 => do zero w 8 6; pure (.vor (tok w) (fld 32 w 19) (fld 32 w 14) (fld 32 w 9) (← enum IntFmt.ofCode (bits w 5 3)) (fld 8 w 0))
  | 0x11 => do zero w 8 6; pure (.vxor (tok w) (fld 32 w 19) (fld 32 w 14) (fld 32 w 9) (← enum IntFmt.ofCode (bits w 5 3)) (fld 8 w 0))
  | 0x12 => do zero w 8 6; pure (.vshl (tok w) (fld 32 w 19) (fld 32 w 14) (fld 32 w 9) (← enum IntFmt.ofCode (bits w 5 3)) (fld 8 w 0))
  | 0x13 => do zero w 8 6; pure (.vshr (tok w) (fld 32 w 19) (fld 32 w 14) (fld 32 w 9) (← enum IntFmt.ofCode (bits w 5 3)) (fld 8 w 0))
  | 0x14 => do zero w 8 6; pure (.vsar (tok w) (fld 32 w 19) (fld 32 w 14) (fld 32 w 9) (← enum IntFmt.ofCode (bits w 5 3)) (fld 8 w 0))
  | 0x15 => do zero w 8 6; pure (.vimin (tok w) (fld 32 w 19) (fld 32 w 14) (fld 32 w 9) (← enum IntFmt.ofCode (bits w 5 3)) (fld 8 w 0))
  | 0x16 => do zero w 8 6; pure (.vimax (tok w) (fld 32 w 19) (fld 32 w 14) (fld 32 w 9) (← enum IntFmt.ofCode (bits w 5 3)) (fld 8 w 0))
  | 0x17 => do zero w 23 22; pure (.vcmp (tok w) (fld 8 w 19) (fld 32 w 14) (fld 32 w 9) (← enum Cond.ofCode (bits w 8 6)) (← enum FpFmt.ofCode (bits w 5 3)) (fld 8 w 0))
  | 0x18 => do zero w 23 22; pure (.vicmp (tok w) (fld 8 w 19) (fld 32 w 14) (fld 32 w 9) (← enum ICond.ofCode (bits w 8 6)) (← enum IntFmt.ofCode (bits w 5 3)) (fld 8 w 0))
  | 0x19 => do zero w 12 12; pure (.vcvt (tok w) (fld 32 w 19) (fld 32 w 14) (flag w 13) (← enum VFmt.ofCode (bits w 11 9)) (← enum Rounding.ofCode (bits w 8 6)) (← enum VFmt.ofCode (bits w 5 3)) (fld 8 w 0))
  | 0x1a => do zero w 13 9; pure (.vqnt (tok w) (fld 32 w 19) (fld 32 w 14) (← enum Rounding.ofCode (bits w 8 6)) (← enum QntType.ofCode (bits w 5 3)) (fld 8 w 0))
  | 0x1b => do zero w 8 6; pure (.vxacc (tok w) (fld 32 w 19) (fld 32 w 14) (fld 32 w 9) (← enum FixFmt.ofCode (bits w 5 3)) (fld 8 w 0))
  | 0x1c => do pure (.vxrnd (tok w) (fld 32 w 19) (fld 32 w 14) (fld 32 w 9) (← enum Rounding.ofCode (bits w 8 6)) (← enum HFmt.ofCode (bits w 5 3)) (fld 8 w 0))
  | 0x1d => do zero w 8 6; pure (.vperm (tok w) (fld 32 w 19) (fld 32 w 14) (fld 32 w 9) (← enum LaneW.ofCode (bits w 5 3)) (fld 8 w 0))
  | 0x1e => do pure (.vbcast (tok w) (fld 32 w 19) (fld 32 w 14) (fld 512 w 5) (← enum LaneW.ofCode (bits w 4 3)) (fld 8 w 0))
  | 0x1f => do pure (.vslide (tok w) (fld 32 w 19) (fld 32 w 14) (fld 32 w 9) (fld 64 w 3) (fld 8 w 0))
  | 0x20 => do zero w 8 6; pure (.vsel (tok w) (fld 32 w 19) (fld 32 w 14) (fld 32 w 9) (← enum LaneW.ofCode (bits w 5 3)) (fld 8 w 0))
  | 0x21 => do zero w 13 9; pure (.vredsum (tok w) (fld 32 w 19) (fld 32 w 14) (← enum Rounding.ofCode (bits w 8 6)) (← enum HFmt.ofCode (bits w 5 3)) (fld 8 w 0))
  | 0x22 =>
    match bits w 6 6 with
    | 0 => do zero w 13 7; pure (.vredmin (tok w) (fld 32 w 19) (fld 32 w 14) (← enum RedFmt.ofCode (bits w 5 3)) (fld 8 w 0))
    | 1 => do zero w 13 7; pure (.vredmax (tok w) (fld 32 w 19) (fld 32 w 14) (← enum RedFmt.ofCode (bits w 5 3)) (fld 8 w 0))
    | _ => .error .minor
  | 0x23 => do zero w 13 6; pure (.viredsum (tok w) (fld 32 w 19) (fld 32 w 14) (← enum IntFmt.ofCode (bits w 5 3)) (fld 8 w 0))
  | 0x24 => do zero w 13 9; pure (.vld (tok w) (fld 32 w 19) (fld 32 w 14) (fld 8 w 6) (← enum VFmt.ofCode (bits w 5 3)) (fld 8 w 0))
  | 0x25 => do zero w 13 9; pure (.vst (tok w) (fld 32 w 19) (fld 32 w 14) (fld 8 w 6) (← enum VFmt.ofCode (bits w 5 3)) (fld 8 w 0))
  | 0x26 => do pure (.vlds (tok w) (fld 32 w 19) (fld 32 w 14) (fld 32 w 9) (fld 8 w 6) (← enum VFmt.ofCode (bits w 5 3)) (fld 8 w 0))
  | 0x27 => do pure (.vsts (tok w) (fld 32 w 19) (fld 32 w 14) (fld 32 w 9) (fld 8 w 6) (← enum VFmt.ofCode (bits w 5 3)) (fld 8 w 0))
  | 0x28 => do pure (.vgath (tok w) (fld 32 w 19) (fld 32 w 14) (fld 32 w 9) (fld 8 w 6) (← enum VFmt.ofCode (bits w 5 3)) (fld 8 w 0))
  | 0x29 => do pure (.vscat (tok w) (fld 32 w 19) (fld 32 w 14) (fld 32 w 9) (fld 8 w 6) (← enum VFmt.ofCode (bits w 5 3)) (fld 8 w 0))
  | 0x2a => do pure (.vtrd (tok w) (fld 32 w 19) (fld 32 w 14) (← enum Dir.ofCode (bits w 13 12)) (fld 64 w 6) (← enum TileFmt.ofCode (bits w 5 3)) (fld 8 w 0))
  | 0x2b => do pure (.vtwr (tok w) (fld 32 w 19) (fld 32 w 14) (← enum Dir.ofCode (bits w 13 12)) (fld 64 w 6) (← enum TileFmt.ofCode (bits w 5 3)) (fld 8 w 0))
  | 0x2c =>
    match bits w 8 6 with
    | 0 => do zero w 18 9; zero w 5 3; pure (.vflgRd (tok w) (fld 32 w 19) (fld 8 w 0))
    | 1 => do zero w 23 19; zero w 13 9; zero w 5 3; pure (.vflgClr (tok w) (BitVec.ofNat 5 (w / 2 ^ 14)) (fld 8 w 0))
    | 2 => do zero w 23 19; zero w 13 9; zero w 5 3; pure (.vflgWr (tok w) (fld 32 w 14) (fld 8 w 0))
    | 3 => do zero w 23 22; zero w 13 9; zero w 5 3; pure (.vflgAny (tok w) (fld 8 w 19) (BitVec.ofNat 5 (w / 2 ^ 14)) (fld 8 w 0))
    | 4 => do zero w 23 22; zero w 18 9; zero w 5 0; pure (.vflgTm (tok w) (fld 8 w 19))
    | 5 => do zero w 23 9; zero w 5 0; pure (.vflgCtm (tok w))
    | _ => .error .minor
  | 0x2d => do zero w 13 6; pure (.vpush (tok w) (fld 32 w 19) (fld 32 w 14) (← enum LaneW.ofCode (bits w 5 3)) (fld 8 w 0))
  | 0x2e =>
    match bits w 6 6 with
    | 0 => do zero w 13 12; zero w 8 7; zero w 2 0; pure (.vpopPack (tok w) (fld 32 w 19) (fld 32 w 14) (fld 8 w 9) (← enum LaneW.ofCode (bits w 5 3)))
    | 1 => do zero w 13 7; pure (.vpopExp (tok w) (fld 32 w 19) (fld 32 w 14) (← enum LaneW.ofCode (bits w 5 3)) (fld 8 w 0))
    | _ => .error .minor
  | 0x2f => do zero w 13 9; pure (.vexp (tok w) (fld 32 w 19) (fld 32 w 14) (← enum Rounding.ofCode (bits w 8 6)) (← enum HFmt.ofCode (bits w 5 3)) (fld 8 w 0))
  | 0x30 => do zero w 13 9; pure (.vlog (tok w) (fld 32 w 19) (fld 32 w 14) (← enum Rounding.ofCode (bits w 8 6)) (← enum HFmt.ofCode (bits w 5 3)) (fld 8 w 0))
  | 0x31 => do zero w 13 9; pure (.verf (tok w) (fld 32 w 19) (fld 32 w 14) (← enum Rounding.ofCode (bits w 8 6)) (← enum HFmt.ofCode (bits w 5 3)) (fld 8 w 0))
  | 0x32 => do zero w 6 6; pure (.vorient2 (tok w) (fld 32 w 19) (fld 32 w 14) (fld 32 w 9) (flag w 8) (flag w 7) (← enum HFmt.ofCode (bits w 5 3)) (fld 8 w 0))
  | 0x33 => do zero w 6 6; pure (.vorient3 (tok w) (fld 32 w 19) (fld 32 w 14) (fld 32 w 9) (flag w 8) (flag w 7) (← enum HFmt.ofCode (bits w 5 3)) (fld 8 w 0))
  | 0x34 => do zero w 6 6; pure (.vincirc (tok w) (fld 32 w 19) (fld 32 w 14) (fld 32 w 9) (flag w 8) (flag w 7) (← enum HFmt.ofCode (bits w 5 3)) (fld 8 w 0))
  | 0x35 => do zero w 6 6; pure (.vinsph (tok w) (fld 32 w 19) (fld 32 w 14) (fld 32 w 9) (flag w 8) (flag w 7) (← enum HFmt.ofCode (bits w 5 3)) (fld 8 w 0))
  | 0x36 => do zero w 6 6; pure (.vsegx (tok w) (fld 32 w 19) (fld 32 w 14) (fld 32 w 9) (flag w 8) (flag w 7) (← enum HFmt.ofCode (bits w 5 3)) (fld 8 w 0))
  | 0x37 =>
    match bits w 8 6 with
    | 0 => do zero w 23 22; zero w 18 17; zero w 13 12; zero w 5 3; pure (.vmskAnd (tok w) (fld 8 w 19) (fld 8 w 14) (fld 8 w 9) (fld 8 w 0))
    | 1 => do zero w 23 22; zero w 18 17; zero w 13 12; zero w 5 3; pure (.vmskOr (tok w) (fld 8 w 19) (fld 8 w 14) (fld 8 w 9) (fld 8 w 0))
    | 2 => do zero w 23 22; zero w 18 17; zero w 13 12; zero w 5 3; pure (.vmskXor (tok w) (fld 8 w 19) (fld 8 w 14) (fld 8 w 9) (fld 8 w 0))
    | 3 => do zero w 23 22; zero w 18 17; zero w 13 12; zero w 5 3; pure (.vmskAndn (tok w) (fld 8 w 19) (fld 8 w 14) (fld 8 w 9) (fld 8 w 0))
    | 4 => do zero w 18 17; zero w 13 9; zero w 5 3; pure (.vmskTov (tok w) (fld 32 w 19) (fld 8 w 14) (fld 8 w 0))
    | 5 => do zero w 23 22; zero w 13 9; zero w 5 3; pure (.vmskFromv (tok w) (fld 8 w 19) (fld 32 w 14) (fld 8 w 0))
    | 6 => do zero w 18 17; zero w 13 9; zero w 5 3; pure (.vmskCnt (tok w) (fld 32 w 19) (fld 8 w 14) (fld 8 w 0))
    | 7 => do zero w 18 17; zero w 13 9; zero w 5 3; pure (.vmskFirst (tok w) (fld 32 w 19) (fld 8 w 14) (fld 8 w 0))
    | _ => .error .minor
  | 0x38 => do zero w 13 6; pure (.vmov (tok w) (fld 32 w 19) (fld 32 w 14) (← enum LaneW.ofCode (bits w 5 3)) (fld 8 w 0))
  | 0x39 => do zero w 18 6; pure (.viota (tok w) (fld 32 w 19) (← enum FixFmt.ofCode (bits w 5 3)) (fld 8 w 0))
  | 0x3a => do zero w 23 4; pure (.veTkw (tok w) (← fifoIn .ve w))
  | 0x3b => do zero w 23 4; pure (.veTks (tok w) (← fifoOut .ve w))
  | 0x3c => do pure (.veLoop (tok w) (fld 1024 w 14) (flag w 13) (fld 8192 w 0))
  | 0x3d => do zero w1 31 16; pure (.veSeg (tok w) (BitVec.ofNat 24 w) (BitVec.ofNat 16 w1))
  | 0x3e => do zero w 23 0; pure (.veSafe (tok w))
  | 0x3f => do zero w 23 0; pure (.veEnd (tok w))
  | _ => .error .major

/-- The ME column of Table 2.12 (02 R67), with the minor values and reserved bits of each entry. -/
def parseMe (w w1 : Nat) : Except Reject Instr :=
  match w / 2 ^ 24 % 64 with
  | 0x01 => do zero w 10 8; zero w 2 2; zero w 0 0; pure (.mmaF64 (tok w) (fld 32 w 19) (fld 16 w 15) (fld 16 w 11) (← enum Rounding.ofCode (bits w 7 5)) (flag w 4) (flag w 3) (flag w 1))
  | 0x02 =>
    match bits w 2 2 with
    | 0 => do zero w 10 9; zero w 0 0; pure (.mmaB16 (tok w) (fld 32 w 19) (fld 16 w 15) (fld 16 w 11) (← enum B16Fmt.ofCode (bits w 8 8)) (← enum Rounding.ofCode (bits w 7 5)) (flag w 4) (flag w 3) (flag w 1))
    | 1 => do zero w 10 9; zero w 0 0; pure (.mmas (tok w) (fld 32 w 19) (fld 16 w 15) (fld 16 w 11) (← enum B16Fmt.ofCode (bits w 8 8)) (← enum Rounding.ofCode (bits w 7 5)) (flag w 4) (flag w 3) (flag w 1))
    | _ => .error .minor
  | 0x03 => do zero w 10 10; zero w 2 2; zero w 0 0; pure (.mmaF8 (tok w) (fld 32 w 19) (fld 16 w 15) (fld 16 w 11) (BitVec.ofNat 2 (w / 2 ^ 8)) (← enum Rounding.ofCode (bits w 7 5)) (flag w 4) (flag w 3) (flag w 1))
  | 0x04 => do zero w 10 10; zero w 7 5; zero w 2 2; zero w 0 0; pure (.mmaI8 (tok w) (fld 32 w 19) (fld 16 w 15) (fld 16 w 11) (BitVec.ofNat 2 (w / 2 ^ 8)) (flag w 4) (flag w 3) (flag w 1))
  | 0x05 => do zero w 10 8; zero w 2 2; zero w 0 0; pure (.mmaF4 (tok w) (fld 32 w 19) (fld 16 w 15) (fld 16 w 11) (← enum Rounding.ofCode (bits w 7 5)) (flag w 4) (flag w 3) (flag w 1))
  | 0x06 => do zero w 10 10; zero w 7 5; zero w 2 2; zero w 0 0; pure (.mmaI4 (tok w) (fld 32 w 19) (fld 16 w 15) (fld 16 w 11) (BitVec.ofNat 2 (w / 2 ^ 8)) (flag w 4) (flag w 3) (flag w 1))
  | 0x07 => do zero w 10 2; zero w 0 0; pure (.lrset (tok w) (fld 32 w 19) (fld 16 w 15) (fld 16 w 11) (flag w 1))
  | 0x08 => do zero w 8 0; pure (.lrmul (tok w) (fld 32 w 19) (fld 32 w 14) (fld 32 w 9))
  | 0x09 => do zero w 8 1; pure (.lradd (tok w) (fld 32 w 19) (fld 32 w 14) (fld 32 w 9) (flag w 0))
  | 0x0a => do zero w 13 0; pure (.lrcmp (tok w) (fld 32 w 19) (fld 32 w 14))
  | 0x0b => do zero w 13 1; pure (.lrden (tok w) (fld 32 w 19) (fld 32 w 14) (flag w 0))
  | 0x0c =>
    match bits w 0 0 with
    | 0 => do zero w 23 19; zero w 13 1; pure (.lrrank (tok w) (fld 32 w 14))
    | 1 => do zero w 18 1; pure (.lrrankSet (tok w) (fld 32 w 19))
    | _ => .error .minor
  | 0x0d => do zero w 10 0; pure (.mrd (tok w) (fld 32 w 19) (← enum Dir.ofCode (bits w 18 17)) (fld 64 w 11))
  | 0x0e => do zero w 10 0; pure (.mwr (tok w) (fld 32 w 19) (← enum Dir.ofCode (bits w 18 17)) (fld 64 w 11))
  | 0x0f => do zero w 5 1; pure (.mldc (tok w) (fld 32 w 19) (← enum Dir.ofCode (bits w 18 17)) (fld 64 w 11) (fld 32 w 6) (flag w 0))
  | 0x10 => do zero w 5 1; pure (.mstc (tok w) (fld 32 w 19) (← enum Dir.ofCode (bits w 18 17)) (fld 64 w 11) (fld 32 w 6) (flag w 0))
  | 0x11 => do zero w 7 2; pure (.talloc (tok w) (fld 32 w 19) (fld 2048 w 8) (← enum TileForm.ofCode (bits w 1 0)))
  | 0x12 => do zero w 18 0; pure (.tfree (tok w) (fld 32 w 19))
  | 0x13 => do zero w 18 0; pure (.tclr (tok w) (fld 32 w 19))
  | 0x14 => do zero w 13 0; pure (.tmov (tok w) (fld 32 w 19) (fld 32 w 14))
  | 0x15 => do pure (.mloop (tok w) (fld 1024 w 14) (fld 64 w 8) (flag w 7) (fld 128 w 0))
  | 0x16 => do pure (.meLoop (tok w) (fld 1024 w 14) (flag w 13) (fld 8192 w 0))
  | 0x17 => do zero w 23 4; pure (.meTkw (tok w) (← fifoIn .me w))
  | 0x18 => do zero w 23 4; pure (.meTks (tok w) (← fifoOut .me w))
  | 0x19 => do zero w1 31 16; pure (.meSeg (tok w) (BitVec.ofNat 24 w) (BitVec.ofNat 16 w1))
  | 0x1a => do zero w 23 0; pure (.meSafe (tok w))
  | 0x1b => do zero w 23 0; pure (.meEnd (tok w))
  | 0x1c => do zero w 23 0; pure (.meNop (tok w))
  | 0x20 => .error (.absentClass 8)
  | 0x21 => .error (.absentClass 9)
  | 0x22 => .error (.absentClass 10)
  | 0x23 => .error (.absentClass 11)
  | 0x24 => .error (.absentClass 12)
  | 0x25 => .error (.absentClass 13)
  | 0x26 => .error (.absentClass 14)
  | 0x27 => .error (.absentClass 15)
  | _ => .error .major

/-- The CE column of Table 2.12 (02 R67), with the minor values and reserved bits of each entry. -/
def parseCe (w w1 : Nat) : Except Reject Instr :=
  match w / 2 ^ 24 % 64 with
  | 0x01 => do pure (.cp (tok w) (fld 16 w 20) (fld 16 w 16) (fld 64 w 10) (← enum CpDst.ofCode (bits w 9 7)) (← enum CpSrc.ofCode (bits w 6 4)) (flag w 3) (fld 8 w 0))
  | 0x02 => do zero w 9 4; zero w 2 0; pure (.cpn (tok w) (fld 16 w 20) (fld 16 w 16) (fld 64 w 10) (flag w 3))
  | 0x03 => do zero w 6 4; pure (.cpx (tok w) (fld 16 w 20) (fld 16 w 16) (fld 64 w 10) (← enum CpxDst.ofCode (bits w 9 7)) (flag w 3) (fld 8 w 0))
  | 0x04 => do pure (.cprm (tok w) (fld 16 w 20) (fld 16 w 16) (fld 64 w 10) (fld 64 w 4) (flag w 3) (fld 8 w 0))
  | 0x05 => do zero w 23 20; zero w 15 10; zero w 8 3; pure (.pf (tok w) (fld 16 w 16) (flag w 9) (fld 8 w 0))
  | 0x06 =>
    match bits w 0 0 with
    | 0 => do zero w 23 23; zero w 15 1; pure (.keep (tok w) (fld 8 w 20) (fld 16 w 16))
    | 1 => do zero w 23 23; zero w 9 1; pure (.keepF (tok w) (fld 8 w 20) (fld 16 w 16) (fld 64 w 10))
    | _ => .error .minor
  | 0x07 => do zero w 23 23; zero w 19 0; pure (.unkeep (tok w) (fld 8 w 20))
  | 0x08 => do zero w 23 20; zero w 9 1; pure (.cflush (tok w) (fld 16 w 16) (fld 64 w 10) (flag w 0))
  | 0x09 => do zero w 23 20; zero w 9 0; pure (.cinv (tok w) (fld 16 w 16) (fld 64 w 10))
  | 0x0a => do pure (.cpatm (tok w) (fld 16 w 20) (fld 16 w 16) (fld 64 w 10) (← enum AmoOp.ofCode (bits w 9 6)) (flag w 5) (flag w 4) (flag w 3) (← enum ListSrc.ofCode (bits w 2 0)))
  | 0x0b =>
    match bits w 9 8 with
    | 0 => do zero w 19 16; zero w 7 4; zero w 2 0; pure (.collAr (tok w) (fld 16 w 20) (fld 64 w 10) (flag w 3))
    | 1 => do zero w 19 16; zero w 7 4; zero w 2 0; pure (.collRs (tok w) (fld 16 w 20) (fld 64 w 10) (flag w 3))
    | 2 => do zero w 19 16; zero w 7 4; zero w 2 0; pure (.collAg (tok w) (fld 16 w 20) (fld 64 w 10) (flag w 3))
    | 3 => do zero w 19 16; zero w 7 4; zero w 2 0; pure (.collBc (tok w) (fld 16 w 20) (fld 64 w 10) (flag w 3))
    | _ => .error .minor
  | 0x0c =>
    match bits w 0 0 with
    | 0 => do zero w 1 1; pure (.sigSt (tok w) (fld 16 w 20) (fld 16 w 16) (fld 64 w 10) (fld 64 w 4) (flag w 3) (flag w 2))
    | 1 => do zero w 1 1; pure (.sigAdd (tok w) (fld 16 w 20) (fld 16 w 16) (fld 64 w 10) (fld 64 w 4) (flag w 3) (flag w 2))
    | _ => .error .minor
  | 0x0d => do zero w 23 20; zero w 9 0; pure (.acset (tok w) (fld 16 w 16) (fld 64 w 10))
  | 0x0e => do zero w 23 20; zero w 9 0; pure (.acadd (tok w) (fld 16 w 16) (fld 64 w 10))
  | 0x0f => do zero w 23 16; zero w 9 0; pure (.acwait (tok w) (fld 64 w 10))
  | 0x10 => do zero w 5 4; zero w 2 0; pure (.lyt (tok w) (fld 16 w 20) (fld 16 w 16) (fld 64 w 10) (fld 16 w 6) (flag w 3))
  | 0x11 => do zero w 15 0; pure (.scfg (tok w) (fld 16 w 20) (fld 16 w 16))
  | 0x12 =>
    match bits w 18 16 with
    | 0 => do zero w 19 19; zero w 15 0; pure (.cgetPop (tok w) (fld 16 w 20))
    | 1 => do zero w 19 19; zero w 15 0; pure (.cgetC (tok w) (fld 16 w 20))
    | 2 => do zero w 19 19; zero w 15 0; pure (.cgetCur (tok w) (fld 16 w 20))
    | 3 => do zero w 19 19; zero w 15 0; pure (.cgetScale (tok w) (fld 16 w 20))
    | 4 => do zero w 23 19; zero w 9 0; pure (.cgetAc (tok w) (fld 64 w 10))
    | 5 => do zero w 19 19; pure (.cgetLi (tok w) (fld 16 w 20) (BitVec.ofNat 16 (w / 2 ^ 0)))
    | _ => .error .minor
  | 0x13 => do pure (.cadd (tok w) (fld 16 w 20) (fld 16 w 16) (BitVec.ofNat 16 (w / 2 ^ 0)))
  | 0x14 => do zero w 31 30; zero w 23 8; pure (.hret (BitVec.ofNat 8 (w / 2 ^ 0)))
  | 0x15 => do zero w 31 30; zero w 15 0; pure (.hflag (fld 16 w 20) (fld 16 w 16))
  | 0x16 => do zero w 7 4; zero w 2 0; pure (.spill (tok w) (fld 16 w 20) (fld 16 w 16) (fld 64 w 10) (← enum Buf.ofCode (bits w 9 8)) (flag w 3))
  | 0x17 => do zero w 7 4; zero w 2 0; pure (.fill (tok w) (fld 16 w 20) (fld 16 w 16) (fld 64 w 10) (← enum Buf.ofCode (bits w 9 8)) (flag w 3))
  | 0x18 =>
    match bits w 0 0 with
    | 0 => do zero w 15 2; pure (.datmOpen (tok w) (fld 16 w 20) (fld 16 w 16) (flag w 1))
    | 1 => do zero w 19 16; zero w 9 2; pure (.datmClose (tok w) (fld 16 w 20) (fld 64 w 10) (flag w 1))
    | _ => .error .minor
  | 0x19 => do pure (.ceLoop (tok w) (fld 1024 w 14) (flag w 13) (fld 8192 w 0))
  | 0x1a => do zero w 23 4; pure (.ceTkw (tok w) (← fifoIn .ce w))
  | 0x1b => do zero w 23 4; pure (.ceTks (tok w) (← fifoOut .ce w))
  | 0x1c => do zero w1 31 16; pure (.ceSeg (tok w) (BitVec.ofNat 24 w) (BitVec.ofNat 16 w1))
  | 0x1d => do zero w 23 0; pure (.ceSafe (tok w))
  | 0x1e => do zero w 23 0; pure (.ceEnd (tok w))
  | 0x1f => do zero w 23 0; pure (.ceNop (tok w))
  | _ => .error .major

/-- What engine e reads from the words w and w1 (w1 is looked at only for a seg), by the checks 1 to 3 of R64. -/
def parse (e : Engine) (w w1 : Nat) : Except Reject Instr :=
  match e with
  | .scu => parseScu w w1
  | .ve => parseVe w w1
  | .me => parseMe w w1
  | .ce => parseCe w w1

/-- Decoding of an instruction: the word's fields, then the checks between fields that its entry makes. -/
def decode (e : Engine) (w w1 : Nat) : Except Reject Instr :=
  match parse e w w1 with
  | .error r => .error r
  | .ok i => if wellFormed i then .ok i else .error .field

/-- The major opcode of a word of engine e. -/
def majorOf (e : Engine) (w : Nat) : Nat :=
  match e with
  | .scu => w / 2 ^ 26 % 64
  | _ => w / 2 ^ 24 % 64

/-- Whether word w of engine e is word 0 of a seg (02 R55). -/
def isSegWord (e : Engine) (w : Nat) : Bool :=
  majorOf e w == match e with
    | .scu => 0x3A
    | .ve => 0x3D
    | .me => 0x19
    | .ce => 0x1C

/-- The little-endian number of a list of bytes (00 R6). -/
def leNat : List Byte → Nat
  | [] => 0
  | b :: bs => b.toNat + 256 * leNat bs

/-- n little-endian bytes of a number. -/
def leBytes : Nat → Nat → List Byte
  | 0, _ => []
  | n + 1, v => BitVec.ofNat 8 v :: leBytes n (v / 256)

/-- Decoding of a stream of bytes: the instruction and the bytes after it. -/
def decodeBytes (e : Engine) (bs : List Byte) : Except Reject (Instr × List Byte) :=
  let w := leNat (bs.take 4)
  match decode e w (leNat ((bs.drop 4).take 4)) with
  | .error r => .error r
  | .ok i => .ok (i, if isSegWord e w then bs.drop 8 else bs.drop 4)

/-- The words of an instruction, written from the word formats of 02 (Tables 2.2 to 2.6); a row that is no word has none. -/
def encode : Instr → List Word32
  | .add d a b => word 0x04000000 [(d.val, 20), (a.val, 14), (b.val, 8)]
  | .sub d a b => word 0x08000000 [(d.val, 20), (a.val, 14), (b.val, 8)]
  | .and d a b => word 0x0c000000 [(d.val, 20), (a.val, 14), (b.val, 8)]
  | .or d a b => word 0x10000000 [(d.val, 20), (a.val, 14), (b.val, 8)]
  | .xor d a b => word 0x14000000 [(d.val, 20), (a.val, 14), (b.val, 8)]
  | .shl d a b => word 0x18000000 [(d.val, 20), (a.val, 14), (b.val, 8)]
  | .shr d a b => word 0x1c000000 [(d.val, 20), (a.val, 14), (b.val, 8)]
  | .sar d a b => word 0x20000000 [(d.val, 20), (a.val, 14), (b.val, 8)]
  | .slt d a b => word 0x24000000 [(d.val, 20), (a.val, 14), (b.val, 8)]
  | .sltu d a b => word 0x24000001 [(d.val, 20), (a.val, 14), (b.val, 8)]
  | .mul d a b => word 0x28000000 [(d.val, 20), (a.val, 14), (b.val, 8)]
  | .mulh d a b => word 0x2c000000 [(d.val, 20), (a.val, 14), (b.val, 8)]
  | .mulhu d a b => word 0x2c000001 [(d.val, 20), (a.val, 14), (b.val, 8)]
  | .div d a b => word 0x30000000 [(d.val, 20), (a.val, 14), (b.val, 8)]
  | .divu d a b => word 0x30000001 [(d.val, 20), (a.val, 14), (b.val, 8)]
  | .rem d a b => word 0x34000000 [(d.val, 20), (a.val, 14), (b.val, 8)]
  | .remu d a b => word 0x34000001 [(d.val, 20), (a.val, 14), (b.val, 8)]
  | .min d a b => word 0x38000000 [(d.val, 20), (a.val, 14), (b.val, 8)]
  | .minu d a b => word 0x38000001 [(d.val, 20), (a.val, 14), (b.val, 8)]
  | .max d a b => word 0x3c000000 [(d.val, 20), (a.val, 14), (b.val, 8)]
  | .maxu d a b => word 0x3c000001 [(d.val, 20), (a.val, 14), (b.val, 8)]
  | .addi d a i => word 0x40000000 [(d.val, 20), (a.val, 14), (i.toNat, 0)]
  | .andi d a i => word 0x44000000 [(d.val, 20), (a.val, 14), (i.toNat, 0)]
  | .ori d a i => word 0x48000000 [(d.val, 20), (a.val, 14), (i.toNat, 0)]
  | .xori d a i => word 0x4c000000 [(d.val, 20), (a.val, 14), (i.toNat, 0)]
  | .shli d a i => word 0x50000000 [(d.val, 20), (a.val, 14), (i.val, 0)]
  | .shri d a i => word 0x54000000 [(d.val, 20), (a.val, 14), (i.val, 0)]
  | .sari d a i => word 0x58000000 [(d.val, 20), (a.val, 14), (i.val, 0)]
  | .slti d a i => word 0x5c000000 [(d.val, 20), (a.val, 14), (i.toNat, 0)]
  | .sltui d a i => word 0x60000000 [(d.val, 20), (a.val, 14), (i.toNat, 0)]
  | .lui d i => word 0x64000000 [(d.val, 20), (i.toNat, 0)]
  | .pcadd d i => word 0x68000000 [(d.val, 20), (i.toNat, 0)]
  | .ldb d a i => word 0x6c000000 [(d.val, 20), (a.val, 14), (i.toNat, 0)]
  | .ldbu d a i => word 0x70000000 [(d.val, 20), (a.val, 14), (i.toNat, 0)]
  | .ldh d a i => word 0x74000000 [(d.val, 20), (a.val, 14), (i.toNat, 0)]
  | .ldhu d a i => word 0x78000000 [(d.val, 20), (a.val, 14), (i.toNat, 0)]
  | .ldw d a i => word 0x7c000000 [(d.val, 20), (a.val, 14), (i.toNat, 0)]
  | .ldwu d a i => word 0x80000000 [(d.val, 20), (a.val, 14), (i.toNat, 0)]
  | .ldd d a i => word 0x84000000 [(d.val, 20), (a.val, 14), (i.toNat, 0)]
  | .stb d a i => word 0x88000000 [(d.val, 20), (a.val, 14), (i.toNat, 0)]
  | .sth d a i => word 0x8c000000 [(d.val, 20), (a.val, 14), (i.toNat, 0)]
  | .stw d a i => word 0x90000000 [(d.val, 20), (a.val, 14), (i.toNat, 0)]
  | .std d a i => word 0x94000000 [(d.val, 20), (a.val, 14), (i.toNat, 0)]
  | .beq a b i => word 0x98000000 [(a.val, 20), (b.val, 14), (i.toNat, 0)]
  | .bne a b i => word 0x9c000000 [(a.val, 20), (b.val, 14), (i.toNat, 0)]
  | .blt a b i => word 0xa0000000 [(a.val, 20), (b.val, 14), (i.toNat, 0)]
  | .bge a b i => word 0xa4000000 [(a.val, 20), (b.val, 14), (i.toNat, 0)]
  | .bltu a b i => word 0xa8000000 [(a.val, 20), (b.val, 14), (i.toNat, 0)]
  | .bgeu a b i => word 0xac000000 [(a.val, 20), (b.val, 14), (i.toNat, 0)]
  | .j i => word 0xb0000000 [(i.toNat, 0)]
  | .jal i => word 0xb4000000 [(i.toNat, 0)]
  | .jalr d a => word 0xb8000000 [(d.val, 20), (a.val, 14)]
  | .scuLoop a l => word 0xbc000000 [(a.val, 14), (l.val, 0)]
  | .csrr d n => word 0xc0000000 [(d.val, 20), (n.val, 0)]
  | .csrw a n => word 0xc4000000 [(a.val, 14), (n.val, 0)]
  | .wmon d a b w c => word 0xc8000000 [(d.val, 20), (a.val, 14), (b.val, 8), (w.toNat, 3), (c.code, 0)]
  | .amo d a b o w c => word 0xcc000000 [(d.val, 20), (a.val, 14), (b.val, 8), (o.code, 5), (w.toNat, 4), (c.code, 0)]
  | .cas d a b o w => word 0xd0000000 [(d.val, 20), (a.val, 14), (b.val, 8), (o.code, 5), (w.toNat, 4)]
  | .fence s k => word 0xd4000000 [(s.code, 2), (k.code, 0)]
  | .scuTkw f => word 0xd8000000 [(f.code, 2), (0, 0)]
  | .scuTks f => word 0xdc000000 [(0, 2), (f.code, 0)]
  | .spawn d a b => word 0xe0000000 [(d.val, 20), (a.val, 14), (b.val, 8)]
  | .scuSafe => word 0xe4000000 []
  | .scuSeg cnt crc => word 0xe8000000 [(cnt.toNat, 0)] ++ word 0 [(crc.toNat, 0)]
  | .scuEnd => word 0xec000000 []
  | .trap i => word 0xf0000000 [(i.toNat, 0)]
  | .eret => word 0xf4000000 []
  | .vadd tk d a b r f k => tword 0x01000000 tk [(d.val, 19), (a.val, 14), (b.val, 9), (r.code, 6), (f.code, 3), (k.val, 0)]
  | .vsub tk d a b r f k => tword 0x02000000 tk [(d.val, 19), (a.val, 14), (b.val, 9), (r.code, 6), (f.code, 3), (k.val, 0)]
  | .vmul tk d a b r f k => tword 0x03000000 tk [(d.val, 19), (a.val, 14), (b.val, 9), (r.code, 6), (f.code, 3), (k.val, 0)]
  | .vdiv tk d a b r f k => tword 0x04000000 tk [(d.val, 19), (a.val, 14), (b.val, 9), (r.code, 6), (f.code, 3), (k.val, 0)]
  | .vsqrt tk d a r f k => tword 0x05000000 tk [(d.val, 19), (a.val, 14), (r.code, 6), (f.code, 3), (k.val, 0)]
  | .vfma tk d a b r f k => tword 0x06000000 tk [(d.val, 19), (a.val, 14), (b.val, 9), (r.code, 6), (f.code, 3), (k.val, 0)]
  | .vfms tk d a b r f k => tword 0x07000000 tk [(d.val, 19), (a.val, 14), (b.val, 9), (r.code, 6), (f.code, 3), (k.val, 0)]
  | .vfnma tk d a b r f k => tword 0x08000000 tk [(d.val, 19), (a.val, 14), (b.val, 9), (r.code, 6), (f.code, 3), (k.val, 0)]
  | .vmin tk d a b f k => tword 0x09000000 tk [(d.val, 19), (a.val, 14), (b.val, 9), (f.code, 3), (k.val, 0)]
  | .vmax tk d a b f k => tword 0x0a000000 tk [(d.val, 19), (a.val, 14), (b.val, 9), (f.code, 3), (k.val, 0)]
  | .vsgnNeg tk d a f k => tword 0x0b000000 tk [(d.val, 19), (a.val, 14), (f.code, 3), (k.val, 0)]
  | .vsgnAbs tk d a f k => tword 0x0b000040 tk [(d.val, 19), (a.val, 14), (f.code, 3), (k.val, 0)]
  | .vsgnCp tk d a b f k => tword 0x0b000080 tk [(d.val, 19), (a.val, 14), (b.val, 9), (f.code, 3), (k.val, 0)]
  | .vsgnXs tk d a b f k => tword 0x0b0000c0 tk [(d.val, 19), (a.val, 14), (b.val, 9), (f.code, 3), (k.val, 0)]
  | .vsgnExp tk d a f k => tword 0x0b000100 tk [(d.val, 19), (a.val, 14), (f.code, 3), (k.val, 0)]
  | .viadd tk d a b f k => tword 0x0c000000 tk [(d.val, 19), (a.val, 14), (b.val, 9), (f.code, 3), (k.val, 0)]
  | .visub tk d a b f k => tword 0x0d000000 tk [(d.val, 19), (a.val, 14), (b.val, 9), (f.code, 3), (k.val, 0)]
  | .vimul tk d a b f k => tword 0x0e000000 tk [(d.val, 19), (a.val, 14), (b.val, 9), (f.code, 3), (k.val, 0)]
  | .vand tk d a b f k => tword 0x0f000000 tk [(d.val, 19), (a.val, 14), (b.val, 9), (f.code, 3), (k.val, 0)]
  | .vor tk d a b f k => tword 0x10000000 tk [(d.val, 19), (a.val, 14), (b.val, 9), (f.code, 3), (k.val, 0)]
  | .vxor tk d a b f k => tword 0x11000000 tk [(d.val, 19), (a.val, 14), (b.val, 9), (f.code, 3), (k.val, 0)]
  | .vshl tk d a b f k => tword 0x12000000 tk [(d.val, 19), (a.val, 14), (b.val, 9), (f.code, 3), (k.val, 0)]
  | .vshr tk d a b f k => tword 0x13000000 tk [(d.val, 19), (a.val, 14), (b.val, 9), (f.code, 3), (k.val, 0)]
  | .vsar tk d a b f k => tword 0x14000000 tk [(d.val, 19), (a.val, 14), (b.val, 9), (f.code, 3), (k.val, 0)]
  | .vimin tk d a b f k => tword 0x15000000 tk [(d.val, 19), (a.val, 14), (b.val, 9), (f.code, 3), (k.val, 0)]
  | .vimax tk d a b f k => tword 0x16000000 tk [(d.val, 19), (a.val, 14), (b.val, 9), (f.code, 3), (k.val, 0)]
  | .vcmp tk d a b c f k => tword 0x17000000 tk [(d.val, 19), (a.val, 14), (b.val, 9), (c.code, 6), (f.code, 3), (k.val, 0)]
  | .vicmp tk d a b c f k => tword 0x18000000 tk [(d.val, 19), (a.val, 14), (b.val, 9), (c.code, 6), (f.code, 3), (k.val, 0)]
  | .vcvt tk d a h g r f k => tword 0x19000000 tk [(d.val, 19), (a.val, 14), (h.toNat, 13), (g.code, 9), (r.code, 6), (f.code, 3), (k.val, 0)]
  | .vqnt tk d a r t k => tword 0x1a000000 tk [(d.val, 19), (a.val, 14), (r.code, 6), (t.code, 3), (k.val, 0)]
  | .vxacc tk d a b f k => tword 0x1b000000 tk [(d.val, 19), (a.val, 14), (b.val, 9), (f.code, 3), (k.val, 0)]
  | .vxrnd tk d a b r f k => tword 0x1c000000 tk [(d.val, 19), (a.val, 14), (b.val, 9), (r.code, 6), (f.code, 3), (k.val, 0)]
  | .vperm tk d a b f k => tword 0x1d000000 tk [(d.val, 19), (a.val, 14), (b.val, 9), (f.code, 3), (k.val, 0)]
  | .vbcast tk d a l x k => tword 0x1e000000 tk [(d.val, 19), (a.val, 14), (l.val, 5), (x.code, 3), (k.val, 0)]
  | .vslide tk d a b n k => tword 0x1f000000 tk [(d.val, 19), (a.val, 14), (b.val, 9), (n.val, 3), (k.val, 0)]
  | .vsel tk d a b f k => tword 0x20000000 tk [(d.val, 19), (a.val, 14), (b.val, 9), (f.code, 3), (k.val, 0)]
  | .vredsum tk d a r f k => tword 0x21000000 tk [(d.val, 19), (a.val, 14), (r.code, 6), (f.code, 3), (k.val, 0)]
  | .vredmin tk d a f k => tword 0x22000000 tk [(d.val, 19), (a.val, 14), (f.code, 3), (k.val, 0)]
  | .vredmax tk d a f k => tword 0x22000040 tk [(d.val, 19), (a.val, 14), (f.code, 3), (k.val, 0)]
  | .viredsum tk d a f k => tword 0x23000000 tk [(d.val, 19), (a.val, 14), (f.code, 3), (k.val, 0)]
  | .vld tk d a c f k => tword 0x24000000 tk [(d.val, 19), (a.val, 14), (c.val, 6), (f.code, 3), (k.val, 0)]
  | .vst tk d a c f k => tword 0x25000000 tk [(d.val, 19), (a.val, 14), (c.val, 6), (f.code, 3), (k.val, 0)]
  | .vlds tk d a b c f k => tword 0x26000000 tk [(d.val, 19), (a.val, 14), (b.val, 9), (c.val, 6), (f.code, 3), (k.val, 0)]
  | .vsts tk d a b c f k => tword 0x27000000 tk [(d.val, 19), (a.val, 14), (b.val, 9), (c.val, 6), (f.code, 3), (k.val, 0)]
  | .vgath tk d a b c f k => tword 0x28000000 tk [(d.val, 19), (a.val, 14), (b.val, 9), (c.val, 6), (f.code, 3), (k.val, 0)]
  | .vscat tk d a b c f k => tword 0x29000000 tk [(d.val, 19), (a.val, 14), (b.val, 9), (c.val, 6), (f.code, 3), (k.val, 0)]
  | .vtrd tk v t e n f k => tword 0x2a000000 tk [(v.val, 19), (t.val, 14), (e.code, 12), (n.val, 6), (f.code, 3), (k.val, 0)]
  | .vtwr tk v t e n f k => tword 0x2b000000 tk [(v.val, 19), (t.val, 14), (e.code, 12), (n.val, 6), (f.code, 3), (k.val, 0)]
  | .vflgRd tk d k => tword 0x2c000000 tk [(d.val, 19), (k.val, 0)]
  | .vflgClr tk f k => tword 0x2c000040 tk [(f.toNat, 14), (k.val, 0)]
  | .vflgWr tk a k => tword 0x2c000080 tk [(a.val, 14), (k.val, 0)]
  | .vflgAny tk d f k => tword 0x2c0000c0 tk [(d.val, 19), (f.toNat, 14), (k.val, 0)]
  | .vflgTm tk d => tword 0x2c000100 tk [(d.val, 19)]
  | .vflgCtm tk => tword 0x2c000140 tk []
  | .vpush tk q a x k => tword 0x2d000000 tk [(q.val, 19), (a.val, 14), (x.code, 3), (k.val, 0)]
  | .vpopPack tk d q b x => tword 0x2e000000 tk [(d.val, 19), (q.val, 14), (b.val, 9), (x.code, 3)]
  | .vpopExp tk d q x k => tword 0x2e000040 tk [(d.val, 19), (q.val, 14), (x.code, 3), (k.val, 0)]
  | .vexp tk d a r f k => tword 0x2f000000 tk [(d.val, 19), (a.val, 14), (r.code, 6), (f.code, 3), (k.val, 0)]
  | .vlog tk d a r f k => tword 0x30000000 tk [(d.val, 19), (a.val, 14), (r.code, 6), (f.code, 3), (k.val, 0)]
  | .verf tk d a r f k => tword 0x31000000 tk [(d.val, 19), (a.val, 14), (r.code, 6), (f.code, 3), (k.val, 0)]
  | .vorient2 tk d a b t q f k => tword 0x32000000 tk [(d.val, 19), (a.val, 14), (b.val, 9), (t.toNat, 8), (q.toNat, 7), (f.code, 3), (k.val, 0)]
  | .vorient3 tk d a b t q f k => tword 0x33000000 tk [(d.val, 19), (a.val, 14), (b.val, 9), (t.toNat, 8), (q.toNat, 7), (f.code, 3), (k.val, 0)]
  | .vincirc tk d a b t q f k => tword 0x34000000 tk [(d.val, 19), (a.val, 14), (b.val, 9), (t.toNat, 8), (q.toNat, 7), (f.code, 3), (k.val, 0)]
  | .vinsph tk d a b t q f k => tword 0x35000000 tk [(d.val, 19), (a.val, 14), (b.val, 9), (t.toNat, 8), (q.toNat, 7), (f.code, 3), (k.val, 0)]
  | .vsegx tk d a b t q f k => tword 0x36000000 tk [(d.val, 19), (a.val, 14), (b.val, 9), (t.toNat, 8), (q.toNat, 7), (f.code, 3), (k.val, 0)]
  | .vmskAnd tk d a b k => tword 0x37000000 tk [(d.val, 19), (a.val, 14), (b.val, 9), (k.val, 0)]
  | .vmskOr tk d a b k => tword 0x37000040 tk [(d.val, 19), (a.val, 14), (b.val, 9), (k.val, 0)]
  | .vmskXor tk d a b k => tword 0x37000080 tk [(d.val, 19), (a.val, 14), (b.val, 9), (k.val, 0)]
  | .vmskAndn tk d a b k => tword 0x370000c0 tk [(d.val, 19), (a.val, 14), (b.val, 9), (k.val, 0)]
  | .vmskTov tk d a k => tword 0x37000100 tk [(d.val, 19), (a.val, 14), (k.val, 0)]
  | .vmskFromv tk d a k => tword 0x37000140 tk [(d.val, 19), (a.val, 14), (k.val, 0)]
  | .vmskCnt tk d a k => tword 0x37000180 tk [(d.val, 19), (a.val, 14), (k.val, 0)]
  | .vmskFirst tk d a k => tword 0x370001c0 tk [(d.val, 19), (a.val, 14), (k.val, 0)]
  | .vmov tk d a f k => tword 0x38000000 tk [(d.val, 19), (a.val, 14), (f.code, 3), (k.val, 0)]
  | .viota tk d f k => tword 0x39000000 tk [(d.val, 19), (f.code, 3), (k.val, 0)]
  | .veTkw tk f => tword 0x3a000000 tk [(f.code, 2), (1, 0)]
  | .veTks tk f => tword 0x3b000000 tk [(1, 2), (f.code, 0)]
  | .veLoop tk l c n => tword 0x3c000000 tk [(l.val, 14), (c.toNat, 13), (n.val, 0)]
  | .veSeg tk cnt crc => tword 0x3d000000 tk [(cnt.toNat, 0)] ++ word 0 [(crc.toNat, 0)]
  | .veSafe tk => tword 0x3e000000 tk []
  | .veEnd tk => tword 0x3f000000 tk []
  | .mmaF64 tk d a b r c t e => tword 0x01000000 tk [(d.val, 19), (a.val, 15), (b.val, 11), (r.code, 5), (c.toNat, 4), (t.toNat, 3), (e.toNat, 1)]
  | .mmaB16 tk d a b f r c t e => tword 0x02000000 tk [(d.val, 19), (a.val, 15), (b.val, 11), (f.code, 8), (r.code, 5), (c.toNat, 4), (t.toNat, 3), (e.toNat, 1)]
  | .mmas tk d a b f r c t e => tword 0x02000004 tk [(d.val, 19), (a.val, 15), (b.val, 11), (f.code, 8), (r.code, 5), (c.toNat, 4), (t.toNat, 3), (e.toNat, 1)]
  | .mmaF8 tk d a b f r c t e => tword 0x03000000 tk [(d.val, 19), (a.val, 15), (b.val, 11), (f.toNat, 8), (r.code, 5), (c.toNat, 4), (t.toNat, 3), (e.toNat, 1)]
  | .mmaI8 tk d a b f c t e => tword 0x04000000 tk [(d.val, 19), (a.val, 15), (b.val, 11), (f.toNat, 8), (c.toNat, 4), (t.toNat, 3), (e.toNat, 1)]
  | .mmaF4 tk d a b r c t e => tword 0x05000000 tk [(d.val, 19), (a.val, 15), (b.val, 11), (r.code, 5), (c.toNat, 4), (t.toNat, 3), (e.toNat, 1)]
  | .mmaI4 tk d a b f c t e => tword 0x06000000 tk [(d.val, 19), (a.val, 15), (b.val, 11), (f.toNat, 8), (c.toNat, 4), (t.toNat, 3), (e.toNat, 1)]
  | .lrset tk d a b e => tword 0x07000000 tk [(d.val, 19), (a.val, 15), (b.val, 11), (e.toNat, 1)]
  | .lrmul tk d a b => tword 0x08000000 tk [(d.val, 19), (a.val, 14), (b.val, 9)]
  | .lradd tk d a b n => tword 0x09000000 tk [(d.val, 19), (a.val, 14), (b.val, 9), (n.toNat, 0)]
  | .lrcmp tk d a => tword 0x0a000000 tk [(d.val, 19), (a.val, 14)]
  | .lrden tk d a c => tword 0x0b000000 tk [(d.val, 19), (a.val, 14), (c.toNat, 0)]
  | .lrrank tk a => tword 0x0c000000 tk [(a.val, 14)]
  | .lrrankSet tk d => tword 0x0c000001 tk [(d.val, 19)]
  | .mrd tk t e n => tword 0x0d000000 tk [(t.val, 19), (e.code, 17), (n.val, 11)]
  | .mwr tk t e n => tword 0x0e000000 tk [(t.val, 19), (e.code, 17), (n.val, 11)]
  | .mldc tk t e n f g => tword 0x0f000000 tk [(t.val, 19), (e.code, 17), (n.val, 11), (f.val, 6), (g.toNat, 0)]
  | .mstc tk t e n f g => tword 0x10000000 tk [(t.val, 19), (e.code, 17), (n.val, 11), (f.val, 6), (g.toNat, 0)]
  | .talloc tk d n f => tword 0x11000000 tk [(d.val, 19), (n.val, 8), (f.code, 0)]
  | .tfree tk d => tword 0x12000000 tk [(d.val, 19)]
  | .tclr tk d => tword 0x13000000 tk [(d.val, 19)]
  | .tmov tk d a => tword 0x14000000 tk [(d.val, 19), (a.val, 14)]
  | .mloop tk l i c n => tword 0x15000000 tk [(l.val, 14), (i.val, 8), (c.toNat, 7), (n.val, 0)]
  | .meLoop tk l c n => tword 0x16000000 tk [(l.val, 14), (c.toNat, 13), (n.val, 0)]
  | .meTkw tk f => tword 0x17000000 tk [(f.code, 2), (2, 0)]
  | .meTks tk f => tword 0x18000000 tk [(2, 2), (f.code, 0)]
  | .meSeg tk cnt crc => tword 0x19000000 tk [(cnt.toNat, 0)] ++ word 0 [(crc.toNat, 0)]
  | .meSafe tk => tword 0x1a000000 tk []
  | .meEnd tk => tword 0x1b000000 tk []
  | .meNop tk => tword 0x1c000000 tk []
  | .cp tk p q a x y o z => tword 0x01000000 tk [(p.val, 20), (q.val, 16), (a.val, 10), (x.code, 7), (y.code, 4), (o.toNat, 3), (z.val, 0)]
  | .cpn tk p q a o => tword 0x02000000 tk [(p.val, 20), (q.val, 16), (a.val, 10), (o.toNat, 3)]
  | .cpx tk p q a x o z => tword 0x03000000 tk [(p.val, 20), (q.val, 16), (a.val, 10), (x.code, 7), (o.toNat, 3), (z.val, 0)]
  | .cprm tk p q a m o z => tword 0x04000000 tk [(p.val, 20), (q.val, 16), (a.val, 10), (m.val, 4), (o.toNat, 3), (z.val, 0)]
  | .pf tk q l z => tword 0x05000000 tk [(q.val, 16), (l.toNat, 9), (z.val, 0)]
  | .keep tk n q => tword 0x06000000 tk [(n.val, 20), (q.val, 16)]
  | .keepF tk n q a => tword 0x06000001 tk [(n.val, 20), (q.val, 16), (a.val, 10)]
  | .unkeep tk n => tword 0x07000000 tk [(n.val, 20)]
  | .cflush tk q a h => tword 0x08000000 tk [(q.val, 16), (a.val, 10), (h.toNat, 0)]
  | .cinv tk q a => tword 0x09000000 tk [(q.val, 16), (a.val, 10)]
  | .cpatm tk p q a c x e o z => tword 0x0a000000 tk [(p.val, 20), (q.val, 16), (a.val, 10), (c.code, 6), (x.toNat, 5), (e.toNat, 4), (o.toNat, 3), (z.code, 0)]
  | .collAr tk p a o => tword 0x0b000000 tk [(p.val, 20), (a.val, 10), (o.toNat, 3)]
  | .collRs tk p a o => tword 0x0b000100 tk [(p.val, 20), (a.val, 10), (o.toNat, 3)]
  | .collAg tk p a o => tword 0x0b000200 tk [(p.val, 20), (a.val, 10), (o.toNat, 3)]
  | .collBc tk p a o => tword 0x0b000300 tk [(p.val, 20), (a.val, 10), (o.toNat, 3)]
  | .sigSt tk p q a m o x => tword 0x0c000000 tk [(p.val, 20), (q.val, 16), (a.val, 10), (m.val, 4), (o.toNat, 3), (x.toNat, 2)]
  | .sigAdd tk p q a m o x => tword 0x0c000001 tk [(p.val, 20), (q.val, 16), (a.val, 10), (m.val, 4), (o.toNat, 3), (x.toNat, 2)]
  | .acset tk q a => tword 0x0d000000 tk [(q.val, 16), (a.val, 10)]
  | .acadd tk q a => tword 0x0e000000 tk [(q.val, 16), (a.val, 10)]
  | .acwait tk a => tword 0x0f000000 tk [(a.val, 10)]
  | .lyt tk p q a m o => tword 0x10000000 tk [(p.val, 20), (q.val, 16), (a.val, 10), (m.val, 6), (o.toNat, 3)]
  | .scfg tk p q => tword 0x11000000 tk [(p.val, 20), (q.val, 16)]
  | .cgetPop tk p => tword 0x12000000 tk [(p.val, 20)]
  | .cgetC tk p => tword 0x12010000 tk [(p.val, 20)]
  | .cgetCur tk p => tword 0x12020000 tk [(p.val, 20)]
  | .cgetScale tk p => tword 0x12030000 tk [(p.val, 20)]
  | .cgetAc tk n => tword 0x12040000 tk [(n.val, 10)]
  | .cgetLi tk p i => tword 0x12050000 tk [(p.val, 20), (i.toNat, 0)]
  | .cadd tk p q i => tword 0x13000000 tk [(p.val, 20), (q.val, 16), (i.toNat, 0)]
  | .hret c => word 0x14000000 [(c.toNat, 0)]
  | .hflag p q => word 0x15000000 [(p.val, 20), (q.val, 16)]
  | .spill tk p q a b o => tword 0x16000000 tk [(p.val, 20), (q.val, 16), (a.val, 10), (b.code, 8), (o.toNat, 3)]
  | .fill tk p q a b o => tword 0x17000000 tk [(p.val, 20), (q.val, 16), (a.val, 10), (b.code, 8), (o.toNat, 3)]
  | .datmOpen tk p q o => tword 0x18000000 tk [(p.val, 20), (q.val, 16), (o.toNat, 1)]
  | .datmClose tk p a r => tword 0x18000001 tk [(p.val, 20), (a.val, 10), (r.toNat, 1)]
  | .ceLoop tk l c n => tword 0x19000000 tk [(l.val, 14), (c.toNat, 13), (n.val, 0)]
  | .ceTkw tk f => tword 0x1a000000 tk [(f.code, 2), (3, 0)]
  | .ceTks tk f => tword 0x1b000000 tk [(3, 2), (f.code, 0)]
  | .ceSeg tk cnt crc => tword 0x1c000000 tk [(cnt.toNat, 0)] ++ word 0 [(crc.toNat, 0)]
  | .ceSafe tk => tword 0x1d000000 tk []
  | .ceEnd tk => tword 0x1e000000 tk []
  | .ceNop tk => tword 0x1f000000 tk []
  | .launch _ _ _ => []
  | .wait _ _ _ _ _ => []
  | .signal _ _ _ _ => []
  | .write _ _ _ => []
  | .writeSignal _ _ _ _ _ => []
  | .transformCompress _ _ _ _ _ _ => []
  | .transformExpand _ _ _ _ _ => []
  | .transformLayout _ _ _ _ _ => []
  | .transformQuant _ _ _ _ _ _ _ => []
  | .node _ _ _ _ => []
  | .mark _ _ => []
  | .inval _ _ _ _ => []
  | .echo _ _ => []
  | .moduleTime _ _ => []
  | .checkpoint _ _ => []
  | .yield _ _ => []
  | .inServiceCoreCount _ _ => []
  | .unknownService _ _ _ => []
  | .fmodeWrite _ _ _ => []
  | .mflgWrite _ _ _ => []
  | .mtolWrite _ _ _ => []
  | .mrmodeWrite _ _ _ => []
  | .rungWrite _ _ => []
  | .fshareWrite _ _ => []
  | .wdogWrite _ _ => []
  | .q6ToVq2Transfer _ => []
  | .vq3ToQ7Transfer _ => []
  | .helperStart _ => []
  | .larkspurStart _ => []
  | .copyUnitLand _ _ _ => []
  | .copyComplete _ _ => []
  | .q2AtomicApply _ => []
  | .windowApply _ _ => []
  | .wmonSatisfy _ => []
  | .hollyhockSettle _ => []
  | .meFeederDecode _ => []
  | .assistEnter _ => []
  | .assistDone _ => []
  | .trapTake _ => []
  | .firmwareFirstService _ _ => []
  | .segMismatchReplay _ _ _ => []
  | .passEnd _ => []
  | .instancePlace _ _ => []
  | .shadowSwap _ => []
  | .taskKill _ _ => []
  | .preemptRequest _ => []
  | .contextSave _ => []
  | .contextRestore _ _ => []
  | .watchdogExpiry _ => []
  | .marginTest _ _ _ => []
  | .foxglove _ _ => []
  | .errorDetected _ _ => []
  | .capacityReduction _ => []
  | .channelRetire _ _ => []
  | .nodeFire _ => []
  | .ringPark _ => []
  | .ringRearm _ => []
  | .ringRestart _ _ => []
  | .slotGrant _ => []
  | .ringSliceExpiry _ => []
  | .taskDispatch _ => []
  | .taskComplete _ => []
  | .flitReceive _ _ => []
  | .nakReceive _ _ => []
  | .ackTimer _ => []
  | .replayTimeout _ => []
  | .retrainComplete _ _ => []
  | .laneFailure _ _ => []
  | .linkRetireReroute _ => []
  | .remoteUnitAck _ _ _ _ => []
  | .memberRemove _ _ => []
  | .collectiveCommit _ _ _ _ => []
  | .hostBar1Write _ _ => []
  | .hostAtomicop _ _ _ _ _ => []
  | .powerOn => []
  | .thermalTrip => []
  | .powerCapSet _ => []
  | .d3hotEntry => []
  | .d3coldEntry => []
  | .quoteRequest _ => []
  | .firmwareUpdate _ _ => []
  | .d3hotExit => []
  | .waitSatisfied _ => []
  | .coreOutOfService _ => []
  | .shadowWithdraw _ => []

/-- The bytes of an instruction, each word little-endian, the first word at the lowest address (02 R45). -/
def encodeBytes (i : Instr) : List Byte := (encode i).flatMap fun w => leBytes 4 w.toNat

/-- The engine that executes a word row; none for the other rows. -/
def engineOf : Instr → Option Engine
  | .add .. | .sub .. | .and .. | .or .. | .xor .. | .shl .. | .shr .. | .sar .. | .slt .. | .sltu .. | .mul ..
  | .mulh .. | .mulhu .. | .div .. | .divu .. | .rem .. | .remu .. | .min .. | .minu .. | .max .. | .maxu ..
  | .addi .. | .andi .. | .ori .. | .xori .. | .shli .. | .shri .. | .sari .. | .slti .. | .sltui .. | .lui ..
  | .pcadd .. | .ldb .. | .ldbu .. | .ldh .. | .ldhu .. | .ldw .. | .ldwu .. | .ldd .. | .stb .. | .sth .. | .stw ..
  | .std .. | .beq .. | .bne .. | .blt .. | .bge .. | .bltu .. | .bgeu .. | .j .. | .jal .. | .jalr .. | .scuLoop ..
  | .csrr .. | .csrw .. | .wmon .. | .amo .. | .cas .. | .fence .. | .scuTkw .. | .scuTks .. | .spawn ..
  | .scuSafe .. | .scuSeg .. | .scuEnd .. | .trap .. | .eret .. => some .scu
  | .vadd .. | .vsub .. | .vmul .. | .vdiv .. | .vsqrt .. | .vfma .. | .vfms .. | .vfnma .. | .vmin .. | .vmax ..
  | .vsgnNeg .. | .vsgnAbs .. | .vsgnCp .. | .vsgnXs .. | .vsgnExp .. | .viadd .. | .visub .. | .vimul .. | .vand ..
  | .vor .. | .vxor .. | .vshl .. | .vshr .. | .vsar .. | .vimin .. | .vimax .. | .vcmp .. | .vicmp .. | .vcvt ..
  | .vqnt .. | .vxacc .. | .vxrnd .. | .vperm .. | .vbcast .. | .vslide .. | .vsel .. | .vredsum .. | .vredmin ..
  | .vredmax .. | .viredsum .. | .vld .. | .vst .. | .vlds .. | .vsts .. | .vgath .. | .vscat .. | .vtrd ..
  | .vtwr .. | .vflgRd .. | .vflgClr .. | .vflgWr .. | .vflgAny .. | .vflgTm .. | .vflgCtm .. | .vpush ..
  | .vpopPack .. | .vpopExp .. | .vexp .. | .vlog .. | .verf .. | .vorient2 .. | .vorient3 .. | .vincirc ..
  | .vinsph .. | .vsegx .. | .vmskAnd .. | .vmskOr .. | .vmskXor .. | .vmskAndn .. | .vmskTov .. | .vmskFromv ..
  | .vmskCnt .. | .vmskFirst .. | .vmov .. | .viota .. | .veTkw .. | .veTks .. | .veLoop .. | .veSeg .. | .veSafe ..
  | .veEnd .. => some .ve
  | .mmaF64 .. | .mmaB16 .. | .mmas .. | .mmaF8 .. | .mmaI8 .. | .mmaF4 .. | .mmaI4 .. | .lrset .. | .lrmul ..
  | .lradd .. | .lrcmp .. | .lrden .. | .lrrank .. | .lrrankSet .. | .mrd .. | .mwr .. | .mldc .. | .mstc ..
  | .talloc .. | .tfree .. | .tclr .. | .tmov .. | .mloop .. | .meLoop .. | .meTkw .. | .meTks .. | .meSeg ..
  | .meSafe .. | .meEnd .. | .meNop .. => some .me
  | .cp .. | .cpn .. | .cpx .. | .cprm .. | .pf .. | .keep .. | .keepF .. | .unkeep .. | .cflush .. | .cinv ..
  | .cpatm .. | .collAr .. | .collRs .. | .collAg .. | .collBc .. | .sigSt .. | .sigAdd .. | .acset .. | .acadd ..
  | .acwait .. | .lyt .. | .scfg .. | .cgetPop .. | .cgetC .. | .cgetCur .. | .cgetScale .. | .cgetAc .. | .cgetLi ..
  | .cadd .. | .hret .. | .hflag .. | .spill .. | .fill .. | .datmOpen .. | .datmClose .. | .ceLoop .. | .ceTkw ..
  | .ceTks .. | .ceSeg .. | .ceSafe .. | .ceEnd .. | .ceNop .. => some .ce
  | _ => none

/-- The engine whose stream a table word is taken from: the spec gives each engine its own opcode map, and the table's bits
name no engine, so the first of ME, CE, VE, SCU that has an instruction with that word is taken (LOG 33). -/
def tableEngine (w w1 : Nat) : Option Engine :=
  [Engine.me, .ce, .ve, .scu].find? fun e =>
    match decode e w w1 with
    | .ok _ => true
    | .error _ => false

/-- The instruction that the decoder reads from a table word of nbits bits: word 0 in bits [31:0], a seg's word 1 above. -/
def decodeTableWord (nbits w : Nat) : Option Instr :=
  let v := w % 2 ^ nbits
  let bs := leBytes 8 v
  match tableEngine (leNat (bs.take 4)) (leNat (bs.drop 4)) with
  | none => none
  | some e => match decodeBytes e bs with
    | .ok (i, _) => some i
    | .error _ => none

/-- Why a packet is malformed: the ring fault codes 0x01, 0x02 and 0x03 of Table 17.5. -/
inductive PacketReject
  | header
  | length
  | body
  deriving DecidableEq, Repr

/-- The ring fault code of a malformed packet. -/
def PacketReject.code : PacketReject → Nat
  | .header => 0x01
  | .length => 0x02
  | .body => 0x03

/-- Bytes [off, off + n) of a packet as a number. -/
def pfield (bs : List Byte) (off n : Nat) : Nat := leNat ((bs.drop off).take n)

/-- Doubleword of a packet's body. -/
def pword (bs : List Byte) (off : Nat) : Word := BitVec.ofNat 64 (pfield bs off 8)

/-- Whether the bytes of a packet outside the listed (offset, size) fields are all zero (17 R444: unlisted bytes are reserved). -/
def unlistedZero (bs : List Byte) (fields : List (Nat × Nat)) : Bool :=
  (List.range bs.length).all fun k => (fields.any fun f => decide (f.1 ≤ k ∧ k < f.1 + f.2)) || (bs.getD k 0 == 0)

/-- The LEN that Table 17.4 admits for a TYPE, and that the counts in the body need. -/
def packetLenOk (type len n : Nat) : Bool :=
  match type with
  | 1 | 2 | 3 | 9 => len == 1
  | 4 | 5 => decide (1 ≤ len ∧ len ≤ 3 ∧ 0x40 + 8 * n ≤ 64 * len)
  | 6 | 7 => len == 2
  | 8 => decide (1 ≤ len ∧ len ≤ 64)
  | _ => false

/-- A packet body that holds only its listed fields and meets its limits, or code 0x03. -/
def packetBody (bs : List Byte) (fields : List (Nat × Nat)) (i : Instr) : Except PacketReject Instr :=
  if unlistedZero bs ((0, 8) :: fields) && wellFormed i then .ok i else .error .body

/-- Decoding of a TRANSFORM body (17 Table 17.8). -/
def decodeTransform (h : Pkt) (bs : List Byte) : Except PacketReject Instr :=
  let op := pfield bs 0x20 8
  let src := pword bs 0x08
  let dst := pword bs 0x10
  let len := pword bs 0x18
  let rep : Report := ⟨pword bs 0x40, pword bs 0x48, pword bs 0x50⟩
  let fields := [(0x08, 8), (0x10, 8), (0x18, 8), (0x20, 8), (0x40, 8), (0x48, 8), (0x50, 8)]
  match op % 4 with
  | 0 => if op / 16 = 0 then packetBody bs fields (.transformCompress h src dst len (BitVec.ofNat 2 (op / 4)) rep)
         else .error .body
  | 1 => if op / 4 = 0 then packetBody bs fields (.transformExpand h src dst len rep) else .error .body
  | 2 => if op / 4 = 0 then
           packetBody bs ([(0x28, 8), (0x30, 8), (0x38, 8)] ++ fields)
             (.transformLayout h (pword bs 0x28) (pword bs 0x30) (pword bs 0x38) rep)
         else .error .body
  | _ => match QntType.ofCode (op / 4 % 4), Rounding.ofCode (op / 16 % 8) with
    | some q, some m =>
      if op / 128 = 0 then packetBody bs fields (.transformQuant h src dst len q m rep) else .error .body
    | _, _ => .error .body

/-- Decoding of the packet of `bs` (its LEN x 64 bytes) on ring r (17 R443, R444). The count n of WRITE and WRITE_SIGNAL stands in
[4:0]; a bit above it is a body field outside its limits. -/
def decodePacket (r : Fin 256) (bs : List Byte) : Except PacketReject Instr :=
  let hd := pfield bs 0 4
  let type := bits hd 7 0
  let len := bits hd 23 16
  let h : Pkt := ⟨r, len, flag hd 8⟩
  let n := if type = 4 ∨ type = 5 then pfield bs 0x10 8 % 32 else pfield bs 0x10 8
  let plain := decide (pfield bs 0x10 8 < 32)
  if bits hd 15 9 ≠ 0 ∨ bits hd 31 24 ≠ 0 ∨ type = 0 ∨ 10 ≤ type then .error .header
  else if packetLenOk type len n = false then .error .length
  else match type with
    | 1 => packetBody bs [(0x08, 8), (0x10, 8)] (.launch h (pword bs 0x08) n)
    | 2 => match WCond.ofCode (pfield bs 0x18 8 % 8) with
      | some c => if pfield bs 0x18 8 / 16 = 0 then
          packetBody bs [(0x08, 8), (0x10, 8), (0x18, 8)] (.wait h (pword bs 0x08) (pword bs 0x10) c (flag (pfield bs 0x18 8) 3))
        else .error .body
      | none => .error .body
    | 3 => if pfield bs 0x18 8 / 2 = 0 then
        packetBody bs [(0x08, 8), (0x10, 8), (0x18, 8)] (.signal h (pword bs 0x08) (pword bs 0x10) (flag (pfield bs 0x18 8) 0))
      else .error .body
    | 4 => if plain then
        packetBody bs [(0x08, 8), (0x10, 8), (0x40, 8 * n)]
          (.write h (pword bs 0x08) ((List.range n).map fun j => pword bs (0x40 + 8 * j)))
      else .error .body
    | 5 => if plain then
        packetBody bs [(0x08, 8), (0x10, 8), (0x18, 8), (0x20, 8), (0x40, 8 * n)]
          (.writeSignal h (pword bs 0x08) ((List.range n).map fun j => pword bs (0x40 + 8 * j)) (pword bs 0x18) (pword bs 0x20))
      else .error .body
    | 6 => decodeTransform h bs
    | 7 => let k := pfield bs 0x18 8
      if 5 < k then .error .body
      else packetBody bs [(0x08, 8), (0x10, 8), (0x18, 8), (0x20, 8 * k)]
        (.node h (pword bs 0x08) (pword bs 0x10) ((List.range k).map fun j => pword bs (0x20 + 8 * j)))
    | 8 => packetBody bs [(0x08, 8)] (.mark h (pword bs 0x08))
    | _ => packetBody bs [(0x08, 8), (0x10, 8), (0x18, 8)] (.inval h (pfield bs 0x08 8) (pword bs 0x10) (pword bs 0x18))

/-- Decoding of a mailbox request: the service code in [7:0], the argument in [63:8] (17 R459). -/
def decodeMailbox (g : CoreNo) (v : Word) : Instr :=
  let arg := BitVec.ofNat 56 (v.toNat / 256)
  match v.toNat % 256 with
  | 0x00 => .echo g arg
  | 0x01 => .moduleTime g arg
  | 0x02 => .checkpoint g arg
  | 0x03 => .yield g arg
  | 0x04 => .inServiceCoreCount g arg
  | c => .unknownService g (BitVec.ofNat 8 c) arg

end Sys2Proof
end

