-- ==== Sys2Proof/Machine/Memory.lean ====
section
/-! DEFINITION. Byte spaces, device memory with poison (15 R400), translation (16 R412-R416), and the two levels of cache
(13 R356-R363). Byte order is decided here, once (00 R6). -/

namespace Sys2Proof.Machine

/-- The byte at an address. -/
def Bytes.get : Bytes → Nat → Byte
  | [], _ => 0
  | (k, b) :: t, a => if k = a then b else get t a

/-- The listed cells of bytes that stand from an address up: zero bytes are not listed. -/
def cellsFrom : Nat → List Byte → Bytes
  | _, [] => []
  | a, b :: bs => if b = 0 then cellsFrom (a + 1) bs else (a, b) :: cellsFrom (a + 1) bs

/-- Bytes written from address a up. -/
def Bytes.put (m : Bytes) (a : Nat) (bs : List Byte) : Bytes :=
  m.filter (fun c => decide (c.1 < a)) ++ cellsFrom a bs ++ m.filter (fun c => decide (a + bs.length ≤ c.1))

/-- Bytes put one by one. -/
def Bytes.puts (m : Bytes) (l : List (Nat × Byte)) : Bytes := l.foldl (fun m e => m.put e.1 [e.2]) m

/-- The n bytes from address a up. -/
def Bytes.read (m : Bytes) (a n : Nat) : List Byte := (List.range n).map fun i => m.get (a + i)

/-- The canonical form: addresses strictly rising, no listed zero. -/
def Memory.wf : Bytes → Bool
  | [] => true
  | [c] => c.2 != 0
  | c :: d :: t => c.2 != 0 && decide (c.1 < d.1) && Memory.wf (d :: t)

/-- A 32-bit word of a byte space. -/
def Bytes.word32 (m : Bytes) (a : Nat) : Word32 := BitVec.ofNat 32 (leNat (m.read a 4))

/-- A 64-bit word of a byte space. -/
def Bytes.word (m : Bytes) (a : Nat) : Word := BitVec.ofNat 64 (leNat (m.read a 8))

/-- The number of live channels, N (15 R393). -/
def State.liveChannels (s : State) : Nat := (s.channels.toList.filter (fun r => r != 2)).length

/-- The end of the physical address space: N x 888 MiB (15 R393). -/
def State.paTop (s : State) : Nat := s.liveChannels * (888 * 2 ^ 20)

/-- Size of the firmware region at the top of PA: 2,048 MiB (15 R393). -/
def regionSize : Nat := 2048 * 2 ^ 20

/-- The lowest physical address of the firmware region (15 R393). -/
def State.regionBase (s : State) : Nat := s.paTop - regionSize

/-- The context store: 1,152 MiB from the region's lowest address (15 R393, 16 R433). -/
def contextStoreSize : Nat := 1152 * 2 ^ 20

/-- The overflow list of a base die, 0 to 3: 1,048,576 entries of 16 bytes above the context store (15 R393, 14 R390). -/
def State.overflowBase (s : State) (die : Nat) : Nat := s.regionBase + contextStoreSize + die * (16 * 2 ^ 20)

/-- Firmware images, records and data: 832 MiB above the overflow lists (15 R393). -/
def State.firmwareData (s : State) : Nat := s.regionBase + contextStoreSize + 64 * 2 ^ 20

/-- The channel that holds a physical line (15 R393): the live channel at its number modulo N. -/
def State.channelOf (s : State) (line : Nat) : Nat :=
  (((List.finRange 1024).filter fun c => s.channels[c] != 2).map (·.val)).getD (line % Nat.max 1 s.liveChannels) 0

/-- The byte of its channel at which a physical address stands (15 R393). -/
def State.channelByte (s : State) (pa : Nat) : Nat := 256 * (pa / 256 / Nat.max 1 s.liveChannels) + pa % 256

/-- Whether some byte of [pa, pa + n) lies in a poisoned granule (15 R400). -/
def State.poisoned (s : State) (pa n : Nat) : Bool :=
  s.poison.any fun e => decide (pa < 32 * e.granule + 32 ∧ 32 * e.granule < pa + n)

/-- The bytes of granule gr that lie in [pa, pa + n), as a map. -/
def granuleCover (gr pa n : Nat) : Word32 :=
  BitVec.ofFnLE fun i : Fin 32 => decide (pa ≤ 32 * gr + i.val ∧ 32 * gr + i.val < pa + n)

/-- A write merges into the poisoned granules it touches, in the L1D line or in the L2 line that it reaches; a granule whose every byte
is dirty is poisoned no longer (15 R400). -/
def mergePoison (l1 : Bool) (p : List Poisoned) (pa n : Nat) : List Poisoned :=
  p.filterMap fun e =>
    let m := granuleCover e.granule pa n
    let x : Poisoned := if l1 then { e with l1 := e.l1 ||| m } else { e with l2 := e.l2 ||| m }
    if x.l1 ||| x.l2 = BitVec.allOnes 32 then none else some x

/-- A write of bytes at a physical address, in an L1D or past them. -/
def State.physWriteIn (s : State) (l1 : Bool) (pa : Nat) (bs : List Byte) : State :=
  { s with mem := s.mem.put pa bs, poison := mergePoison l1 s.poison pa bs.length, partials := [] }

/-- A write of bytes at a physical address, past the L1Ds. -/
def State.physWrite (s : State) (pa : Nat) (bs : List Byte) : State := s.physWriteIn false pa bs

/-- Poisoning of a granule: none of its bytes is dirty any more. -/
def State.poisonGranule (s : State) (gr : Nat) : State :=
  { s with poison := ⟨gr, 0, 0⟩ :: s.poison.filter (fun e => e.granule != gr) }

/-- The page-table entry at a physical address is a table or a leaf of the given level, or fails (16 R414). -/
inductive Pte
  | table (pa : Nat)
  | leaf (pa : Nat) (r w fwo : Bool) (kind : BitVec 2)

/-- An entry of level lv whose pages have 2^sh bytes, from its word; none when V = 0 or malformed (16 R414). -/
def pteOf (top lv sh : Nat) (e : Word) : Option Pte :=
  let n := e.toNat
  let pa := bits n 51 8 * 256
  let kind := BitVec.ofNat 2 (bits n 5 4)
  if bits n 0 0 = 0 ∨ bits n 63 52 ≠ 0 ∨ bits n 7 7 ≠ 0 then none
  else if bits n 1 1 = 1 then
    if lv = 0 ∨ pa % 2 ^ sh ≠ 0 ∨ top ≤ pa then none
    else some (.leaf pa (bits n 2 2 == 1) (bits n 3 3 == 1) (bits n 6 6 == 1) kind)
  else if lv = 3 ∨ kind ≠ 0 ∨ top ≤ pa ∨ (lv < 2 ∧ pa % 4096 ≠ 0) then none
  else some (.table pa)

/-- The levels of Table 16.1: number, lowest VA bit indexed, bits indexed. -/
def pageLevels : List (Nat × Nat × Nat) := [(0, 39, 9), (1, 30, 9), (2, 21, 9), (3, 16, 5)]

/-- A walk from a table (16 R413). An entry in a poisoned granule fails translation (LOG 12). -/
def State.walk (s : State) (ctx va : Nat) : List (Nat × Nat × Nat) → Nat → Option TlbEntry
  | [], _ => none
  | (lv, sh, n) :: rest, table =>
    let at' := table + 8 * (va / 2 ^ sh % 2 ^ n)
    if s.poisoned at' 8 then none
    else match pteOf s.paTop lv sh (s.mem.word at') with
      | none => none
      | some (.table pa) => s.walk ctx va rest pa
      | some (.leaf pa r w fwo kind) => some ⟨ctx, va / 2 ^ sh * 2 ^ sh, 2 ^ sh, pa, r, w, fwo, kind⟩

/-- The addresses of the entries that a walk reads, in order (16 R416). -/
def State.walkTrail (s : State) (va : Nat) : List (Nat × Nat × Nat) → Nat → List Nat
  | [], _ => []
  | (lv, sh, n) :: rest, table =>
    let at' := table + 8 * (va / 2 ^ sh % 2 ^ n)
    match pteOf s.paTop lv sh (s.mem.word at') with
      | some (.table pa) => at' :: s.walkTrail va rest pa
      | _ => [at']

/-- What an access needs of its page (16 R415). -/
inductive Need | read | write | both
  deriving DecidableEq

/-- The cached translations that an access of core g may use (16 R416). -/
def State.cached (s : State) (g : CoreNo) (ctx va : Nat) : Option TlbEntry :=
  let hit := fun e : TlbEntry => e.ctx == ctx && decide (e.va ≤ va ∧ va < e.va + e.size)
  match s.cores[g].tlb.find? hit with
  | some e => some e
  | none => s.dieTlb[(⟨g.val / 24, by omega⟩ : Fin 8)].find? hit

/-- What a walk of the page tables gives for a virtual address of a context (16 R413). -/
def State.fresh (s : State) (ctx va : Nat) : Option TlbEntry := (s.roots.lookup ctx).bind (s.walk ctx va pageLevels)

/-- The cached translation that an access of core g uses: one that differs from what a walk now gives may still be used, until an
invalidation removes it (16 R417; LOG 12). -/
def State.used (s : State) (g : CoreNo) (ctx va : Nat) : Option TlbEntry :=
  (s.cached g ctx va).filter fun e => s.fresh ctx va == some e || Config.useCached s.tick

/-- The translation of a virtual address in a context: a walk, or for core g a cached one (16 R412-R417). -/
def State.lookup (s : State) (g : Option CoreNo) (ctx va : Nat) : Option TlbEntry :=
  if 2 ^ 48 ≤ va then none
  else match g.bind fun g => s.used g ctx va with
    | some e => some e
    | none => s.fresh ctx va

/-- A context may reach a physical address: inside PA, and no launch reaches the firmware region (15 R393; a page may reach
beyond, since only its ADDR is tested: 16 R414, LOG 77). -/
def State.reaches (s : State) (ctx pa : Nat) : Bool := decide (pa < if ctx = 0 then s.paTop else s.regionBase)

/-- The physical address of a virtual one, or the cause of 16 R412 and R415. -/
def State.translate (s : State) (g : Option CoreNo) (ctx va : Nat) (need : Need) : Except Cause Nat :=
  match s.lookup g ctx va with
  | none => .error (if need = .read then .pageR else .pageW)
  | some e =>
    let allowed := match need with
      | .read => e.r
      | .write => e.w
      | .both => e.r && e.w
    if !s.reaches ctx (e.pa + (va - e.va)) then .error (if need = .read then .pageR else .pageW)
    else if allowed && e.kind != 3 && (!e.fwo || ctx == 0) then .ok (e.pa + (va - e.va)) else .error .prot

/-- [va, va + n) cut at the smallest page size: first address and length of each piece. -/
def pieces (va n : Nat) : List (Nat × Nat) :=
  if n = 0 then []
  else (List.range ((va + n - 1) / 65536 - va / 65536 + 1)).map fun i =>
    let lo := Nat.max va ((va / 65536 + i) * 65536)
    (lo, Nat.min (va + n) ((va / 65536 + i + 1) * 65536) - lo)

/-- A memory fault: cause and virtual address of the first byte whose access faulted (12 R341). -/
abbrev MemFault := Cause × Nat

/-- The physical runs of a virtual range, or the first fault (16 R417). -/
def State.runs (s : State) (g : Option CoreNo) (ctx : Nat) (need : Need) : List (Nat × Nat) → Except MemFault (List (Nat × Nat))
  | [] => .ok []
  | (va, n) :: rest =>
    match s.translate g ctx va need with
    | .error c => .error (c, va)
    | .ok pa => match s.runs g ctx need rest with
      | .error f => .error f
      | .ok l => .ok ((pa, n) :: l)

/-- The first byte of a physical run that lies in a poisoned granule, as an offset. -/
def State.poisonAt (s : State) (pa n : Nat) : Option Nat :=
  (List.range n).find? fun i => s.poisoned (pa + i) 1

/-- A read of the pieces of a virtual range, one after another: the first byte that faults decides (12 R341). -/
def State.readPieces (s : State) (g : Option CoreNo) (ctx : Nat) : List (Nat × Nat) → Except MemFault (List Byte)
  | [] => .ok []
  | (va, n) :: rest =>
    match s.translate g ctx va .read with
    | .error c => .error (c, va)
    | .ok pa => match s.poisonAt pa n with
      | some i => .error (.poison, va + i)
      | none => match s.readPieces g ctx rest with
        | .error f => .error f
        | .ok bs => .ok (s.mem.read pa n ++ bs)

/-- A read of n bytes at a virtual address, with every check of 04 R116 but alignment. -/
def State.readV (s : State) (g : Option CoreNo) (ctx va n : Nat) : Except MemFault (List Byte) :=
  s.readPieces g ctx (pieces va n)

/-- The way that a fill takes in a set (13 R359): among the eligible ways the lowest-numbered invalid one, or the
lowest-numbered one with RRPV 7 after the eligible lines have aged by the second number; none if no way is eligible. -/
def pickWay (lines : List (Fin 16 × Fin 8)) (blocked : List (Fin 16)) : Option (Fin 16 × Nat) :=
  let ways := (List.finRange 16).filter fun w => !blocked.contains w
  match ways.find? fun w => lines.all fun l => l.1 != w with
  | some w => some (w, 0)
  | none =>
    let r := fun w => ((lines.find? fun l => l.1 == w).map fun l => l.2.val).getD 0
    let top := ways.foldl (fun m w => Nat.max m (r w)) 0
    (ways.find? fun w => r w == top).map fun w => (w, 7 - top)

/-- An aged RRPV. -/
def age (r : Fin 8) (n : Nat) : Fin 8 := if h : r.val + n < 8 then ⟨r.val + n, h⟩ else 7

/-- A hit's RRPV (13 R358). -/
def hitRrpv (r d : Fin 8) : Fin 8 := if d.val < r.val then d else r

/-- The sectors of a line that n bytes from a physical address up touch, as a mask (13 Table 13.1). -/
def sectorMask (line pa n : Nat) : BitVec 4 :=
  BitVec.ofFnLE fun k : Fin 4 => decide (pa < 256 * line + 64 * k.val + 64 ∧ 256 * line + 64 * k.val < pa + n)

/-- Every sector of a line. -/
def allSectors : BitVec 4 := 0xF

/-- Whether a granule lies in one of some sectors of a line. -/
def inSectors (line : Nat) (m : BitVec 4) (gr : Nat) : Bool := gr / 8 == line && m.getLsbD (gr % 8 / 2)

/-- The write-back of a line's dirty sectors from L2 to device memory: the bytes of a granule that are dirty there, where it is poisoned
and not wholly dirty, are lost, charged to the line's last writer (15 R400, Table 15.2). -/
def State.writeBack (s : State) (line writer : Nat) (dirty : BitVec 4) : State :=
  let hit := fun e : Poisoned => inSectors line dirty e.granule && e.l2 != 0
  { s with poison := s.poison.map (fun e => if hit e then { e with l2 := 0 } else e),
           notices := s.notices ++ (s.poison.filter hit).map fun e =>
             .error .deferred (.hbm (s.channelOf line)) (32 * e.granule) 1 writer }

/-- The home slice of a line (13 R356). -/
def homeSlice (line : Nat) : Fin 192 := ⟨line % 192, Nat.mod_lt _ (by decide)⟩

/-- The set of a line in its slice (13 R356). -/
def l2Set (line : Nat) : Nat := line / 192 % 1024

/-- The lines of a set of a slice. -/
def State.setLines (s : State) (sl : Fin 192) (line : Nat) : List L2Line :=
  s.l2.filter fun l => l.slice == sl && l2Set l.line == l2Set line

/-- The spill-locked ways of a set of a slice (13 R367). -/
def State.lockedWays (s : State) (sl : Fin 192) (set : Nat) : List (Fin 16) :=
  (s.spillLocks.filter fun k => k.slice == sl && k.set.val == set).map (·.way)

/-- Placing a line into its set of a slice, its victim written back: neither a spill-locked way nor that of a protected line
is eligible (13 R359). -/
def State.insertL2 (s : State) (l : L2Line) : State :=
  let ls := s.setLines l.slice l.line
  let locked := s.lockedWays l.slice (l2Set l.line)
  match pickWay (ls.map fun x => (x.way, x.rrpv)) ((ls.filter (·.guarded)).map (·.way) ++ locked) with
  | none => s
  | some (w, n) =>
    let inSet := fun x : L2Line => x.slice == l.slice && l2Set x.line == l2Set l.line
    let victim := s.l2.find? fun x => inSet x && x.way == w
    let aged := (s.l2.filter fun x => !(inSet x && x.way == w)).map fun x =>
      if inSet x && !x.guarded then { x with rrpv := age x.rrpv n } else x
    let s1 := { s with l2 := aged ++ [{ l with way := w }],
                       forwards := match victim with
                         | some v => s.forwards.filter fun f => f.1 != v.line
                         | none => s.forwards }
    match victim with
    | some v => s1.writeBack v.line v.writer v.dirty
    | none => s1

/-- The tracker after a hit by core g in slice sl (13 R360). -/
def trackHit (t : Option (CoreNo × Nat)) (g : CoreNo) (sl : Fin 192) : Option (CoreNo × Nat) :=
  if sl = g then t.map fun e => (e.1, 0)
  else match t with
    | some (h, n) => if h = g then some (h, Nat.min 4 (n + 1)) else some (g, 1)
    | none => some (g, 1)

/-- Whether the line holds the target of a pending update of an open window, so that it does not migrate (13 R361). -/
def State.windowLine (s : State) (line : Nat) : Bool :=
  s.tasks.any fun t => t.windows.any fun w => w.updates.any fun u => u.pa / 256 == line

/-- Migration of a line whose tracker has reached 4 (13 R360, R361). -/
def State.migrate (s : State) (l : L2Line) : State :=
  match l.tracker with
  | some (g, 4) =>
    let home := homeSlice l.line
    let others := s.forwards.filter fun f => f.1 != l.line
    let full := decide (4096 ≤ (others.filter fun f => homeSlice f.1 == home).length)
    if l.pin.isSome || s.windowLine l.line || (g != home && full) then s
    else
      let s1 := { s with l2 := s.l2.filter (fun x => x.line != l.line),
                         forwards := if g = home then others else others ++ [(l.line, g)] }
      s1.insertL2 { l with slice := g, tracker := none }
  | _ => s

/-- The pin that an access of core g gives a line: at most 8 lines of a set are protected; a line pinned in excess of them is
protected at the next access of the instance that pinned it, if a place is free then (13 R363, R365). -/
def State.pinLine (s : State) (g : Option CoreNo) (l : L2Line) (pin : Option (CoreNo × Fin 8 × Nat)) : L2Line :=
  let ls := s.setLines l.slice l.line
  let room := decide ((ls.filter fun x : L2Line => x.guarded && x.line != l.line).length < 8)
  match l.pin with
  | some t => if g = some t.1 && room then { l with guarded := true } else l
  | none => match pin with
    | some t => { l with pin := some t, guarded := room }
    | none => l

/-- An access to sectors of a line of L2 with reuse distance d, by a core, or by an agent that is none: a hit, or a fill at the
line's home slice (13 R358-R363). A missing sector of a line that is there is fetched into it (LOG 78). -/
def State.touchL2 (s : State) (g : Option CoreNo) (line : Nat) (mask : BitVec 4) (d : Fin 8) (write : Bool) (ctx : Nat)
    (pin : Option (CoreNo × Fin 8 × Nat)) : State :=
  match s.l2.find? fun l => l.line == line with
  | some l =>
    let l1 := s.pinLine g { l with
      rrpv := hitRrpv l.rrpv d, valid := l.valid ||| mask, dirty := if write then l.dirty ||| mask else l.dirty,
      writer := if write then ctx else l.writer,
      tracker := match g with
        | some g => trackHit l.tracker g l.slice
        | none => l.tracker } pin
    ({ s with l2 := s.l2.map fun x : L2Line => if x.line == line then l1 else x }).migrate l1
  | none =>
    let l : L2Line := ⟨homeSlice line, line, 0, d, mask, if write then mask else 0, if write then ctx else 0xFFFF, none, none, false⟩
    s.insertL2 (s.pinLine g l pin)

/-- Dirty sectors of a line go from an L1D to L2, with the bytes of poisoned granules that are dirty in them (13 R357, 15 R400). -/
def State.drainL1 (s : State) (g : CoreNo) (line : Nat) (out : BitVec 4) (writer : Nat) : State :=
  ({ s with poison := s.poison.map fun e : Poisoned =>
      if inSectors line out e.granule then { e with l2 := e.l2 ||| e.l1, l1 := 0 } else e }).touchL2 (some g) line out 7 true writer none

/-- The copies of a line in the L1Ds of other cores leave them, dirty sectors for L2 (14 R370). -/
def State.recallL1 (s : State) (keep : Option CoreNo) (line : Nat) : State :=
  let out := fun x : L1Line => x.line == line && keep != some x.core
  let s1 := (s.l1.filter fun x => out x && x.dirty != 0).foldl
    (fun s x => s.drainL1 x.core line x.dirty x.writer) s
  { s1 with l1 := s1.l1.filter fun x => !out x }

/-- An access that passes the L1Ds by: a write takes the line out of them first. -/
def State.accessL2 (s : State) (g : Option CoreNo) (line : Nat) (mask : BitVec 4) (d : Fin 8) (write : Bool) (ctx : Nat)
    (pin : Option (CoreNo × Fin 8 × Nat)) : State :=
  (if write then s.recallL1 none line else s).touchL2 g line mask d write ctx pin

/-- An access of the SCU or the VE of core g through its L1D (13 R357-R359). -/
def State.touchL1 (s : State) (g : CoreNo) (line : Nat) (mask : BitVec 4) (d : Fin 8) (write : Bool) (ctx : Nat)
    (pin : Option (CoreNo × Fin 8 × Nat)) : State :=
  let mine := fun x : L1Line => x.core == g && x.line == line
  let s0 := if write then s.recallL1 (some g) line else s
  match s0.l1.find? mine with
  | some l =>
    let missing := mask &&& ~~~l.valid
    let s1 := if missing = 0 then s0 else s0.touchL2 (some g) line missing d false ctx pin
    { s1 with l1 := s1.l1.map fun x =>
        if mine x then { x with rrpv := hitRrpv x.rrpv d, valid := x.valid ||| mask, dirty := if write then x.dirty ||| mask else x.dirty,
                                writer := if write then ctx else x.writer } else x }
  | none =>
    let s1 := s0.touchL2 (some g) line mask d false ctx pin
    let inSet := fun x : L1Line => x.core == g && x.line % 256 == line % 256
    match pickWay ((s1.l1.filter inSet).map fun x => (x.way, x.rrpv)) [] with
    | none => s1
    | some (w, n) =>
      let victim := s1.l1.find? fun x => inSet x && x.way == w
      let rest := (s1.l1.filter fun x => !(inSet x && x.way == w)).map fun x =>
        if inSet x then { x with rrpv := age x.rrpv n } else x
      let s2 := { s1 with l1 := rest ++ [⟨g, line, w, d, mask, if write then mask else 0, if write then ctx else 0xFFFF⟩] }
      match victim with
      | some v => if v.dirty = 0 then s2 else s2.drainL1 g v.line v.dirty v.writer
      | none => s2

/-- The lines that the walk for an access reads through L2 (16 R416), when no cached translation answers; the reuse distance
of a walk is open (LOG 12). -/
def State.noteWalk (s : State) (g : Option CoreNo) (ctx va : Nat) : State :=
  match s.roots.lookup ctx with
  | some root => if 2 ^ 48 ≤ va ∨ (g.bind fun g => s.used g ctx va).isSome then s else (s.walkTrail va pageLevels root).foldl (fun s a =>
      s.touchL2 g (a / 256) (sectorMask (a / 256) a 8) (Fin.ofNat 8 (Config.freeWord s.tick 4).toNat) false 0xFFFF none) s
  | none => s

/-- The lines that the walk of an access that failed its translation has read (16 R416). -/
def State.noteFailed (s : State) (g : CoreNo) (ctx : Nat) (c : Cause) (va : Nat) : State :=
  if c = .pageR ∨ c = .pageW ∨ c = .prot then s.noteWalk (some g) ctx va else s

/-- The translation an access used is held in the core's TLB and in its die's cache, the oldest entry leaving a full one
(16 R416; which entry leaves is open, and no value depends on it: LOG 12). -/
def State.fillTlb (s : State) (g : CoreNo) (ctx va : Nat) : State :=
  match s.lookup (some g) ctx va with
  | none => s
  | some e =>
    let d : Fin 8 := ⟨g.val / 24, by omega⟩
    let keep := fun n (l : List TlbEntry) => if l.contains e then l else (l ++ [e]).drop ((l.length + 1) - n)
    let s1 := s.noteWalk (some g) ctx va
    { s1 with cores := s1.cores.set g { s1.cores[g] with tlb := keep 256 s1.cores[g].tlb },
              dieTlb := s1.dieTlb.set d (keep 16384 s1.dieTlb[d]) }

/-- The granules that a write covers only in part. -/
def partGranules (pa n : Nat) : List Nat :=
  ([pa / 32, (pa + n - 1) / 32].filter fun gr => decide (32 * gr < pa ∨ pa + n < 32 * gr + 32)).eraseDups

/-- A write of the command processor, of the host or of another module at a physical address: it passes L2, which takes the lines
that it holds, or whose granules are poisoned in HBM (15 R397, R400; LOG 61). -/
def State.agentWrite (s : State) (ctx pa : Nat) (bs : List Byte) : State :=
  let bad := s.poison
  let lines := (List.range ((pa + bs.length - 1) / 256 - pa / 256 + 1)).map (pa / 256 + ·)
  let held := fun (s : State) l => s.l2.any (fun x => x.line == l) || s.l1.any (fun x => x.line == l) || bad.any fun e => e.granule / 8 == l
  if bs.isEmpty then s
  else lines.foldl (fun s l =>
    if held s l then s.accessL2 none l (sectorMask l pa bs.length) (Fin.ofNat 8 (Config.freeWord s.tick 4).toNat) true ctx none else s)
    { s.physWrite pa bs with
      partials := ((partGranules pa bs.length).filter fun gr => !held s (gr / 8)).map fun gr => (gr, ctx) }

/-- The writes of one run after another: those of a core, which notes its caches itself, or those of another agent. -/
def State.writeRuns (s : State) (g : Option CoreNo) (ctx : Nat) : List (Nat × Nat) → List Byte → State
  | [], _ => s
  | (pa, n) :: rest, bs =>
    (if g.isSome then s.physWrite pa (bs.take n) else s.agentWrite ctx pa (bs.take n)).writeRuns g ctx rest (bs.drop n)

/-- A write of bytes at a virtual address: no byte is written when some byte faults. -/
def State.writeV (s : State) (g : Option CoreNo) (ctx va : Nat) (bs : List Byte) : Except MemFault State :=
  match s.runs g ctx .write (pieces va bs.length) with
  | .error f => .error f
  | .ok l => .ok (s.writeRuns g ctx l bs)

end Sys2Proof.Machine
end

