-- ==== Sys2Proof/Machine/Ops.lean ====
section
/-! DEFINITION. The named operations of the machine: cores and streams, queues and tokens (05), issue and retirement
(02 R491, 04 R123-R126, 16 R435), taking a trap and returning from one (16 R420-R427), and killing a task (03 R104). -/

namespace Sys2Proof.Machine

open Host

/-- How a step of an instruction ends without its effect: a trap by a check that waits for nothing, a trap by a check on what
the instruction pops (02 R491), the trap of a q2 write (14 R383), or a stall (04 R138: a stall changes no state). -/
inductive Stop
  | trap (c : Cause) (tval : Word)
  | late (c : Cause) (tval : Word)
  | q2 (c : Cause) (tval : Word)
  | wait
  deriving DecidableEq, Repr

/-- A result, or why there is none yet. -/
abbrev Res := Except Stop

/-- A trap whose TVAL is a number. -/
def trapN {α : Type} (c : Cause) (n : Nat) : Res α := .error (.trap c (BitVec.ofNat 64 n))

/-- Checks that follow a pop. -/
def asLate {α : Type} (late : Bool) (r : Res α) : Res α :=
  match r with
  | .error (.trap c v) => if late then .error (.late c v) else .error (.trap c v)
  | x => x

/-- The traps of a q2 write. -/
def asQ2 {α : Type} (r : Res α) : Res α :=
  match r with
  | .error (.trap c v) => .error (.q2 c v)
  | .error (.late c v) => .error (.q2 c v)
  | x => x

/-- Goes on only when a condition for issue holds. -/
def need (b : Bool) : Res Unit := if b then .ok () else .error .wait

/-- Goes on only when a check holds. -/
def check (b : Bool) (c : Cause) (tval : Word) : Res Unit := if b then .ok () else .error (.trap c tval)

-- Records (19 R477).

/-- Which of the two copies of a record is in force: the good one with the higher version; none when neither is good. -/
def inForce (r : Vector RecordCopy 2) : Option (Fin 2) :=
  if r[0].good && (!r[1].good || decide (r[1].version ≤ r[0].version)) then some 0 else if r[1].good then some 1 else none

/-- The record of a type that is in force. -/
def Flash.record (f : Flash) (k : Fin 6) : Option RecordCopy := (inForce f.records[k]).map fun n => f.records[k][n]

/-- The copy of a record that a write replaces: the one that is not in force. -/
def olderCopy (r : Vector RecordCopy 2) : Fin 2 := if inForce r = some 0 then 1 else 0

/-- A record of a type is written: with a version above the one in force, in place of the older copy; a write that power loss interrupts
leaves that copy bad. -/
def Flash.write (f : Flash) (k : Fin 6) (body : List Nat) (whole : Bool) : Flash :=
  let c : RecordCopy := ⟨((f.record k).elim 0 (·.version)) + 1, body, whole⟩
  { f with records := f.records.set k (f.records[k].set (olderCopy f.records[k]) c) }

/-- The half of a link's lanes in use at rung 1, as a number. -/
def halfCode : Option Bool → Nat
  | none => 0
  | some h => if h then 2 else 1

/-- The rungs of a record type as the body of the record: those of the cores, of the banks of W, A and C of each core, of the channels,
of the links with the half in use (LOG 7). -/
def State.rungs (s : State) (k : Fin 6) : List Nat :=
  match k with
  | 0 => s.cores.toList.map (·.rung.val)
  | 1 => s.cores.toList.flatMap fun c => (c.bankW.toList ++ c.bankA.toList ++ c.bankC.toList).map (·.val)
  | 2 => s.channels.toList.map (·.val)
  | 3 => s.links.toList.map fun l => l.rung.val + 4 * halfCode l.half
  | _ => ((s.flash.record k).elim [] (·.body))

/-- The record of the rungs of a type is written as they now are. -/
def State.writeRecord (s : State) (k : Fin 6) : State := { s with flash := s.flash.write k (s.rungs k) true }

-- Cores and instances.

/-- The instance-owned state on a core. -/
def State.inst (s : State) (g : CoreNo) : Inst := s.cores[g].inst

/-- A change of one core. -/
def State.modCore (s : State) (g : CoreNo) (f : Core → Core) : State :=
  { s with cores := s.cores.set g (f s.cores[g]) }

/-- A change of the instance-owned state on a core. -/
def State.modInst (s : State) (g : CoreNo) (f : Inst → Inst) : State :=
  s.modCore g fun c => { c with inst := f c.inst }

/-- A tracked task. -/
def State.task (s : State) (id : Nat) : Option Task := s.tasks.find? fun t => t.id == id

/-- The task whose instance is on a core. -/
def State.taskOn (s : State) (g : CoreNo) : Option Task :=
  match s.cores[g].occupant with
  | some o => s.task o.task
  | none => none

/-- The context number of the instance on a core, or of the firmware context while it executes; 0xFFFF is invalid (15 R397). -/
def State.ctxOf (s : State) (g : CoreNo) : Nat :=
  if s.cur.fw then 0
  else match s.taskOn g with
    | some t => t.ctx
    | none => 0xFFFF

/-- A pre-emption request is pending on a core (16 R430). -/
def State.asked (s : State) (g : CoreNo) : Bool := s.cores[g].request.isSome

/-- A change of one task. -/
def State.modTask (s : State) (id : Nat) (f : Task → Task) : State :=
  { s with tasks := s.tasks.map fun t => if t.id == id then f t else t }

/-- The compute die of a core (03 R82). -/
def dieOf (g : CoreNo) : Fin 8 := ⟨g.val / 24, by omega⟩

/-- The core's number within its die (03 R82). -/
def coreOf (g : CoreNo) : Fin 24 := ⟨g.val % 24, Nat.mod_lt _ (by decide)⟩

/-- A sink event clears the watchdog (05 R157). -/
def State.sink (s : State) (g : CoreNo) : State := s.modCore g fun c => { c with watchdog := Config.clock s.tick }

/-- The engine that a source issues for. -/
def Source.engine : Source → Engine
  | .scu => .scu
  | .ve => .ve
  | .me => .me
  | _ => .ce

/-- The stream of an engine. -/
def Inst.stream (i : Inst) : Engine → Stream
  | .scu => i.scu
  | .ve => i.ve
  | .me => i.me
  | .ce => i.ce

/-- A change of the stream of an engine. -/
def Inst.modStream (i : Inst) (e : Engine) (f : Stream → Stream) : Inst :=
  match e with
  | .scu => { i with scu := f i.scu }
  | .ve => { i with ve := f i.ve }
  | .me => { i with me := f i.me }
  | .ce => { i with ce := f i.ce }

/-- The size of an engine's instruction memory (02 R44). -/
def imemSize : Engine → Nat
  | .scu => 65536
  | .ve => 32768
  | .me => 16384
  | .ce => 16384

/-- A word of an instruction memory. -/
def Stream.wordAt (st : Stream) (a : Nat) : Word32 := st.imem.word32 a

-- The trap status register (16 Table 16.7).

/-- TSTAT.HM: the trap handler is running. -/
def Inst.handler (i : Inst) : Bool := i.sys.tstat.getLsbD 7

/-- TSTAT.ENG. -/
def tstatEng (v : Word) : Nat := bits v.toNat 4 3

/-- The value of TSTAT at a delivery. -/
def tstatOf (spc : Nat) (fws : Bool) (src : BitVec 2) (eng : Engine) (sh se ds : Bool) : Word :=
  BitVec.ofNat 64 (spc % 65536 * 65536 + fws.toNat * 512 + 128 + src.toNat * 32 + eng.code * 8 + sh.toNat * 4 + se.toNat * 2 + ds.toNat)

-- Scalar queues (05 Table 5.3).

/-- The queue that a scalar register number names: 48 to 63 are q0 to q15. -/
def queueNo (r : SReg) : Option (Fin 16) := if h : 48 ≤ r.val then some ⟨r.val - 48, by omega⟩ else none

/-- Whether a register number names a queue. -/
def isQueue (r : SReg) : Bool := decide (48 ≤ r.val)

/-- The neighbour of a core behind mesh port q12 (N), q13 (E), q14 (S) or q15 (W) (03 R83, 05 R155). -/
def neighbour (g : CoreNo) (port : Nat) : Option CoreNo :=
  let k := g.val % 24
  if port = 12 then (if 6 ≤ k then some ⟨g.val - 6, by omega⟩ else none)
  else if port = 13 then (if h : k % 6 < 5 ∧ g.val + 1 < 192 then some ⟨g.val + 1, h.2⟩ else none)
  else if port = 14 then (if h : k < 18 ∧ g.val + 6 < 192 then some ⟨g.val + 6, h.2⟩ else none)
  else (if 0 < k % 6 then some ⟨g.val - 1, by omega⟩ else none)

/-- The port of the neighbour that faces this one. -/
def facing (port : Nat) : Fin 16 := if port = 12 then 14 else if port = 13 then 15 else if port = 14 then 12 else 13

/-- Two cores hold instances of one launch (05 R155). -/
def State.sameLaunch (s : State) (g h : CoreNo) : Bool :=
  match s.cores[g].occupant, s.cores[h].occupant with
  | some a, some b => a.task == b.task
  | _, _ => false

/-- The depth of a scalar queue (05 Table 5.3). -/
def queueDepth (q : Nat) : Nat := if q < 4 then 16 else if q < 6 then 4 else if q < 12 then 8 else 4

/-- A read of a register against its queue's direction traps (05 R153, R155). -/
def readCheck (g : CoreNo) (r : SReg) : Res Unit :=
  match queueNo r with
  | none => .ok ()
  | some q =>
    let bad := q = 6 ∨ q = 8 ∨ q = 10 ∨ (12 ≤ q.val ∧ (neighbour g q).isNone)
    if bad then trapN .queueProtocol r.val else .ok ()

/-- A write of a register against its queue's direction traps (05 R153, R155). -/
def writeCheck (g : CoreNo) (r : SReg) : Res Unit :=
  match queueNo r with
  | none => .ok ()
  | some q =>
    let bad := q = 7 ∨ q = 9 ∨ q = 11 ∨ (12 ≤ q.val ∧ (neighbour g q).isNone)
    if bad then trapN .queueProtocol r.val else .ok ()

/-- A mesh port works only while its neighbour holds an instance of the same launch (05 R155). -/
def State.portOpen (s : State) (g : CoreNo) (q : Fin 16) : Bool :=
  if q.val < 12 then true
  else match neighbour g q with
    | some h => s.sameLaunch g h
    | none => false

/-- Whether a source register can be read now (05 R151). -/
def State.readable (s : State) (g : CoreNo) (r : SReg) : Bool :=
  match queueNo r with
  | none => true
  | some q => (if q = 2 then !(s.inst g).q2r.isEmpty else !(s.inst g).qr[q].isEmpty) && s.portOpen g q

/-- The value of a source register: s0 reads 0, a queue its oldest entry (04 R108, R109). -/
def State.readS (s : State) (g : CoreNo) (r : SReg) : Word :=
  match queueNo r with
  | none => if h : 0 < r.val ∧ r.val < 48 then (s.inst g).s[r.val] else 0
  | some q => if q = 2 then ((s.inst g).q2r.head?.map (·.value)).getD 0 else ((s.inst g).qr[q].headD 0)

/-- The pop of a q2 result whose target proved poisoned, or unreachable, traps (14 R382; LOG 75). -/
def State.popPoison (s : State) (g : CoreNo) (r : SReg) : Res Unit :=
  if r.val = 50 then
    match (s.inst g).q2r.head? with
    | some ⟨_, some (c, a)⟩ => .error (.late c a)
    | _ => .ok ()
  else .ok ()

/-- The STATUS words of completed collectives enter the read side of q3 in issue order, as far as there are places (18 R472). -/
def Inst.flushQ3 (i : Inst) : Nat → Inst
  | 0 => i
  | n + 1 => match i.q3Order with
    | (_, some v) :: rest =>
      if i.qr[3].length < 16 then { i with qr := i.qr.set 3 (i.qr[3] ++ [v]), q3Order := rest }.flushQ3 n else i
    | _ => i

/-- The pop of the queue that a register names, if it names one. A record of q0, q1 or q3 that was held for want of a place
takes it (12 R346, R347, 18 R472). -/
def Inst.popQ (i : Inst) (r : SReg) : Inst :=
  match queueNo r with
  | none => i
  | some q =>
    if q = 0 then { i with qr := i.qr.set 0 (i.qr[0].tail ++ i.q0Held.take 1), q0Held := i.q0Held.drop 1 }
    else if q = 1 then { i with qr := i.qr.set 1 (i.qr[1].tail ++ i.q1Held.take 1), q1Held := i.q1Held.drop 1 }
    else if q = 2 then { i with q2r := i.q2r.tail }
    else if q = 3 then { i with qr := i.qr.set 3 i.qr[3].tail }.flushQ3 1
    else { i with qr := i.qr.set q i.qr[q].tail }

/-- The pops of an instruction's sources: each distinct queue once (05 R152), a sink event each (05 R157). -/
def State.popAll (s : State) (g : CoreNo) (rs : List SReg) : State :=
  let qs := rs.eraseDups.filter isQueue
  if qs.isEmpty then s else (s.modInst g fun i => qs.foldl Inst.popQ i).sink g

/-- What a popped source returned, to give back when the instruction is undone (04 R121). -/
def State.popped (s : State) (g : CoreNo) (rs : List SReg) : List (SReg × Word) :=
  (rs.eraseDups.filter isQueue).map fun r => (r, s.readS g r)

/-- A popped entry back at the head of its queue (05 R151); the queue may hold one entry more than its depth for it, when a
record that was held, or a push of a neighbour, has taken its place meanwhile (LOG 40). -/
def Inst.unpopQ (i : Inst) (e : SReg × Word) : Inst :=
  match queueNo e.1 with
  | none => i
  | some q => if q = 2 then { i with q2r := ⟨e.2, none⟩ :: i.q2r } else { i with qr := i.qr.set q (e.2 :: i.qr[q]) }

/-- Whether the queue that a destination names has a free place (05 R151, R155). -/
def State.hasRoom (s : State) (g : CoreNo) (r : SReg) : Bool :=
  match queueNo r with
  | none => true
  | some q =>
    if q = 2 then (s.inst g).asm.pos != 2 || decide ((s.inst g).q2w.length < 5)
    else if q.val < 12 then decide ((s.inst g).qw[q].length < queueDepth q) || (q = 7 ∨ q = 9 ∨ q = 11)
    else match neighbour g q with
      | some h => s.sameLaunch g h && decide ((s.inst h).qr[facing q].length < 4)
      | none => false

-- Token FIFOs (05 R142-R145).

/-- The FIFO pushed by engine x and popped by engine y, at 4x + y. -/
def fifo (x y : Engine) : Fin 16 := ⟨x.code * 4 + y.code, by cases x <;> cases y <;> decide⟩

/-- The default inbound FIFO of an engine (02 Table 2.1). -/
def defaultIn : Engine → Fin 16
  | .ce => fifo .ve .ce
  | .me => fifo .ce .me
  | _ => fifo .me .ve

/-- The default outbound FIFO of an engine (02 Table 2.1). -/
def defaultOut : Engine → Fin 16
  | .ce => fifo .ce .me
  | .me => fifo .me .ve
  | _ => fifo .ve .ce

/-- How often a FIFO stands in a list. -/
def times (l : List (Fin 16)) (f : Fin 16) : Nat := (l.filter (· == f)).length

/-- All tokens to pop are there and every token to push has a free place (05 R143, 02 R49). -/
def Inst.tokensReady (i : Inst) (pops pushes : List (Fin 16)) : Bool :=
  pops.all (fun f => decide (times pops f ≤ i.tokens[f])) && pushes.all (fun f => decide (i.tokens[f] + times pushes f ≤ 8))

/-- The pops and pushes of tokens. -/
def Inst.moveTokens (i : Inst) (pops pushes : List (Fin 16)) : Inst :=
  let t1 := pops.foldl (fun (t : Vector Nat 16) (f : Fin 16) => t.set f (t[f] - 1)) i.tokens
  { i with tokens := pushes.foldl (fun (t : Vector Nat 16) (f : Fin 16) => t.set f (t[f] + 1)) t1 }

-- Segments (16 R434-R436).

/-- One bit of CRC-16 with polynomial 0x1021, most significant bit first. -/
def crcBit (c : BitVec 16) (b : Bool) : BitVec 16 :=
  let top := c.getMsbD 0
  let s := c <<< 1
  if top != b then s ^^^ 0x1021 else s

/-- One byte, most significant bit first. -/
def crcByte (c : BitVec 16) (b : Byte) : BitVec 16 := (List.range 8).foldl (fun c k => crcBit c (b.getMsbD k)) c

/-- One word, least significant byte first. -/
def crcWord (c : BitVec 16) (w : Word32) : BitVec 16 := (leBytes 4 w.toNat).foldl crcByte c

/-- An instruction counted into a segment: the count saturates (16 R435). -/
def Segment.add (sg : Segment) (w : Word32) : Segment :=
  { sg with count := if sg.count = BitVec.allOnes 24 then sg.count else sg.count + 1, sig := crcWord sg.sig w }

/-- An instruction counted into the stream's open segment, if any. -/
def Stream.count (st : Stream) (w : Word32) : Stream := { st with seg := st.seg.map fun sg => sg.add w }

/-- Whether closing the stream's segment finds a mismatch (16 R436). -/
def Stream.mismatch (st : Stream) : Bool :=
  match st.seg with
  | some sg => sg.cnt != 0 && (sg.count != sg.cnt || sg.sig != sg.crc)
  | none => false

-- Loops (04 R123-R126).

/-- The check made when the word at an address retires without a control transfer: where the stream goes on, and the loops
then active. -/
def loopBack (addr next : Nat) : List LoopFrame → Nat × List LoopFrame
  | [] => (next, [])
  | f :: rest =>
    if f.last = addr then
      if 1 < f.left.toNat then (f.start, { f with left := f.left - 1 } :: rest) else loopBack addr next rest
    else (next, f :: rest)

/-- The loops left when control transfers to a target (04 R125). -/
def abandon (target : Nat) : List LoopFrame → List LoopFrame
  | [] => []
  | f :: rest => if f.start ≤ target ∧ target ≤ f.last then f :: rest else abandon target rest

/-- Retirement of the word at an address: the loops, then the PC. -/
def Stream.advance (st : Stream) (addr next : Nat) : Stream :=
  let r := loopBack addr next st.loops
  { st with pc := r.1, loops := r.2, held := false }

-- Traps (16 R420-R427).

/-- Cause codes (16 Table 16.9). -/
def Cause.code : Cause → Nat
  | .illegal => 0x01
  | .dsIllegal => 0x02
  | .priv => 0x03
  | .misalign => 0x04
  | .pageR => 0x05
  | .pageW => 0x06
  | .prot => 0x07
  | .mxcap => 0x08
  | .rankovf => 0x09
  | .slotexh => 0x0A
  | .fpx => 0x0B
  | .arrivalOverrun => 0x0C
  | .streamCfg => 0x0D
  | .decode => 0x0E
  | .poison => 0x0F
  | .segMismatch => 0x10
  | .queueProtocol => 0x11
  | .bufferRange => 0x12
  | .user => 0x13

/-- Who takes a cause first (16 Table 16.9). -/
def Cause.route : Cause → Route
  | .pageR | .pageW | .poison => .firmware
  | .segMismatch => .segment
  | _ => .user

/-- The write-back of a core's L1D to L2 when its instance leaves it (13 R357). -/
def State.flushL1 (s : State) (g : CoreNo) : State :=
  let mine := s.l1.filter fun l => l.core == g
  let s1 := mine.foldl (fun s l => if l.dirty = 0 then s else s.drainL1 g l.line l.dirty l.writer) s
  { s1 with l1 := s1.l1.filter fun l => l.core != g }

/-- What stands on a core when its instance has left it: tile rows, claims, queues, copies and streams are gone, and the registers
stand as they were, since no rule clears them then (03 R103; LOG 99). -/
def Inst.left (i : Inst) : Inst :=
  { Inst.reset with s := i.s, v := i.v, k := i.k, flags := i.flags, trapMask := i.trapMask, c := i.c, z := i.z, a := i.a, sys := i.sys }

/-- The core is free (03 R103). A core that was to leave service leaves it now (03 R105). -/
def State.vacate (s : State) (g : CoreNo) : State :=
  let s1 := s.modCore g fun c => { c with
    occupant := none, inst := c.inst.left, request := none, keeping := false, replyOwed := false,
    inService := c.inService && !c.leaving, leaving := false }
  { s1.flushL1 g with
    l2 := (s1.flushL1 g).l2.map fun l => match l.pin with
      | some (h, _, _) => if h = g then { l with pin := none, guarded := false } else l
      | none => l }

/-- A core's shadow bank and place lose what belongs to a task; a core that was to leave service leaves it then. -/
def Core.drop (c : Core) (id : Nat) : Core :=
  let mine := c.piece.any fun p => p.task == id
  { c with shadow := c.shadow.filter (fun o => o.task != id),
           piece := if mine then none else c.piece,
           inService := c.inService && !(mine && c.leaving), leaving := c.leaving && !mine }

/-- A killed task: every placed instance stops, none is placed, its windows are abandoned, and it is done with an error
(03 R104, 14 R388). -/
def State.killTask (s : State) (id detail : Nat) : State :=
  let held := (List.finRange 192).filter fun g => match s.cores[g].occupant with
    | some o => o.task == id
    | none => false
  let s1 := held.foldl State.vacate s
  let s2 := { s1 with
    cores := s1.cores.map fun c : Core => c.drop id,
    saved := s1.saved.filter fun x => x.task != id,
    checkpoints := s1.checkpoints.filter fun x => x.task != id }
  s2.modTask id fun t => { t with phase := .done 1 detail, windows := [] }

/-- The instance on a core is killed with its task; a core without a task is only stopped. -/
def State.killOn (s : State) (g : CoreNo) (detail : Nat) : State :=
  match s.cores[g].occupant with
  | some o => s.killTask o.task detail
  | none => s.vacate g

/-- A waiting wmon is withdrawn: it issues again later (04 R131). -/
def Inst.dropWmon (i : Inst) : Inst :=
  match i.wmon with
  | some w => w.popped.foldl Inst.unpopQ { i with wmon := none }
  | none => i

/-- A branch that awaits its slot is withdrawn (04 R121). -/
def Inst.dropSlot (i : Inst) : Inst :=
  match i.slot with
  | some b => b.popped.foldl Inst.unpopQ { i with slot := none, scu := { i.scu with pc := b.pc } }
  | none => i

/-- The lanes' sticky flags and the trap lane mask of an FPX trap that is delivered (01 R32). -/
def Inst.markLanes (i : Inst) (m : Option FpxMark) : Inst :=
  match m with
  | some x => { i with flags := Vector.ofFn fun l : Fin 512 => i.flags[l] ||| x.flags[l], trapMask := x.mask }
  | none => i

/-- Delivery of a trap to the user handler (16 R424, steps 3 and 4); `asked` says that a request is pending. SPC for a trap of the
SCU itself is left open: a free value (LOG 16). -/
def Inst.deliver (i : Inst) (p : Pending) (asked : Bool) (free : Word) : Inst :=
  let waited := i.wmon.map (·.pc)
  let i1 := i.dropWmon.markLanes p.fpx
  let spc := match p.eng with
    | .scu => free.toNat
    | _ => waited.getD i1.scu.pc
  let other := p.eng != .scu
  let tstat := tstatOf spc p.served p.ceSrc p.eng (other && asked && i1.scu.held) (other && i1.scu.ended) p.ds
  { i1 with
    pending := none
    trapCopy := p.copy
    trapQ2 := p.q2
    asmAside := some i1.asm
    asm := ⟨0, 0, 0⟩
    scu := { i1.scu with pc := bits i1.sys.tvec.toNat 15 2 * 4, ended := false }
    sys := { i1.sys with tcause := BitVec.ofNat 64 p.cause.code, tpc := BitVec.ofNat 64 (p.tpc % 65536), tval := p.tval,
                         tstat := tstat } }

/-- A trap is delivered, or is unhandled and kills the task (16 R422, R426). -/
def State.deliver (s : State) (g : CoreNo) (p : Pending) : State :=
  let i := s.inst g
  if i.sys.tvec.getLsbD 0 && !i.handler then s.modInst g fun i => i.deliver p (s.asked g) (Config.freeWord s.tick 0)
  else s.killOn g p.cause.code

/-- Every stream stands at its boundary: no slot to execute, no Hollyhock instruction in flight, no word of the VE or the ME in part
performed (11 R307). -/
def Inst.boundary (i : Inst) : Bool :=
  i.slot.isNone && i.hollyhock.isNone && i.doneVe == .none && i.doneMe.isEmpty

/-- A segment mismatch is taken: SEGCNT and SEGSIG are written (16 R436). -/
def Inst.takeSegment (i : Inst) (p : Pending) : Inst :=
  { i with pending := some { p with served := true, seg := none },
           sys := match p.seg with
             | some v => { i.sys with segcnt := v.1, segsig := v.2 }
             | none => i.sys }

/-- A trap is raised on a core. The trap of the oldest instruction stands, unless one has been taken (16 R427). A user cause is
delivered, and a segment mismatch taken, at once when the other streams stand at their boundaries; otherwise, like a firmware-first
cause, it stays pending. A user cause in the handler is unhandled; one that firmware takes first goes to firmware there too
(16 R422, R426). -/
def State.raiseOn (s : State) (g : CoreNo) (p : Pending) : State :=
  let i := s.inst g
  let p1 := match i.pending with
    | some q => if p.stamp < q.stamp && !q.served then p else q
    | none => p
  if i.handler ∧ p.route = .user then s.killOn g p.cause.code
  else if p1.route = .user ∧ i.boundary then s.deliver g p1
  else if p1.route = .segment ∧ i.boundary ∧ !p1.served then s.modInst g fun i => i.takeSegment p1
  else s.modInst g fun i => { i with pending := some p1 }

/-- TPC of a trap of the executing word (16 Table 16.5): its address; after a trap word the next one; the SEQ of a command
of q0 or q1. For q3 the spec names no value: it is free (LOG 16). -/
def State.tpcOf (s : State) (c : Cause) : Nat :=
  let i := s.inst s.cur.core
  match s.cur.src with
  | .scu => if c = .user then s.cur.pc + 4 else s.cur.pc
  | .q0 => i.q0Seq.toNat
  | .q1 => i.q1Seq.toNat
  | .q3 => (Config.freeWord s.tick 1).toNat % 65536
  | _ => s.cur.pc

/-- TSTAT.SRC of a source (16 Table 16.7). For q3 the spec names no value: it is free (LOG 16). -/
def State.srcCode (s : State) : Source → BitVec 2
  | .q0 => 1
  | .helper => 2
  | .q1 => 3
  | .q3 => BitVec.ofNat 2 (Config.freeWord s.tick 2).toNat
  | _ => 0

/-- A trap of the firmware context of a core is taken to its own trap state (00 R7, 11 R309). -/
def State.fwTrap (s : State) (g : CoreNo) (code : Nat) (tval : Word) : State :=
  s.modCore g fun c => { c with fw := { c.fw with cause := code, tval := tval } }

/-- The executing word traps; the walk of an access that failed has read its tables (16 R416). A trap in a delay slot undoes the
branch (04 R121). `q2` says that a q2 write traps, `seg` what a mismatch gives SEGCNT and SEGSIG, `fpx` what an FPX trap leaves. -/
def State.raiseAs (s : State) (c : Cause) (tval : Word) (q2 : Bool) (seg : Option (Word × Word)) (fpx : Option FpxMark := none) : State :=
  let g := s.cur.core
  let i := s.inst g
  let slot := match s.cur.src with
    | .scu => i.slot
    | _ => none
  let tpc := match slot with
    | some b => b.pc
    | none => s.tpcOf c
  let p : Pending := ⟨c, tval, tpc, s.cur.src.engine, s.srcCode s.cur.src, slot.isSome, s.cur.stamp, c.route, false, none, seg, q2, fpx⟩
  let walked := if s.cur.src = .scu ∨ s.cur.src = .ve then s.noteFailed g (s.ctxOf g) c tval.toNat else s
  let s1 := if s.cur.src = .scu then walked.modInst g Inst.dropSlot else walked
  if s.cur.fw then walked.fwTrap g c.code tval else s1.raiseOn g p

/-- The executing word traps. -/
def State.raise (s : State) (c : Cause) (tval : Word) : State := s.raiseAs c tval false none

/-- A segment mismatch: firmware takes it, with SEGCNT and SEGSIG written (16 R436, R437). -/
def State.raiseSegment (s : State) (st : Stream) : State :=
  match st.seg with
  | none => s
  | some sg => s.raiseAs .segMismatch (BitVec.ofNat 64 (sg.crc.toNat * 2 ^ 32 + sg.cnt.toNat)) false
      (some (BitVec.ofNat 64 (2 ^ 31 + s.cur.src.engine.code * 2 ^ 24 + sg.count.toNat), BitVec.ofNat 64 sg.sig.toNat))

/-- How an instruction ends: its effect, its trap, or a stall that changes nothing. -/
def settle (s : State) (r : Res State) : Outcome State Fault Refusal :=
  match r with
  | .ok t => .next t
  | .error (.trap c v) => .next (s.raise c v)
  | .error (.late c v) => .next (s.raise c v)
  | .error (.q2 c v) => .next (s.raiseAs c v true none)
  | .error .wait => .next s

-- Retirement.

/-- The length of the executing instruction in bytes (16 R425). -/
def State.len (s : State) : Nat := if isSegWord s.cur.src.engine s.cur.word.toNat then 8 else 4

/-- Writes a plain scalar register; s0 discards (04 R108). -/
def Inst.writeReg (i : Inst) (r : SReg) (v : Word) : Inst :=
  if h : 0 < r.val ∧ r.val < 48 then { i with s := i.s.set r.val v } else i

/-- The executing word is one of the user handler; the firmware context has no handler of its own (04 R126, R139). -/
def Inst.inHandler (i : Inst) (cur : Cur) : Bool := i.handler && !cur.fw

/-- Retirement of the executing SCU word: the slot of a branch completes the branch (04 R118, R125); in the handler no loop
goes back and nothing is counted (04 R126, 16 R435). -/
def Inst.retireScu (i : Inst) (cur : Cur) (len : Nat) : Inst :=
  let h := i.inHandler cur
  match i.slot with
  | some b =>
    let st := if h then i.scu else (i.scu.count b.word).count cur.word
    let st1 :=
      if b.taken then { st with pc := b.target, loops := if h then st.loops else abandon b.target st.loops }
      else if h then { st with pc := b.pc + 8 } else st.advance cur.pc (b.pc + 8)
    let i1 := { i with scu := st1, slot := none }
    match b.link with
    | some (r, v) => i1.writeReg r v
    | none => i1
  | none =>
    if h then { i with scu := { i.scu with pc := cur.pc + len } }
    else { i with scu := (i.scu.count cur.word).advance cur.pc (cur.pc + len) }

/-- Retirement of the executing word of a VE or CE stream. -/
def Inst.retireStream (i : Inst) (e : Engine) (cur : Cur) (len : Nat) : Inst :=
  i.modStream e fun st => (st.count cur.word).advance cur.pc (cur.pc + len)

end Sys2Proof.Machine
end

