-- ==== Sys2Proof/Machine/Operands.lean ====
section
/-! DEFINITION. The operand forms of the scalar stream: registers and queues (04 R109, 05 R151-R155), what a write to a
command queue checks (02 R63, 12 R347, R348, 14 R382, 18 R472), effective addresses and memory accesses (04 R115-R117). -/

namespace Sys2Proof.Machine

open Host

/-- Whether the instance on a core has joined a window of its task and not closed it (14 R388). -/
def State.windowOpenFor (s : State) (g : CoreNo) (num : Nat) : Bool :=
  match s.cores[g].occupant, s.taskOn g with
  | some o, some t => t.windows.any fun w => w.num.val == num && w.joined.any fun j => j.ordinal == o.ordinal && !j.closed
  | _, _ => false

/-- A change of an instance's place in a window of its task. -/
def State.modJoiner (s : State) (task ordinal num : Nat) (f : Joiner → Joiner) : State :=
  s.modTask task fun t => { t with windows := t.windows.map fun w =>
    if w.num.val == num then { w with joined := w.joined.map fun j => if j.ordinal == ordinal then f j else j } else w }

/-- The instance on a core issues a D = 1 command into a window: the command's SEQ, and the state that counts it (14 R389). -/
def State.takeSeq (s : State) (g : CoreNo) (num : Nat) : Nat × State :=
  match s.cores[g].occupant, s.taskOn g with
  | some o, some t =>
    let j := (t.windows.find? fun w => w.num.val == num).bind fun w => w.joined.find? fun j => j.ordinal == o.ordinal
    ((j.map (·.seq)).getD 0, s.modJoiner o.task o.ordinal num fun j => { j with seq := j.seq + 1 })
  | _, _ => (0, s)

/-- The KEEP register that pins lines of an address, for the instance on a core (13 R365). -/
def State.pinOf (s : State) (g : CoreNo) (va : Nat) : Option (CoreNo × Fin 8 × Nat) :=
  let k := (s.inst g).keep
  ((List.finRange 8).find? fun n => decide (k[n].base.toNat ≤ va ∧ va < k[n].base.toNat + k[n].len.toNat)).map fun n =>
    (g, n, k[n].gen)

/-- The caches and translation caches after an access of core g to n bytes, through the L1D or past it (13, 16 R416). -/
def State.noteAccess (s : State) (l1 : Bool) (g : CoreNo) (va pa n : Nat) (d : Fin 8) (write : Bool) : State :=
  let ctx := s.ctxOf g
  let pin := fun l : Nat => if s.cur.fw then none else s.pinOf g (va + (Nat.max pa (256 * l) - pa))
  let lines := (List.range ((pa + n - 1) / 256 - pa / 256 + 1)).map (pa / 256 + ·)
  let s1 := if n = 0 then s else
    lines.foldl (fun s l =>
      if l1 then s.touchL1 g l (sectorMask l pa n) d write ctx (pin l)
      else s.accessL2 (some g) l (sectorMask l pa n) d write ctx (pin l)) s
  s1.fillTlb g ctx va

/-- The caches after an access of core g to n bytes of its address space, page by page (13 R356, R357). -/
def State.noteSpan (s : State) (l1 : Bool) (g : CoreNo) (va n : Nat) (d : Fin 8) (write : Bool) : State :=
  (pieces va n).foldl (fun s p =>
    match s.lookup (some g) (s.ctxOf g) p.1 with
    | some e => s.noteAccess l1 g p.1 (e.pa + (p.1 - e.va)) p.2 d write
    | none => s) s

/-- The physical address of an aligned scalar access, with the checks of 04 R116 in their order. -/
def State.scalarAddr (s : State) (g : CoreNo) (ea : Word) (n : Nat) (need : Need) : Res Nat :=
  if ea.toNat % n ≠ 0 then .error (.trap .misalign ea)
  else match s.translate (some g) (s.ctxOf g) ea.toNat need with
    | .error c => .error (.trap c ea)
    | .ok pa => if need != .write && s.poisoned pa n then .error (.trap .poison ea) else .ok pa

/-- A scalar load of n bytes as a number (04 R115, R117). -/
def State.scalarLoad (s : State) (g : CoreNo) (ea : Word) (n : Nat) : Res (State × Nat) :=
  match s.scalarAddr g ea n .read with
  | .error e => .error e
  | .ok pa => .ok (s.noteAccess true g ea.toNat pa n 2 false, leNat (s.mem.read pa n))

/-- A scalar store of the low n bytes of a value (04 R115, R117), a sink event (05 R157). -/
def State.scalarStore (s : State) (g : CoreNo) (ea : Word) (n : Nat) (v : Word) : Res State :=
  match s.scalarAddr g ea n .write with
  | .error e => .error e
  | .ok pa => .ok (((s.physWriteIn true pa (leBytes n v.toNat)).noteAccess true g ea.toNat pa n 2 true).sink g)

/-- The CE majors that q0 accepts (02 Table 2.13). -/
def q0Major (m : Nat) : Bool := decide ((1 ≤ m ∧ m ≤ 0x13) ∨ (0x16 ≤ m ∧ m ≤ 0x18))

/-- Whether a value may be pushed to q0 (02 R63). -/
def q0Accepts (v : Word) : Bool :=
  let w := v.toNat
  decide (w < 2 ^ 30) && q0Major (majorOf .ce w) && (decode .ce w 0).toBool

/-- Whether a value may be the first entry of a q1 command: a lyt word with M zero (12 R347). -/
def q1Accepts (v : Word) : Bool :=
  let w := v.toNat
  decide (w < 2 ^ 30) && majorOf .ce w == 0x10 && bits w 9 6 == 0 && (decode .ce w 0).toBool

/-- Whether a control entry keeps the layout of 14 R382. -/
def atomicCtlOk (v : Word) : Bool :=
  let w := v.toNat
  decide (bits w 3 0 < 10 ∧ w < 2 ^ 12) && (v.getLsbD 5 || bits w 11 6 == 0)

/-- A write to q2 (14 R382, R383): control, address, operand. -/
def State.writeQ2 (s : State) (g : CoreNo) (v : Word) : Res State :=
  let i := s.inst g
  let a := i.asm
  let det := fun w : Word => w.getLsbD 5
  let win := fun w : Word => bits w.toNat 11 6
  if a.pos = 0 then do
    check (atomicCtlOk v && (!det v || s.windowOpenFor g (win v))) .queueProtocol v
    .ok (s.modInst g fun i => { i with asm := ⟨1, v, 0⟩ })
  else if a.pos = 1 then
    let n := if a.ctl.getLsbD 4 then 4 else 8
    if v.toNat % n ≠ 0 then .error (.trap .misalign v)
    else match s.translate (some g) (s.ctxOf g) v.toNat .both with
      | .error c => .error (.trap c v)
      | .ok _ => .ok ((s.fillTlb g (s.ctxOf g) v.toNat).modInst g fun i => { i with asm := ⟨2, a.ctl, v⟩ })
  else do
    check (!det a.ctl || s.windowOpenFor g (win a.ctl)) .queueProtocol a.ctl
    need (decide (i.q2w.length < 5))
    let r := if det a.ctl then s.takeSeq g (win a.ctl) else (0, s)
    .ok (r.2.modInst g fun i => { i with asm := ⟨0, 0, 0⟩, q2w := i.q2w ++ [⟨a.ctl, a.addr, v, r.1⟩] })

/-- The checks on a value at its push to a command queue. -/
def pushCheck (i : Inst) (q : Fin 16) (v : Word) : Res Unit :=
  match q.val with
  | 0 => check (q0Accepts v) .queueProtocol v
  | 1 => check (i.qw[1].length % 2 == 1 || q1Accepts v) .queueProtocol v
  | 3 => check (bits v.toNat 5 2 == 0 && bits v.toNat 63 48 == 0) .queueProtocol v
  | 4 => check (bits v.toNat 1 0 == 0 && bits v.toNat 15 14 == 0 && bits v.toNat 63 32 == 0) .queueProtocol v
  | _ => .ok ()

/-- A push to the queue that q names, past its checks: a mesh port sends to its neighbour (05 R155). -/
def State.pushRaw (s : State) (g : CoreNo) (q : Fin 16) (v : Word) : State :=
  if q.val < 12 then s.modInst g fun i => { i with qw := i.qw.set q (i.qw[q] ++ [v]) }
  else match neighbour g q with
    | some h => s.modInst h fun i => { i with qr := i.qr.set (facing q) (i.qr[facing q] ++ [v]) }
    | none => s

/-- A write of a destination register: a plain register, or a push with its checks, when there is room (04 R109, 05 R151). -/
def State.writeDst (s : State) (g : CoreNo) (late : Bool) (d : SReg) (v : Word) : Res State :=
  match queueNo d with
  | none => .ok (s.modInst g fun i => i.writeReg d v)
  | some q =>
    if q = 2 then (asQ2 (s.writeQ2 g v)).map fun t => t.sink g
    else do
      asLate late (pushCheck (s.inst g) q v)
      need (s.hasRoom g d)
      .ok ((s.pushRaw g q v).sink g)

/-- The checks on a value that a destination takes, without its wait for a place (02 R491). -/
def State.dstCheck (s : State) (g : CoreNo) (d : SReg) (v : Word) : Res Unit :=
  match s.writeDst g false d v with
  | .error .wait => .ok ()
  | r => r.map fun _ => ()

/-- The link of a branch in whose slot a word stands can be pushed: it was checked when the branch issued, and what a window, a mesh
neighbour or a translation has lost since traps or waits now, as the write of the link does (04 R118, 14 R382; LOG 79). -/
def State.linkCheck (s : State) (g : CoreNo) : Res Unit :=
  match (s.inst g).slot.bind (·.link) with
  | some (r, v) => if isQueue r then do
      writeCheck g r
      discard (s.writeDst g false r v)
    else .ok ()
  | none => .ok ()

/-- The link of a branch that names a queue is pushed before its slot's pushes (05 R151: pushes keep issue order). -/
def State.pushLink (s : State) (g : CoreNo) : State :=
  match (s.inst g).slot with
  | some b => match b.link with
    | some (r, v) => if isQueue r then (s.writeDst g false r v).toOption.getD s else s
    | none => s
  | none => s

/-- Operand checks in the order of the sources, then the destination (05 R153; LOG 17). -/
def operandChecks (g : CoreNo) (srcs : List SReg) (dst : Option SReg) : Res Unit := do
  srcs.forM (readCheck g)
  match dst with
  | some d => writeCheck g d
  | none => .ok ()

/-- The sources are there: every queue holds an entry, and no popped result is poisoned (05 R151, 14 R382). -/
def State.sourcesReady (s : State) (g : CoreNo) (srcs : List SReg) : Res Unit := do
  need (srcs.all (s.readable g))
  srcs.forM (s.popPoison g)

/-- An SCU instruction (02 R491, 04 R109): operand checks, checks of its own that wait for nothing, its sources, its effect on
their values, the pops, the write of its destination, retirement. The direction checks of its queue operands come before its
other checks, the number and rights of csrr and csrw among them (05 R153 states no order against them; LOG 17). -/
def scuRun (s : State) (srcs : List SReg) (dst : Option SReg) (pre : Res Unit)
    (f : State → List Word → Res (State × Word)) : Outcome State Fault Refusal :=
  let g := s.cur.core
  let late := srcs.any isQueue
  settle s do
    operandChecks g srcs dst
    pre
    s.linkCheck g
    s.sourcesReady g srcs
    let s0 := s.pushLink g
    need (!late || dst.all (s0.hasRoom g))
    let r ← asLate late (f s0 (srcs.map (s.readS g)))
    let t := r.1.popAll g srcs
    let u ← match dst with
      | some d => t.writeDst g late d r.2
      | none => .ok t
    .ok (u.modInst g fun i => i.retireScu s.cur s.len)

/-- An SCU instruction that computes d from two registers. -/
def scuAlu2 (s : State) (d a b : SReg) (f : Word → Word → Word) : Outcome State Fault Refusal :=
  scuRun s [a, b] (some d) (.ok ()) fun t vs => .ok (t, f (vs.getD 0 0) (vs.getD 1 0))

/-- An SCU instruction that computes d from one register. -/
def scuAlu1 (s : State) (d a : SReg) (f : Word → Word) : Outcome State Fault Refusal :=
  scuRun s [a] (some d) (.ok ()) fun t vs => .ok (t, f (vs.getD 0 0))

/-- imm14 sign-extended (04 R113). -/
def sext14 (i : BitVec 14) : Word := i.signExtend 64

/-- A scalar load of n bytes at a + imm14, extended as its entry says (04 R115). -/
def scuLoad (s : State) (d a : SReg) (i : BitVec 14) (n : Nat) (ext : Nat → Word) : Outcome State Fault Refusal :=
  scuRun s [a] (some d) (.ok ()) fun t vs =>
    (t.scalarLoad s.cur.core (vs.getD 0 0 + sext14 i) n).map fun r => (r.1, ext r.2)

/-- A scalar store of the low n bytes of d at a + imm14 (04 R115, 02 R51). -/
def scuStore (s : State) (d a : SReg) (i : BitVec 14) (n : Nat) : Outcome State Fault Refusal :=
  let g := s.cur.core
  let pre : Res Unit := if isQueue a then .ok () else
    (s.scalarAddr g (s.readS g a + sext14 i) n .write).map fun _ => ()
  scuRun s [a, d] none pre fun t vs =>
    (t.scalarStore g (vs.getD 0 0 + sext14 i) n (vs.getD 1 0)).map fun t => (t, 0)

/-- A number of n bytes, sign-extended. -/
def sextBytes (n : Nat) (v : Nat) : Word := (BitVec.ofNat (8 * n) v).signExtend 64

end Sys2Proof.Machine
end

