-- ==== Sys2Proof/Machine/Control.lean ====
section
/-! DEFINITION. Control transfer, hardware loops, waiting on memory, tokens, safe points, segments, end, trap and eret of the
scalar stream (04 R118-R126, R130-R135, 05 R144, 16 R425, R428-R436), and the stream control of the other engines. -/

namespace Sys2Proof.Machine

open Host

/-- A slot-forbidden word in a delay slot traps DS_ILLEGAL (04 R120, 02 R65). -/
def noSlot (s : State) (k : Outcome State Fault Refusal) : Outcome State Fault Refusal :=
  if (s.inst s.cur.core).slot.isSome then
    .next (s.raise .dsIllegal (BitVec.ofNat 64 (s.cur.word.toNat + if s.len = 8 then s.cur.word1.toNat * 2 ^ 32 else 0)))
  else k

/-- An SCU word with its own next PC and loops retires (04 R123). -/
def Inst.retireTo (i : Inst) (cur : Cur) (pc : Nat) (loops : List LoopFrame) : Inst :=
  let st := if i.inHandler cur then i.scu else i.scu.count cur.word
  { i with scu := { st with pc := pc, loops := loops, held := i.handler && st.held } }

/-- A target inside the SCU instruction memory (02 R46). -/
def targetOk (t : Int) : Bool := decide (0 ≤ t ∧ t < 65536)

/-- A branch or jump (04 R118): its operands are read and popped now; it takes effect when its slot has retired. -/
def branch (s : State) (srcs : List SReg) (dst : Option SReg) (target : List Word → Int) (cond : List Word → Bool) :
    Outcome State Fault Refusal :=
  let g := s.cur.core
  let late := srcs.any isQueue
  let link := BitVec.ofNat 64 (s.cur.pc + 8)
  noSlot s (settle s do
    operandChecks g srcs dst
    (if late then dst.elim (.ok ()) fun d => s.dstCheck g d link else .ok ())
    s.sourcesReady g srcs
    need (!late || dst.all (s.hasRoom g))
    let vs := srcs.map (s.readS g)
    let t := target vs
    asLate late (check (t % 4 == 0) .misalign (BitVec.ofInt 64 t))
    asLate late (check (!cond vs || targetOk t) .illegal (BitVec.ofInt 64 t))
    match dst with
      | some d => (s.writeDst g late d link).map fun _ => ()
      | none => .ok ()
    let b : Branch := ⟨s.cur.pc, s.cur.word, if cond vs then t.toNat else s.cur.pc + 8, cond vs, dst.map fun d => (d, link),
      s.popped g srcs⟩
    .ok ((s.popAll g srcs).modInst g fun i => { i with slot := some b, scu := { i.scu with pc := s.cur.pc + 4, held := i.handler && i.scu.held } }))

/-- The target of a displacement in words (02 R51). -/
def dispTarget (s : State) (d : Int) : Int := s.cur.pc + 4 * d

/-- A conditional branch (04 Table 4.5). -/
def branchIf (s : State) (a b : SReg) (i : BitVec 14) (c : Word → Word → Bool) : Outcome State Fault Refusal :=
  branch s [a, b] none (fun _ => dispTarget s i.toInt) fun vs => c (vs.getD 0 0) (vs.getD 1 0)

/-- beq (04 R118). -/
def execBeq (a b : SReg) (i : BitVec 14) (s : State) := branchIf s a b i fun x y => x == y
/-- bne (04 R118). -/
def execBne (a b : SReg) (i : BitVec 14) (s : State) := branchIf s a b i fun x y => x != y
/-- blt (04 R118). -/
def execBlt (a b : SReg) (i : BitVec 14) (s : State) := branchIf s a b i fun x y => x.slt y
/-- bge (04 R118). -/
def execBge (a b : SReg) (i : BitVec 14) (s : State) := branchIf s a b i fun x y => !x.slt y
/-- bltu (04 R118). -/
def execBltu (a b : SReg) (i : BitVec 14) (s : State) := branchIf s a b i fun x y => x.ult y
/-- bgeu (04 R118). -/
def execBgeu (a b : SReg) (i : BitVec 14) (s : State) := branchIf s a b i fun x y => !x.ult y
/-- j (04 R118). -/
def execJ (i : BitVec 26) (s : State) := branch s [] none (fun _ => dispTarget s i.toInt) fun _ => true
/-- jal (04 R118): links into s47. -/
def execJal (i : BitVec 26) (s : State) := branch s [] (some 47) (fun _ => dispTarget s i.toInt) fun _ => true
/-- jalr (04 R118, R119): links into d. -/
def execJalr (d a : SReg) (s : State) := branch s [a] (some d) (fun vs => (vs.getD 0 0).toNat) fun _ => true

/-- The words that may not stand at the end of an SCU loop body (04 R124): the slot-forbidden words. -/
def slotForbidden (w : Word32) : Bool :=
  let m := majorOf .scu w.toNat
  (decode .scu w.toNat 0).toBool && decide ((0x26 ≤ m ∧ m ≤ 0x2F) ∨ m = 0x32 ∨ (0x39 ≤ m ∧ m ≤ 0x3D))

/-- The words that may not stand at the end of a loop body of another engine: end, safe and seg, for the ME
mloop too (06 R200, 12 R345, 09 R268). A word of the SCU is judged by its whole decoding, one of another engine by its major (LOG
106). -/
def loopEndForbidden (e : Engine) (w : Word32) : Bool :=
  let m := majorOf e w.toNat
  match e with
  | .scu => slotForbidden w
  | .ve => decide (0x3D ≤ m ∧ m ≤ 0x3F)
  | .me => decide (m = 0x15 ∨ (0x19 ≤ m ∧ m ≤ 0x1B))
  | .ce => decide (0x1C ≤ m ∧ m ≤ 0x1E)

/-- The limits of a loop of body length l at address p (04 R124, 06 R200). -/
def loopOk (e : Engine) (st : Stream) (p l : Nat) : Bool :=
  let last := p + 4 * l
  decide (last + 4 ≤ imemSize e ∧ st.loops.length < 4)
    && (match st.loops with
        | f :: _ => decide (last ≤ f.last)
        | [] => true)
    && !loopEndForbidden e (st.wordAt last) && !isSegWord e (st.wordAt (last - 4)).toNat

/-- The loop pushed, or its body skipped (04 R123). A skip is no control transfer and retires no word of the body: enclosing loops stay
active as they are, even one whose last word is passed over, and the limits of a later loop are still taken from it (LOG 36). -/
def enterLoop (st : Stream) (p l : Nat) (n : Word) : Nat × List LoopFrame :=
  if n = 0 then (p + 4 + 4 * l, st.loops) else (p + 4, ⟨p + 4, p + 4 * l, n⟩ :: st.loops)

/-- loop of the SCU (04 R123, R124). -/
def execScuLoop (a : SReg) (l : Fin 16384) (s : State) : Outcome State Fault Refusal :=
  let g := s.cur.core
  noSlot s (settle s do
    operandChecks g [a] none
    check (loopOk .scu (s.inst g).scu s.cur.pc l.val && !(s.inst g).inHandler s.cur) .illegal (s.cur.word.zeroExtend 64)
    s.sourcesReady g [a]
    let r := enterLoop (s.inst g).scu s.cur.pc l.val (s.readS g a)
    .ok ((s.popAll g [a]).modInst g fun i => i.retireTo s.cur r.1 r.2))

/-- Whether a word at a memory location satisfies a condition against b, and the value delivered (04 R130, Table 4.6). -/
def condHolds (c : WCond) (w32 : Bool) (raw : Nat) (b : Word) : Option Word :=
  let signed := c == .lt || c == .ge
  let ext := fun v : Nat => if w32 then (if signed then sextBytes 4 v else BitVec.ofNat 64 (v % 2 ^ 32)) else BitVec.ofNat 64 v
  let x := ext raw
  let y := ext b.toNat
  let ok := match c with
    | .eq => x == y
    | .ne => x != y
    | .lt => x.slt y
    | .ge => !x.slt y
    | .ltu => x.ult y
    | .geu => !x.ult y
    | .any => x &&& y != 0
  if ok then some x else none

/-- One read of a waiting wmon: the value that satisfies it, if this read does (04 R131). -/
def State.wmonRead (s : State) (g : CoreNo) (addr b : Word) (w32 : Bool) (c : WCond) : Res (State × Option Word) :=
  (s.scalarLoad g addr (if w32 then 4 else 8)).map fun r => (r.1, condHolds c w32 r.2 b)

/-- The completion of a wmon: d and retirement. -/
def State.wmonDone (s : State) (g : CoreNo) (cur : Cur) (d : SReg) (v : Word) : Res State :=
  (s.writeDst g true d v).map fun t => t.modInst g fun i =>
    (i.retireTo cur (cur.pc + 4) i.scu.loops)

/-- wmon (04 R130, R131): completes at once when the first read satisfies it; otherwise it waits. -/
def execWmon (d a b : SReg) (w : Bool) (c : WCond) (s : State) : Outcome State Fault Refusal :=
  let g := s.cur.core
  let late := isQueue a
  noSlot s (settle s do
    operandChecks g [a, b] (some d)
    if !late then discard (s.scalarAddr g (s.readS g a) (if w then 4 else 8) .read)
    s.sourcesReady g [a, b]
    need (s.hasRoom g d)
    let va := s.readS g a
    let vb := s.readS g b
    let r ← asLate late (s.wmonRead g va vb w c)
    let t := r.1.popAll g [a, b]
    match r.2 with
    | some v => t.wmonDone g s.cur d v
    | none => .ok (t.modInst g fun i =>
      { i with wmon := some ⟨d, va, vb, w, c, s.cur.pc, s.cur.word, s.popped g [a, b], s.cur.stamp⟩,
               scu := { i.scu with held := i.handler && i.scu.held } }))

/-- The instance issues nothing but a delay slot and the rest of a word in part performed: a trap is pending or an assist has frozen
it (16 R424, 11 R307). -/
def Inst.freezing (i : Inst) : Bool := i.pending.isSome || i.assist.any (·.frozen)

/-- Whether the waiting wmon of an instance may read now: not while the streams freeze for a trap or an assist (16 R424,
11 R307), and it holds while a request is pending (16 R430). -/
def State.wmonRuns (s : State) (g : CoreNo) : Bool :=
  let i := s.inst g
  !i.freezing && (i.handler || !s.asked g)

/-- WMON_SATISFY (04 R131): a waiting wmon reads again; a satisfying read completes it, any other leaves its
access to the caches alone (13 R358), a fault traps it. -/
def execWmonSatisfy (g : CoreNo) (s : State) : Outcome State Fault Refusal :=
  match (s.inst g).wmon with
  | none => .next s
  | some w =>
    let cur : Cur := ⟨g, .scu, w.pc, w.word, 0, w.stamp, false⟩
    let s1 := { s with cur := cur }
    if !s.wmonRuns g then .next s
    else match s1.wmonRead g w.addr w.b w.w32 w.cond with
    | .ok (t, some v) => match (t.modInst g fun i => { i with wmon := none }).wmonDone g cur w.d v with
      | .ok u => .next u
      | .error .wait => .next t
      | .error (.trap c x) => .next ((s1.modInst g Inst.dropWmon).raise c x)
      | .error (.late c x) => .next ((s1.modInst g Inst.dropWmon).raise c x)
      | .error (.q2 c x) => .next ((s1.modInst g Inst.dropWmon).raiseAs c x true none)
    | .ok (t, none) => .next t
    | .error .wait => .next s
    | .error (.trap c x) => .next ((s1.modInst g Inst.dropWmon).raise c x)
    | .error (.late c x) => .next ((s1.modInst g Inst.dropWmon).raise c x)
    | .error (.q2 c x) => .next ((s1.modInst g Inst.dropWmon).raise c x)

/-- A token push is a sink event (05 R157). -/
def State.moveTokens (s : State) (g : CoreNo) (pops pushes : List (Fin 16)) : State :=
  let t := s.modInst g fun i => i.moveTokens pops pushes
  if pushes.isEmpty then t else t.sink g

/-- tkw of the SCU (05 R144). -/
def execScuTkw (f : Engine) (s : State) : Outcome State Fault Refusal :=
  let g := s.cur.core
  let q := fifo f .scu
  scuRun s [] none (.ok ()) fun t _ => do
    need ((s.inst g).tokensReady [q] [])
    .ok (t.moveTokens g [q] [], 0)

/-- tks of the SCU (05 R144). -/
def execScuTks (f : Engine) (s : State) : Outcome State Fault Refusal :=
  let g := s.cur.core
  let q := fifo .scu f
  scuRun s [] none (.ok ()) fun t _ => do
    need ((s.inst g).tokensReady [] [q])
    .ok (t.moveTokens g [] [q], 0)

/-- A safe has retired: its stream stands at a safe point until its next word issues, and holds there while a request is pending
(16 R428-R430). In the handler there is no safe point. -/
def State.holdAt (s : State) (g : CoreNo) (e : Engine) : State :=
  if (s.inst g).handler then s else s.modInst g fun i => i.modStream e fun st => { st with held := true }

/-- safe of the SCU (04 R134). -/
def execScuSafe (s : State) : Outcome State Fault Refusal :=
  let g := s.cur.core
  noSlot s (.next ((s.modInst g fun i => i.retireScu s.cur s.len).holdAt g .scu))

/-- seg of the SCU (16 R434, R436): closes the open segment, opens one; in the handler it counts for nothing. -/
def execScuSeg (cnt : BitVec 24) (crc : BitVec 16) (s : State) : Outcome State Fault Refusal :=
  let g := s.cur.core
  let i := s.inst g
  noSlot s
    (if i.handler then .next (s.modInst g fun i => { i with scu := { i.scu with pc := s.cur.pc + 8 } })
     else if i.scu.mismatch then .next (s.raiseSegment i.scu)
     else .next (s.modInst g fun i => { i with scu := { i.scu with pc := s.cur.pc + 8, held := false, seg := some ⟨cnt, crc, 0, 0xFFFF⟩ } }))

/-- end of the SCU (04 R134, 14 R383, 16 R434): a partial q2 command traps; the segment closes; the stream has ended. -/
def execScuEnd (s : State) : Outcome State Fault Refusal :=
  let g := s.cur.core
  let i := s.inst g
  let st := if i.handler then i.scu else i.scu.count s.cur.word
  noSlot s
    (if i.asm.pos != 0 then .next (s.raise .queueProtocol 50)
     else if st.mismatch && !i.handler then .next (s.raiseSegment st)
     else .next ((s.modInst g fun i => { i with scu := { st with ended := true, seg := if i.handler then st.seg else none } }).sink g))

/-- trap imm20 (04 R135). -/
def execTrap (i : BitVec 20) (s : State) : Outcome State Fault Refusal :=
  noSlot s (.next (s.raise .user (i.zeroExtend 64)))

/-- Len(x) of 16 R425. -/
def lenAt (e : Engine) (st : Stream) (x : Nat) : Nat := if isSegWord e (st.wordAt x).toNat then 8 else 4

/-- The ring slot that a copy reserved is marked landed as it stands (08 R237). -/
def markLanded (r : BufRing) (slot : Word32) : BufRing :=
  let go := fun (r : BufRing) (_ : Nat) =>
    if r.landed.contains r.tail then { r with landed := r.landed.filter (· != r.tail), tail := r.tail + 1 } else r
  (List.range r.slots).foldl go { r with landed := slot :: r.landed }

/-- A change of a ring of W or A. -/
def Inst.modRing (i : Inst) (b : Buf) (n : Fin 8) (f : BufRing → BufRing) : Inst :=
  match b with
  | .w => { i with ringsW := i.ringsW.set n (i.ringsW[n].map f) }
  | .a => { i with ringsA := i.ringsA.set n (i.ringsA[n].map f) }
  | .c => i

/-- The reserved slot of a copy, marked landed. -/
def Inst.landSlot (i : Inst) (c : Copy) : Inst :=
  match c.slot with
  | some r => i.modRing r.buf r.ring fun x => markLanded x r.slot
  | none => i

/-- The oldest copy that has faulted (12 R341). -/
def Inst.oldestFault (i : Inst) : Option Copy := i.copies.find? fun c => c.fault.isSome

/-- The discard of the command of a CE source that trapped at its issue, or the resumption past it (16 R425); it is no sink event (LOG
92). -/
def Inst.skipCommand (i : Inst) (src : Nat) : Inst :=
  match src with
  | 0 => { i with ce := i.ce.advance i.ce.pc (i.ce.pc + lenAt .ce i.ce i.ce.pc) }
  | 1 => { i with qw := i.qw.set 0 i.qw[0].tail, q0Seq := i.q0Seq + 1 }
  | 2 => { i with helper := i.helper.map fun h => { h with pc := h.pc + 4 } }
  | _ => { i with qw := i.qw.set 1 (i.qw[1].drop 2), q1Seq := i.q1Seq + 1 }

/-- eret for a CE trap (16 R425, 12 R341): SKIP discards the command that trapped, a copy or the one at its source's head; every
faulted copy resumes from its progress record and reads its source afresh (16 R419). A copy is discarded with its slot marked
landed, and its MDQ entry too (LOG 81); a discarded scfg of the stream that faulted after its issue counts into its segment
(16 R435). -/
def Inst.resumeCe (i : Inst) (skip : Bool) : Inst :=
  let src := bits i.sys.tstat.toNat 6 5
  let i1 :=
    if skip then
      match i.trapCopy.bind fun n => i.copies.find? fun c => c.id == n with
      | some c => { i.landSlot c with
          copies := i.copies.filter (fun x => x.id != c.id),
          q3Order := i.q3Order.filter (fun x => x.1 != c.id),
          mdq := i.mdq.map fun e => if c.mdq = some e.id then { e with landed := true } else e }
      | none =>
        let j := if i.cmdFault.isSome ∧ src = 0 then { i with ce := i.ce.count (i.ce.wordAt i.ce.pc) } else i
        { j.skipCommand src with cmdFault := none }
    else i
  { i1 with cmdFault := none, copies := i1.copies.map fun c =>
      if c.fault.isSome then { c with fault := none, started := false, input := [], ahead := [] } else c }

/-- The mloop sequencer after the slot it stands at (09 R269): the stages of a slot word from the oldest iteration, then the
slot words of a step, then the steps. -/
def MLoop.nextSlot (m : MLoop) : MLoop :=
  if 0 < m.st then { m with st := m.st - 1 }
  else
    let stages := m.len / m.ii
    if m.w + 1 < m.ii then { m with w := m.w + 1, st := stages - 1 } else { m with w := 0, c := m.c + 1, st := stages - 1 }

/-- Whether the slot of the sequencer is squashed: its stage has no iteration in this step (09 R269). -/
def MLoop.squashed (m : MLoop) : Bool := !decide (m.st ≤ m.c ∧ m.c < m.n.toNat + m.st)

/-- The next slot that issues, within the given number of slots. -/
def MLoop.skipSquashed (m : MLoop) : Nat → MLoop
  | 0 => m
  | k + 1 => if m.squashed then m.nextSlot.skipSquashed k else m

/-- The sequencer at its next issued slot, or the mloop over and the stream behind its body (09 R269). -/
def Inst.settleMloop (i : Inst) : Inst :=
  match i.mloop with
  | none => i
  | some m =>
    let x := m.skipSquashed 40
    if m.len = 0 ∨ m.n.toNat + m.len / m.ii - 1 ≤ x.c then { i with mloop := none, me := { i.me with pc := m.pc + 4 + 4 * m.len, held := false } }
    else { i with mloop := some x }

/-- The return from the handler (16 R425). -/
def Inst.eret (i : Inst) : Inst :=
  let t := i.sys.tstat.toNat
  let skip := bits t 8 8 == 1
  let ds := bits t 0 0 == 1
  let spc := bits t 31 16
  let tpc := bits i.sys.tpc.toNat 15 0
  let user := i.sys.tcause.toNat == Cause.user.code
  let eng := tstatEng i.sys.tstat
  let drop := skip && !ds && i.trapQ2
  let i0 := { i with asm := if drop then ⟨0, 0, 0⟩ else i.asmAside.getD i.asm, asmAside := none }
  let i1 := match eng with
    | 0 =>
      if skip && !ds && !user then { i0 with scu := i0.scu.advance tpc (tpc + lenAt .scu i0.scu tpc) }
      else { i0 with scu := { i0.scu with pc := tpc } }
    | 1 =>
      if skip then { i0 with ve := i0.ve.advance tpc (tpc + lenAt .ve i0.ve tpc) } else { i0 with ve := { i0.ve with pc := tpc } }
    | 2 => match i0.mloop with
      | some m => if skip then { i0 with mloop := some m.nextSlot }.settleMloop else i0
      | none =>
        if skip then { i0 with me := i0.me.advance tpc (tpc + lenAt .me i0.me tpc) } else { i0 with me := { i0.me with pc := tpc } }
    | _ => i0.resumeCe skip
  let i2 :=
    if eng = 0 then i1
    else { i1 with scu := { i1.scu with pc := spc, ended := bits t 1 1 == 1 } }
  { i2 with trapCopy := none, trapQ2 := false, sys := { i2.sys with tstat := BitVec.ofNat 64 (t - bits t 8 8 * 256 - bits t 7 7 * 128 - bits t 2 2 * 4 - bits t 1 1 * 2) } }

/-- The address at which the engine that trapped resumes, when eret checks it: the SCU, the VE and the ME outside an mloop. -/
def Inst.eretTarget (i : Inst) : Option (Nat × Engine) :=
  let tpc := bits i.sys.tpc.toNat 15 0
  match tstatEng i.sys.tstat with
  | 0 => some (tpc, .scu)
  | 1 => some (tpc, .ve)
  | 2 => if i.mloop.isSome then none else some (tpc, .me)
  | _ => none

/-- eret (04 R135, 16 R425): outside a handler it is ILLEGAL, and TPC is checked for the engine that resumes there. -/
def execEret (s : State) : Outcome State Fault Refusal :=
  let g := s.cur.core
  let i := s.inst g
  noSlot s (settle s do
    check i.handler .illegal (s.cur.word.zeroExtend 64)
    match i.eretTarget with
    | some (t, e) => do
      check (t % 4 == 0) .misalign i.sys.tpc
      check (decide (t < imemSize e)) .illegal i.sys.tpc
    | none => .ok ()
    .ok (s.modInst g Inst.eret))

/-- A word of the VE, ME or CE retires: its TS token and its place in the stream, the queue or the helper it came from. -/
def State.retireWord (s : State) (pops pushes : List (Fin 16)) : State :=
  let g := s.cur.core
  let s1 := if pops.isEmpty && pushes.isEmpty then s else s.moveTokens g pops pushes
  match s.cur.src with
  | .ve => s1.modInst g fun i => i.retireStream .ve s.cur s.len
  | .ce => s1.modInst g fun i => i.retireStream .ce s.cur s.len
  | .q0 => (s1.modInst g fun i => { i with qw := i.qw.set 0 i.qw[0].tail, q0Seq := i.q0Seq + 1 }).sink g
  | .helper => s1.modInst g fun i => { i with helper := i.helper.map fun h => { h with pc := s.cur.pc + 4 } }
  | .q1 => (s1.modInst g fun i => { i with qw := i.qw.set 1 (i.qw[1].drop 2), q1Seq := i.q1Seq + 1 }).sink g
  | .q3 => (s1.modInst g fun i => { i with qw := i.qw.set 3 i.qw[3].tail }).sink g
  | _ => s1.modInst g fun i =>
      match i.mloop with
      | some m => { i with me := i.me.count s.cur.word, mloop := some m.nextSlot }.settleMloop
      | none => i.retireStream .me s.cur s.len

/-- An instruction of the VE, ME or CE: its token waits stand between its checks and the checks on what it pops (02 R491,
R47-R49). A segment that it closes is compared before it waits (16 R436). `post` is what its retirement changes besides the
tokens and the stream's position. -/
def engineRunThen (s : State) (tk : Tok) (pops pushes : List (Fin 16)) (close : Bool) (f : Res State) (post : State → State) :
    Outcome State Fault Refusal :=
  let g := s.cur.core
  let e := s.cur.src.engine
  let ps := (if tk.tw then [defaultIn e] else []) ++ pops
  let qs := (if tk.ts then [defaultOut e] else []) ++ pushes
  let ready := (s.inst g).tokensReady ps qs
  let st := ((s.inst g).stream e).count s.cur.word
  let bad := close && st.mismatch
  match f with
  | .error (.trap c v) => .next (s.raise c v)
  | .error .wait => .next (if bad then s.raiseSegment st else s)
  | .error (.late c v) => .next (if bad then s.raiseSegment st else if ready then s.raise c v else s)
  | .error (.q2 c v) => .next (if bad then s.raiseSegment st else if ready then s.raise c v else s)
  | .ok t =>
    .next (if bad then s.raiseSegment st
      else if ready then
        let u := t.retireWord ps qs
        post (if close then u.modInst g fun i => i.modStream e fun x => { x with seg := none } else u)
      else s)

/-- An instruction of the VE, ME or CE that changes nothing more at its retirement. -/
def engineRun (s : State) (tk : Tok) (pops pushes : List (Fin 16)) (close : Bool) (f : Res State) : Outcome State Fault Refusal :=
  engineRunThen s tk pops pushes close f id

/-- A change of the executing engine's stream. -/
def State.modCurStream (s : State) (cur : Cur) (f : Stream → Stream) : State :=
  s.modInst cur.core fun i => i.modStream cur.src.engine f

/-- tkw of the VE, ME or CE (05 R144). -/
def engineTkw (s : State) (tk : Tok) (f : Engine) : Outcome State Fault Refusal :=
  engineRun s tk [fifo f s.cur.src.engine] [] false (.ok s)

/-- tks of the VE, ME or CE (05 R144). -/
def engineTks (s : State) (tk : Tok) (f : Engine) : Outcome State Fault Refusal :=
  engineRun s tk [] [fifo s.cur.src.engine f] false (.ok s)

/-- seg of the VE, ME or CE (16 R434, R436): it is part of neither segment. -/
def engineSeg (s : State) (tk : Tok) (cnt : BitVec 24) (crc : BitVec 16) : Outcome State Fault Refusal :=
  let st := (s.inst s.cur.core).stream s.cur.src.engine
  if st.mismatch then .next (s.raiseSegment st)
  else engineRunThen s tk [] [] false (.ok s) fun t =>
    t.modCurStream s.cur fun x => { x with seg := some ⟨cnt, crc, 0, 0xFFFF⟩ }

/-- safe of the VE, ME or CE (16 R428): it retires, and the stream stands at a safe point. -/
def engineSafe (s : State) (tk : Tok) : Outcome State Fault Refusal :=
  engineRunThen s tk [] [] false (.ok s) fun t => t.holdAt s.cur.core s.cur.src.engine

/-- end of the VE, ME or CE (03 R90, 16 R434): the segment closes, the stream has ended at this word. -/
def engineEnd (s : State) (tk : Tok) : Outcome State Fault Refusal :=
  let st := (s.inst s.cur.core).stream s.cur.src.engine
  engineRunThen s tk [] [] true (.ok (s.sink s.cur.core)) fun t =>
    t.modCurStream s.cur fun x => { x with ended := true, pc := st.pc, loops := st.loops }

/-- A loop of the VE, ME or CE (02 R55, 06 R200, 09 R268, 12 R345): an immediate count, or the count its queue delivers, with
the state after the pop. -/
def engineLoop (s : State) (tk : Tok) (l : Nat) (imm : Option Nat) (popped : Res (State × Word)) : Outcome State Fault Refusal :=
  let st := (s.inst s.cur.core).stream s.cur.src.engine
  let f : Res (State × Word) := do
    check (loopOk s.cur.src.engine st s.cur.pc l) .illegal (s.cur.word.zeroExtend 64)
    match imm with
    | some n => .ok (s, BitVec.ofNat 64 n)
    | none => popped
  let n : Word := match f with
    | .ok r => r.2
    | .error _ => 0
  engineRunThen s tk [] [] false (f.map (·.1)) fun t =>
    t.modCurStream s.cur fun x => { x with pc := (enterLoop st s.cur.pc l n).1, loops := (enterLoop st s.cur.pc l n).2 }

end Sys2Proof.Machine
end

