-- ==== Sys2Proof/Machine/Float.lean ====
section
/-! DEFINITION. Floating-point formats, exact values, rounding and the IEEE 754 operations (01 R10-R32, R37, R38, R43). Every
operation is computed exactly on integers and rounded once, at its end. -/

namespace Sys2Proof.Machine

/-- A floating-point format (01 Table 1.1): exponent bits, trailing significand bits, bias, and whether it has infinities.
E4M3 has a NaN and no infinity, E2M1 neither. -/
structure Fmt where
  ebits : Nat
  mbits : Nat
  bias : Nat
  hasInf : Bool
  hasNan : Bool
  deriving DecidableEq, Repr

def fmtF64 : Fmt := ⟨11, 52, 1023, true, true⟩
def fmtF32 : Fmt := ⟨8, 23, 127, true, true⟩
def fmtBF16 : Fmt := ⟨8, 7, 127, true, true⟩
def fmtF16 : Fmt := ⟨5, 10, 15, true, true⟩
def fmtE4M3 : Fmt := ⟨4, 3, 7, false, true⟩
def fmtE5M2 : Fmt := ⟨5, 2, 15, true, true⟩
def fmtE2M1 : Fmt := ⟨2, 1, 1, false, false⟩

/-- The width of a format in bits. -/
def Fmt.width (f : Fmt) : Nat := 1 + f.ebits + f.mbits

/-- A decoded value (01 R11, R12): a NaN, an infinity, or the number (-1)^neg m 2^e; a zero has m = 0. -/
inductive Num
  | nan (signalling : Bool)
  | inf (neg : Bool)
  | fin (neg : Bool) (m : Nat) (e : Int)
  deriving DecidableEq, Repr

/-- A set of exceptions, by the bits of 01 Table 1.8: NV, DZ, OF, UF, NX. -/
abbrev Flags := BitVec 5

def flagNV : Flags := 1
def flagDZ : Flags := 2
def flagOF : Flags := 4
def flagUF : Flags := 8
def flagNX : Flags := 16

/-- Flags that are raised when a condition holds. -/
def flagIf (b : Bool) (f : Flags) : Flags := if b then f else 0

/-- Decode(bits, fmt) (01 R11, R12). -/
def decodeF (f : Fmt) (v : Nat) : Num :=
  let m := v % 2 ^ f.mbits
  let e := v / 2 ^ f.mbits % 2 ^ f.ebits
  let neg := v / 2 ^ (f.mbits + f.ebits) % 2 == 1
  if f.hasInf && e == 2 ^ f.ebits - 1 then
    if m = 0 then .inf neg else .nan (m < 2 ^ (f.mbits - 1))
  else if !f.hasInf && f.hasNan && e == 2 ^ f.ebits - 1 && m == 2 ^ f.mbits - 1 then .nan false
  else if e = 0 then .fin neg m (1 - (f.bias : Int) - f.mbits)
  else .fin neg (2 ^ f.mbits + m) ((e : Int) - f.bias - f.mbits)

/-- CanonicalNaN(fmt) (01 Table 1.2). -/
def cnan (f : Fmt) : Nat :=
  if f.hasInf then (2 ^ f.ebits - 1) * 2 ^ f.mbits + 2 ^ (f.mbits - 1) else 2 ^ (f.ebits + f.mbits) - 1

/-- The encoding of an infinity. -/
def encInf (f : Fmt) (neg : Bool) : Nat := neg.toNat * 2 ^ (f.ebits + f.mbits) + (2 ^ f.ebits - 1) * 2 ^ f.mbits

/-- The exponent of the unit in the last place of the largest binade. -/
def Fmt.topUlp (f : Fmt) : Int := (2 ^ f.ebits : Int) - (if f.hasInf then 2 else 1) - f.bias - f.mbits

/-- The significand of the largest finite value, in that unit. -/
def Fmt.topMant (f : Fmt) : Nat := if !f.hasInf && f.hasNan then 2 ^ (f.mbits + 1) - 2 else 2 ^ (f.mbits + 1) - 1

/-- The exponent of the unit in the last place of the subnormals. -/
def Fmt.lowUlp (f : Fmt) : Int := 1 - (f.bias : Int) - f.mbits

/-- The encoding of the largest finite value. -/
def encMax (f : Fmt) (neg : Bool) : Nat :=
  neg.toNat * 2 ^ (f.ebits + f.mbits) + (2 ^ f.ebits - (if f.hasInf then 2 else 1)) * 2 ^ f.mbits + (f.topMant - 2 ^ f.mbits)

/-- The encoding of n units of 2^q, where q is the format's unit for that magnitude. -/
def encFin (f : Fmt) (neg : Bool) (n : Nat) (q : Int) : Nat :=
  let s := neg.toNat * 2 ^ (f.ebits + f.mbits)
  if n < 2 ^ f.mbits then s + n
  else
    let d := (q - f.lowUlp).toNat
    if n < 2 ^ (f.mbits + 1) then s + (d + 1) * 2 ^ f.mbits + (n - 2 ^ f.mbits)
    else s + (d + 2) * 2 ^ f.mbits

/-- floor(log2(m 2^e)) for m > 0. -/
def floorLog2 (m : Nat) (e : Int) : Int := (Nat.log2 m : Int) + e

/-- Whether rounding away from zero is chosen, for a discarded part r of 2^k units with a further part below it when sticky
(01 Table 1.5). A mode of dyn never reaches this point; it is read as RNE. -/
def roundUp (md : Rounding) (neg : Bool) (odd : Bool) (r k : Nat) (sticky : Bool) : Bool :=
  let inexact := r != 0 || sticky
  match md with
  | .rtz => false
  | .rup => inexact && !neg
  | .rdn => inexact && neg
  | .rna => decide (2 ^ k ≤ 2 * r)
  | .rne | .dyn => decide (2 ^ k < 2 * r) || (2 * r == 2 ^ k && (sticky || odd))

/-- |x| = (m + d) 2^e, 0 < d < 1 when sticky, as a whole number of 2^q, and whether it differs. -/
def toUnits (md : Rounding) (neg : Bool) (m : Nat) (e : Int) (sticky : Bool) (q : Int) : Nat × Bool :=
  if q ≤ e then (m * 2 ^ (e - q).toNat, sticky)
  else
    let k := (q - e).toNat
    let n := m / 2 ^ k
    let r := m % 2 ^ k
    (if roundUp md neg (n % 2 == 1) r k sticky then n + 1 else n, r != 0 || sticky)

/-- RoundToFormat(x, fmt, mode) for |x| = (m + d) 2^e, 0 < d < 1 when sticky (01 R24, R25). A sticky x comes with a
significand of more bits than the format's. -/
def roundTo (f : Fmt) (md : Rounding) (neg : Bool) (m : Nat) (e : Int) (sticky : Bool) : Nat × Flags :=
  if m = 0 then (neg.toNat * 2 ^ (f.ebits + f.mbits), 0)
  else
    let q1 := floorLog2 m e - f.mbits
    let wide := toUnits md neg m e sticky q1
    let beyond := decide (f.topUlp < q1) || (q1 == f.topUlp && decide (f.topMant < wide.1))
    if beyond then
      let toInf := match md with
        | .rtz => false
        | .rup => !neg
        | .rdn => neg
        | _ => true
      (if toInf && f.hasInf then encInf f neg else encMax f neg, flagOF ||| flagNX)
    else
      let q := max q1 f.lowUlp
      let r := toUnits md neg m e sticky q
      let tiny := decide (q1 + 1 < f.lowUlp) || (q1 + 1 == f.lowUlp && decide (wide.1 < 2 ^ (f.mbits + 1)))
      (encFin f neg r.1 q, flagIf r.2 flagNX ||| flagIf (tiny && r.2) flagUF)

/-- The exact sum of two numbers: sign, significand, exponent; a zero sum of unlike signs is -0 under RDN only (01 R26). -/
def addExact (md : Rounding) (n1 : Bool) (m1 : Nat) (e1 : Int) (n2 : Bool) (m2 : Nat) (e2 : Int) : Bool × Nat × Int :=
  let e := min e1 e2
  let a : Int := (if n1 then -1 else 1) * (m1 * 2 ^ (e1 - e).toNat : Nat)
  let b : Int := (if n2 then -1 else 1) * (m2 * 2 ^ (e2 - e).toNat : Nat)
  let s := a + b
  if s = 0 then (if n1 = n2 then n1 else md == .rdn, 0, e) else (decide (s < 0), s.natAbs, e)

/-- Whether a value is a signalling NaN. -/
def Num.snan : Num → Bool
  | .nan s => s
  | _ => false

/-- Whether a value is a NaN. -/
def Num.isNan : Num → Bool
  | .nan _ => true
  | _ => false

/-- Whether a value is finite. -/
def Num.isFin : Num → Bool
  | .fin _ _ _ => true
  | _ => false

/-- The sign of a value. -/
def Num.neg : Num → Bool
  | .nan _ => false
  | .inf n => n
  | .fin n _ _ => n

/-- The value with its sign inverted. -/
def Num.negate : Num → Num
  | .nan s => .nan s
  | .inf n => .inf !n
  | .fin n m e => .fin (!n) m e

/-- The result of an operation with a NaN operand (01 R13). -/
def nanResult (f : Fmt) (sig : Bool) : Nat × Flags := (cnan f, flagIf sig flagNV)

/-- a + b (01 R26, 06 R169). -/
def fAdd (f : Fmt) (md : Rounding) (a b : Num) : Nat × Flags :=
  match a, b with
  | .nan s, y => nanResult f (s || y.snan)
  | x, .nan s => nanResult f (s || x.snan)
  | .inf n, .inf m => if n = m then (encInf f n, 0) else (cnan f, flagNV)
  | .inf n, .fin _ _ _ => (encInf f n, 0)
  | .fin _ _ _, .inf n => (encInf f n, 0)
  | .fin n1 m1 e1, .fin n2 m2 e2 =>
    let r := addExact md n1 m1 e1 n2 m2 e2
    roundTo f md r.1 r.2.1 r.2.2 false

/-- a x b. -/
def fMul (f : Fmt) (md : Rounding) (a b : Num) : Nat × Flags :=
  match a, b with
  | .nan s, y => nanResult f (s || y.snan)
  | x, .nan s => nanResult f (s || x.snan)
  | .inf n, .inf m => (encInf f (n != m), 0)
  | .inf n, .fin m k _ => if k = 0 then (cnan f, flagNV) else (encInf f (n != m), 0)
  | .fin m k _, .inf n => if k = 0 then (cnan f, flagNV) else (encInf f (n != m), 0)
  | .fin n1 m1 e1, .fin n2 m2 e2 => roundTo f md (n1 != n2) (m1 * m2) (e1 + e2) false

/-- a / b: the quotient to more bits than any format holds, and whether a remainder is left. -/
def fDiv (f : Fmt) (md : Rounding) (a b : Num) : Nat × Flags :=
  match a, b with
  | .nan s, y => nanResult f (s || y.snan)
  | x, .nan s => nanResult f (s || x.snan)
  | .inf _, .inf _ => (cnan f, flagNV)
  | .inf n, .fin m _ _ => (encInf f (n != m), 0)
  | .fin m _ _, .inf n => ((m != n).toNat * 2 ^ (f.ebits + f.mbits), 0)
  | .fin n1 m1 e1, .fin n2 m2 e2 =>
    if m2 = 0 then (if m1 = 0 then (cnan f, flagNV) else (encInf f (n1 != n2), flagDZ))
    else
      let k := 60 + Nat.log2 m2
      roundTo f md (n1 != n2) (m1 * 2 ^ k / m2) (e1 - e2 - k) (m1 * 2 ^ k % m2 != 0)

/-- The integer square root, bit by bit from bit k down. -/
def isqrtFrom : Nat → Nat → Nat → Nat
  | 0, n, r => if (r + 1) * (r + 1) ≤ n then r + 1 else r
  | k + 1, n, r =>
    let t := r + 2 ^ (k + 1)
    isqrtFrom k n (if t * t ≤ n then t else r)

/-- floor(sqrt n). -/
def isqrt (n : Nat) : Nat := isqrtFrom (Nat.log2 n / 2) n 0

/-- sqrt a; sqrt -0 = -0. -/
def fSqrt (f : Fmt) (md : Rounding) (a : Num) : Nat × Flags :=
  match a with
  | .nan s => nanResult f s
  | .inf n => if n then (cnan f, flagNV) else (encInf f false, 0)
  | .fin n m e =>
    if m = 0 then (n.toNat * 2 ^ (f.ebits + f.mbits), 0)
    else if n then (cnan f, flagNV)
    else
      let e1 := if e % 2 = 0 then e else e - 1
      let v := (if e % 2 = 0 then m else 2 * m) * 2 ^ 128
      let r := isqrt v
      roundTo f md false r ((e1 - 128) / 2) (r * r != v)

/-- An exact product of two values, or NaN with whether it raises NV (01 R37). -/
def product (a b : Num) : Num × Bool :=
  match a, b with
  | .nan s, y => (.nan false, s || y.snan)
  | x, .nan s => (.nan false, s || x.snan)
  | .inf n, .inf m => (.inf (n != m), false)
  | .inf n, .fin m k _ => if k = 0 then (.nan false, true) else (.inf (n != m), false)
  | .fin m k _, .inf n => if k = 0 then (.nan false, true) else (.inf (n != m), false)
  | .fin n1 m1 e1, .fin n2 m2 e2 => (.fin (n1 != n2) (m1 * m2) (e1 + e2), false)

/-- a x b + d with one rounding; 0 x Inf raises NV even when d is a quiet NaN (06 R170). -/
def fFma (f : Fmt) (md : Rounding) (negProd : Bool) (a b d : Num) : Nat × Flags :=
  let p := product a b
  let x := if negProd then p.1.negate else p.1
  match x, d with
  | .nan _, y => (cnan f, flagIf (p.2 || y.snan) flagNV)
  | x, .nan s => (cnan f, flagIf (s || x.snan) flagNV)
  | x, y => fAdd f md x y

/-- Exact comparison of two numbers; none when a NaN takes part. -/
def compareNum (a b : Num) : Option Ordering :=
  match a, b with
  | .nan _, _ => none
  | _, .nan _ => none
  | .inf n, .inf m => some (if n = m then .eq else if n then .lt else .gt)
  | .inf n, .fin _ _ _ => some (if n then .lt else .gt)
  | .fin _ _ _, .inf n => some (if n then .gt else .lt)
  | .fin n1 m1 e1, .fin n2 m2 e2 =>
    let e := min e1 e2
    let x : Int := (if n1 then -1 else 1) * (m1 * 2 ^ (e1 - e).toNat : Nat)
    let y : Int := (if n2 then -1 else 1) * (m2 * 2 ^ (e2 - e).toNat : Nat)
    some (compare x y)

/-- minimum and maximum of IEEE 754-2019, of two encodings (06 R171): -0 is less than +0. -/
def fMinMax (f : Fmt) (isMax : Bool) (x y : Nat) : Nat × Flags :=
  let a := decodeF f x
  let b := decodeF f y
  match compareNum a b with
  | none => nanResult f (a.snan || b.snan)
  | some .lt => (if isMax then y else x, 0)
  | some .gt => (if isMax then x else y, 0)
  | some .eq => (if a.neg = isMax then y else x, 0)

/-- The value rounded to an integer in a mode: the integer, and whether it differs. -/
def roundInt (md : Rounding) (neg : Bool) (m : Nat) (e : Int) : Int × Bool :=
  let r := toUnits md neg m e false 0
  ((if neg then -1 else 1) * (r.1 : Int), r.2)

/-- Conversion to an integer range [lo, hi] (01 R29). -/
def toIntRange (md : Rounding) (lo hi : Int) (a : Num) : Int × Flags :=
  match a with
  | .nan _ => (0, flagNV)
  | .inf n => (if n then lo else hi, flagNV)
  | .fin n m e =>
    let r := roundInt md n m e
    if r.1 < lo then (lo, flagNV) else if hi < r.1 then (hi, flagNV) else (r.1, flagIf r.2 flagNX)

/-- Conversion from an integer (01 R29): +0 for 0. -/
def ofInt (f : Fmt) (md : Rounding) (x : Int) : Nat × Flags := roundTo f md (decide (x < 0)) x.natAbs 0 false

/-- Conversion between floating-point formats (01 R27, R28). -/
def convertF (f : Fmt) (md : Rounding) (a : Num) : Nat × Flags :=
  match a with
  | .nan s => nanResult f s
  | .inf n => if f.hasInf then (encInf f n, 0) else (cnan f, flagNV)
  | .fin n m e => roundTo f md n m e false

/-- TruncToGrid(x, g) / 2^g as an integer, and whether it differs from x (01 R43). -/
def truncUnits (neg : Bool) (m : Nat) (e g : Int) : Int × Bool :=
  let r := toUnits .rtz neg m e false g
  ((if neg then -1 else 1) * (r.1 : Int), r.2)

/-- ZeroSum (01 R38) of the signs of zero terms. -/
def zeroSum (md : Rounding) (signs : List Bool) : Bool :=
  if signs.all id then true else if signs.all (!·) then false else md == .rdn

/-- GroupSum(terms, acc, fmt, mode) (01 R38): the grid lies 49 binades below the largest term for FP32, 109 for FP64. -/
def groupSum (f : Fmt) (md : Rounding) (terms : List Num) (acc : Option Num) : Nat × Flags :=
  let ts := terms ++ acc.toList
  let f0 := flagIf (acc.any Num.snan) flagNV
  let pinf := ts.any (· == .inf false)
  let ninf := ts.any (· == .inf true)
  if ts.any Num.isNan then (cnan f, f0)
  else if pinf && ninf then (cnan f, f0 ||| flagNV)
  else if pinf || ninf then (encInf f ninf, f0)
  else
    let fs := ts.filterMap fun t => match t with
      | .fin n m e => some (n, m, e)
      | _ => none
    let nz := fs.filter fun t => t.2.1 != 0
    match nz with
    | [] => ((zeroSum md (fs.map (·.1))).toNat * 2 ^ (f.ebits + f.mbits), f0)
    | t :: rest =>
      let top := rest.foldl (fun m x => max m (floorLog2 x.2.1 x.2.2)) (floorLog2 t.2.1 t.2.2)
      let g := top - (if f.mbits = 52 then 109 else 49)
      let us := nz.map fun x => truncUnits x.1 x.2.1 x.2.2 g
      let s := (us.map (·.1)).sum
      let f1 := f0 ||| flagIf (us.any (·.2)) flagNX
      if s = 0 then ((md == .rdn).toNat * 2 ^ (f.ebits + f.mbits), f1)
      else
        let r := roundTo f md (decide (s < 0)) s.natAbs g false
        (r.1, f1 ||| r.2)

/-- The mode of a rounding field: dyn takes FMODE.MODE (01 R20, R23). -/
def modeOf (r : Rounding) (fmode : Word) : Rounding :=
  match r with
  | .dyn => (Rounding.ofCode (bits fmode.toNat 2 0)).getD .rne
  | r => r

/-- The format of an FP code of Table 2.9. -/
def FpFmt.fmt : FpFmt → Fmt
  | .f32 => fmtF32
  | .f64 => fmtF64
  | .bf16 => fmtBF16
  | .f16 => fmtF16

/-- The format of FP32 or FP64. -/
def HFmt.fmt : HFmt → Fmt
  | .f32 => fmtF32
  | .f64 => fmtF64

/-- A number that is delivered as a result: every NaN is the canonical one (01 R12, R13). -/
def canonical (f : Fmt) (x : Nat) : Nat := if (decodeF f x).isNan then cnan f else x

end Sys2Proof.Machine
end

