-- ==== Sys2Proof/Machine/Atomics.lean ====
section
/-! DEFINITION. Atomic operations (14 Table 14.5), amo and cas (14 R379-R381), the host's AtomicOps use them too. -/

namespace Sys2Proof.Machine

open Host

/-- The code of an atomic operation names it (14 Table 14.5). -/
def amoOf (n : Nat) : AmoOp := (AmoOp.ofCode n).getD .add

/-- The width in bytes of an atomic access. -/
def atomBytes (w32 : Bool) : Nat := if w32 then 4 else 8

/-- New(old, x) of 14 Table 14.5, on w-bit words. -/
def newValue (op : AmoOp) (w32 : Bool) (old x : Nat) : Nat :=
  let w := if w32 then 32 else 64
  let a := BitVec.ofNat w old
  let b := BitVec.ofNat w x
  let f := if w32 then fmtF32 else fmtF64
  match op with
  | .add => (a + b).toNat
  | .and => (a &&& b).toNat
  | .or => (a ||| b).toNat
  | .xor => (a ^^^ b).toNat
  | .min => if a.slt b then a.toNat else b.toNat
  | .max => if a.slt b then b.toNat else a.toNat
  | .minu => if a.ult b then a.toNat else b.toNat
  | .maxu => if a.ult b then b.toNat else a.toNat
  | .swap => b.toNat
  | .fadd => (fAdd f .rne (decodeF f a.toNat) (decodeF f b.toNat)).1

/-- The old value as d receives it (14 Table 14.5). -/
def oldValue (op : AmoOp) (w32 : Bool) (old : Nat) : Word :=
  if w32 then
    match op with
    | .minu | .maxu | .fadd => BitVec.ofNat 64 old
    | _ => sextBytes 4 old
  else BitVec.ofNat 64 old

/-- The reuse distance of an access that 13 Table 13.2 leaves out: open (LOG 88). -/
def State.openDist (s : State) : Fin 8 := Fin.ofNat 8 (Config.freeWord s.tick 5).toNat

/-- An atomic update of a physical word by core g with reuse distance d (14 R380, R384): the old value, and the state after the
write. -/
def State.atomApply (s : State) (g : CoreNo) (va pa : Nat) (d : Fin 8) (op : AmoOp) (w32 : Bool) (x : Word) : Nat × State :=
  let n := atomBytes w32
  let old := leNat (s.mem.read pa n)
  (old, ((s.physWrite pa (leBytes n (newValue op w32 old x.toNat))).noteAccess false g va pa n d true).sink g)

/-- The checks of amo and cas that need no pop (14 R380). -/
def atomPre (s : State) (a : SReg) (w32 : Bool) : Res Unit :=
  if isQueue a then .ok ()
  else (s.scalarAddr s.cur.core (s.readS s.cur.core a) (atomBytes w32) .both).map fun _ => ()

/-- amo (14 R379, R380). -/
def execAmo (d a b : SReg) (_o : AmoOrder) (w : Bool) (c : AmoOp) (s : State) : Outcome State Fault Refusal :=
  let g := s.cur.core
  scuRun s [a, b] (some d) (atomPre s a w) fun t vs =>
    let ea := vs.getD 0 0
    (t.scalarAddr g ea (atomBytes w) .both).map fun pa =>
      let r := t.atomApply g ea.toNat pa 2 c w (vs.getD 1 0)
      (r.2, oldValue c w r.1)

/-- cas (14 R381): a d that names a queue traps; a failing comparison only loads. -/
def execCas (d a b : SReg) (_o : AmoOrder) (w : Bool) (s : State) : Outcome State Fault Refusal :=
  let g := s.cur.core
  let pre : Res Unit := do
    check (!isQueue d) .queueProtocol (BitVec.ofNat 64 d.val)
    atomPre s a w
  scuRun s [a, b, d] (some d) pre fun t vs =>
    let ea := vs.getD 0 0
    (t.scalarAddr g ea (atomBytes w) .both).map fun pa =>
      let n := atomBytes w
      let old := leNat (t.mem.read pa n)
      let same := old == (vs.getD 2 0).toNat % 2 ^ (8 * n)
      let u := if same then (t.atomApply g ea.toNat pa 2 .swap w (vs.getD 1 0)).2 else t.noteAccess false g ea.toNat pa n 2 false
      (u, oldValue .swap w old)

end Sys2Proof.Machine
end

