-- ==== Sys2Proof/Machine/Compress.lean ====
section
/-! DEFINITION. Compressed buffers: header, directory, tile methods, expansion and the compressor's output (15 R404-R410). -/

namespace Sys2Proof.Machine

/-- The header of a compressed buffer (15 Table 15.3). -/
structure CHeader where
  exp : Nat
  unc : Bool
  tiles : Nat
  data : Nat
  stored : Nat
  deriving DecidableEq, Repr

/-- The header in 64 bytes, when it passes the Header check for an uncompressed length (15 Table 15.7). -/
def headerOf (b : List Byte) (len : Nat) : Option CHeader :=
  let u := fun o n => leNat ((b.drop o).take n)
  let ctrl := u 2 1
  let h : CHeader := ⟨ctrl % 4, ctrl / 4 % 2 == 1, u 4 4, u 8 4, u 12 4⟩
  let least := 64 + if h.unc then 0 else 4 * h.tiles
  if u 0 2 = 1 ∧ ctrl < 8 ∧ u 3 1 = 0 ∧ u 16 48 = 0 ∧ 256 * h.tiles = len ∧ h.data % 32 = 0 ∧ least ≤ h.data
      ∧ (h.unc → h.stored = 256 * h.tiles) then some h
  else none

/-- A directory entry (15 Table 15.4): a zero tile, or the offset and length of a stored tile; none when the Entry check fails. -/
def entryOf (e stored : Nat) : Option (Option (Nat × Nat)) :=
  let mode := bits e 31 30
  let off := bits e 29 8
  let len := bits e 7 0
  if stored < 32 * off + len then none
  else if mode = 0 then (if off = 0 ∧ len = 0 then some none else none)
  else if mode = 1 then (if 1 ≤ len ∧ len ≤ 160 then some (some (32 * off, len)) else none)
  else none

/-- Items of n bytes taken for the set bits of a mask, zero items for the clear ones. -/
def spread (n : Nat) : List Bool → List Byte → List Byte
  | [], _ => []
  | true :: ms, bs => bs.take n ++ spread n ms (bs.drop n)
  | false :: ms, bs => List.replicate n 0 ++ spread n ms bs

/-- The low k bits of a number, least significant first. -/
def bitList (k n : Nat) : List Bool := (List.range k).map fun i => n.testBit i

/-- A little-endian signed number. -/
def leInt (bs : List Byte) : Int := (BitVec.ofNat (8 * bs.length) (leNat bs)).toInt

/-- The 256 bytes of a stored tile of LEN bytes; none when the Content check fails (15 R406, Table 15.7). -/
def expandTile (t : List Byte) : Option (List Byte) :=
  let len := t.length
  match (t.headD 0).toNat with
  | 1 =>
    let m := bitList 64 (leNat ((t.drop 1).take 8))
    if len = 9 + 4 * (m.filter id).length then some (spread 4 m (t.drop 9)) else none
  | 2 =>
    let b := leNat ((t.drop 1).take 4)
    let d := ((t.drop 5).headD 0).toNat
    if (d = 1 ∨ d = 2) ∧ len = 6 + 64 * d then
      some ((List.range 64).flatMap fun i =>
        leBytes 4 (BitVec.ofInt 32 ((b : Int) + leInt ((t.drop (6 + d * i)).take d))).toNat)
    else none
  | 3 =>
    let m := bitList 256 (leNat ((t.drop 1).take 32))
    if len = 33 + (m.filter id).length then some (spread 1 m (t.drop 33)) else none
  | _ => none

/-- The words of a tile. -/
def tileWords (t : List Byte) : List Nat := (List.range 64).map fun i => leNat ((t.drop (4 * i)).take 4)

/-- A number whose set bits are those of a list. -/
def bitsNat : List Bool → Nat
  | [] => 0
  | b :: bs => b.toNat + 2 * bitsNat bs

/-- Method 1's stored form. -/
def method1 (t : List Byte) : List Byte :=
  let ws := tileWords t
  leBytes 1 1 ++ leBytes 8 (bitsNat (ws.map (· != 0))) ++ (ws.filter (· != 0)).flatMap (leBytes 4)

/-- The stored form of method 2 with deltas of d bytes, when every delta fits. -/
def method2d (t : List Byte) (d : Nat) : Option (List Byte) :=
  let ws := tileWords t
  let b := ws.headD 0
  let ds := ws.map fun w => (BitVec.ofInt 32 ((w : Int) - b)).toInt
  let lim : Int := 2 ^ (8 * d - 1)
  if ds.all fun x => decide (-lim ≤ x ∧ x < lim) then
    some (leBytes 1 2 ++ leBytes 4 b ++ leBytes 1 d ++ ds.flatMap fun x => leBytes d (BitVec.ofInt (8 * d) x).toNat)
  else none

/-- Method 3's stored form. -/
def method3 (t : List Byte) : List Byte :=
  leBytes 1 3 ++ leBytes 32 (bitsNat (t.map (· != 0))) ++ t.filter (· != 0)

/-- The stored form that the compressor chooses: none for a tile without a usable method, an empty one for a zero tile
(15 R407). -/
def compressTile (t : List Byte) : Option (List Byte) :=
  if t.all (· == 0) then some []
  else
    let m2 := match method2d t 1 with
      | some x => some x
      | none => method2d t 2
    let cands := ([some (method1 t), m2, some (method3 t)].filterMap id).filter fun x => decide (x.length ≤ 160)
    cands.foldl (fun best x => match best with
      | none => some x
      | some y => if x.length < y.length then some x else some y) none

/-- Cut bytes into tiles of 256. -/
def tilesOf (bs : List Byte) : List (List Byte) := (List.range (bs.length / 256)).map fun i => (bs.drop (256 * i)).take 256

/-- The compressed image of bytes with an expansion point (15 R404, R407): header, directory, gap, data. -/
def compressImage (bs : List Byte) (exp : Nat) : List Byte :=
  let tiles := tilesOf bs
  let n := tiles.length
  let header := fun unc data stored =>
    leBytes 2 1 ++ leBytes 1 (exp + if unc then 4 else 0) ++ leBytes 1 0 ++ leBytes 4 n ++ leBytes 4 data ++ leBytes 4 stored
      ++ List.replicate 48 (0 : Byte)
  let forms := tiles.map compressTile
  if forms.any Option.isNone then header true 64 (256 * n) ++ bs
  else
    let data := (64 + 4 * n + 31) / 32 * 32
    let r := (forms.filterMap id).foldl (fun (st : List Byte × List Byte) f =>
      if f.isEmpty then (st.1 ++ leBytes 4 0, st.2)
      else
        let off := (st.2.length + 31) / 32
        (st.1 ++ leBytes 4 (2 ^ 30 + off * 256 + f.length), st.2 ++ List.replicate (32 * off - st.2.length) 0 ++ f)) ([], [])
    header false data r.2.length ++ r.1 ++ List.replicate (data - 64 - 4 * n) 0 ++ r.2

end Sys2Proof.Machine
end

