-- ==== Sys2Proof/Machine/Streams.lean ====
section
/-! DEFINITION. Stream registers: descriptors (08 R242, R243), element positions (08 R244-R246), the checks of a load
(08 R247) and bit fields of byte strings. -/

namespace Sys2Proof.Machine

open Host

/-- CTRL.FMT (08 Table 8.5). -/
def ZReg.fmt (z : ZReg) : Nat := bits z.ctrl.toNat 3 0
/-- CTRL.WLOG. -/
def ZReg.wlog (z : ZReg) : Nat := bits z.ctrl.toNat 6 4
/-- The element width in bits. -/
def ZReg.w (z : ZReg) : Nat := 2 ^ z.wlog
/-- CTRL.SRC. -/
def ZReg.src (z : ZReg) : Nat := bits z.ctrl.toNat 10 8
/-- CTRL.ODD. -/
def ZReg.odd (z : ZReg) : Bool := z.ctrl.getLsbD 11
/-- CTRL.DIST. -/
def ZReg.dist (z : ZReg) : Fin 8 := Fin.ofNat 8 (bits z.ctrl.toNat 14 12)
/-- CTRL.X8. -/
def ZReg.x8 (z : ZReg) : Bool := z.ctrl.getLsbD 15
/-- CTRL.PLANES. -/
def ZReg.planes (z : ZReg) : Nat := bits z.ctrl.toNat 19 16

/-- The counts of the levels, innermost first (08 Table 8.4). -/
def ZReg.counts (z : ZReg) : List Nat :=
  z.count.toList.map (·.toNat) ++ if z.x8 then [bits z.soff.toNat 15 0, bits z.soff.toNat 31 16] else []

/-- The strides of the levels in elements (08 Table 8.4). -/
def ZReg.strides (z : ZReg) : List Int :=
  z.stride.toList.map (·.toInt) ++ if z.x8 then [z.sstride.toInt, z.pstride.toInt] else []

/-- N, the number of elements (08 R244). -/
def ZReg.elems (z : ZReg) : Nat := z.counts.foldl (· * ·) 1

/-- The bits that the levels add for element n (08 R244). -/
def levelBits (w : Nat) : Nat → List (Nat × Int) → Int
  | _, [] => 0
  | i, (c, st) :: rest => w * st * (i % c : Nat) + levelBits w (i / c) rest

/-- The bit position of element n relative to the byte where the data origin lies (08 R244). -/
def ZReg.bitOf (z : ZReg) (n : Nat) : Int := (if z.odd then 4 else 0) + levelBits z.w n (z.counts.zip z.strides)

/-- The byte of the scale of block b relative to the byte that holds the data origin (08 R246). -/
def ZReg.scaleOf (z : ZReg) (b : Nat) : Int := z.soff.toInt + b * z.sstride.toInt

/-- The byte offset of plane j (08 R244). -/
def ZReg.planeOf (z : ZReg) (j : Nat) : Int := j * (z.pstride.toNat : Int)

/-- WLOG of a format (08 Table 8.6). -/
def fmtWlog (f : Nat) : Option Nat :=
  match f with
  | 0 => some 6
  | 1 => some 5
  | 2 => some 4
  | 3 => some 4
  | 4 => some 3
  | 5 => some 3
  | 6 => some 2
  | 7 => some 3
  | 8 => some 3
  | 9 => some 2
  | 10 => some 0
  | 11 => some 5
  | 12 => some 3
  | _ => none

/-- The descriptor in 64 bytes (08 Table 8.4), cursor 0. -/
def zregOf (d : List Byte) : ZReg :=
  let u := fun o n => leNat ((d.drop o).take n)
  { base := BitVec.ofNat 64 (u 0 8), ctrl := BitVec.ofNat 32 (u 8 4), qscale := BitVec.ofNat 32 (u 12 4),
    count := Vector.ofFn fun i : Fin 6 => BitVec.ofNat 16 (u (16 + 2 * i.val) 2),
    stride := Vector.ofFn fun i : Fin 6 => BitVec.ofNat 32 (u (28 + 4 * i.val) 4),
    soff := BitVec.ofNat 32 (u 52 4), sstride := BitVec.ofNat 32 (u 56 4), pstride := BitVec.ofNat 32 (u 60 4),
    cursor := 0, scale := 0 }

/-- The effective scale of a stream register: QSCALE x 2^(8 - p) for FMT 10, a NaN unchanged; else QSCALE (08 R246, 12 R344). -/
def ZReg.effective (z : ZReg) : Word32 :=
  if z.fmt = 10 then
    match decodeF fmtF32 z.qscale.toNat with
    | .nan _ => z.qscale
    | .inf _ => z.qscale
    | .fin n m e => BitVec.ofNat 32 (roundTo fmtF32 .rne n m (e + (8 - z.planes : Nat)) false).1
  else z.qscale

/-- The rings of W or A. -/
def Inst.rings (i : Inst) (b : Buf) : Vector (Option BufRing) 8 :=
  match b with
  | .w => i.ringsW
  | _ => i.ringsA

/-- The ring that a ring-sourced stream register names (08 Table 8.4). -/
def Inst.ringOf (i : Inst) (z : ZReg) : Option (Buf × Fin 8 × BufRing) :=
  let n : Fin 8 := Fin.ofNat 8 (bits z.base.toNat 2 0)
  let b : Buf := if z.src = 4 then .w else .a
  if z.src = 4 ∨ z.src = 5 then (i.rings b)[n].map fun r => (b, n, r) else none

/-- The claim of a buffer (08 R229). -/
def Inst.claim (i : Inst) : Buf → Nat
  | .w => i.claimW
  | .a => i.claimA
  | .c => i.claimC

/-- The buffer code (08 R227). -/
def bufCode : Buf → Nat
  | .w => 1
  | .a => 2
  | .c => 3

/-- Lowest and highest displacement in bits of a nest: the far corner of every level (08 R247). -/
def nestRange (w : Nat) (l : List (Nat × Int)) : Int × Int :=
  l.foldl (fun r e =>
    let d := (w : Int) * e.2 * ((e.1 : Int) - 1)
    if d < 0 then (r.1 + d, r.2) else (r.1, r.2 + d)) (0, 0)

/-- Reason 0x04: some element, scale or plane of a buffer stream lies outside its claim or slot of `limit` bytes, the origin
standing at byte `origin`. A last block of fewer than 32 elements has its scale too; an X8 descriptor has neither scales nor
planes. -/
def outside (z : ZReg) (origin limit : Nat) : Bool :=
  let r := nestRange z.w (z.counts.zip z.strides)
  let o : Int := 8 * origin + if z.odd then 4 else 0
  let lo := o + r.1
  let hi := o + r.2 + z.w + (if z.fmt = 10 ∧ !z.x8 then 8 * z.planeOf (z.planes - 1) else 0)
  let blocks := (z.elems + 31) / 32
  let s0 := (origin : Int) + z.scaleOf 0
  let s1 := (origin : Int) + z.scaleOf (blocks - 1)
  decide (lo < 0 ∨ 8 * limit < hi)
    || (z.fmt == 6 && !z.x8 && decide (s0 < 0 ∨ s1 < 0 ∨ limit ≤ s0 ∨ limit ≤ s1))

/-- The first load row of 08 Table 8.7 that fails, for an instance's claims and rings. -/
def loadReason (i : Inst) (z : ZReg) : Option Nat :=
  let ctrl := z.ctrl.toNat
  let ring := z.src == 4 || z.src == 5
  let inBuf := decide (1 ≤ z.src ∧ z.src ≤ 5)
  let unit : Int := if z.src = 0 then 8 else 32
  let pitch := fun x : Int => x % unit != 0
  let limit := match i.ringOf z with
    | some r => r.2.2.slotBytes
    | none => if z.src = 1 then i.claimW else if z.src = 2 then i.claimA else i.claimC
  if bits ctrl 31 20 ≠ 0 ∨ bits ctrl 7 7 ≠ 0 ∨ 13 ≤ z.fmt ∨ 6 ≤ z.src ∨ fmtWlog z.fmt ≠ some z.wlog
      ∨ (ring ∧ (8 ≤ z.base.toNat ∨ (i.ringOf z).isNone)) then some 0x01
  else if z.counts.any (· == 0) then some 0x02
  else if (decide (z.w < 8) && z.stride[0] != 1) || (z.odd && z.w != 4)
      || (z.strides.drop 1).any (fun s => pitch (z.w * s)) || (z.fmt == 10 && !z.x8 && pitch (8 * z.pstride.toNat)) then some 0x03
  else if inBuf && outside z (if ring then 0 else z.base.toNat) limit then some 0x04
  else if (z.x8 && (z.fmt == 6 || z.fmt == 10))
      || (if z.fmt = 10 then !decide (2 ≤ z.planes ∧ z.planes ≤ 8) else z.planes != 0)
      || (z.fmt == 6 && z.count[0].toNat % 32 != 0)
      || (!z.x8 && z.fmt != 6 && (z.soff != 0 || z.sstride != 0))
      || (!z.x8 && z.fmt != 10 && z.pstride != 0)
      || (inBuf && z.dist != 0)
      || (decide (z.fmt ≤ 6) && z.qscale != 0) then some 0x05
  else none

/-- TVAL of STREAM_CFG: register number and reason (08 R247). -/
def streamTval (n reason : Nat) : Word := BitVec.ofNat 64 (reason * 256 + n)

/-- STREAM_CFG unless a condition holds. -/
def streamCheck (ok : Bool) (n reason : Nat) : Res Unit := check ok .streamCfg (streamTval n reason)

-- Bit fields of byte strings.

/-- w bits at bit position p of bytes, least significant first (01 R18). -/
def bitsAt (bs : List Byte) (p w : Nat) : Nat := leNat ((bs.drop (p / 8)).take ((p % 8 + w + 7) / 8)) / 2 ^ (p % 8) % 2 ^ w

/-- The bytes with w bits at bit position p replaced. -/
def putBits (bs : List Byte) (p w v : Nat) : List Byte :=
  let k := p / 8
  let n := (p % 8 + w + 7) / 8
  let old := leNat ((bs.drop k).take n)
  let m := old / 2 ^ (p % 8) % 2 ^ w
  bs.take k ++ leBytes n (old - m * 2 ^ (p % 8) + (v % 2 ^ w) * 2 ^ (p % 8)) ++ bs.drop (k + n)

end Sys2Proof.Machine
end

