-- ==== Sys2Proof/Machine/Copies.lean ====
section
/-! DEFINITION. What the copy engine does whatever the command: access to the typed buffers (08 R230, 15 R409), issue of copies
and their records (12 R322, R323, R346), landing and completion (12 R337, R340, R341, 16 R419). -/

namespace Sys2Proof.Machine

open Host

-- Typed buffers.

/-- The bytes of a buffer. -/
def Inst.buf (i : Inst) : Buf → Bytes
  | .w => i.bufW
  | .a => i.bufA
  | .c => i.bufC

/-- The bytes of a buffer replaced. -/
def Inst.setBuf (i : Inst) (b : Buf) (m : Bytes) : Inst :=
  match b with
  | .w => { i with bufW := m }
  | .a => { i with bufA := m }
  | .c => { i with bufC := m }

/-- The feeder tags of a buffer (15 R409). -/
def Inst.tags (i : Inst) : Buf → List (Nat × Nat)
  | .w => i.tagsW
  | .a => i.tagsA
  | .c => []

/-- The feeder tags of a buffer replaced. -/
def Inst.setTags (i : Inst) (b : Buf) (l : List (Nat × Nat)) : Inst :=
  match b with
  | .w => { i with tagsW := l }
  | .a => { i with tagsA := l }
  | .c => i

/-- The 256-byte units that a range touches. -/
def unitsOf (off n : Nat) : List Nat :=
  if n = 0 then [] else (List.range ((off + n - 1) / 256 - off / 256 + 1)).map (off / 256 + ·)

/-- The bytes of a unit as reads return them; none when a tagged unit fails its Content check (15 R409, R410). -/
def Inst.unitBytes (i : Inst) (b : Buf) (u : Nat) : Option (List Byte) :=
  match (i.tags b).lookup u with
  | none => some ((i.buf b).read (256 * u) 256)
  | some len => expandTile ((i.buf b).read (256 * u) len)

/-- A read of a buffer: its bytes, or the offset of the tagged unit that fails. -/
def Inst.bufRead (i : Inst) (b : Buf) (off n : Nat) : Except Nat (List Byte) :=
  let us := unitsOf off n
  match us.find? fun u => ((i.tags b).lookup u).isSome && (i.unitBytes b u).isNone with
  | some u => .error (256 * u)
  | none =>
    if (i.tags b).isEmpty then .ok ((i.buf b).read off n)
    else .ok (((us.flatMap fun u => (i.unitBytes b u).getD []).drop (off % 256)).take n)

/-- A tagged unit that a write touches becomes plain first: its other bytes read as before. Where its content was bad the
spec states no bytes; they are free (LOG 18). -/
def Inst.untag (i : Inst) (free : Nat → Byte) (b : Buf) (u : Nat) : Inst :=
  match (i.tags b).lookup u with
  | none => i
  | some _ =>
    let bs := (i.unitBytes b u).getD ((List.range 256).map fun k => free (256 * u + k))
    (i.setBuf b ((i.buf b).put (256 * u) bs)).setTags b ((i.tags b).filter fun t => t.1 != u)

/-- A write of bytes to a buffer clears the tags of the units it touches (15 R409). -/
def Inst.bufWrite (i : Inst) (free : Nat → Byte) (b : Buf) (off : Nat) (bs : List Byte) : Inst :=
  let i1 := (unitsOf off bs.length).foldl (fun i u => i.untag free b u) i
  i1.setBuf b ((i1.buf b).put off bs)

/-- A stored tile placed in a whole unit, which is tagged (15 R409). -/
def Inst.placeTile (i : Inst) (b : Buf) (u : Nat) (t : List Byte) : Inst :=
  let bs := t ++ List.replicate (256 - t.length) 0
  (i.setBuf b ((i.buf b).put (256 * u) bs)).setTags b ((u, t.length) :: (i.tags b).filter fun x => x.1 != u)

/-- Bytes of a lane image: lane i at bytes 4i to 4i + 3 (06 R160). -/
def lanesBytes (l : Lanes) : List Byte := l.toList.flatMap fun w => leBytes 4 w.toNat

/-- A lane image from 2,048 bytes. -/
def lanesOf (bs : List Byte) : Lanes := Vector.ofFn fun i : Fin 512 => BitVec.ofNat 32 (leNat ((bs.drop (4 * i.val)).take 4))

/-- BUFFER_RANGE unless [off, off + n) lies below a limit: buffer code and first offset outside (08 R230). -/
def rangeCheck (code limit off n : Nat) : Res Unit :=
  check (n == 0 || decide (off + n ≤ limit)) .bufferRange (BitVec.ofNat 64 (code * 2 ^ 32 + Nat.max off limit % 2 ^ 32))

/-- The check of a buffer range against its claim (08 R230). -/
def claimCheck (i : Inst) (b : Buf) (off n : Nat) : Res Unit := rangeCheck (bufCode b) (i.claim b) off n

-- Issue.

/-- The record that a q0 command pushes, or q1's status, held when there is no place (12 R346, R347). -/
def Inst.pushRecord (i : Inst) (q1 : Bool) (bytes major : Nat) (seq : BitVec 16) : Inst :=
  let v : Word := BitVec.ofNat 64 (bytes % 2 ^ 32 * 2 ^ 32 + major * 2 ^ 16 + seq.toNat)
  if q1 then
    if i.qr[1].length < 16 then { i with qr := i.qr.set 1 (i.qr[1] ++ [v]) } else { i with q1Held := i.q1Held ++ [v] }
  else
    if i.qr[0].length < 16 then { i with qr := i.qr.set 0 (i.qr[0] ++ [v]) } else { i with q0Held := i.q0Held ++ [v] }

/-- A command of the CE: its effect on a state, and whether it leaves a copy in flight. A q0 command that leaves none pushes
its completion record now (12 R346). -/
def ceRun (s : State) (tk : Tok) (f : Res (State × Bool)) : Outcome State Fault Refusal :=
  let g := s.cur.core
  let seq := (s.inst g).q0Seq
  let flying := match f with
    | .ok r => r.2
    | .error _ => false
  engineRunThen s tk [] [] false (f.map (·.1)) fun t =>
    if s.cur.src = .q0 ∧ !flying then
      (t.modInst g fun i => i.pushRecord false 0 (majorOf .ce s.cur.word.toNat) seq).sink g
    else t

/-- A command that takes its whole effect at issue. -/
def ceNow (s : State) (tk : Tok) (f : Res State) : Outcome State Fault Refusal := ceRun s tk (f.map fun t => (t, false))

/-- The value of a c register. -/
def State.cReg (s : State) (r : CReg) : Word := (s.inst s.cur.core).c[r]

/-- The c register after a pair's first. -/
def nextReg (r : CReg) : CReg := Fin.ofNat 16 (r.val + 1)

/-- The length of a pair; 2^31 or more is ILLEGAL (12 R326). -/
def pairLen (s : State) (q : CReg) : Res Nat := do
  let l := (s.cReg (nextReg q)).toNat
  check (decide (l < 2 ^ 31)) .illegal (s.cur.word.zeroExtend 64)
  .ok l

/-- The counter that a copy counts into. -/
def counterOf : Instr → Option AReg
  | .cp _ _ _ a _ _ _ _ => some a
  | .cpn _ _ _ a _ => some a
  | .cpx _ _ _ a _ _ _ => some a
  | .cprm _ _ _ a _ _ _ => some a
  | .keepF _ _ _ a => some a
  | .cflush _ _ a _ => some a
  | .cinv _ _ a => some a
  | .cpatm _ _ _ a _ _ _ _ _ => some a
  | .collAr _ _ a _ => some a
  | .collRs _ _ a _ => some a
  | .collAg _ _ a _ => some a
  | .collBc _ _ a _ => some a
  | .sigSt _ _ _ a _ _ _ => some a
  | .sigAdd _ _ _ a _ _ _ => some a
  | .lyt _ _ _ a _ _ => some a
  | .spill _ _ _ a _ _ => some a
  | .fill _ _ _ a _ _ => some a
  | .datmClose _ _ a _ => some a
  | _ => none

/-- Whether an instruction carries ORD (12 R340). -/
def hasOrd : Instr → Bool
  | .cp _ _ _ _ _ _ o _ => o
  | .cpn _ _ _ _ o => o
  | .cpx _ _ _ _ _ o _ => o
  | .cprm _ _ _ _ _ o _ => o
  | .cpatm _ _ _ _ _ _ _ o _ => o
  | .collAr _ _ _ o => o
  | .collRs _ _ _ o => o
  | .collAg _ _ _ o => o
  | .collBc _ _ _ o => o
  | .sigSt _ _ _ _ _ o _ => o
  | .sigAdd _ _ _ _ _ o _ => o
  | .lyt _ _ _ _ _ o => o
  | .spill _ _ _ _ _ o => o
  | .fill _ _ _ _ _ o => o
  | .datmOpen _ _ _ o => o
  | _ => false

/-- Whether an instruction is a fill. -/
def isFill : Instr → Bool
  | .fill _ _ _ _ _ _ => true
  | _ => false

/-- Whether an instruction is a lyt. -/
def isLyt : Instr → Bool
  | .lyt _ _ _ _ _ _ => true
  | _ => false

/-- Whether an instruction is a collective. -/
def isColl : Instr → Bool
  | .collAr _ _ _ _ => true
  | .collRs _ _ _ _ => true
  | .collAg _ _ _ _ => true
  | .collBc _ _ _ _ => true
  | _ => false

/-- Whether a copy pushes vq6, or pops vq7. -/
def usesVq (pops : Bool) : Instr → Bool
  | .cp _ _ _ _ x y _ _ => if pops then y == .ve else x == .ve
  | _ => false

/-- The copies that a new one of this source waits for: with ORD all earlier ones of the source, else those that an ORD copy
before it still waits for (12 R340). -/
def Inst.waitsFor (i : Inst) (src : Source) (ord : Bool) : List Nat :=
  let mine := i.copies.filter fun c => c.src == src
  if ord then mine.map (·.id)
  else (mine.flatMap fun c => if hasOrd c.instr then c.after else []).filter fun n => i.copies.any fun c => c.id == n

/-- What a new copy needs besides what the executing word gives. -/
structure CopySpec where
  p : Word
  q : Word
  len : Nat
  m : Word
  zp : ZReg
  zq : ZReg
  count : Nat
  units : Nat
  slot : Option SlotRef
  mdq : Option Nat

/-- A copy issues: at most 64 are in flight (12 R323). -/
def State.startCopy (s : State) (instr : Instr) (x : CopySpec) : Res (State × Bool) := do
  let g := s.cur.core
  let i := s.inst g
  need (decide (i.copies.length < 64))
  let src := s.cur.src
  let seq := if src = .q1 then i.q1Seq else i.q0Seq
  let c : Copy := ⟨i.nextId, src, seq, s.cur.pc, instr, x.p, x.q, x.len, x.m, x.zp, x.zq, x.count, x.units, 0, 0,
    i.waitsFor src (hasOrd instr), [], x.slot, x.mdq, false, [], [], [], none, 0, [], [], [], none, false, none⟩
  .ok (s.modInst g fun i => { i with copies := i.copies ++ [c], nextId := i.nextId + 1 }, true)

/-- A copy of length 0 is complete at issue (12 R328). -/
def State.startUnlessEmpty (s : State) (instr : Instr) (x : CopySpec) : Res (State × Bool) :=
  if x.len = 0 then .ok (s, false) else s.startCopy instr x

/-- A ring slot reserved for a copy of n bytes into zP (08 R237): waits while the ring is full. -/
def State.reserveSlot (s : State) (z : ZReg) : Res (State × Option SlotRef) :=
  let g := s.cur.core
  match (s.inst g).ringOf z with
  | none => .ok (s, none)
  | some (b, n, r) => do
    need (r.res - r.head != BitVec.ofNat 32 r.slots)
    .ok (s.modInst g fun i => i.modRing b n fun x => { x with res := x.res + 1 }, some ⟨b, n, r.res⟩)

/-- The bytes of a copy into a ring fit a slot (08 R237). -/
def slotCheck (i : Inst) (z : ZReg) (n : Nat) : Res Unit :=
  match i.ringOf z with
  | none => .ok ()
  | some (b, _, r) => check (decide (n ≤ r.slotBytes)) .bufferRange (BitVec.ofNat 64 (bufCode b * 2 ^ 32 + r.base + r.slotBytes))

/-- The byte offset of a slot (08 R235, R236). -/
def BufRing.slotAt (r : BufRing) (c : Word32) : Nat := r.base + c.toNat % r.slots * r.slotBytes

/-- The offset of a reserved slot. -/
def Inst.slotBase (i : Inst) (x : SlotRef) : Nat :=
  match (i.rings x.buf)[x.ring] with
  | some r => r.slotAt x.slot
  | none => 0

/-- The byte of a buffer at which a reserved slot, if any, stands. -/
def Inst.slotFrom (i : Inst) (x : Option SlotRef) : Nat := (x.map i.slotBase).getD 0

-- Landing.

/-- Why a unit of a copy does not land: a restartable fault, it waits, or it waits for a place in an overflow list and its source
stalls (14 R390). -/
inductive CopyStop
  | fault (c : Cause) (tval : Word)
  | wait
  | stall

/-- A memory fault of a copy (12 R341). -/
def memStop {α : Type} (r : Except MemFault α) : Except CopyStop α :=
  match r with
  | .ok x => .ok x
  | .error (c, va) => .error (.fault c (BitVec.ofNat 64 va))

/-- A tagged unit that fails its Content check (15 R411). -/
def bufStop {α : Type} (b : Buf) (r : Except Nat α) : Except CopyStop α :=
  match r with
  | .ok x => .ok x
  | .error off => .error (.fault .decode (BitVec.ofNat 64 (bufCode b * 2 ^ 32 + off)))

/-- The caches after an access of the copy engine to a virtual range: past the L1D (13 R356). -/
def State.noteRange (s : State) (g : CoreNo) (va n : Nat) (d : Fin 8) (write : Bool) : State := s.noteSpan false g va n d write

/-- A copy's read of memory. -/
def State.copyRead (s : State) (g : CoreNo) (va n : Nat) : Except CopyStop (List Byte) :=
  memStop (s.readV (some g) (s.ctxOf g) va n)

/-- A copy's read of memory with its accesses to the caches, at a reuse distance. -/
def State.copyReadAt (s : State) (g : CoreNo) (va n : Nat) (d : Fin 8) : Except CopyStop (State × List Byte) :=
  (s.copyRead g va n).map fun bs => (s.noteRange g va n d false, bs)

/-- A copy's write to memory, a sink event (05 R157). -/
def State.copyWrite (s : State) (g : CoreNo) (va : Nat) (bs : List Byte) (d : Fin 8) : Except CopyStop State :=
  (memStop (s.writeV (some g) (s.ctxOf g) va bs)).map fun t => (t.noteRange g va bs.length d true).sink g

/-- A copy's write to a buffer, a sink event (05 R157). -/
def State.copyBuf (s : State) (g : CoreNo) (b : Buf) (off : Nat) (bs : List Byte) : State :=
  (s.modInst g fun i => i.bufWrite (fun k => Config.freeByte s.tick k) b off bs).sink g

/-- A copy's read of a buffer. -/
def State.copyBufRead (s : State) (g : CoreNo) (b : Buf) (off n : Nat) : Except CopyStop (List Byte) :=
  bufStop b ((s.inst g).bufRead b off n)

-- What one copy reads and writes (14 R370, R373).

/-- A copy of a command outside any instance. -/
def bareCopy (i : Instr) (zp zq : ZReg) (m : Word) : Copy :=
  ⟨0, .q1, 0, 0, i, 0, 0, 0, m, zp, zq, 0, 0, 0, 0, [], [], none, none, true, [], [], [], none, 0, [], [], [], none, false, none⟩

/-- The buffer of a space: 1 to 3 name W, A and C. -/
def bufOf : Nat → Option Buf
  | 1 => some .w
  | 2 => some .a
  | 3 => some .c
  | _ => none

/-- The space that a copy reads: 0 memory, 1 to 3 a buffer. -/
def Copy.readSpace (c : Copy) : Option Nat :=
  match c.instr with
  | .cp _ _ _ _ _ y _ _ => match y with
    | .mem => some 0
    | .w => some 1
    | .a => some 2
    | .c => some 3
    | .ve => none
  | .cpn _ _ _ _ _ => some c.zq.src
  | .lyt _ _ _ _ _ _ => some c.zq.src
  | .cpx _ _ _ _ _ _ _ => some 0
  | .cprm _ _ _ _ _ _ _ => some 0
  | .cpatm _ _ _ _ _ _ _ _ z => match z with
    | .mem => some 0
    | .w => some 1
    | .a => some 2
    | .c => some 3
  | .spill _ _ _ _ b _ => some (bufCode b)
  | _ => none

/-- The byte at an address of a space as a copy reads it: as it read it ahead, as it stood before the copy itself wrote there (none
where it was poisoned then), or as it stands. -/
def Copy.sees (c : Copy) (space a : Nat) (now : Byte) : Option Byte :=
  match c.ahead.lookup (space, a) with
  | some b => some b
  | none => match c.kept.lookup (space, a) with
    | some b => b
    | none => some now

/-- Some bytes as a copy reads them, with their addresses; the place of the first that was poisoned. -/
def Copy.seesAll (c : Copy) (space : Nat) (as : List Nat) (bs : List Byte) : Except Nat (List Byte) :=
  if c.ahead.isEmpty && c.kept.isEmpty then .ok bs
  else
    let l := (as.zip bs).map fun e => c.sees space e.1 e.2
    match l.findIdx? fun b => b.isNone with
    | some k => .error k
    | none => .ok (l.filterMap (fun b => b))

/-- The addresses of some runs of bytes. -/
def runAddrs (l : List (Nat × Nat)) : List Nat := l.flatMap fun r => (List.range r.2).map (r.1 + ·)

/-- A read of memory by a copy, of its source. -/
def State.readFor (s : State) (g : CoreNo) (c : Copy) (va n : Nat) : Except CopyStop (List Byte) := do
  let bs ← s.copyRead g va n
  let rs ← memStop (s.runs (some g) (s.ctxOf g) .read (pieces va n))
  match c.seesAll 0 (runAddrs rs) bs with
  | .ok l => .ok l
  | .error k => .error (.fault .poison (BitVec.ofNat 64 (va + k)))

/-- A read of memory by a copy, of its source, with its accesses to the caches, at a reuse distance. -/
def State.readForAt (s : State) (g : CoreNo) (c : Copy) (va n : Nat) (d : Fin 8) : Except CopyStop (State × List Byte) :=
  (s.readFor g c va n).map fun bs => (s.noteRange g va n d false, bs)

/-- A read of a buffer by a copy, of its source. -/
def State.bufReadFor (s : State) (g : CoreNo) (c : Copy) (b : Buf) (off n : Nat) : Except CopyStop (List Byte) :=
  (s.copyBufRead g b off n).map fun bs => (c.seesAll (bufCode b) ((List.range n).map (off + ·)) bs).toOption.getD bs

/-- A change of one copy. -/
def Inst.modCopy (i : Inst) (id : Nat) (f : Copy → Copy) : Inst :=
  { i with copies := i.copies.map fun c => if c.id == id then f c else c }

/-- A byte of a space of core g as it stands: 0 memory by physical address, 1 to 3 a buffer by offset; none where it is poisoned. -/
def State.spaceByte (s : State) (g : CoreNo) (space a : Nat) : Option Byte :=
  match bufOf space with
  | some b => match (s.inst g).bufRead b a 1 with
    | .ok bs => some (bs.headD 0)
    | .error _ => some (((s.inst g).buf b).get a)
  | none => if s.poisoned a 1 then none else some (s.mem.get a)

/-- Before a copy writes some bytes of a space that it reads from: it keeps what stands there (14 R373). -/
def State.keepBytes (s : State) (g : CoreNo) (c : Copy) (space : Nat) (as : List Nat) : State :=
  if c.readSpace = some space then s.modInst g fun i => i.modCopy c.id fun x =>
    { x with kept := x.kept ++ (as.filter fun a => (x.kept.lookup (space, a)).isNone).map fun a => ((space, a), s.spaceByte g space a) }
  else s

/-- A write of memory by a copy. -/
def State.writeFor (s : State) (g : CoreNo) (c : Copy) (va : Nat) (bs : List Byte) (d : Fin 8) : Except CopyStop State := do
  let rs ← memStop (s.runs (some g) (s.ctxOf g) .write (pieces va bs.length))
  (s.keepBytes g c 0 (runAddrs rs)).copyWrite g va bs d

/-- A write of a buffer by a copy. -/
def State.bufWriteFor (s : State) (g : CoreNo) (c : Copy) (b : Buf) (off : Nat) (bs : List Byte) : State :=
  (s.keepBytes g c (bufCode b) ((List.range bs.length).map (off + ·))).copyBuf g b off bs

/-- The aligned 32-bit word of a copy's source that holds a byte is read now, whole (08 R232, 14 R370); a word that cannot be read now
is not. The space is 0 for memory by virtual address, 1 to 3 for a buffer. -/
def State.readAhead (s : State) (g : CoreNo) (c : Copy) (space a : Nat) : State :=
  let w := a / 4 * 4
  let got : List (Nat × Byte) := match bufOf space with
    | some b => match (s.inst g).bufRead b w 4 with
      | .ok bs => ((List.range 4).map (w + ·)).zip bs
      | .error _ => []
    | none => match s.translate (some g) (s.ctxOf g) w .read with
      | .ok pa => if s.poisoned pa 4 then [] else (List.range 4).map fun k => (pa + k, s.mem.get (pa + k))
      | .error _ => []
  let fresh := fun (x : Copy) (e : Nat × Byte) => (x.ahead.lookup (space, e.1)).isNone && (x.kept.lookup (space, e.1)).isNone
  if c.readSpace = some space then s.modInst g fun i => i.modCopy c.id fun x =>
    { x with ahead := x.ahead ++ (got.filter (fresh x)).map fun e => ((space, e.1), e.2) }
  else s

/-- The words at the ends of a range of a copy's source that other units share: each is read once (08 R232). -/
def State.readEdges (s : State) (g : CoreNo) (c : Copy) (space lo n : Nat) : State :=
  let s1 := if lo % 4 = 0 then s else s.readAhead g c space lo
  if (lo + n) % 4 = 0 then s1 else s1.readAhead g c space (lo + n - 1)

-- Units.

/-- How many k-byte blocks of its space a range of len bytes from byte `base` up touches. -/
def blockCount (k base len : Nat) : Nat := if len = 0 then 0 else (base + len - 1) / k - base / k + 1

/-- The bytes of a range that lie in the u-th k-byte block it touches: the first, and how many. -/
def blockSpan (k base len u : Nat) : Nat × Nat :=
  let lo := Nat.max base (k * (base / k + u))
  (lo, Nat.min (base + len) (k * (base / k + u + 1)) - lo)

/-- The landing units of a copy of len bytes to byte `base` up of its destination: the 256-byte blocks that it touches there, so that no
aligned word belongs to two units (08 R232, 14 R370, 16 R419; LOG 38). -/
def unitsFrom (base len : Nat) : Nat := blockCount 256 base len

/-- The destination bytes of unit u. -/
def unitSpan (base len u : Nat) : Nat × Nat := blockSpan 256 base len u

/-- The byte of its destination from which the bytes of a copy stand: of its ring slot, of vq6's or the MDQ's entries, or its first
operand; a fill's second. -/
def Inst.dstBase (i : Inst) (c : Copy) : Nat :=
  match c.slot with
  | some r => i.slotBase r
  | none => match c.instr with
    | .cp _ _ _ _ x _ _ _ => if x = .mdq ∨ x = .ve then 0 else c.p.toNat
    | .fill _ _ _ _ _ _ => c.q.toNat
    | _ => c.p.toNat

/-- The copy with an id on a core. -/
def Inst.copy (i : Inst) (id : Nat) : Option Copy := i.copies.find? fun c => c.id == id

/-- A unit not landed yet that lies in the window of 64 units (16 R419). -/
def Copy.open' (c : Copy) (u : Nat) : Bool :=
  decide (c.first ≤ u ∧ u < c.first + 64 ∧ u < c.units) && !c.map.getLsbD (u - c.first)

/-- The progress record with its lowest landed units passed. -/
def Copy.slide (c : Copy) : Nat → Copy
  | 0 => c
  | n + 1 => if c.map.getLsbD 0 then { c with first := c.first + 1, map := c.map >>> 1 }.slide n else c

/-- The progress record after a unit has landed. -/
def Copy.land (c : Copy) (u : Nat) : Copy := { c with map := c.map ||| (1 <<< (u - c.first)) }.slide 64

/-- Every unit has landed. -/
def Copy.landed (c : Copy) : Bool := c.first == c.units

/-- A piece counted into an arrival counter (12 R337): modulo 2^32, overrun when it ends below zero. -/
def Arrival.piece (a : Arrival) (n : Nat) : Arrival :=
  let v := a.value - BitVec.ofNat 32 n
  ⟨v, a.overrun || v.slt 0⟩

/-- n bytes counted into an arrival counter, in pieces of at most 256 (12 R337). -/
def Arrival.count (a : Arrival) (n : Nat) : Arrival :=
  (List.range ((n + 255) / 256)).foldl (fun a k => a.piece (Nat.min 256 (n - 256 * k))) a

/-- n bytes of a copy are counted; a collective from q3 counts into no counter (18 R474). -/
def Inst.countPiece (i : Inst) (c : Copy) (n : Nat) : Inst :=
  match if c.src = .q3 then none else counterOf c.instr with
  | some a => { i with a := i.a.set a (i.a[a].count n) }
  | none => i

/-- A copy meets a fault at a unit: the earliest faulting unit of the command stands (12 R341). -/
def Copy.withFault (c : Copy) (u : Nat) (ca : Cause) (tval : Word) : Copy :=
  if c.fault.isSome ∧ c.faultUnit ≤ u then c else { c with fault := some (ca, tval), faultUnit := u }

/-- What happens when every byte of a copy has landed: its ring slot and its MDQ entry are there (08 R237, 12 R328). -/
def Inst.allLanded (i : Inst) (c : Copy) : Inst :=
  let i1 := i.landSlot c
  match c.mdq with
  | some n => { i1 with mdq := i1.mdq.map fun e => if e.id == n then { e with landed := true } else e }
  | none => i1

/-- The unit of a copy has landed: it is counted, and the record moves on. -/
def Inst.unitLanded (i : Inst) (c : Copy) (u n : Nat) : Inst :=
  let c1 := c.land u
  let i1 := (i.countPiece c n).modCopy c.id fun x =>
    { c1 with stage := x.stage, entry := x.entry, input := x.input, kept := x.kept, ahead := x.ahead, sectors := x.sectors, begun := none, stalled := false }
  if c1.landed then i1.allLanded c1 else i1

/-- A copy whose ORD, or whose place behind an ORD copy, holds it back (12 R340); vq6 and vq7 serve copies in issue order
(05 R151; LOG 19). -/
def Inst.heldBack (i : Inst) (c : Copy) : Bool :=
  c.after.any (fun n => i.copies.any fun x => x.id == n)
    || (usesVq false c.instr && i.copies.any fun x => decide (x.id < c.id) && usesVq false x.instr)
    || (usesVq true c.instr && i.copies.any fun x => decide (x.id < c.id) && usesVq true x.instr)

/-- The oldest lyt in flight: Larkspur executes one at a time, in the order it received them (12 R323). -/
def Inst.larkspur (i : Inst) : Option Copy := i.copies.find? fun c => isLyt c.instr

/-- Whether unit u of a copy has landed. -/
def Copy.has (c : Copy) (u : Nat) : Bool := decide (u < c.first) || (decide (u < c.first + 64) && c.map.getLsbD (u - c.first))

/-- Every other unit of the vq6 entry that holds unit u of a copy has landed (12 R328). -/
def Copy.entryFull (c : Copy) (u : Nat) : Bool := (List.range 8).all fun k => 8 * (u / 8) + k == u || c.has (8 * (u / 8) + k)

/-- Whether two copies are a D = 1 cpatm and the datm.close of its window. -/
def closesAfter (c x : Copy) : Bool :=
  match c.instr, x.instr with
  | .datmClose _ _ _ _, .cpatm _ _ _ _ _ _ e _ _ => e && c.p == x.p && decide (x.id < c.id)
  | _, _ => false

/-- Whether a copy stands still (12 R341), given the older copies that are blocked: it waits for a copy that has faulted or
stands still, for an entry of vq7 or a place in vq6, behind Larkspur's command, for a place in an overflow list, or to close a
window into which an earlier cpatm of the instance is blocked (LOG 89). -/
def Inst.still (i : Inst) (blocked : List Nat) (c : Copy) : Bool :=
  c.after.any (fun n => blocked.contains n)
    || (usesVq false c.instr && ((decide (4 ≤ i.vq[6].length) && c.entryFull c.first) || i.copies.any fun x =>
          decide (x.id < c.id) && usesVq false x.instr && blocked.contains x.id))
    || (usesVq true c.instr && ((i.vq[7].isEmpty && decide (c.stage.length < (unitSpan (i.dstBase c) c.len c.first).2)) || i.copies.any fun x =>
          decide (x.id < c.id) && usesVq true x.instr && blocked.contains x.id))
    || (isLyt c.instr && i.copies.any fun x => decide (x.id < c.id) && isLyt x.instr && blocked.contains x.id)
    || c.stalled || i.copies.any fun x => closesAfter c x && blocked.contains x.id

/-- The copies that have faulted or stand still, oldest first; one whose sent units await their answers, or with a unit begun, still
makes progress. -/
def Inst.blockedCopies (i : Inst) : List Nat :=
  i.copies.foldl (fun l c => if (c.fault.isSome || i.still l c) && c.sent.isEmpty && c.begun.isNone then l ++ [c.id] else l) []

/-- No copy makes progress any more, so that a CE fault can be taken (12 R341). -/
def Inst.ceSettled (i : Inst) : Bool := i.copies.all fun c => i.blockedCopies.contains c.id

/-- A CE fault has been met: the CE issues nothing more (12 R341). -/
def Inst.ceFaulted (i : Inst) : Bool := i.cmdFault.isSome || i.copies.any fun c => c.fault.isSome

end Sys2Proof.Machine
end

