-- ==== Sys2Proof/Machine/Flags.lean ====
section
/-! DEFINITION. Exception flags: the sticky flags of the lanes, the FPX trap and its lane mask (01 R30-R33), and MFLG (01 R34,
R35). -/

namespace Sys2Proof.Machine

/-- The exceptions whose trap FMODE enables (01 Table 1.6). -/
def enabled (fmode : Word) : Flags := BitVec.ofNat 5 (bits fmode.toNat 12 8)

/-- The lanes' sticky flags after exceptions were raised, by lane (01 R30, R31). -/
def Inst.raiseFlags (i : Inst) (f : Nat → Flags) : Inst :=
  { i with flags := Vector.ofFn fun l : Fin 512 => i.flags[l] ||| f l.val }

/-- The lanes in which an enabled exception arose (01 R32). -/
def fpxLanes (en : Flags) (f : Nat → Flags) : Mask := BitVec.ofFnLE fun l : Fin 512 => f l.val &&& en != 0

/-- The union of the enabled exceptions that arose (01 R32). -/
def fpxUnion (en : Flags) (f : Nat → Flags) : Flags := (List.range 512).foldl (fun u l => u ||| (f l &&& en)) 0

/-- The trap lane mask and TVAL of the FPX trap, when an enabled exception arose (01 R32). -/
def fpxOf (fmode : Word) (f : Nat → Flags) : Option (Mask × Word) :=
  if enabled fmode = 0 then none
  else if fpxUnion (enabled fmode) f = 0 then none
  else some (fpxLanes (enabled fmode) f, (fpxUnion (enabled fmode) f).zeroExtend 64)

/-- The flags of a matrix instruction are ORed into MFLG (01 R34, R35). -/
def Inst.orMflg (i : Inst) (f : Word) : Inst := { i with sys := { i.sys with mflg := i.sys.mflg ||| f } }

/-- MFLG.OV (01 Table 1.9). -/
def mflgOV : Word := 32

/-- The FPX trap of the executing word (01 R32): when it is delivered, the lanes' flags stand as if it had completed. -/
def State.raiseFpx (s : State) (f : Nat → Flags) (m : Mask) (tval : Word) : State :=
  s.raiseAs .fpx tval false none (some ⟨Vector.ofFn fun l : Fin 512 => f l.val, m⟩)

end Sys2Proof.Machine
end

