-- ==== Sys2Proof/Machine/VecOps.lean ====
section
/-! DEFINITION. The operand forms of the vector engine: elements and masks (06 R160-R166), vector registers and queues (05
R149-R153, 06 R167), and how a vector instruction issues and retires (02 R491, 06 R168). -/

namespace Sys2Proof.Machine

open Host

/-- How the elements of a format are placed (06 Table 6.1). -/
inductive Elem | e16 | e32 | e64
  deriving DecidableEq, Repr

/-- The width in bits. -/
def Elem.bits : Elem → Nat
  | .e16 => 16
  | .e32 => 32
  | .e64 => 64

/-- The active element count of a format (06 R161). -/
def Elem.count : Elem → Nat
  | .e64 => 256
  | _ => 512

/-- Placement of a floating-point format. -/
def elemF : FpFmt → Elem
  | .f32 => .e32
  | .f64 => .e64
  | _ => .e16

/-- Placement of an integer format. -/
def elemI : IntFmt → Elem
  | .i64 => .e64
  | _ => .e32

/-- Placement of a format code 0 to 6. -/
def elemV : VFmt → Elem
  | .f64 | .i64 => .e64
  | .bf16 | .f16 => .e16
  | _ => .e32

/-- Placement of a lane width. -/
def elemW : LaneW → Elem
  | .b32 => .e32
  | .b64 => .e64

/-- Placement of FP32 and FP64. -/
def elemH : HFmt → Elem
  | .f32 => .e32
  | .f64 => .e64

/-- Placement of the formats of vxacc and viota. -/
def elemX : FixFmt → Elem
  | .f64 | .i64 => .e64
  | _ => .e32

/-- Lane l of a vector; lanes beyond 511 do not exist. -/
def laneAt (v : Lanes) (l : Nat) : Nat := if h : l < 512 then v[l].toNat else 0

/-- Element n of a vector (06 R161, R162). -/
def elemAt (w : Elem) (v : Lanes) (n : Nat) : Nat :=
  match w with
  | .e16 => laneAt v n % 65536
  | .e32 => laneAt v n
  | .e64 => laneAt v (2 * n) + laneAt v (2 * n + 1) * 2 ^ 32

/-- A vector with some elements replaced (06 R161, R162). -/
def setElems (w : Elem) (old : Lanes) (on : Nat → Bool) (val : Nat → Nat) : Lanes :=
  Vector.ofFn fun l : Fin 512 =>
    match w with
    | .e64 => if on (l.val / 2) then BitVec.ofNat 32 (val (l.val / 2) / 2 ^ (32 * (l.val % 2))) else old[l]
    | _ => if on l.val then BitVec.ofNat 32 (val l.val) else old[l]

/-- The value of a mask register; k0 reads as all ones (06 R165). -/
def Inst.mask (i : Inst) (k : KReg) : Mask := if k = 0 then BitVec.allOnes 512 else i.k[k]

/-- Whether element n exists and is active (06 R163, R164). -/
def active (w : Elem) (m : Mask) (n : Nat) : Bool := decide (n < w.count) && m.getLsbD n

/-- The active elements in ascending order. -/
def actives (w : Elem) (m : Mask) : List Nat := (List.range w.count).filter fun n => m.getLsbD n

/-- A mask register written for some elements (06 R166). -/
def Inst.setMask (i : Inst) (d : KReg) (on : Nat → Bool) (val : Nat → Bool) : Inst :=
  { i with k := i.k.set d (BitVec.ofFnLE fun l : Fin 512 => if on l.val then val l.val else i.k[d].getLsbD l.val) }

-- Vector registers and queues (05 Table 5.4).

/-- The vector queue that a register number names: 24 to 31 are vq0 to vq7. -/
def vqNo (r : VReg) : Option (Fin 8) := if h : 24 ≤ r.val then some ⟨r.val - 24, by omega⟩ else none

/-- Whether a register number names a vector queue. -/
def isVq (r : VReg) : Bool := decide (24 ≤ r.val)

/-- A read against a vector queue's direction (05 R149, R153). -/
def vReadCheck (r : VReg) : Res Unit :=
  if isVq r && !(r == 24 || r == 26 || r == 30) then trapN .queueProtocol r.val else .ok ()

/-- A write against a vector queue's direction (05 R149, R153). -/
def vWriteCheck (r : VReg) : Res Unit :=
  if isVq r && !(r == 25 || r == 27 || r == 31) then trapN .queueProtocol r.val else .ok ()

/-- Whether a vector source can be read now (05 R151). -/
def Inst.vReadable (i : Inst) (r : VReg) : Bool :=
  match vqNo r with
  | none => true
  | some q => !i.vq[q].isEmpty

/-- The value of a vector source: a register, or the oldest entry of a queue. -/
def Inst.readV (i : Inst) (r : VReg) : Lanes :=
  match vqNo r with
  | none => if h : r.val < 24 then i.v[r.val] else zeroLanes
  | some q => i.vq[q].headD zeroLanes

/-- Whether the queue that a vector destination names has a free place (05 R151). -/
def Inst.vHasRoom (i : Inst) (r : VReg) : Bool :=
  match vqNo r with
  | none => true
  | some q => decide (i.vq[q].length < 4)

/-- What an instruction leaves where it writes nothing: the register's lanes, and zero in a queue entry (05 R149). -/
def Inst.oldV (i : Inst) (r : VReg) : Lanes := if isVq r then zeroLanes else i.readV r

/-- The pop of a vector queue. -/
def Inst.popV (i : Inst) (r : VReg) : Inst :=
  match vqNo r with
  | none => i
  | some q => { i with vq := i.vq.set q i.vq[q].tail }

/-- A write of a vector register, or a push. -/
def Inst.writeV (i : Inst) (r : VReg) (x : Lanes) : Inst :=
  match vqNo r with
  | none => if h : r.val < 24 then { i with v := i.v.set r.val x } else i
  | some q => { i with vq := i.vq.set q (i.vq[q] ++ [x]) }

/-- The pops of a vector instruction's sources: each distinct queue once (05 R152). -/
def Inst.popVs (i : Inst) (rs : List VReg) : Inst := (rs.eraseDups.filter isVq).foldl Inst.popV i

/-- The direction checks of sources in order, then of the destination (05 R153; LOG 17). -/
def vOperandChecks (srcs : List VReg) (dst : Option VReg) : Res Unit := do
  srcs.forM vReadCheck
  match dst with
  | some d => vWriteCheck d
  | none => .ok ()

-- Issue and retirement.

/-- What a vector instruction does: the new value of its destination, the exceptions it raises by lane if it is arithmetic, and
everything else. -/
structure VecEffect where
  out : Lanes
  flags : Option (Nat → Flags)
  other : State → State

/-- The tokens of the executing word are there (02 R47-R49). -/
def State.tokReady (s : State) (tk : Tok) : Bool :=
  let e := s.cur.src.engine
  (s.inst s.cur.core).tokensReady (if tk.tw then [defaultIn e] else []) (if tk.ts then [defaultOut e] else [])

/-- The pops, the flags and the writes of a vector instruction; a queue pop or push is a sink event (05 R157). -/
def State.vecCommit (s : State) (srcs : List VReg) (dst : Option VReg) (e : VecEffect) : State :=
  let g := s.cur.core
  let t := s.modInst g fun i =>
    let i1 := i.popVs srcs
    let i2 := match e.flags with
      | some f => i1.raiseFlags f
      | none => i1
    match dst with
    | some d => i2.writeV d e.out
    | none => i2
  e.other (if (srcs ++ dst.toList).any isVq then t.sink g else t)

/-- A vector instruction's checks and waits (02 R491, 05 R151): its operands' directions, checks of its own, then what it
computes. Checks on values that it pops (late) follow the waits, the others go before them. The directions go before the checks of its
own, as of the tile that vtrd or vtwr names (LOG 17). -/
def State.vecPrep (s : State) (srcs : List VReg) (dst : Option VReg) (late : Bool) (pre : Res Unit)
    (f : Inst → List Lanes → Lanes → Res VecEffect) : Res VecEffect :=
  let i := s.inst s.cur.core
  let r := f i (srcs.map i.readV) (match dst with
    | some d => i.oldV d
    | none => zeroLanes)
  do
    vOperandChecks srcs dst
    pre
    if !late then
      match r with
      | .error (.trap c v) => .error (.trap c v)
      | _ => .ok ()
    need (srcs.all i.vReadable && dst.all i.vHasRoom)
    asLate late r

/-- A vector instruction: its effect, or its FPX trap (01 R32), when its tokens are there. -/
def vecRun (s : State) (tk : Tok) (srcs : List VReg) (dst : Option VReg) (late : Bool) (pre : Res Unit)
    (f : Inst → List Lanes → Lanes → Res VecEffect) : Outcome State Fault Refusal :=
  match s.vecPrep srcs dst late pre f with
  | .error e => engineRun s tk [] [] false (.error e)
  | .ok e =>
    match e.flags with
    | some fl => match fpxOf (s.inst s.cur.core).sys.fmode fl with
      | some t => .next (if s.tokReady tk then s.raiseFpx fl t.1 t.2 else s)
      | none => engineRun s tk [] [] false (.ok (s.vecCommit srcs dst e))
    | none => engineRun s tk [] [] false (.ok (s.vecCommit srcs dst e))

/-- An element-by-element instruction (06 R164): reads elements of placement w, writes elements of placement x with the same
count. `fp` says whether it can raise exceptions. -/
def vecElems (s : State) (tk : Tok) (srcs : List VReg) (d : VReg) (k : KReg) (w x : Elem) (fp : Bool) (pre : Res Unit)
    (op : Inst → List Nat → Nat × Flags) : Outcome State Fault Refusal :=
  vecRun s tk srcs (some d) false pre fun i vs old =>
    let on := active w (i.mask k)
    let r := fun n => op i (vs.map fun v => elemAt w v n)
    .ok ⟨setElems x old on fun n => (r n).1, if fp then some fun l => if on l then (r l).2 else 0 else none, id⟩

/-- An instruction that moves elements: element n of the result from the sources, for every active n. -/
def vecMove (s : State) (tk : Tok) (srcs : List VReg) (d : VReg) (k : KReg) (w : Elem)
    (val : Inst → List Lanes → Nat → Nat) : Outcome State Fault Refusal :=
  vecRun s tk srcs (some d) false (.ok ()) fun i vs old => .ok ⟨setElems w old (active w (i.mask k)) (val i vs), none, id⟩

/-- An instruction that writes a mask register (06 R166). -/
def vecToMask (s : State) (tk : Tok) (srcs : List VReg) (d : KReg) (k : KReg) (w : Elem) (fp : Bool)
    (op : Inst → List Lanes → Nat → Bool × Flags) : Outcome State Fault Refusal :=
  vecRun s tk srcs none false (.ok ()) fun i vs _ =>
    let on := active w (i.mask k)
    let r := op i vs
    .ok ⟨zeroLanes, if fp then some fun l => if on l then (r l).2 else 0 else none,
      fun t => t.modInst s.cur.core fun j => j.setMask d on fun n => (r n).1⟩

end Sys2Proof.Machine
end

