-- ==== Sys2Proof/Machine/VecArith.lean ====
section
/-! DEFINITION. Vector arithmetic: floating point (06 R169-R172), integers and logic (06 R173), comparisons (06 R174) and
conversions (06 R176, R177). -/

namespace Sys2Proof.Machine

open Host

/-- A floating-point instruction of elements of format f, in a mode (06 R169). -/
def vecFp (s : State) (tk : Tok) (srcs : List VReg) (d : VReg) (k : KReg) (r : Rounding) (f : FpFmt)
    (op : Fmt → Rounding → List Num → Nat × Flags) : Outcome State Fault Refusal :=
  vecElems s tk srcs d k (elemF f) (elemF f) true (.ok ()) fun i xs =>
    op (FpFmt.fmt f) (modeOf r i.sys.fmode) (xs.map (decodeF (FpFmt.fmt f)))

/-- An operand of an element's operation. -/
def arg (xs : List Num) (n : Nat) : Num := xs.getD n (.fin false 0 0)

/-- vadd (06 R169). -/
def execVadd (tk : Tok) (d a b : VReg) (r : Rounding) (f : FpFmt) (k : KReg) (s : State) :=
  vecFp s tk [a, b] d k r f fun fm md xs => fAdd fm md (arg xs 0) (arg xs 1)
/-- vsub (06 R169). -/
def execVsub (tk : Tok) (d a b : VReg) (r : Rounding) (f : FpFmt) (k : KReg) (s : State) :=
  vecFp s tk [a, b] d k r f fun fm md xs => fAdd fm md (arg xs 0) (arg xs 1).negate
/-- vmul (06 R169). -/
def execVmul (tk : Tok) (d a b : VReg) (r : Rounding) (f : FpFmt) (k : KReg) (s : State) :=
  vecFp s tk [a, b] d k r f fun fm md xs => fMul fm md (arg xs 0) (arg xs 1)
/-- vdiv (06 R169). -/
def execVdiv (tk : Tok) (d a b : VReg) (r : Rounding) (f : FpFmt) (k : KReg) (s : State) :=
  vecFp s tk [a, b] d k r f fun fm md xs => fDiv fm md (arg xs 0) (arg xs 1)
/-- vsqrt (06 R169). -/
def execVsqrt (tk : Tok) (d a : VReg) (r : Rounding) (f : FpFmt) (k : KReg) (s : State) :=
  vecFp s tk [a] d k r f fun fm md xs => fSqrt fm md (arg xs 0)
/-- vfma (06 R169, R170): vd is a source too (06 R167). -/
def execVfma (tk : Tok) (d a b : VReg) (r : Rounding) (f : FpFmt) (k : KReg) (s : State) :=
  vecFp s tk [a, b, d] d k r f fun fm md xs => fFma fm md false (arg xs 0) (arg xs 1) (arg xs 2)
/-- vfms (06 R169, R170). -/
def execVfms (tk : Tok) (d a b : VReg) (r : Rounding) (f : FpFmt) (k : KReg) (s : State) :=
  vecFp s tk [a, b, d] d k r f fun fm md xs => fFma fm md false (arg xs 0) (arg xs 1) (arg xs 2).negate
/-- vfnma (06 R169, R170). -/
def execVfnma (tk : Tok) (d a b : VReg) (r : Rounding) (f : FpFmt) (k : KReg) (s : State) :=
  vecFp s tk [a, b, d] d k r f fun fm md xs => fFma fm md true (arg xs 0) (arg xs 1) (arg xs 2)

/-- vmin and vmax (06 R171). -/
def vecMinMax (s : State) (tk : Tok) (d a b : VReg) (f : FpFmt) (k : KReg) (isMax : Bool) : Outcome State Fault Refusal :=
  vecElems s tk [a, b] d k (elemF f) (elemF f) true (.ok ()) fun _ xs => fMinMax (FpFmt.fmt f) isMax (xs.getD 0 0) (xs.getD 1 0)

/-- vmin (06 R171). -/
def execVmin (tk : Tok) (d a b : VReg) (f : FpFmt) (k : KReg) (s : State) := vecMinMax s tk d a b f k false
/-- vmax (06 R171). -/
def execVmax (tk : Tok) (d a b : VReg) (f : FpFmt) (k : KReg) (s : State) := vecMinMax s tk d a b f k true

/-- The sign bit of an encoding. -/
def signOf (f : Fmt) (x : Nat) : Nat := x / 2 ^ (f.ebits + f.mbits) % 2

/-- An encoding with another sign bit; every other bit is kept. -/
def withSign (f : Fmt) (x n : Nat) : Nat := x % 2 ^ (f.ebits + f.mbits) + n % 2 * 2 ^ (f.ebits + f.mbits)

/-- A sign operation (06 R172). -/
def vecSign (s : State) (tk : Tok) (srcs : List VReg) (d : VReg) (f : FpFmt) (k : KReg) (op : Nat → Nat → Nat) :
    Outcome State Fault Refusal :=
  vecElems s tk srcs d k (elemF f) (elemF f) false (.ok ()) fun _ xs =>
    (withSign (FpFmt.fmt f) (xs.getD 0 0) (op (signOf (FpFmt.fmt f) (xs.getD 0 0)) (signOf (FpFmt.fmt f) (xs.getD 1 0))), 0)

/-- vsgn.neg (06 R172). -/
def execVsgnNeg (tk : Tok) (d a : VReg) (f : FpFmt) (k : KReg) (s : State) := vecSign s tk [a] d f k fun x _ => 1 - x
/-- vsgn.abs (06 R172). -/
def execVsgnAbs (tk : Tok) (d a : VReg) (f : FpFmt) (k : KReg) (s : State) := vecSign s tk [a] d f k fun _ _ => 0
/-- vsgn.cp (06 R172). -/
def execVsgnCp (tk : Tok) (d a b : VReg) (f : FpFmt) (k : KReg) (s : State) := vecSign s tk [a, b] d f k fun _ y => y
/-- vsgn.xs (06 R172). -/
def execVsgnXs (tk : Tok) (d a b : VReg) (f : FpFmt) (k : KReg) (s : State) := vecSign s tk [a, b] d f k fun x y => x + y

/-- floor(log2 |a|), -2^31 for a zero, 2^31 - 1 for an infinity or NaN (06 Table 6.3). -/
def expOf : Num → Int
  | .fin _ m e => if m = 0 then -2 ^ 31 else floorLog2 m e
  | _ => 2 ^ 31 - 1

/-- The two's-complement encoding of an integer in w bits. -/
def twos (w : Nat) (x : Int) : Nat := (x % 2 ^ w).toNat

/-- vsgn.exp (06 R172): an INT64 under FP64, otherwise an INT32 in all 32 bits of the lane. -/
def execVsgnExp (tk : Tok) (d a : VReg) (f : FpFmt) (k : KReg) (s : State) :=
  let x : Elem := if f = .f64 then .e64 else .e32
  vecElems s tk [a] d k (elemF f) x false (.ok ()) fun _ xs => (twos x.bits (expOf (decodeF (FpFmt.fmt f) (xs.getD 0 0))), 0)

/-- The integer that w bits stand for, signed or not. -/
def intOf (signed : Bool) (w v : Nat) : Int := if signed && decide (2 ^ (w - 1) ≤ v) then (v : Int) - 2 ^ w else v

/-- Whether an integer format is signed (01 R17). -/
def signedI : IntFmt → Bool
  | .u32 => false
  | _ => true

/-- An integer instruction on elements of w bits (06 R173). -/
def vecInt (s : State) (tk : Tok) (d a b : VReg) (f : IntFmt) (k : KReg) (op : Nat → Nat → Nat → Nat) :
    Outcome State Fault Refusal :=
  let w := (elemI f).bits
  vecElems s tk [a, b] d k (elemI f) (elemI f) false (.ok ()) fun _ xs => (op w (xs.getD 0 0) (xs.getD 1 0) % 2 ^ w, 0)

/-- viadd (06 R173). -/
def execViadd (tk : Tok) (d a b : VReg) (f : IntFmt) (k : KReg) (s : State) := vecInt s tk d a b f k fun _ x y => x + y
/-- visub (06 R173). -/
def execVisub (tk : Tok) (d a b : VReg) (f : IntFmt) (k : KReg) (s : State) := vecInt s tk d a b f k fun w x y => x + 2 ^ w - y
/-- vimul (06 R173). -/
def execVimul (tk : Tok) (d a b : VReg) (f : IntFmt) (k : KReg) (s : State) := vecInt s tk d a b f k fun _ x y => x * y
/-- vand (06 R173). -/
def execVand (tk : Tok) (d a b : VReg) (f : IntFmt) (k : KReg) (s : State) := vecInt s tk d a b f k fun _ x y => x &&& y
/-- vor (06 R173). -/
def execVor (tk : Tok) (d a b : VReg) (f : IntFmt) (k : KReg) (s : State) := vecInt s tk d a b f k fun _ x y => x ||| y
/-- vxor (06 R173). -/
def execVxor (tk : Tok) (d a b : VReg) (f : IntFmt) (k : KReg) (s : State) := vecInt s tk d a b f k fun _ x y => x ^^^ y
/-- vshl (06 R173). -/
def execVshl (tk : Tok) (d a b : VReg) (f : IntFmt) (k : KReg) (s : State) :=
  vecInt s tk d a b f k fun w x y => x * 2 ^ (y % w)
/-- vshr (06 R173). -/
def execVshr (tk : Tok) (d a b : VReg) (f : IntFmt) (k : KReg) (s : State) :=
  vecInt s tk d a b f k fun w x y => x / 2 ^ (y % w)
/-- vsar (06 R173). -/
def execVsar (tk : Tok) (d a b : VReg) (f : IntFmt) (k : KReg) (s : State) :=
  vecInt s tk d a b f k fun w x y => twos w (intOf true w x / 2 ^ (y % w))

/-- The smaller or the larger of two encodings of an integer format. -/
def pickI (signed isMax : Bool) (w x y : Nat) : Nat :=
  if decide (intOf signed w x ≤ intOf signed w y) != isMax then x else y

/-- vimin (06 R173). -/
def execVimin (tk : Tok) (d a b : VReg) (f : IntFmt) (k : KReg) (s : State) := vecInt s tk d a b f k (pickI (signedI f) false)
/-- vimax (06 R173). -/
def execVimax (tk : Tok) (d a b : VReg) (f : IntFmt) (k : KReg) (s : State) := vecInt s tk d a b f k (pickI (signedI f) true)

/-- A comparison of 06 Table 6.5 on floating-point values: the bit, and NV. -/
def vcmpOf (c : Cond) (x y : Num) : Bool × Flags :=
  let o := compareNum x y
  let anyNan := flagIf o.isNone flagNV
  let sig := flagIf (x.snan || y.snan) flagNV
  match c with
  | .eq => (o == some .eq, sig)
  | .ne => (o != some .eq, sig)
  | .lt => (o == some .lt, anyNan)
  | .le => (o == some .lt || o == some .eq, anyNan)
  | .gt => (o == some .gt, anyNan)
  | .ge => (o == some .gt || o == some .eq, anyNan)
  | .un => (o.isNone, sig)
  | .or => (o.isSome, sig)

/-- vcmp (06 R174). -/
def execVcmp (tk : Tok) (d : KReg) (a b : VReg) (c : Cond) (f : FpFmt) (k : KReg) (s : State) :=
  vecToMask s tk [a, b] d k (elemF f) true fun _ vs n =>
    let x := fun j => decodeF (FpFmt.fmt f) (elemAt (elemF f) (vs.getD j zeroLanes) n)
    vcmpOf c (x 0) (x 1)

/-- vicmp (06 R174). -/
def execVicmp (tk : Tok) (d : KReg) (a b : VReg) (c : ICond) (f : IntFmt) (k : KReg) (s : State) :=
  vecToMask s tk [a, b] d k (elemI f) false fun _ vs n =>
    let x := fun j => intOf (signedI f) (elemI f).bits (elemAt (elemI f) (vs.getD j zeroLanes) n)
    let r := match c with
      | .eq => x 0 == x 1
      | .ne => x 0 != x 1
      | .lt => decide (x 0 < x 1)
      | .le => decide (x 0 ≤ x 1)
      | .gt => decide (x 1 < x 0)
      | .ge => decide (x 1 ≤ x 0)
    (r, 0)

-- Conversions (06 R176, R177).

/-- A format code 0 to 6 as a floating-point format, if it is one. -/
def fpOf : VFmt → Option Fmt
  | .f32 => some fmtF32
  | .f64 => some fmtF64
  | .bf16 => some fmtBF16
  | .f16 => some fmtF16
  | _ => none

/-- Whether a format code is signed. -/
def signedV : VFmt → Bool
  | .u32 => false
  | _ => true

/-- Lowest and highest value of an integer of w bits (01 Table 1.4). -/
def intRange (signed : Bool) (w : Nat) : Int × Int := if signed then (-2 ^ (w - 1), 2 ^ (w - 1) - 1) else (0, 2 ^ w - 1)

/-- The conversion of one element from format f to format g (06 R176). -/
def convertElem (f g : VFmt) (md : Rounding) (x : Nat) : Nat × Flags :=
  let wg := (elemV g).bits
  let rg := intRange (signedV g) wg
  match fpOf f, fpOf g with
  | some a, some b => convertF b md (decodeF a x)
  | some a, none =>
    let r := toIntRange md rg.1 rg.2 (decodeF a x)
    (twos wg r.1, r.2)
  | none, some b => ofInt b md (intOf (signedV f) (elemV f).bits x)
  | none, none =>
    let v := intOf (signedV f) (elemV f).bits x
    if v < rg.1 then (twos wg rg.1, flagNV) else if rg.2 < v then (twos wg rg.2, flagNV) else (twos wg v, 0)

/-- vcvt (06 R176, R177): g is the source's format code and f the destination's. Element n of a widening reads element
256 H + n, and element n of a narrowing writes element 256 H + n. -/
def execVcvt (tk : Tok) (d a : VReg) (h : Bool) (g : VFmt) (r : Rounding) (f : VFmt) (k : KReg) (s : State) :=
  vecRun s tk [a] (some d) false (.ok ()) fun i vs old =>
    let src := vs.getD 0 zeroLanes
    let md := modeOf r i.sys.fmode
    let n64 := g.is64 || f.is64
    let on := active (if n64 then .e64 else .e32) (i.mask k)
    let off := if h then 256 else 0
    let rd := if f.is64 && !g.is64 then off else 0
    let wr := if g.is64 && !f.is64 then off else 0
    let res := fun n => convertElem g f md (elemAt (elemV g) src (rd + n))
    .ok ⟨setElems (elemV f) old (fun n => decide (wr ≤ n) && on (n - wr)) fun n => (res (n - wr)).1,
      some fun l => if on l then (res l).2 else 0, id⟩

end Sys2Proof.Machine
end

