-- ==== Sys2Proof/Machine/CopyCmds.lean ====
section
/-! DEFINITION. The commands of the copy engine, the helper and Larkspur (12), cache residency and the spill area (13 R364-R368),
and the landing of their units. -/

namespace Sys2Proof.Machine

open Host

-- cp (12 R328-R330).

/-- The buffer behind a space of cp. -/
def cpSrcBuf : CpSrc → Option Buf
  | .w => some .w
  | .a => some .a
  | .c => some .c
  | _ => none

/-- The buffer behind a destination space of cp. -/
def cpDstBuf : CpDst → Option Buf
  | .w => some .w
  | .a => some .a
  | .c => some .c
  | _ => none

/-- The ring of a destination stream register must be there (12 R329). -/
def ringCheck (i : Inst) (zp : ZReg) (p n : Nat) : Res Unit := do
  streamCheck (i.ringOf zp).isSome p 0x0B
  slotCheck i zp n

/-- cp (12 R328, R329). -/
def execCp (tk : Tok) (p q : CReg) (a : AReg) (x : CpDst) (y : CpSrc) (o : Bool) (z : Fin 8) (s : State) :
    Outcome State Fault Refusal :=
  let g := s.cur.core
  let i := s.inst g
  let zp := i.z[p]
  ceRun s tk do
    let len ← pairLen s q
    check (x != .mdq || len == 1024) .queueProtocol (s.cReg (nextReg q))
    check (!(x == .ve || y == .ve) || len % 2048 == 0) .queueProtocol (s.cReg (nextReg q))
    if x = .ring then ringCheck i zp p.val len
    match cpSrcBuf y with
      | some b => claimCheck i b (s.cReg q).toNat len
      | none => .ok ()
    match cpDstBuf x with
      | some b => claimCheck i b (s.cReg p).toNat len
      | none => .ok ()
    let spec : CopySpec := ⟨s.cReg p, s.cReg q, len, 0, zp, .reset, len, unitsFrom 0 len, none, none⟩
    if len = 0 then .ok (s, false)
    else if x = .ring then do
      need (decide (i.copies.length < 64))
      let r ← s.reserveSlot zp
      r.1.startCopy (.cp tk p q a x y o z) { spec with slot := r.2, units := unitsFrom (i.slotFrom r.2) len }
    else if x = .mdq then do
      need (decide (i.mdq.length < 8))
      let t := s.modInst g fun i => { i with mdq := i.mdq ++ [⟨i.nextId, [], false⟩] }
      t.startCopy (.cp tk p q a x y o z) { spec with mdq := some i.nextId }
    else s.startCopy (.cp tk p q a x y o z) { spec with units := if x = .ve then unitsFrom 0 len else unitsFrom (s.cReg p).toNat len }

/-- The copy of a core as it stands now. -/
def State.mine (s : State) (g : CoreNo) (c : Copy) : Copy := ((s.inst g).copy c.id).getD c

/-- n bytes of a copy's source from an address up; an aligned word that they share with another unit is read once (08 R232). -/
def State.sourceBytes (s : State) (g : CoreNo) (c : Copy) (space : Nat) (a n : Nat) (d : Fin 8) : Except CopyStop (State × List Byte) :=
  let t := s.readEdges g c space a n
  match bufOf space with
  | some b => (t.bufReadFor g (t.mine g c) b a n).map fun bs => (t, bs)
  | none => t.readForAt g (t.mine g c) a n d

/-- The bytes that the source of a cp holds for unit u, n from offset off up; those of vq7 come in the order of the entries, as much of
each as is not landed yet (12 R328). -/
def State.cpBytes (s : State) (g : CoreNo) (c : Copy) (y : CpSrc) (d : Fin 8) (u off n : Nat) : Except CopyStop (State × List Byte) :=
  let i := s.inst g
  match y with
  | .mem => s.sourceBytes g c 0 (c.q + BitVec.ofNat 64 off).toNat n d
  | .w => s.sourceBytes g c 1 (c.q.toNat + off) n d
  | .a => s.sourceBytes g c 2 (c.q.toNat + off) n d
  | .c => s.sourceBytes g c 3 (c.q.toNat + off) n d
  | .ve =>
    if u != c.first then .error .wait
    else if n ≤ c.stage.length then
      .ok (s.modInst g fun i => i.modCopy c.id fun e => { e with stage := c.stage.drop n }, c.stage.take n)
    else match i.vq[7] with
      | [] => .error .wait
      | l :: rest =>
        let st := c.stage ++ lanesBytes l
        .ok ((s.modInst g fun i => { i with vq := i.vq.set 7 rest }.modCopy c.id fun e => { e with stage := st.drop n }).sink g, st.take n)

/-- Bytes of unit u of a cp, at offset off of the copy and byte `lo` of its destination, delivered. Eight units make an entry of vq6, which
is pushed with the last of them (12 R328; LOG 38). -/
def State.cpDeliver (s : State) (g : CoreNo) (c : Copy) (x : CpDst) (d : Fin 8) (u off lo : Nat) (bs : List Byte) : Except CopyStop State :=
  match x with
  | .mem => s.writeFor g c (lo % 2 ^ 64) bs d
  | .w => .ok (s.bufWriteFor g c .w lo bs)
  | .a => .ok (s.bufWriteFor g c .a lo bs)
  | .c => .ok (s.bufWriteFor g c .c lo bs)
  | .ring => match c.slot with
    | some sl => .ok (s.bufWriteFor g c sl.buf lo bs)
    | none => .ok s
  | .mdq =>
    let fill := fun e : MdqEntry => if c.mdq = some e.id then { e with data := e.data.put off bs } else e
    .ok ((s.modInst g fun i => { i with mdq := i.mdq.map fill }).sink g)
  | .ve =>
    let old := c.entry ++ List.replicate (2048 - c.entry.length) 0
    let st := old.take (256 * (u % 8)) ++ bs ++ old.drop (256 * (u % 8) + 256)
    if u / 8 ≠ c.first / 8 then .error .wait
    else if !c.entryFull u then .ok ((s.modInst g fun i => i.modCopy c.id fun e => { e with entry := st }).sink g)
    else if 4 ≤ (s.inst g).vq[6].length then .error .wait
    else .ok ((s.modInst g fun i => { i with vq := i.vq.set 6 (i.vq[6] ++ [lanesOf st]) }.modCopy c.id fun e =>
      { e with entry := [] }).sink g)

/-- The space that a cp writes: 0 memory, 1 to 3 a buffer, none otherwise. -/
def Copy.cpSpace (c : Copy) (x : CpDst) : Option Nat :=
  match x with
  | .mem => some 0
  | .ring => c.slot.map fun r => bufCode r.buf
  | _ => (cpDstBuf x).map bufCode

/-- The movement of a unit of a cp: its source bytes, delivered to the destination. The bytes of the destination that the source range
overlaps receive open values (12 R330; LOG 2). -/
def State.moveCp (s : State) (g : CoreNo) (c : Copy) (x : CpDst) (y : CpSrc) (d : Fin 8) (u : Nat) : Except CopyStop State := do
  let db := (s.inst g).dstBase c
  let sp := unitSpan db c.len u
  let off := sp.1 - db
  let r ← s.cpBytes g c y d u off sp.2
  let same := c.readSpace.isSome && c.readSpace == c.cpSpace x
  let lap := fun k : Nat => same && decide (c.q.toNat ≤ k ∧ k < c.q.toNat + c.len)
  let bs := r.2.zipIdx.map fun e => if lap (sp.1 + e.2) then Config.freeByte s.tick (off + e.2) else e.1
  r.1.cpDeliver g c x d u off sp.1 bs

-- cpn (12 R332, R333).

/-- The bytes that a cpn or lyt of a stream counts: one more per MXFP4 block (12 R332). -/
def ZReg.countBytes (z : ZReg) : Nat :=
  (z.elems * z.w * (if z.fmt = 10 then z.planes else 1) + 7) / 8 + (if z.fmt = 6 then z.elems / 32 else 0)

/-- A ring is no source of a copy (08 R239). -/
def notRing (i : Inst) (n : Sys2Proof.ZReg) : Res Unit :=
  let z := i.z[n]
  streamCheck (!(z.src == 4 || z.src == 5)) n.val 0x06

/-- Where the bytes of a stream stand: memory, or a buffer; and the byte of its data origin. -/
structure Place where
  buf : Option Buf
  origin : Nat

/-- The place of a stream register that a copy reads or writes. -/
def Inst.placeOf (i : Inst) (z : ZReg) (slot : Option SlotRef) : Place :=
  match slot with
  | some r => ⟨some r.buf, i.slotBase r⟩
  | none => match z.src with
    | 1 => ⟨some .w, z.base.toNat⟩
    | 2 => ⟨some .a, z.base.toNat⟩
    | 3 => ⟨some .c, z.base.toNat⟩
    | _ => ⟨none, z.base.toNat⟩

/-- A part of a copy between streams: its source bit, its destination bit, relative to the byte of the data origin, and its width. -/
abbrev StreamPart := Int × Int × Nat

/-- The parts of a cpn: the elements, those of PN by plane, and the scales of MXFP4 blocks (12 R332). -/
def cpnParts (zp zq : ZReg) : List StreamPart :=
  let es := (List.range zq.elems).flatMap fun n =>
    (List.range (if zq.fmt = 10 then zq.planes else 1)).map fun j => (zq.bitOf n + 8 * zq.planeOf j, zp.bitOf n + 8 * zp.planeOf j, zq.w)
  if zq.fmt = 6 then es ++ (List.range (zq.elems / 32)).map fun b => (8 * zq.scaleOf b, 8 * zp.scaleOf b, 8) else es

/-- The parts of a lyt: element k from place k of the values that Larkspur has read (12 R354). -/
def lytParts (zp : ZReg) : List StreamPart := (List.range zp.elems).map fun k => (64 * (k : Nat), zp.bitOf k, zp.w)

/-- A part cut where it passes from one 256-byte block of its destination to the next; the data origin stands at byte `origin`. -/
def cutPart (origin : Nat) (e : StreamPart) : List StreamPart :=
  let room := (2048 - (8 * (origin : Int) + e.2.1) % 2048).toNat
  if e.2.2 ≤ room then [e] else [(e.1, e.2.1, room), (e.1 + room, e.2.1 + room, e.2.2 - room)]

/-- The 256-byte block of its destination that a part begins in. -/
def partBlock (origin : Nat) (e : StreamPart) : Int := (8 * (origin : Int) + e.2.1) / 2048

/-- The 256-byte blocks of the destination that parts touch, each once, in the order in which the parts reach them. -/
def streamBlocks (origin : Nat) (l : List StreamPart) : List Int := ((l.flatMap (cutPart origin)).map (partBlock origin)).eraseDups

/-- The landing units of a copy between streams (16 R419; LOG 38). -/
def streamUnits (origin : Nat) (l : List StreamPart) : Nat := (streamBlocks origin l).length

/-- The parts of unit u. -/
def unitParts (origin : Nat) (l : List StreamPart) (u : Nat) : List StreamPart :=
  match (streamBlocks origin l)[u]? with
  | some b => (l.flatMap (cutPart origin)).filter fun e => partBlock origin e == b
  | none => []

/-- The bytes that the first k units of a copy between streams count: their bits, the last byte begun counted whole (12 R332, R337). -/
def streamCount (origin : Nat) (l : List StreamPart) (k : Nat) : Nat :=
  (((List.range k).flatMap (unitParts origin l)).foldl (fun n e => n + e.2.2) 0 + 7) / 8

/-- The parts of a copy between streams. -/
def Copy.parts (c : Copy) : List StreamPart :=
  match c.instr with
  | .cpn _ _ _ _ _ => cpnParts c.zp c.zq
  | .lyt _ _ _ _ _ _ => lytParts c.zp
  | _ => []

/-- cpn (12 R332). -/
def execCpn (tk : Tok) (p q : Sys2Proof.ZReg) (a : AReg) (o : Bool) (s : State) : Outcome State Fault Refusal :=
  let i := s.inst s.cur.core
  let zp := i.z[p]
  let zq := i.z[q]
  ceRun s tk do
    let n := zq.countBytes
    streamCheck (!(zq.src == 4 || zq.src == 5)) q.val 0x06
    streamCheck (zp.wlog == zq.wlog && zp.elems == zq.elems && (zp.fmt == 6) == (zq.fmt == 6)
      && (zp.fmt == 10) == (zq.fmt == 10) && zp.planes == zq.planes) q.val 0x0D
    slotCheck i zp n
    need (n == 0 || decide (i.copies.length < 64))
    if n = 0 then .ok (s, false)
    else do
      let r ← s.reserveSlot zp
      r.1.startCopy (.cpn tk p q a o) ⟨zp.base, zq.base, n, 0, zp, zq, n, streamUnits (i.placeOf zp r.2).origin (cpnParts zp zq), r.2, none⟩

/-- Bytes that a copy writes at an address go into the sectors that it has read for the write of a part of a byte. -/
def Copy.patch (c : Copy) (va : Nat) (bs : List Byte) : Copy :=
  { c with sectors := c.sectors.map fun e => (e.1, e.2.zipIdx.map fun x =>
      if va ≤ e.1 + x.2 ∧ e.1 + x.2 < va + bs.length then bs.getD (e.1 + x.2 - va) x.1 else x.1) }

/-- w bits at a bit position of the source of a copy. -/
def State.placeGet (s : State) (g : CoreNo) (c : Copy) (pl : Place) (d : Fin 8) (bit : Int) (w : Nat) : Except CopyStop (State × Nat) :=
  let r := (bit % 8).toNat
  let n := (r + w + 7) / 8
  let a := match pl.buf with
    | some _ => (pl.origin + bit / 8).toNat
    | none => (BitVec.ofInt 64 (pl.origin + bit / 8)).toNat
  (s.sourceBytes g c ((pl.buf.map bufCode).getD 0) a n d).map fun x => (x.1, bitsAt x.2 r w)

/-- w bits written at a bit position of a place by a copy. A part of a byte in memory is a read, change and write of its 64-byte
sector: the sector as it stands, or as the copy read it before (12 R333; LOG 90). -/
def State.placePut (s : State) (g : CoreNo) (c : Copy) (pl : Place) (d : Fin 8) (bit : Int) (w v : Nat) : Except CopyStop State :=
  let r := (bit % 8).toNat
  let n := (r + w + 7) / 8
  let part := r != 0 || (r + w) % 8 != 0
  match pl.buf with
  | some b =>
    let off := (pl.origin + bit / 8).toNat
    if part then (s.copyBufRead g b off n).map fun old => s.bufWriteFor g c b off (putBits old r w v)
    else .ok (s.bufWriteFor g c b off (leBytes n (v % 2 ^ w)))
  | none =>
    let va := (BitVec.ofInt 64 (pl.origin + bit / 8)).toNat
    if part then
      let sv := va / 64 * 64
      match s.translate (some g) (s.ctxOf g) sv .write with
      | .error ca => .error (.fault ca (BitVec.ofNat 64 va))
      | .ok pa => match s.poisonAt pa 64 with
        | some k => .error (.fault .poison (BitVec.ofNat 64 (sv + k)))
        | none =>
          let old := ((s.mine g c).sectors.lookup sv).getD (s.mem.read pa 64)
          let new := putBits old (8 * (va - sv) + r) w v
          let t := s.keepBytes g c 0 ((List.range 64).map (pa + ·))
          .ok ((((t.physWrite pa new).noteAccess false g sv pa 64 d true).sink g).modInst g fun i =>
            i.modCopy c.id fun x => { x with sectors := x.sectors.filter fun e => e.1 != sv })
    else (s.writeFor g c va (leBytes n (v % 2 ^ w)) d).map fun t =>
      t.modInst g fun i => i.modCopy c.id fun x => x.patch va (leBytes n (v % 2 ^ w))

/-- Reads parts of a copy's source in order. -/
def State.readParts (s : State) (g : CoreNo) (c : Copy) (pl : Place) (d : Fin 8) : List (Int × Nat) → Except CopyStop (State × List Nat)
  | [] => .ok (s, [])
  | (b, w) :: rest => do
    let v ← s.placeGet g c pl d b w
    let vs ← v.1.readParts g (v.1.mine g c) pl d rest
    .ok (vs.1, v.2 :: vs.2)

/-- Writes parts in order. -/
def State.writeParts (s : State) (g : CoreNo) (c : Copy) (pl : Place) (d : Fin 8) : List (Int × Nat × Nat) → Except CopyStop State
  | [] => .ok s
  | (b, w, v) :: rest => do
    let t ← s.placePut g c pl d b w v
    t.writeParts g (t.mine g c) pl d rest

/-- The movement of a unit of a cpn: all of it is read before any of it is written (14 R373); memory streams are read and written at their
own CTRL.DIST (13 Table 13.2). -/
def State.moveCpn (s : State) (g : CoreNo) (c : Copy) (u : Nat) : Except CopyStop State := do
  let i := s.inst g
  let dst := i.placeOf c.zp c.slot
  let parts := unitParts dst.origin c.parts u
  let vs ← s.readParts g c (i.placeOf c.zq none) c.zq.dist (parts.map fun e => (e.1, e.2.2))
  vs.1.writeParts g (vs.1.mine g c) dst c.zp.dist ((parts.zip vs.2).map fun e => (e.1.2.1, e.1.2.2, e.2))

/-- The read of a sector of memory by a cpn, ahead of the write of a part of a byte of it (12 R333). -/
def State.sectorRead (s : State) (g : CoreNo) (id va : Nat) : State :=
  let sv := va / 64 * 64
  match (s.inst g).copy id with
  | none => s
  | some c => match c.instr with
    | .cpn _ _ _ _ _ =>
      if c.fault.isSome ∨ (s.inst g).heldBack c ∨ (c.sectors.lookup sv).isSome then s
      else match s.translate (some g) (s.ctxOf g) sv .write with
        | .error _ => s
        | .ok pa =>
          if s.poisoned pa 64 then s
          else s.modInst g fun i => i.modCopy id fun x => { x with sectors := (sv, s.mem.read pa 64) :: x.sectors }
    | _ => s

-- cpx (12 R331, 15 R408-R411).

/-- The buffer behind a destination space of cpx. -/
def cpxDstBuf : CpxDst → Option Buf
  | .w => some .w
  | .a => some .a
  | .c => some .c
  | _ => none

/-- cpx (12 R331). -/
def execCpx (tk : Tok) (p q : CReg) (a : AReg) (x : CpxDst) (o : Bool) (z : Fin 8) (s : State) : Outcome State Fault Refusal :=
  let i := s.inst s.cur.core
  let zp := i.z[p]
  ceRun s tk do
    let len ← pairLen s q
    check ((s.cReg q).toNat % 256 == 0) .misalign (s.cReg q)
    check (len % 256 == 0) .misalign (s.cReg (nextReg q))
    if x = .ring then ringCheck i zp p.val len
    match cpxDstBuf x with
      | some b => claimCheck i b (s.cReg p).toNat len
      | none => .ok ()
    need (len == 0 || decide (i.copies.length < 64))
    let spec : CopySpec := ⟨s.cReg p, s.cReg q, len, 0, zp, .reset, len, len / 256, none, none⟩
    if len = 0 then .ok (s, false)
    else if x = .ring then do
      let r ← s.reserveSlot zp
      r.1.startCopy (.cpx tk p q a x o z) { spec with slot := r.2, units := unitsFrom (i.slotFrom r.2) len }
    else if x = .mem then s.startCopy (.cpx tk p q a x o z) spec
    else s.startCopy (.cpx tk p q a x o z) { spec with units := unitsFrom (s.cReg p).toNat len }

/-- A DECODE fault of the CE. -/
def decodeAt {α : Type} (va : Nat) : Except CopyStop α := .error (.fault .decode (BitVec.ofNat 64 va))

/-- A tile of a compressed buffer: its stored bytes and where its entry stands, or its plain bytes. -/
inductive TileForm' | plain (bs : List Byte) | stored (bs : List Byte) (entry : Nat)

/-- The lines of a virtual range that L2 holds take a hit, and the pin of their address (13 R365); no other line is filled. -/
def State.noteHeld (s : State) (g : CoreNo) (va n : Nat) (d : Fin 8) : State :=
  (pieces va n).foldl (fun s p =>
    match s.lookup (some g) (s.ctxOf g) p.1 with
    | some e =>
      let pa := e.pa + (p.1 - e.va)
      ((List.range ((pa + p.2 - 1) / 256 - pa / 256 + 1)).map (pa / 256 + ·)).foldl (fun s l =>
        if s.l2.any fun x => x.line == l then
          s.touchL2 (some g) l (sectorMask l pa p.2) d false 0xFFFF (s.pinOf g (p.1 + (Nat.max pa (256 * l) - pa)))
        else s) s
    | none => s) s

/-- A read of a compressed buffer by a copy: expanded in the HBM controller it allocates nothing in L2 (15 Table 15.6; LOG 91). -/
def State.tileBytes (s : State) (g : CoreNo) (c : Copy) (exp va n : Nat) (d : Fin 8) : Except CopyStop (State × List Byte) :=
  (s.readFor g c va n).map fun bs => (if exp = 0 then s.noteHeld g va n d else s.noteRange g va n d false, bs)

/-- The header of a compressed buffer after the Header check (15 R404, R410). -/
def State.readHeader (s : State) (g : CoreNo) (c : Copy) (v len : Nat) (d : Fin 8) : Except CopyStop (State × CHeader) := do
  let hb ← s.readFor g c v 64
  match headerOf hb len with
  | none => decodeAt v
  | some h => (s.tileBytes g c h.exp v 64 d).map fun r => (r.1, h)

/-- Reads tile t of a compressed buffer after the Header and Entry checks (15 R404, R405, R410). -/
def State.readTile (s : State) (g : CoreNo) (c : Copy) (v len t : Nat) (d : Fin 8) : Except CopyStop (State × CHeader × TileForm') := do
  let hd ← s.readHeader g c v len d
  let h := hd.2
  if h.unc then (hd.1.tileBytes g c h.exp (v + h.data + 256 * t) 256 d).map fun r => (r.1, h, .plain r.2)
  else do
    let e := v + 64 + 4 * t
    let eb ← hd.1.tileBytes g c h.exp e 4 d
    match entryOf (leNat eb.2) h.stored with
    | none => decodeAt e
    | some none => .ok (eb.1, h, .plain (List.replicate 256 0))
    | some (some (off, n)) => (eb.1.tileBytes g c h.exp (v + h.data + off) n d).map fun r => (r.1, h, .stored r.2 e)

/-- Tile t of a compressed buffer expanded, after all its checks (15 R410). -/
def State.fullTile (s : State) (g : CoreNo) (c : Copy) (v len t : Nat) (d : Fin 8) : Except CopyStop (State × List Byte) := do
  let r ← s.readTile g c v len t d
  match r.2.2 with
  | .plain bs => .ok (r.1, bs)
  | .stored bs e => match expandTile bs with
    | some full => .ok (r.1, full)
    | none => decodeAt e

/-- Some tiles of a compressed buffer expanded, one after another. -/
def State.fullTiles (s : State) (g : CoreNo) (c : Copy) (v len : Nat) (d : Fin 8) : List Nat → Except CopyStop (State × List Byte)
  | [] => .ok (s, [])
  | t :: ts => do
    let r ← s.fullTile g c v len t d
    let rs ← r.1.fullTiles g c v len d ts
    .ok (rs.1, r.2 ++ rs.2)

/-- The parts of the image of a compressed buffer that belong to tile u: first byte from the image's start, and length. -/
abbrev TileParts := List (Nat × Nat)

/-- The parts of a tile: its directory entry and its stored form; of an uncompressed buffer its bytes. A malformed entry names no stored
form: no tile is checked on the way to memory (15 R410). -/
def State.tileParts (s : State) (g : CoreNo) (c : Copy) (h : CHeader) (u : Nat) : Except CopyStop TileParts :=
  if h.unc then .ok [(h.data + 256 * u, 256)]
  else (s.readFor g c (c.q.toNat + 64 + 4 * u) 4).map fun eb => match entryOf (leNat eb) h.stored with
    | some (some e) => [(64 + 4 * u, 4), (h.data + e.1, e.2)]
    | _ => [(64 + 4 * u, 4)]

/-- The image of a compressed buffer as runs of bytes, cut at the aligned 32-bit words of a destination at byte p. -/
def imageWords (h : CHeader) (p : Nat) : List (Nat × Nat) :=
  let rs := (0, 64) :: (if h.unc then [] else [(64, 4 * h.tiles)]) ++ [(h.data, h.stored)]
  rs.flatMap fun r => (List.range (blockCount 4 (p + r.1) r.2)).map fun w =>
    let sp := blockSpan 4 (p + r.1) r.2 w
    (sp.1 - p, sp.2)

/-- Whether two runs of bytes share an aligned 32-bit word of a destination at byte p. -/
def shareWord (p : Nat) (a b : Nat × Nat) : Bool :=
  a.2 != 0 && b.2 != 0 && decide ((p + a.1) / 4 ≤ (p + b.1 + b.2 - 1) / 4 ∧ (p + b.1) / 4 ≤ (p + a.1 + a.2 - 1) / 4)

/-- Whether unit u of a cpx into memory writes a word of the image: one that its tile reaches, or with unit 0 one that no tile does; words
that an earlier landed tile reaches are there already (12 R341). -/
def unitWrites (p : Nat) (parts : List TileParts) (has : Nat → Bool) (u : Nat) (w : Nat × Nat) : Bool :=
  let reached := fun v : Nat => (parts.getD v []).any (shareWord p w)
  (reached u || (u == 0 && !(List.range parts.length).any reached))
    && !(List.range parts.length).any fun v => v != u && has v && reached v

/-- The movement of unit u of a cpx into memory (12 R331, 15 R410): tile u with its directory entry; the header with unit 0. All of it is
read before any of it is written (14 R373). -/
def State.moveImage (s : State) (g : CoreNo) (c : Copy) (d : Fin 8) (u : Nat) : Except CopyStop State := do
  let hd ← s.readHeader g c c.q.toNat c.len d
  let h := hd.2
  let parts ← (List.range h.tiles).mapM fun v => hd.1.tileParts g c h v
  let ws := (imageWords h c.p.toNat).filter (unitWrites c.p.toNat parts c.has u)
  let r ← ws.foldlM (fun (r : State × List (Nat × List Byte)) w =>
    (r.1.sourceBytes g (r.1.mine g c) 0 (c.q.toNat + w.1) w.2 d).map fun x => (x.1, r.2 ++ [(w.1, x.2)])) (hd.1, [])
  r.2.foldlM (fun (t : State) w => t.writeFor g (t.mine g c) ((c.p.toNat + w.1) % 2 ^ 64) w.2 d) r.1

/-- The movement of a unit of a cpx into a buffer or a ring slot: its bytes of the expanded tiles; a stored tile for the operand feeder
is placed where it fills a whole unit (15 R408, R409). -/
def State.moveTiles (s : State) (g : CoreNo) (c : Copy) (b : Buf) (base : Nat) (d : Fin 8) (u : Nat) : Except CopyStop State := do
  let sp := unitSpan base c.len u
  let off := sp.1 - base
  if base % 256 = 0 then
    let r ← s.readTile g c c.q.toNat c.len u d
    match r.2.2 with
      | .plain bs => .ok (r.1.bufWriteFor g c b sp.1 bs)
      | .stored bs e =>
        if r.2.1.exp = 3 ∧ b ≠ .c then .ok ((r.1.modInst g fun i => i.placeTile b (sp.1 / 256) bs).sink g)
        else match expandTile bs with
          | some full => .ok (r.1.bufWriteFor g c b sp.1 full)
          | none => decodeAt e
  else
    let k := (off + sp.2 - 1) / 256 - off / 256 + 1
    let r ← s.fullTiles g c c.q.toNat c.len d ((List.range k).map (off / 256 + ·))
    .ok (r.1.bufWriteFor g c b sp.1 ((r.2.drop (off % 256)).take sp.2))

/-- The movement of a unit of a cpx. -/
def State.moveCpx (s : State) (g : CoreNo) (c : Copy) (x : CpxDst) (d : Fin 8) (u : Nat) : Except CopyStop State :=
  match c.slot with
  | some sl => s.moveTiles g c sl.buf ((s.inst g).slotBase sl) d u
  | none => match cpxDstBuf x with
    | some b => s.moveTiles g c b c.p.toNat d u
    | none => s.moveImage g c d u

/-- The bytes that unit u of a cpx into a buffer counts: 256 for each tile of which it lands the last byte (12 R331). -/
def Copy.tilesDone (c : Copy) (base u : Nat) : Nat :=
  256 * ((List.range (c.len / 256)).filter fun t =>
    let first := (base + 256 * t) / 256 - base / 256
    let last := (base + 256 * t + 255) / 256 - base / 256
    (u == first || u == last) && (first == u || c.has first) && (last == u || c.has last)).length

-- Larkspur (12 R352-R355).

/-- A used slot of a mapping word: high part, S, axis (12 R353). -/
structure MapSlot where
  high : Bool
  sh : Nat
  ax : Nat
  deriving DecidableEq

/-- The slots of a mapping word; none for an empty one. -/
def mapSlots (m : Word) : List (Option MapSlot) :=
  (List.range 8).map fun o =>
    let b := bits m.toNat (8 * o + 7) (8 * o)
    if b = 255 then none else some ⟨b / 128 == 1, b / 8 % 16, b % 8⟩

/-- Whether slot o fails, given the slots before it (12 R353). -/
def slotFails (counts : List Nat) (before : List (Option MapSlot)) (x : Option MapSlot) : Bool :=
  match x with
  | none => before.isEmpty
  | some y =>
    let part := y.sh != 0
    let same := (before.filterMap id).filter fun e => e.ax == y.ax
    before.any Option.isNone || y.sh == 15 || (y.high && y.sh == 0) || decide (counts.length ≤ y.ax)
      || (part && counts.getD y.ax 0 == 1)
      || (if part then same.any fun e => e.sh == 0 || e.high == y.high || e.sh != y.sh else !same.isEmpty)

/-- The first slot that fails. -/
def firstBadSlot (counts : List Nat) (l : List (Option MapSlot)) : Option Nat :=
  (List.range 8).find? fun o => slotFails counts (l.take o) ((l.drop o).headD none)

/-- The lowest axis that is left out or only in part. -/
def firstBadAxis (counts : List Nat) (l : List (Option MapSlot)) : Option Nat :=
  (List.range counts.length).find? fun a =>
    let mine := (l.filterMap id).filter fun e => e.ax == a
    decide (1 < counts.getD a 0) && !(mine.any fun e => e.sh == 0) && mine.length != 2

/-- TVAL[19:16] of a mapping that breaks R353; none for a valid one. -/
def mapFault (counts : List Nat) (m : Word) : Option Nat :=
  let l := mapSlots m
  match firstBadSlot counts l with
  | some o => some o
  | none => (firstBadAxis counts l).map (8 + ·)

/-- The size of a used slot (12 R354). -/
def slotSize (counts : List Nat) (x : MapSlot) : Nat :=
  let n := counts.getD x.ax 0
  if x.sh = 0 then n else if x.high then (n + 2 ^ x.sh - 1) / 2 ^ x.sh else 2 ^ x.sh

/-- The output count (12 R354). -/
def outCount (counts : List Nat) (m : Word) : Nat := ((mapSlots m).filterMap id).foldl (fun n x => n * slotSize counts x) 1

/-- The index of every axis for output element t (12 R354). -/
def axisIndex (counts : List Nat) (m : Word) (t : Nat) : List Nat :=
  (((mapSlots m).filterMap id).foldl (fun (st : Nat × List Nat) x =>
    let n := slotSize counts x
    let k := st.1 % n
    (st.1 / n, st.2.modify x.ax fun v => v + if x.high then k * 2 ^ x.sh else k)) (t, List.replicate counts.length 0)).2

/-- The number of the source element of output element t; none for padding. -/
def sourceElem (counts : List Nat) (m : Word) (t : Nat) : Option Nat :=
  let idx := axisIndex counts m t
  if (idx.zip counts).any fun e => decide (e.2 ≤ e.1) then none
  else some ((idx.zip counts).foldr (fun e n => e.1 + e.2 * n) 0)

/-- The checks of a lyt on its streams and mapping (12 R352). -/
def lytChecks (i : Inst) (p q : Sys2Proof.ZReg) (m : Word) : Res Unit := do
  let zp := i.z[p]
  let zq := i.z[q]
  notRing i q
  let bad := fun z : ZReg => decide (z.wlog < 3) || z.fmt == 6 || z.fmt == 9 || z.fmt == 10
  streamCheck (!bad zq && !bad zp && zp.wlog == zq.wlog) q.val 0x0D
  match mapFault zq.counts m with
    | some k => .error (.trap .streamCfg (BitVec.ofNat 64 (k * 65536 + 0x0C00 + q.val)))
    | none => .ok ()
  streamCheck (zp.elems == outCount zq.counts m) q.val 0x0D

/-- lyt (12 R352): from q1 the mapping word is the command's second entry. -/
def execLyt (tk : Tok) (p q : Sys2Proof.ZReg) (a : AReg) (m : CReg) (o : Bool) (s : State) : Outcome State Fault Refusal :=
  let i := s.inst s.cur.core
  let zp := i.z[p]
  let zq := i.z[q]
  let map := match s.cur.src with
    | .q1 => i.qw[1].getD 1 0
    | _ => s.cReg m
  ceRun s tk do
    lytChecks i p q map
    let n := outCount zq.counts map * zq.w / 8
    slotCheck i zp n
    need (n == 0 || decide (i.copies.length < 64 ∧ (i.copies.filter fun c => isLyt c.instr).length < 4))
    if n = 0 then .ok (s, false)
    else do
      let r ← s.reserveSlot zp
      r.1.startCopy (.lyt tk p q a m o) ⟨zp.base, zq.base, n, map, zp, zq, n, streamUnits (i.placeOf zp r.2).origin (lytParts zp), r.2, none⟩

/-- LARKSPUR_START (12 R355): Larkspur begins its oldest command and reads the source elements in output order. -/
def execLarkspurStart (g : CoreNo) (s : State) : Outcome State Fault Refusal :=
  let i := s.inst g
  match i.larkspur with
  | none => .next s
  | some c =>
    if c.started ∨ c.fault.isSome ∨ i.heldBack c then .next s
    else
      let counts := c.zq.counts
      let parts := (List.range (outCount counts c.m)).map fun t => (sourceElem counts c.m t).map fun n => (c.zq.bitOf n, c.zq.w)
      match s.readParts g c (i.placeOf c.zq none) c.zq.dist (parts.filterMap id) with
      | .error (.fault ca v) => .next ((s.noteFailed g (s.ctxOf g) ca v.toNat).modInst g fun i => i.modCopy c.id fun x => { x with fault := some (ca, v), faultUnit := c.first })
      | .error .wait => .next s
      | .error .stall => .next s
      | .ok (t, vs) =>
        let filled := (parts.foldl (fun (st : List Nat × List Word) p => match p with
          | some _ => (st.1.drop 1, BitVec.ofNat 64 (st.1.headD 0) :: st.2)
          | none => (st.1, 0 :: st.2)) (vs, [])).2.reverse
        .next (t.modInst g fun i => i.modCopy c.id fun x => { x with started := true, input := filled })

/-- The movement of a unit of a lyt, of what Larkspur has read. -/
def State.moveLyt (s : State) (g : CoreNo) (c : Copy) (u : Nat) : Except CopyStop State := do
  if !c.started then .error .wait
  else
    let dst := (s.inst g).placeOf c.zp c.slot
    let value := fun e : StreamPart => (c.input.getD (e.1.toNat / 64) 0).toNat / 2 ^ (e.1.toNat % 64)
    s.writeParts g c dst c.zp.dist ((unitParts dst.origin c.parts u).map fun e => (e.2.1, e.2.2, value e % 2 ^ e.2.2))

-- Caches (12 R334, R335, 13 R365, R366).

/-- The physical address of a page that an access of the instance may reach, for one 64 KiB piece. -/
def State.reach (s : State) (g : CoreNo) (va : Nat) : Option Nat :=
  match s.translate (some g) (s.ctxOf g) va .read with
  | .ok pa => some pa
  | .error _ => match s.translate (some g) (s.ctxOf g) va .write with
    | .ok pa => some pa
    | .error _ => none

/-- Every 256-byte line of [va, va + n), as the virtual address where it begins or the range does. -/
def linesOf (va n : Nat) : List Nat :=
  if n = 0 then [] else (List.range ((va + n - 1) / 256 - va / 256 + 1)).map fun i => Nat.max va ((va / 256 + i) * 256)

/-- The sectors of a line that hold a poisoned granule. -/
def State.badSectors (s : State) (line : Nat) : BitVec 4 :=
  BitVec.ofFnLE fun k : Fin 4 => s.poisoned (256 * line + 64 * k.val) 64

/-- n bytes of one line fetched ahead of use: its sectors without poison (12 R334, 13 R365, 15 R400). -/
def State.prefetch (s : State) (l1 : Bool) (g : CoreNo) (va pa n : Nat) (d : Fin 8) : State :=
  let line := pa / 256
  let mask := sectorMask line pa n &&& ~~~s.badSectors line
  if mask = 0 then s
  else
    let pin := s.pinOf g va
    (if l1 then s.touchL1 g line mask d false (s.ctxOf g) pin
      else s.accessL2 (some g) line mask d false (s.ctxOf g) pin).fillTlb g (s.ctxOf g) va

/-- pf (12 R334): no trap beyond the word's own; parts that would fault are dropped. -/
def execPf (tk : Tok) (q : CReg) (l : Bool) (z : Fin 8) (s : State) : Outcome State Fault Refusal :=
  let g := s.cur.core
  ceNow s tk do
    let len ← pairLen s q
    let top := (s.cReg q).toNat + len
    .ok ((linesOf (s.cReg q).toNat len).foldl (fun s va =>
      match s.translate (some g) (s.ctxOf g) va .read with
      | .ok pa => s.prefetch l g va pa (Nat.min 256 (top - va)) z
      | .error _ => s) s)

/-- The pins of a KEEP register are released (13 R365, R366). -/
def State.releasePins (s : State) (g : CoreNo) (n : Fin 8) : State :=
  { s with l2 := s.l2.map fun l => match l.pin with
      | some (h, m, _) => if h = g ∧ m = n then { l with pin := none, guarded := false } else l
      | none => l }

/-- KEEPn set, its generation advanced. -/
def State.setKeep (s : State) (g : CoreNo) (n : Fin 8) (base : Word) (len : Nat) : State :=
  (s.releasePins g n).modInst g fun i =>
    { i with keep := i.keep.set n ⟨base, BitVec.ofNat 32 len, i.keep[n].gen + 1⟩ }

/-- The checks of keep (13 R365). -/
def keepLen (s : State) (q : CReg) : Res Nat := do
  let len ← pairLen s q
  check ((s.cReg q).toNat % 256 == 0) .misalign (s.cReg q)
  check (len % 256 == 0) .misalign (s.cReg (nextReg q))
  .ok len

/-- keep (13 R365). -/
def execKeep (tk : Tok) (n : Fin 8) (q : CReg) (s : State) : Outcome State Fault Refusal :=
  ceNow s tk do
    let len ← keepLen s q
    .ok (s.setKeep s.cur.core n (s.cReg q) len)

/-- keep.f (13 R365): keep, and a copy of the lines. -/
def execKeepF (tk : Tok) (n : Fin 8) (q : CReg) (a : AReg) (s : State) : Outcome State Fault Refusal :=
  ceRun s tk do
    let len ← keepLen s q
    (s.setKeep s.cur.core n (s.cReg q) len).startUnlessEmpty (.keepF tk n q a)
      ⟨0, s.cReg q, len, 0, .reset, .reset, len, len / 256, none, none⟩

/-- The movement of a unit of a keep.f: one line, fetched and pinned without its poisoned sectors, or skipped with its page (13 R365, 12 R334,
15 R400). -/
def State.moveKeep (s : State) (g : CoreNo) (c : Copy) (u : Nat) : State :=
  let va := c.q.toNat + 256 * u
  match s.translate (some g) (s.ctxOf g) va .read with
  | .ok pa => s.prefetch false g va pa 256 0
  | .error _ => s

/-- unkeep (13 R366). -/
def execUnkeep (tk : Tok) (n : Fin 8) (s : State) : Outcome State Fault Refusal :=
  ceNow s tk (.ok (s.setKeep s.cur.core n 0 0))

/-- The checks of cflush and cinv: start and length multiples of 64 (12 R335). -/
def flushLen (s : State) (q : CReg) : Res Nat := do
  let len ← pairLen s q
  check ((s.cReg q).toNat % 64 == 0 && len % 64 == 0) .misalign (s.cReg q)
  .ok len

/-- cflush (12 R335). -/
def execCflush (tk : Tok) (q : CReg) (a : AReg) (h : Bool) (s : State) : Outcome State Fault Refusal :=
  ceRun s tk do
    let len ← flushLen s q
    s.startUnlessEmpty (.cflush tk q a h) ⟨0, s.cReg q, len, 0, .reset, .reset, len, (len + 255) / 256, none, none⟩

/-- cinv (12 R335). -/
def execCinv (tk : Tok) (q : CReg) (a : AReg) (s : State) : Outcome State Fault Refusal :=
  ceRun s tk do
    let len ← flushLen s q
    s.startUnlessEmpty (.cinv tk q a) ⟨0, s.cReg q, len, 0, .reset, .reset, len, (len + 255) / 256, none, none⟩

/-- The write-back of sectors of a line from the core's L1D to L2; with `remove` the whole line leaves the L1D. -/
def State.cleanL1 (s : State) (g : CoreNo) (line : Nat) (mask : BitVec 4) (remove : Bool) : State :=
  let mine := fun l : L1Line => l.core == g && l.line == line
  match s.l1.find? mine with
  | none => s
  | some l =>
    let out := if remove then l.dirty else l.dirty &&& mask
    let s1 := if out = 0 then s else s.drainL1 g line out l.writer
    { s1 with l1 := if remove then s1.l1.filter (fun x => !mine x) else s1.l1.map fun x => if mine x then { x with dirty := x.dirty &&& ~~~out } else x }

/-- The write-back of sectors of a line from L2 to HBM; they stay valid. -/
def State.cleanL2 (s : State) (line : Nat) (mask : BitVec 4) : State :=
  match s.l2.find? fun l => l.line == line with
  | none => s
  | some l => { s.writeBack line l.writer (l.dirty &&& mask) with
      l2 := s.l2.map fun x => if x.line == line then { x with dirty := x.dirty &&& ~~~mask } else x }

/-- A unit of a cflush or cinv: 256 bytes of the range, on the pages it may reach (12 R335). -/
def State.moveFlush (s : State) (g : CoreNo) (c : Copy) (remove hbm : Bool) (u : Nat) : State :=
  let lo := c.q.toNat + 256 * u
  let n := Nat.min 256 (c.len - 256 * u)
  (linesOf lo n).foldl (fun s va =>
    match s.reach g va with
    | none => s
    | some pa =>
      let mask := sectorMask (pa / 256) pa (lo + n - va)
      let s1 := s.cleanL1 g (pa / 256) mask remove
      if hbm then s1.cleanL2 (pa / 256) mask else s1) s

-- The spill area (13 R367, R368).

/-- The checks of spill and fill (13 R368). -/
def spillChecks (s : State) (p q : CReg) (b : Buf) : Res Nat := do
  let i := s.inst s.cur.core
  let len ← pairLen s q
  check ((s.cReg p).toNat % 64 == 0) .misalign (s.cReg p)
  check (len % 64 == 0) .misalign (s.cReg (nextReg q))
  rangeCheck 4 i.spillLen (s.cReg p).toNat len
  claimCheck i b (s.cReg q).toNat len
  .ok len

/-- spill (13 R368). -/
def execSpill (tk : Tok) (p q : CReg) (a : AReg) (b : Buf) (o : Bool) (s : State) : Outcome State Fault Refusal :=
  ceRun s tk do
    let len ← spillChecks s p q b
    s.startUnlessEmpty (.spill tk p q a b o)
      ⟨s.cReg p, s.cReg q, len, 0, .reset, .reset, len, unitsFrom (s.cReg p).toNat len, none, none⟩

/-- fill (13 R368). -/
def execFill (tk : Tok) (p q : CReg) (a : AReg) (b : Buf) (o : Bool) (s : State) : Outcome State Fault Refusal :=
  ceRun s tk do
    let len ← spillChecks s p q b
    s.startUnlessEmpty (.fill tk p q a b o)
      ⟨s.cReg p, s.cReg q, len, 0, .reset, .reset, len, unitsFrom (s.cReg q).toNat len, none, none⟩

/-- The movement of a unit of a spill, a sink event (05 R157); a line that it writes whole holds only new values and is poisoned no longer
(15 R400; LOG 27). -/
def State.moveSpill (s : State) (g : CoreNo) (c : Copy) (b : Buf) (u : Nat) : Except CopyStop State := do
  let sp := unitSpan c.p.toNat c.len u
  let r ← s.sourceBytes g c (bufCode b) (c.q.toNat + (sp.1 - c.p.toNat)) sp.2 0
  let covered := fun l : Nat => decide (sp.1 ≤ 256 * l ∧ 256 * l + 256 ≤ sp.1 + sp.2)
  .ok ((r.1.modInst g fun i =>
    { i with spill := i.spill.put sp.1 r.2, spillBad := i.spillBad.filter fun l => !covered l }).sink g)

/-- The movement of a unit of a fill; a poisoned spill line traps POISON with its spill offset and bit 34 (15 Table 15.2). -/
def State.moveFill (s : State) (g : CoreNo) (c : Copy) (b : Buf) (u : Nat) : Except CopyStop State :=
  let sp := unitSpan c.q.toNat c.len u
  let lo := c.p.toNat + (sp.1 - c.q.toNat)
  match (List.range sp.2).find? fun k => (s.inst g).spillBad.contains ((lo + k) / 256) with
  | some k => .error (.fault .poison (BitVec.ofNat 64 (2 ^ 34 + (lo + k))))
  | none => .ok (s.bufWriteFor g c b sp.1 ((s.inst g).spill.read lo sp.2))

-- The count of a unit.

/-- The bytes that a unit of a copy counts into its arrival counter when it lands (12 R331, R332, R335, R337): a cflush or cinv counts its
whole length with the last unit. -/
def Inst.unitCount (i : Inst) (c : Copy) (u : Nat) : Nat :=
  match c.instr with
  | .cp _ _ _ _ _ _ _ _ => (unitSpan (i.dstBase c) c.len u).2
  | .spill _ _ _ _ _ _ => (unitSpan c.p.toNat c.len u).2
  | .fill _ _ _ _ _ _ => (unitSpan c.q.toNat c.len u).2
  | .cpn _ _ _ _ _ => streamCount (i.placeOf c.zp c.slot).origin c.parts (u + 1) - streamCount (i.placeOf c.zp c.slot).origin c.parts u
  | .lyt _ _ _ _ _ _ => streamCount (i.placeOf c.zp c.slot).origin c.parts (u + 1) - streamCount (i.placeOf c.zp c.slot).origin c.parts u
  | .cpx _ _ _ _ x _ _ => if x = .mem then 256 else c.tilesDone (i.dstBase c) u
  | .keepF _ _ _ _ => 256
  | .cflush _ _ _ _ => if (c.land u).landed then c.len else 0
  | .cinv _ _ _ => if (c.land u).landed then c.len else 0
  | .cpatm _ _ _ _ _ _ _ _ _ => 16
  | _ => 0

-- Counters and registers (12 R338, R339, R342-R344).

/-- acset (12 R338). -/
def execAcset (tk : Tok) (q : CReg) (a : AReg) (s : State) : Outcome State Fault Refusal :=
  ceNow s tk (.ok (s.modInst s.cur.core fun i => { i with a := i.a.set a ⟨(i.c[q]).setWidth 32, false⟩ }))

/-- acadd (12 R338). -/
def execAcadd (tk : Tok) (q : CReg) (a : AReg) (s : State) : Outcome State Fault Refusal :=
  ceNow s tk (.ok (s.modInst s.cur.core fun i =>
    { i with a := i.a.set a { i.a[a] with value := i.a[a].value + (i.c[q]).setWidth 32 } }))

/-- acwait (12 R339). -/
def execAcwait (tk : Tok) (a : AReg) (s : State) : Outcome State Fault Refusal :=
  let x := (s.inst s.cur.core).a[a]
  ceNow s tk do
    check (!x.overrun) .arrivalOverrun (BitVec.ofNat 64 (x.value.toNat * 2 ^ 32 + a.val))
    need (x.value.sle 0)
    .ok s

/-- scfg (12 R342): a memory fault of its read is restartable, a failed check precise. -/
def execScfg (tk : Tok) (p : Sys2Proof.ZReg) (q : CReg) (s : State) : Outcome State Fault Refusal :=
  let g := s.cur.core
  let i := s.inst g
  let va := s.cReg q
  let ready := i.tokensReady (if tk.tw then [defaultIn .ce] else []) (if tk.ts then [defaultOut .ce] else [])
  match s.readV (some g) (s.ctxOf g) va.toNat 64 with
  | .error (c, x) =>
    if va.toNat % 64 ≠ 0 then .next (s.raise .misalign va)
    else if ready then
      .next ((s.noteFailed g (s.ctxOf g) c x).modInst g fun i => { i with cmdFault := some ⟨s.cur.src, i.q0Seq, s.cur.pc, s.cur.stamp, c, BitVec.ofNat 64 x⟩ })
    else .next s
  | .ok bs =>
    let z := zregOf bs
    ceNow s tk do
      check (va.toNat % 64 == 0) .misalign va
      match loadReason i z with
        | some r => .error (.late .streamCfg (streamTval p.val r))
        | none => .ok ((s.noteRange g va.toNat 64 s.openDist false).modInst g fun i =>
            { i with z := i.z.set p { z with scale := z.effective } })

/-- Whether the read side of a queue has a free place. -/
def State.hasRoomRead (s : State) (g : CoreNo) (q : Fin 16) : Bool := decide ((s.inst g).qr[q].length < queueDepth q)

/-- A push of the CE to q11, a sink event (05 R151, R157). -/
def pushQ11 (s : State) (v : Word) : Res State := do
  need (s.hasRoomRead s.cur.core 11)
  .ok ((s.modInst s.cur.core fun i => { i with qr := i.qr.set 11 (i.qr[11] ++ [v]) }).sink s.cur.core)

/-- cget.pop (12 Table 12.4). -/
def execCgetPop (tk : Tok) (p : CReg) (s : State) : Outcome State Fault Refusal :=
  let g := s.cur.core
  ceNow s tk (match (s.inst g).qw[10] with
    | [] => .error .wait
    | v :: rest => .ok ((s.modInst g fun i => { i with qw := i.qw.set 10 rest, c := i.c.set p v }).sink g))

/-- cget.c. -/
def execCgetC (tk : Tok) (p : CReg) (s : State) : Outcome State Fault Refusal := ceNow s tk (pushQ11 s (s.cReg p))

/-- cget.cur. -/
def execCgetCur (tk : Tok) (p : Sys2Proof.ZReg) (s : State) : Outcome State Fault Refusal :=
  ceNow s tk (pushQ11 s ((s.inst s.cur.core).z[p].cursor.zeroExtend 64))

/-- cget.scale. -/
def execCgetScale (tk : Tok) (p : Sys2Proof.ZReg) (s : State) : Outcome State Fault Refusal :=
  let z := (s.inst s.cur.core).z[p]
  ceNow s tk (pushQ11 s ((if z.fmt = 10 then z.scale else z.qscale).zeroExtend 64))

/-- cget.ac. -/
def execCgetAc (tk : Tok) (n : AReg) (s : State) : Outcome State Fault Refusal :=
  let x := (s.inst s.cur.core).a[n]
  ceNow s tk (pushQ11 s (BitVec.ofNat 64 (x.overrun.toNat * 2 ^ 32 + x.value.toNat)))

/-- cget.li. -/
def execCgetLi (tk : Tok) (p : CReg) (i : BitVec 16) (s : State) : Outcome State Fault Refusal :=
  ceNow s tk (.ok (s.modInst s.cur.core fun x => { x with c := x.c.set p (i.signExtend 64) }))

/-- cadd (12 R343). -/
def execCadd (tk : Tok) (p q : CReg) (i : BitVec 16) (s : State) : Outcome State Fault Refusal :=
  ceNow s tk (.ok (s.modInst s.cur.core fun x => { x with c := x.c.set p (x.c[q] + i.signExtend 64) }))

-- The helper (12 R348-R351).

/-- The token bits of a word that has none. -/
def noTok : Tok := ⟨false, false⟩

/-- Every earlier helper copy is complete. -/
def Inst.helperIdle (i : Inst) : Bool := !i.copies.any fun c => c.src == .helper

/-- HELPER_START (12 R348): an idle helper pops a program pointer; not while the CE issues nothing (12 R341, 16 R424). -/
def execHelperStart (g : CoreNo) (s : State) : Outcome State Fault Refusal :=
  let i := s.inst g
  match i.helper, i.qw[4] with
  | none, v :: rest =>
    if i.ceFaulted ∨ i.pending.isSome ∨ i.handler ∨ i.assist.any (·.frozen) then .next s
    else
      let h : Helper := ⟨bits v.toNat 13 0, BitVec.ofNat 16 (bits v.toNat 31 16)⟩
      .next ((s.modInst g fun i => { i with qw := i.qw.set 4 rest, helper := some h }).sink g)
  | _, _ => .next s

/-- hret (12 R350). -/
def execHret (c : BitVec 8) (s : State) : Outcome State Fault Refusal :=
  let g := s.cur.core
  let i := s.inst g
  ceNow s noTok do
    need (i.helperIdle && decide (i.qr[4].length < queueDepth 4))
    let tag := match i.helper with
      | some h => h.tag.toNat
      | none => 0
    .ok ((s.modInst g fun i => { i with helper := none, qr := i.qr.set 4 (i.qr[4] ++ [BitVec.ofNat 64 (tag * 65536 + c.toNat)]) }).sink g)

/-- hflag (12 R351). -/
def execHflag (p q : CReg) (s : State) : Outcome State Fault Refusal :=
  let g := s.cur.core
  let i := s.inst g
  ceNow s noTok do
    check ((s.cReg p).toNat % 4 == 0) .misalign (s.cReg p)
    claimCheck i .a (s.cReg p).toNat 4
    need i.helperIdle
    .ok (s.copyBuf g .a (s.cReg p).toNat (leBytes 4 (s.cReg q).toNat))

-- Stream control of the CE (12 R345, 16 Table 16.10).

/-- loop of the CE (12 R345): an immediate count, or one popped from q10. -/
def execCeLoop (tk : Tok) (l : Fin 1024) (c : Bool) (n : Fin 8192) (s : State) : Outcome State Fault Refusal :=
  let g := s.cur.core
  engineLoop s tk l.val (if c then none else some n.val) (match (s.inst g).qw[10] with
    | [] => .error .wait
    | v :: rest => .ok ((s.modInst g fun i => { i with qw := i.qw.set 10 rest }).sink g, v))

/-- tkw of the CE. -/
def execCeTkw (tk : Tok) (f : Engine) (s : State) : Outcome State Fault Refusal := engineTkw s tk f
/-- tks of the CE. -/
def execCeTks (tk : Tok) (f : Engine) (s : State) : Outcome State Fault Refusal := engineTks s tk f
/-- seg of the CE. -/
def execCeSeg (tk : Tok) (cnt : BitVec 24) (crc : BitVec 16) (s : State) : Outcome State Fault Refusal := engineSeg s tk cnt crc
/-- safe of the CE. -/
def execCeSafe (tk : Tok) (s : State) : Outcome State Fault Refusal := engineSafe s tk
/-- end of the CE. -/
def execCeEnd (tk : Tok) (s : State) : Outcome State Fault Refusal := engineEnd s tk
/-- nop of the CE (12 R345). -/
def execCeNop (tk : Tok) (s : State) : Outcome State Fault Refusal := engineRun s tk [] [] false (.ok s)

-- Conversion stages (05 R150).

/-- Lanes with one 64-bit value at every doubleword position. -/
def splat64 (v : Word) : Lanes := Vector.ofFn fun i : Fin 512 => BitVec.ofNat 32 (if i.val % 2 = 0 then v.toNat else v.toNat / 2 ^ 32)

/-- Q6_TO_VQ2_TRANSFER (05 R150). The stage's own move clears no watchdog: it is taken for no push or pop of the instance (LOG 92). -/
def execQ6ToVq2Transfer (g : CoreNo) (s : State) : Outcome State Fault Refusal :=
  let i := s.inst g
  match i.qw[6] with
  | v :: rest =>
    if i.vq[2].length < 4 then .next (s.modInst g fun i => { i with qw := i.qw.set 6 rest, vq := i.vq.set 2 (i.vq[2] ++ [splat64 v]) })
    else .next s
  | [] => .next s

/-- VQ3_TO_Q7_TRANSFER (05 R150), no sink event either (LOG 92). -/
def execVq3ToQ7Transfer (g : CoreNo) (s : State) : Outcome State Fault Refusal :=
  let i := s.inst g
  match i.vq[3] with
  | l :: rest =>
    if i.qr[7].length < 8 then
      let v : Word := BitVec.ofNat 64 (l[0].toNat + l[1].toNat * 2 ^ 32)
      .next (s.modInst g fun i => { i with vq := i.vq.set 3 rest, qr := i.qr.set 7 (i.qr[7] ++ [v]) })
    else .next s
  | [] => .next s

end Sys2Proof.Machine
end

