-- ==== Sys2Proof/Machine/System.lean ====
section
/-! DEFINITION. System registers (02 R62, Table 2.11): csrr and csrw (04 R127-R129), firmware's writes (04 R140), and fence
(14 R377, R378). -/

namespace Sys2Proof.Machine

open Host

/-- CAPV of a rung (11 Table 11.3). -/
def capvOf (rung : Fin 5) : Nat :=
  match rung.val with
  | 0 => 0x00FF
  | 1 => 0x00FC
  | 2 => 0x0078
  | 3 => 0x0060
  | _ => 0

/-- The bank size of a buffer (08 Table 8.1). -/
def bankSize : Buf → Nat
  | .w => 131072
  | .a => 131072
  | .c => 65536

/-- The rungs of a buffer's banks (11 R303). -/
def Core.banks (c : Core) : Buf → Vector (Fin 3) 16
  | .w => c.bankW
  | .a => c.bankA
  | .c => c.bankC

/-- Live banks of a buffer (08 R233). -/
def Core.liveBanks (c : Core) (b : Buf) : Nat := ((c.banks b).toList.filter (fun r => r != 2)).length

/-- Live size of a buffer in bytes (08 R233). -/
def Core.liveSize (c : Core) (b : Buf) : Nat := c.liveBanks b * bankSize b

/-- The place of byte offset x of a buffer (08 R233): which live bank, in ascending order, and the row in it. -/
def Core.bankRow (c : Core) (b : Buf) (x : Nat) : Nat × Nat := (x / 256 % c.liveBanks b, x / 256 / c.liveBanks b)

/-- BUFSZW, BUFSZA, BUFSZC (08 Table 8.3). -/
def Core.bufsz (c : Core) (b : Buf) : Word := BitVec.ofNat 64 (c.liveBanks b * 2 ^ 32 + c.liveSize b)

/-- TKSTAT (05 Table 5.2): FIFO f at bits [4f + 3:4f]. -/
def Inst.tkstat (i : Inst) : Word :=
  BitVec.ofNat 64 ((List.finRange 16).foldl (fun n f => n + i.tokens[f] * 16 ^ f.val) 0)

/-- The system register of a number, as the instance on core g reads it (02 Table 2.11); none for another number. -/
def State.csr (s : State) (g : CoreNo) (n : Nat) : Option Word :=
  let c := s.cores[g]
  let y := c.inst.sys
  match n with
  | 0x000 => some (BitVec.ofNat 64 (capvOf c.rung))
  | 0x001 => some (BitVec.ofNat 64 c.rung.val)
  | 0x002 => some y.capreq
  | 0x010 => some y.tcause
  | 0x011 => some y.tpc
  | 0x012 => some y.tval
  | 0x013 => some y.tstat
  | 0x014 => some y.tvec
  | 0x020 => some y.fshare
  | 0x030 => some y.segcnt
  | 0x031 => some y.segsig
  | 0x032 => some y.wdog
  | 0x040 => some y.mtol
  | 0x041 => some y.mrmode
  | 0x042 => some y.mflg
  | 0x043 => some y.fmode
  | 0x050 => some y.idl[0]
  | 0x051 => some y.idl[1]
  | 0x052 => some y.idl[2]
  | 0x053 => some y.idl[3]
  | 0x054 => some y.idl[4]
  | 0x055 => some y.idl[5]
  | 0x058 => some (BitVec.ofNat 64 (dieOf g).val)
  | 0x059 => some (BitVec.ofNat 64 (coreOf g).val)
  | 0x060 => some (c.bufsz .w)
  | 0x061 => some (c.bufsz .a)
  | 0x062 => some (c.bufsz .c)
  | 0x068 => some c.inst.tkstat
  | _ => none

/-- The registers that the instance may write (02 Table 2.11). -/
def userWritable : List Nat := [0x011, 0x013, 0x014, 0x040, 0x041, 0x042, 0x043]

/-- The registers that only firmware may write (02 Table 2.11). -/
def firmwareWritable : List Nat := [0x001, 0x002, 0x010, 0x012, 0x020, 0x030, 0x031, 0x032]

/-- The rights of the instance to write a register (02 R62). -/
def writeRight (n : Nat) : Res Unit :=
  if userWritable.contains n then .ok ()
  else if firmwareWritable.contains n then trapN .priv n
  else trapN .illegal n

/-- The rights of the firmware context to write a register (02 R62): it writes what the instance may write too. -/
def fwRight (n : Nat) : Res Unit :=
  if userWritable.contains n || firmwareWritable.contains n then .ok () else trapN .illegal n

/-- FMODE accepts modes 0 to 4 and no reserved bit (01 R22). -/
def fmodeOk (v : Word) : Bool := decide (v.toNat < 2 ^ 13 ∧ bits v.toNat 7 3 = 0 ∧ bits v.toNat 2 0 ≤ 4)

/-- MTOL accepts a finite FP32 number with sign bit 0 (10 R277). -/
def mtolOk (v : Word) : Bool := decide (v.toNat < 2 ^ 31 ∧ bits v.toNat 30 23 ≠ 255)

/-- The value rules of the registers that the instance may write (01 R22, Table 1.9, 10 R277, R278, 16 R420). -/
def valueOk (n : Nat) (v : Word) : Bool :=
  let x := v.toNat
  match n with
  | 0x011 => decide (x < 2 ^ 16)
  | 0x013 => decide (x < 2 ^ 32 ∧ bits x 15 10 = 0)
  | 0x014 => decide (x < 2 ^ 16)
  | 0x040 => mtolOk v
  | 0x041 => decide (x ≤ 2)
  | 0x042 => decide (x < 2 ^ 6)
  | 0x043 => fmodeOk v
  | _ => false

/-- The write of a register's RW fields (16 R420: of TSTAT only SKIP). -/
def SysRegs.write (y : SysRegs) (n : Nat) (v : Word) : SysRegs :=
  match n with
  | 0x011 => { y with tpc := v }
  | 0x013 => { y with tstat := (y.tstat &&& ~~~(0x100 : Word)) ||| (v &&& 0x100) }
  | 0x014 => { y with tvec := v }
  | 0x040 => { y with mtol := v }
  | 0x041 => { y with mrmode := v }
  | 0x042 => { y with mflg := v }
  | 0x043 => { y with fmode := v }
  | _ => y

/-- The value rules of the registers that firmware may write, RUNG left out (00 R7; 03 Tables 3.7 and 3.8, 05 Table 5.5, 16
Tables 16.4 to 16.8, 16.12 and 16.13). -/
def fwValueOk (n : Nat) (v : Word) : Bool :=
  let x := v.toNat
  match n with
  | 0x002 => decide (x < 2 ^ 16)
  | 0x010 => decide (x < 2 ^ 8)
  | 0x012 => true
  | 0x020 => decide (x < 2 ^ 7)
  | 0x030 => decide (x < 2 ^ 32 ∧ bits x 30 26 = 0)
  | 0x031 => decide (x < 2 ^ 16)
  | 0x032 => decide (x < 2 ^ 32)
  | _ => valueOk n v

/-- Firmware's write of a register's RW fields: FSHARE stores 1 for 0 and at most 64 (03 R107), WDOG at least 293 (05 R158). -/
def SysRegs.fwWrite (y : SysRegs) (n : Nat) (v : Word) : SysRegs :=
  match n with
  | 0x002 => { y with capreq := v }
  | 0x010 => { y with tcause := v }
  | 0x012 => { y with tval := v }
  | 0x020 => { y with fshare := if v.toNat = 0 then 1 else if 64 < v.toNat then 64 else v }
  | 0x030 => { y with segcnt := v }
  | 0x031 => { y with segsig := v }
  | 0x032 => { y with wdog := if v.toNat < 293 then 293 else v }
  | _ => y.write n v

/-- A change of the system registers of an instance. -/
def Inst.modSys (i : Inst) (f : SysRegs → SysRegs) : Inst := { i with sys := f i.sys }

/-- A matrix instruction is in progress on a core: an assist (11 R302), unless it is abandoned (11 R311), or one that has begun to read
its tiles (11 R299; LOG 96). -/
def State.assisting (s : State) (g : CoreNo) : Bool := ((s.inst g).assist.any fun a => !a.abandoned) || !(s.inst g).doneMe.isEmpty

/-- A firmware write falls between two user SCU instructions, never before a slot (04 R140). -/
def State.betweenUser (s : State) (g : CoreNo) : Bool := (s.inst g).slot.isNone

/-- Firmware's write of a system register of the instance on a core (02 R62, 04 R140). RUNG takes only a value above its own and at
most 4, with its record, and waits while an assist is in progress (11 R298, R302, R311). -/
def State.fwWrite (s : State) (g : CoreNo) (n : Nat) (v : Word) : Res State := do
  if n = 0x001 then
    if h : s.cores[g].rung.val < v.toNat ∧ v.toNat < 5 then do
      need (!s.assisting g)
      .ok ((s.modCore g fun c => { c with rung := ⟨v.toNat, h.2⟩ }).writeRecord 0)
    else .error (.trap .illegal v)
  else do
    check (fwValueOk n v) .illegal v
    .ok (s.modInst g fun i => i.modSys fun y => y.fwWrite n v)

/-- csrr (04 R127). -/
def execCsrr (d : SReg) (n : Fin 16384) (s : State) : Outcome State Fault Refusal :=
  let g := s.cur.core
  scuRun s [] (some d) (check (s.csr g n.val).isSome .illegal (BitVec.ofNat 64 n.val)) fun t _ => .ok (t, (s.csr g n.val).getD 0)

/-- csrw (04 R127, R128), with the rights of the context that executes it (02 R62). -/
def execCsrw (a : SReg) (n : Fin 16384) (s : State) : Outcome State Fault Refusal :=
  let g := s.cur.core
  if s.cur.fw then
    scuRun s [a] none (fwRight n.val) fun t vs => (t.fwWrite g n.val (vs.getD 0 0)).map fun u => (u, 0)
  else
    scuRun s [a] none (writeRight n.val) fun t vs => do
      check (valueOk n.val (vs.getD 0 0)) .illegal (vs.getD 0 0)
      .ok (t.modInst g fun i => i.modSys fun y => y.write n.val (vs.getD 0 0), 0)

/-- Firmware's write of a system register as a step of its own: a refused value is taken to firmware's own trap state with TVAL
the value offered (00 R7, 11 R298). -/
def State.fwStep (s : State) (g : CoreNo) (n : Nat) (v : Word) : State :=
  if !s.betweenUser g then s
  else match s.fwWrite g n v with
    | .ok t => t
    | .error (.trap c x) => s.fwTrap g c.code x
    | .error _ => s

/-- The write of one of FMODE, MFLG, MTOL and MRMODE as a step of its own: firmware's csrw, or the csrw of the instance that
stands next in its scalar stream with that value. -/
def regWrite (g : CoreNo) (fw : Bool) (n : Fin 16384) (v : Word) (s : State) : Outcome State Fault Refusal :=
  let i := s.inst g
  if fw then .next (s.fwStep g n.val v)
  else
    let w := i.scu.wordAt i.scu.pc
    match decode .scu w.toNat 0 with
    | .ok (.csrw a m) =>
      if m = n ∧ s.readable g a ∧ s.readS g a = v ∧ s.cores[g].occupant.isSome ∧ !i.scu.ended ∧ !i.freezing ∧
          !(i.scu.held ∧ s.asked g ∧ !i.handler) then
        execCsrw a n { s with cur := ⟨g, .scu, i.scu.pc, w, 0, s.tick, false⟩ }
      else .next s
    | _ => .next s

/-- FMODE_WRITE (01 R22). -/
def execFmodeWrite (g : CoreNo) (fw : Bool) (v : Word) (s : State) : Outcome State Fault Refusal := regWrite g fw 0x043 v s
/-- MFLG_WRITE (01 R35). -/
def execMflgWrite (g : CoreNo) (fw : Bool) (v : Word) (s : State) : Outcome State Fault Refusal := regWrite g fw 0x042 v s
/-- MTOL_WRITE (10 R277). -/
def execMtolWrite (g : CoreNo) (fw : Bool) (v : Word) (s : State) : Outcome State Fault Refusal := regWrite g fw 0x040 v s
/-- MRMODE_WRITE (10 R278). -/
def execMrmodeWrite (g : CoreNo) (fw : Bool) (v : Word) (s : State) : Outcome State Fault Refusal := regWrite g fw 0x041 v s

/-- RUNG_WRITE (11 R298, R302): only downwards, at most to 4; deferred to the end of an assist. -/
def execRungWrite (g : CoreNo) (v : Word) (s : State) : Outcome State Fault Refusal := .next (s.fwStep g 0x001 v)

/-- FSHARE_WRITE (03 R107): 0 stores 1, more than 64 stores 64; a reserved bit is ILLEGAL (00 R7). -/
def execFshareWrite (g : CoreNo) (v : Word) (s : State) : Outcome State Fault Refusal := .next (s.fwStep g 0x020 v)

/-- WDOG_WRITE (05 R158): the floor is 293; a reserved bit is ILLEGAL (00 R7). -/
def execWdogWrite (g : CoreNo) (v : Word) (s : State) : Outcome State Fault Refusal := .next (s.fwStep g 0x032 v)

/-- Whether a CE word is a cprm or a sig. -/
def remoteWord (w : Nat) : Bool := majorOf .ce w == 0x04 || majorOf .ce w == 0x0C

/-- Whether a helper program from an address holds a cprm or a sig before its hret (12 R349, R350). -/
def programRemote (st : Stream) : Nat → Nat → Bool
  | 0, _ => false
  | n + 1, pc =>
    let w := (st.wordAt pc).toNat
    if imemSize .ce ≤ pc ∨ majorOf .ce w = 0x14 then false else remoteWord w || programRemote st n (pc + 4)

/-- Whether an instruction is a cprm or a sig. -/
def isRemote : Instr → Bool
  | .cprm _ _ _ _ _ _ _ => true
  | .sigSt _ _ _ _ _ _ _ => true
  | .sigAdd _ _ _ _ _ _ _ => true
  | _ => false

/-- Whether a cprm or sig that is earlier than a fence has not been acknowledged (14 R378); the fence waits for the other
ones in flight too, as the rule allows. -/
def Inst.remotePending (i : Inst) : Bool :=
  i.copies.any (fun c => isRemote c.instr)
    || i.qw[0].any (fun v => remoteWord v.toNat)
    || i.qw[4].any (fun v => programRemote i.ce 4096 (bits v.toNat 13 0))
    || (match i.helper with
        | some h => programRemote i.ce 4096 h.pc
        | none => false)

/-- A cprm or sig of an instance is in flight. -/
def Inst.sending (i : Inst) : Bool := i.copies.any fun c => isRemote c.instr

/-- Whether a cprm or sig of another instance is in flight, on a core or with a saved context: its issue may happen before a fence of
this one through a queue element, a token or a counter, and the fence waits for every one of them (14 R378; LOG 46). -/
def State.othersRemote (s : State) (g : CoreNo) : Bool :=
  ((List.finRange 192).any fun h => h != g && (s.inst h).sending) || s.saved.any (·.inst.sending)

/-- fence (14 R377, R378). Every earlier access of the SCU is performed when it issues (LOG 10); fence.all.pod waits for the
acknowledgements of R469. -/
def execFence (sc : FenceScope) (k : FenceKind) (s : State) : Outcome State Fault Refusal :=
  let g := s.cur.core
  scuRun s [] none (.ok ()) fun t _ => do
    need (!(sc == .pod && k == .all && ((s.inst g).remotePending || s.othersRemote g)))
    .ok (t, 0)

end Sys2Proof.Machine
end

