-- ==== Sys2Proof/Machine/Launch.lean ====
section
/-! DEFINITION. Task images (02 R78-R80), the checks of a launch (17 R451, 03 R91), range dependences (17 R452) and the
acceptance of operator records (17 R450). -/

namespace Sys2Proof.Machine

open Host

-- Task images.

/-- The ring table's entries (02 R79), when their reserved bytes are zero. -/
def ringDecls (bs : List Byte) (n : Nat) : Option (List RingDecl) :=
  (List.range n).mapM fun k =>
    let u := fun o m => leNat ((bs.drop (0x80 + 16 * k + o)).take m)
    if u 0 1 ≤ 1 ∧ u 12 4 = 0 then some ⟨u 0 1, u 1 1, u 2 2, u 4 4, u 8 4⟩ else none

/-- The rings meet 08 R235 for a claim. -/
def ringsOk (l : List RingDecl) (claimW claimA : Nat) : Bool :=
  l.all (fun r => decide (r.index < 8 ∧ r.base % 256 = 0 ∧ r.slotBytes % 256 = 0 ∧ r.slotBytes ≠ 0 ∧ r.slots ≠ 0
      ∧ r.base + r.slotBytes * r.slots ≤ if r.buf = 0 then claimW else claimA))
    && (List.range l.length).all fun i => (List.range i).all fun j =>
      match l[i]?, l[j]? with
      | some a, some b => a.buf != b.buf || (a.index != b.index
          && decide (a.base + a.slotBytes * a.slots ≤ b.base ∨ b.base + b.slotBytes * b.slots ≤ a.base))
      | _, _ => true

/-- A ring as placement configures it (03 Table 3.6). -/
def ringOfDecl (r : RingDecl) : BufRing := ⟨r.base, r.slotBytes, r.slots, 0, 0, 0, []⟩

/-- The rings of W (0) or A (1) of a ring table. -/
def ringVector (l : List RingDecl) (buf : Nat) : Vector (Option BufRing) 8 :=
  Vector.ofFn fun i : Fin 8 => (l.find? fun r => r.buf == buf && r.index == i.val).map ringOfDecl

/-- The sections lie as 02 R79 lays down: each non-empty one at the next multiple of 256, an empty one at 0. -/
def sectionsOk : Nat → List (Nat × Nat) → Bool
  | _, [] => true
  | top, (off, size) :: rest =>
    if size = 0 then off == 0 && sectionsOk top rest
    else off == (top + 255) / 256 * 256 && sectionsOk (off + size) rest

/-- The header of an image: sizes that the reading of the rest needs, when it passes 02 R78 to R80. -/
def headerOk (h : List Byte) : Bool :=
  let u := fun o n => leNat ((h.drop o).take n)
  let sect := (List.range 5).map fun k => (u (0x20 + 8 * k) 4, u (0x24 + 8 * k) 4)
  let sizes := sect.map (·.2)
  let levels := u 0x0E 2
  decide (u 0 4 = 0x014F4D47 ∧ u 4 2 = 1 ∧ u 6 2 ≤ 1 ∧ u 0x0A 2 = 0 ∧ u 0x7C 4 = 0 ∧ u 0x78 2 ≤ 16 ∧ u 0x7A 2 ≤ 16 ∧ levels ≤ 6
    ∧ u 0x0C 2 ≤ 1024 ∧ u 0x14 4 ≤ 2097152 ∧ u 0x18 4 ≤ 2097152 ∧ u 0x1C 4 ≤ 1048576 ∧ u 0x10 4 ≤ 2 ^ 24)
    && (List.range 6).all (fun k => decide (u (0x48 + 8 * k + 5) 3 = 0) && (decide (k < levels) || u (0x48 + 8 * k) 5 == 0))
    && sizes.all (fun n => n % 4 == 0)
    && decide (sizes.getD 0 0 ≤ 65536 ∧ sizes.getD 1 0 ≤ 32768 ∧ sizes.getD 2 0 ≤ 16384 ∧ sizes.getD 3 0 ≤ 16384)
    && sectionsOk (0x80 + 16 * u 0x78 2 + 8 * u 0x7A 2) sect

/-- The length of an image whose header is sound. -/
def imageLen (h : List Byte) : Nat :=
  let u := fun o n => leNat ((h.drop o).take n)
  ((List.range 5).map fun k => u (0x20 + 8 * k) 4 + u (0x24 + 8 * k) 4).foldl Nat.max (0x80 + 16 * u 0x78 2 + 8 * u 0x7A 2)

/-- Code bytes as an instruction memory (02 R45). -/
def imemOf (bs : List Byte) : Bytes := cellsFrom 0 bs

/-- The image in its bytes; none for an image fault (02 R80). -/
def parseImage (bs : List Byte) : Option Image :=
  let u := fun o n => leNat ((bs.drop o).take n)
  if !headerOk (bs.take 128) then none
  else
    let sec := fun k => (bs.drop (u (0x20 + 8 * k) 4)).take (u (0x24 + 8 * k) 4)
    let data := sec 4
    let nr := u 0x78 2
    match ringDecls bs nr with
    | none => none
    | some rings =>
      let base : Inst := { Inst.reset with claimW := u 0x14 4, claimA := u 0x18 4, claimC := u 0x1C 4,
                                           ringsW := ringVector rings 0, ringsA := ringVector rings 1 }
      let streams : Option (List (Fin 16 × ZReg)) := (List.range (u 0x7A 2)).mapM fun k =>
        let o := 0x80 + 16 * nr + 8 * k
        let at' := u (o + 4) 4
        let z := zregOf ((data.drop at').take 64)
        if u o 1 < 16 ∧ u (o + 1) 3 = 0 ∧ at' + 64 ≤ data.length ∧ loadReason base z = none then
          some (Fin.ofNat 16 (u o 1), { z with scale := z.effective })
        else none
      match streams with
      | none => none
      | some zs =>
        if !ringsOk rings (u 0x14 4) (u 0x18 4) then none
        else some
          { coResident := u 6 2 == 1, capreq := BitVec.ofNat 16 (u 8 2), tileRows := u 0x0C 2,
            levels := (List.range (u 0x0E 2)).map fun k => ⟨u (0x48 + 8 * k) 4, u (0x4C + 8 * k) 1⟩,
            spill := u 0x10 4, claimW := u 0x14 4, claimA := u 0x18 4, claimC := u 0x1C 4,
            scalar := imemOf (sec 0), vector := imemOf (sec 1), matrix := imemOf (sec 2), copy := imemOf (sec 3),
            data := data, rings := rings, streams := zs }

-- The loop table (03 R86-R89).

/-- N, the number of instances (03 R87). -/
def Image.instances (i : Image) : Nat := (i.levels.filter fun l => l.kind != 0).foldl (fun n l => n * l.count) 1

/-- The number of passes (03 R89). -/
def Image.passes (i : Image) : Nat := (i.levels.filter fun l => l.kind == 0).foldl (fun n l => n * l.count) 1

/-- Whether the task has a D level. -/
def Image.hasD (i : Image) : Bool := i.levels.any fun l => l.kind == 2

/-- The size of a die group: the product of the C counts. -/
def Image.groupSize (i : Image) : Nat := (i.levels.filter fun l => l.kind == 1).foldl (fun n l => n * l.count) 1

/-- The digits of a number in the counts of some levels, the first most significant. -/
def digits : Nat → List Nat → List Nat
  | _, [] => []
  | n, c :: cs =>
    let rest := cs.foldl (· * ·) 1
    n / rest % c :: digits (n % rest) cs

/-- The coordinates of the levels of an instance at a pass (03 R87, R89, R92). -/
def Image.coords (i : Image) (ordinal pass : Nat) : List Nat :=
  let sp := digits ordinal ((i.levels.filter fun l => l.kind != 0).map (·.count))
  let tp := digits pass ((i.levels.filter fun l => l.kind == 0).map (·.count))
  (i.levels.foldl (fun (st : List Nat × List Nat × List Nat) l =>
    if l.kind = 0 then (st.1 ++ [st.2.2.headD 0], st.2.1, st.2.2.tail)
    else (st.1 ++ [st.2.1.headD 0], st.2.1.tail, st.2.2)) ([], sp, tp)).1

/-- The die group of an ordinal: its D coordinates (03 R88). -/
def Image.dieGroup (i : Image) (ordinal : Nat) : List Nat :=
  ((i.coords ordinal 0).zip i.levels).filterMap fun e => if e.2.kind = 2 then some e.1 else none

/-- The in-service cores (03 R85). -/
def State.inService (s : State) : List CoreNo := (List.finRange 192).filter fun g => s.cores[g].inService

/-- A core's live buffers hold a task's claims (08 R229, R234). -/
def Core.holds (c : Core) (i : Image) : Bool :=
  decide (i.claimW ≤ c.liveSize .w ∧ i.claimA ≤ c.liveSize .a ∧ i.claimC ≤ c.liveSize .c)

/-- The launch faults of 03 Table 3.2, of 08 R234 and of 13 R367: reason 0x02 or 0x03; none for a task that can be placed. A
co-resident task is measured against the in-service cores that hold its claims, those in use now among them (LOG 83). A level count above 65,535
is one that the loop table does not admit either (LOG 105). -/
def State.resourceFault (s : State) (i : Image) : Option Nat :=
  let cores := s.inService
  let fit := cores.filter fun g => s.cores[g].holds i
  let perDie := fun d : Fin 8 => (fit.filter fun g => dieOf g == d).length
  let small := fun (b : Buf) (n : Nat) => cores.all fun g => decide (s.cores[g].liveSize b < n)
  if i.levels.any fun l => l.count == 0 || decide (65535 < l.count ∨ 3 ≤ l.kind) then some 0x02
  else if 2 ^ 24 < i.instances then some 0x02
  else if i.hasD ∧ 24 < i.groupSize then some 0x02
  else if i.coResident ∧ fit.length < i.instances then some 0x03
  else if i.coResident ∧ i.hasD
      ∧ ((List.finRange 8).map fun d => perDie d / i.groupSize).sum < i.instances / i.groupSize then some 0x03
  else if 256 ≤ i.capreq.toNat then some 0x03
  else if small .w i.claimW ∨ small .a i.claimA ∨ small .c i.claimC then some 0x03
  else if i.coResident ∧ 192 * 2 ^ 20 < i.instances * i.spill then some 0x03
  else none

-- Memory as the command processor reaches it.

/-- What an access of the command processor meets: bytes or a state, a page that firmware may still serve, or a fault that
stands (17 R446, R448, R451). -/
inductive CpRes (α : Type)
  | ok (x : α)
  | later
  | bad (c : Cause)

/-- A fault of the command processor: firmware makes a page resident later, or finds that it cannot be mapped (LOG 14). -/
def State.cpFault {α : Type} (s : State) (k : Nat) (c : Cause) : CpRes α :=
  match c with
  | .pageR | .pageW => if Config.policy s.tick k then .bad c else .later
  | _ => .bad c

/-- The command processor's read. -/
def State.cpRead (s : State) (k ctx va n : Nat) : CpRes (List Byte) :=
  match s.readV none ctx va n with
  | .ok bs => .ok bs
  | .error (c, _) => s.cpFault k c

/-- The command processor's write. -/
def State.cpWrite (s : State) (k ctx va : Nat) (bs : List Byte) : CpRes State :=
  match s.writeV none ctx va bs with
  | .ok t => .ok t
  | .error (c, _) => s.cpFault k c

-- Operator records (17 R450, R451).

/-- An operator record (17 Table 17.7). -/
structure OpRecord where
  image : Word
  data : Word
  sigAddr : Word
  sigVal : Word
  status : Word
  ranges : Word
  flags : Word
  reserved : Word

/-- The record in 64 bytes. -/
def opRecordOf (bs : List Byte) : OpRecord :=
  let u := fun o => (BitVec.ofNat 64 (leNat ((bs.drop o).take 8)) : Word)
  ⟨u 0, u 8, u 16, u 24, u 32, u 40, u 48, u 56⟩

/-- Check 1 of 17 Table 17.11. -/
def OpRecord.ok (r : OpRecord) : Bool :=
  decide (r.flags.toNat < 256 ∧ r.reserved = 0 ∧ bits r.flags.toNat 4 0 ≤ 16 ∧ bits r.flags.toNat 6 5 ≠ 3
    ∧ r.image.toNat % 256 = 0 ∧ r.ranges.toNat % 16 = 0 ∧ r.sigAddr.toNat % 8 = 0 ∧ r.status.toNat % 8 = 0)

/-- The range table in its bytes; none when an entry breaks 17 R450. -/
def rangesOf (bs : List Byte) (n : Nat) : Option (List Range) :=
  (List.range n).mapM fun k =>
    let u := fun o m => leNat ((bs.drop (16 * k + o)).take m)
    if 1 ≤ u 8 4 ∧ u 8 4 < 2 ^ 31 ∧ u 12 1 ≤ 1 ∧ u 13 3 = 0 then some ⟨u 0 8, u 8 4, u 12 1 == 1⟩ else none

/-- Check 5: the pages of DATA have the kind and allow writes (17 Table 17.11). -/
def State.dataPages (s : State) (ctx : Nat) (kind : Nat) : List (Nat × Nat) → CpRes Unit
  | [] => .ok ()
  | (va, _) :: rest =>
    match s.lookup none ctx va with
    | none => if Config.policy s.tick 3 then .bad .pageW else .later
    | some e => if e.w ∧ e.kind.toNat = kind ∧ (!e.fwo ∨ ctx = 0) then s.dataPages ctx kind rest else .bad .prot

/-- What the checks of a launch find: the work and ranges, a launch fault, or a page to be served first (17 R451). -/
inductive Checked
  | good (i : Image) (ranges : List Range)
  | fault (reason : Nat)
  | later

/-- Checks 4 to 6 of 17 Table 17.11. -/
def State.checkRest (s : State) (ctx : Nat) (r : OpRecord) (i : Image) : Checked :=
  match s.resourceFault i with
  | some n => .fault n
  | none => match s.dataPages ctx (bits r.flags.toNat 6 5) (pieces r.data.toNat i.data.length) with
    | .later => .later
    | .bad _ => .fault 0x04
    | .ok _ =>
      let n := bits r.flags.toNat 4 0
      match s.cpRead 4 ctx r.ranges.toNat (16 * n) with
      | .later => .later
      | .bad _ => .fault 0x05
      | .ok bs => match rangesOf bs n with
        | none => .fault 0x05
        | some rs => .good i rs

/-- The checks of a launch in the order of 17 Table 17.11. -/
def State.checkLaunch (s : State) (ctx : Nat) (r : OpRecord) : Checked :=
  if !r.ok then .fault 0x06
  else if r.data.toNat % 256 ≠ 0 then .fault 0x04
  else match s.cpRead 1 ctx r.image.toNat 128 with
    | .later => .later
    | .bad _ => .fault 0x01
    | .ok h =>
      if !headerOk h then .fault 0x01
      else match s.cpRead 2 ctx r.image.toNat (imageLen h) with
        | .later => .later
        | .bad _ => .fault 0x01
        | .ok bs => match parseImage bs with
          | none => .fault 0x01
          | some i => s.checkRest ctx r i

-- Tracked tasks (17 R452).

/-- Two ranges overlap, rounded outward to 256 bytes, and one of them writes. -/
def Range.conflicts (a b : Range) : Bool :=
  let lo := fun r : Range => r.addr / 256
  let hi := fun r : Range => (r.addr + r.len + 255) / 256
  (a.write || b.write) && decide (a.len ≠ 0 ∧ b.len ≠ 0 ∧ lo a < hi b ∧ lo b < hi a)

/-- The earlier tasks of the context that a new task's ranges wait for. -/
def State.depsOf (s : State) (ctx : Nat) (rs : List Range) : List Nat :=
  (s.tasks.filter fun t => t.ctx == ctx && t.ranges.any fun a => rs.any fun b => a.conflicts b).map (·.id)

/-- At most 1,024 tasks are tracked. -/
def State.trackRoom (s : State) (n : Nat) : Bool := decide (s.tasks.length + n ≤ 1024)

/-- An empty image, for the record of a launch that faulted. -/
def Image.none : Image := ⟨false, 0, 0, [], 0, 0, 0, 0, [], [], [], [], [], [], []⟩

/-- A task enters the table of tracked tasks. -/
def State.addTask (s : State) (ring : Option (Fin 256)) (node : Option Nat) (ctx : Nat) (r : OpRecord) (w : Work)
    (rs : List Range) (phase : TaskPhase) : State :=
  let t : Task := ⟨s.nextTask, ctx, ring, node, w, r.data, r.sigAddr, r.sigVal, r.status, rs,
    BitVec.ofNat 2 (bits r.flags.toNat 6 5), r.flags.getLsbD 7, phase, s.depsOf ctx rs, 0, [], [], [], []⟩
  { s with tasks := s.tasks ++ [t], nextTask := s.nextTask + 1 }

/-- The acceptance of one operator record: a task that waits, or a launch fault (17 R451, R453); not yet while a page is to be
served. -/
def State.acceptRecord (s : State) (ring : Option (Fin 256)) (node : Option Nat) (ctx : Nat) (r : OpRecord) : Option State :=
  match s.checkLaunch ctx r with
  | .later => none
  | .fault n => some (s.addTask ring node ctx r (.image .none) [] (.done 2 n))
  | .good i rs => some (s.addTask ring node ctx r (.image i) rs .waiting)

end Sys2Proof.Machine
end

