-- ==== Sys2Proof/Machine/Links.lean ====
section
/-! DEFINITION. Brynquel links: flits, replay, retraining and rungs (18 R462-R466), remote copies and signals (18 R467-R469). -/

namespace Sys2Proof.Machine

open Host

-- Firmware's tables of the pod (18 R466, R467).

/-- Firmware gives the module its pod number, which never has a peer. -/
def State.setPod (s : State) (n : Fin 64) : State := { s with pod := n.val }

/-- Firmware names the peer of a local CTX on a module, or records that there is none. -/
def State.setPeer (s : State) (ctx : Nat) (m : Fin 64) (peer : Option Nat) : State :=
  let rest := s.peers.filter fun e => !(e.1 == ctx && e.2.1 == m.val)
  { s with peers := match peer with
      | some p => (ctx, m.val, p) :: rest
      | none => rest }

/-- Firmware writes the list of first hops to a module. -/
def State.setRoutes (s : State) (m : Fin 64) (links : List (Fin 16)) : State :=
  { s with routes := (m.val, links) :: s.routes.filter fun e => e.1 != m.val }

-- Replay (18 R463).

/-- An ACK value: the flits up to the one with that SEQ leave the replay buffer. -/
def Link.acked (l : Link) (a : BitVec 16) (now : Nat) : Link :=
  if l.replay.any fun f => f.seq == a then
    { l with replay := (l.replay.dropWhile fun f => f.seq != a).drop 1, ackAt := now }
  else l

/-- The link retrains: every send count is zero, and the count of replays starts afresh (18 R464). -/
def Link.retrain (l : Link) : Link :=
  { l with retraining := true, replays := [], replay := l.replay.map fun f => { f with sends := 0 } }

/-- Every unacknowledged flit is sent again, in order. -/
def Link.sendAll (l : Link) (now : Nat) : Link :=
  { l with ackAt := now, replay := l.replay.map fun f => { f with sends := f.sends + 1 } }

/-- A replay is due: it happens, or the link retrains by the bounds of 18 R464. -/
def Link.resend (l : Link) (now : Nat) : Link :=
  let times := l.replays.filter (fun t => decide (now < t + 1000000)) ++ [now]
  if l.replay.isEmpty then l
  else if (l.replay.any fun f => decide (8 ≤ f.sends)) ∨ 1024 < times.length then l.retrain
  else ({ l with replays := times }).sendAll now

/-- Whether a link carries flits now. -/
def Link.up (l : Link) : Bool := l.rung != 3 && !l.retraining

/-- A change of one link. -/
def State.modLink (s : State) (l : Fin 16) (f : Link → Link) : State := { s with links := s.links.set l (f s.links[l]) }

-- Rungs (18 Table 18.2).

/-- The groups of four lanes within a half (some false: 0-7), or within all sixteen. -/
def quads (half : Option Bool) : List (BitVec 16 × Bool) :=
  ([(0x000F, false), (0x00F0, false), (0x0F00, true), (0xF000, true)] : List (BitVec 16 × Bool)).filter fun q =>
    half.all fun h => h == q.2

/-- The lanes that a link uses at a rung, and the half in use at rung 1; none when no group is intact. -/
def Link.lanesAt (l : Link) (r : Fin 4) : Option (BitVec 16 × Option Bool) :=
  let ok := fun m : BitVec 16 => m &&& ~~~l.intact == 0
  match r with
  | 0 => if ok (BitVec.allOnes 16) then some (BitVec.allOnes 16, l.half) else none
  | 1 => if ok 0x00FF then some (0x00FF, some false) else if ok 0xFF00 then some (0xFF00, some true) else none
  | 2 => ((quads l.half).find? fun q => ok q.1).map fun q => (q.1, l.half)
  | 3 => some (0, l.half)

/-- The first rung from r down that finds its lanes. -/
def Link.settleRung (l : Link) (r : Nat) : Link :=
  match ([0, 1, 2, 3] : List (Fin 4)).find? fun x => decide (r ≤ x.val) && (l.lanesAt x).isSome with
  | some x => match l.lanesAt x with
    | some (m, h) => { l with rung := x, lanes := m, half := h, fails := 0, retraining := l.retraining && x != 3 }
    | none => l
  | none => l

/-- A link steps down from its rung, with its record (18 R464, 19 R477). -/
def State.stepLink (s : State) (l : Fin 16) : State := (s.modLink l fun x => x.settleRung (x.rung.val + 1)).writeRecord 3

/-- LANE_FAILURE (18 R464): a lane in use steps the link down, and it retrains at the new width. -/
def execLaneFailure (l : Fin 16) (lane : Fin 16) (s : State) : Outcome State Fault Refusal :=
  let used := s.links[l].lanes.getLsbD lane.val
  let t := s.modLink l fun x => { x with intact := x.intact &&& ~~~((1 : BitVec 16) <<< lane.val) }
  if used ∧ s.links[l].rung ≠ 3 then .next ((t.modLink l Link.retrain).stepLink l) else .next t

/-- RETRAIN_COMPLETE (18 R464): after a good retraining the sender resumes from the last acknowledged SEQ; three failures in a row at
one width step the link down. -/
def execRetrainComplete (l : Fin 16) (trained : Bool) (s : State) : Outcome State Fault Refusal :=
  let x := s.links[l]
  if !x.retraining ∨ s.power ≠ .d0 then .next s
  else if trained then
    .next (s.modLink l fun x => ({ x with retraining := false, fails := 0 }).sendAll (Config.nanoseconds s.tick))
  else if x.fails < 2 then .next (s.modLink l fun x => { x with fails := x.fails + 1 })
  else .next (s.stepLink l)

-- Sending (18 R462, R466, R468).

/-- The link that carries the messages to a module: the first of its list that is not retired (18 R466). -/
def State.route (s : State) (m : Nat) : Option (Fin 16) := ((s.routes.lookup m).getD []).find? fun l => s.links[l].rung != 3

/-- The base die on which a link stands (18 R462). -/
def linkDie (l : Fin 16) : Fin 4 := ⟨l.val / 4, by omega⟩

/-- The bytes of a message with its header of 16 bytes (18 R462; LOG 28). -/
def messageBytes : Message → Nat
  | .unit _ _ data => 16 + data.length
  | .sigSt _ _ _ _ => 24
  | .sigAdd _ _ _ _ => 24
  | .answer _ => 16

/-- The flits that n bytes more fill, behind the used ones of the flit being filled: their messages, and the flit that is then being
filled. A message ends in the flit that holds its last byte. -/
def pack (o : OpenFlit) (n : Nat) (e : Envelope) : List (List Envelope) × OpenFlit :=
  let total := o.used + n
  let full := total / 240
  let fits := fun k : Nat => decide ((total - 1) / 240 = k)
  ((List.range full).map fun k => (if k = 0 then o.msgs else []) ++ if fits k then [e] else [],
    ⟨total % 240, (if full = 0 then o.msgs else []) ++ if total % 240 ≠ 0 ∧ fits full then [e] else []⟩)

/-- Flits enter the replay buffer of a link and are sent, each with the ACK of the reverse direction (18 R462, R463). -/
def Link.emit (x : Link) (fs : List (List Envelope)) (now : Nat) (hdr : Word32) : Link :=
  let ack := x.recvSeq - 1
  let flits := fs.zipIdx.map fun f => (⟨x.sendSeq + BitVec.ofNat 16 f.2, 1, ack, hdr, f.1⟩ : SentFlit)
  if fs.isEmpty then x
  else { x with sendSeq := x.sendSeq + BitVec.ofNat 16 fs.length, replay := x.replay ++ flits, unacked := 0, ackOut := ack,
                ackAt := if x.replay.isEmpty then now else x.ackAt }

/-- The type and routing field of the flits sent at a step: the spec does not give its layout (LOG 28). -/
def State.flitHdr (s : State) : Word32 := (Config.freeWord s.tick 90).setWidth 32

/-- A message is packed behind the earlier ones, and the flits that it fills are sent; none while there is no room in the replay buffer,
or the link retrains. -/
def State.send (s : State) (l : Fin 16) (e : Envelope) : Option State :=
  let x := s.links[l]
  let p := pack x.part (messageBytes e.msg) e
  if !x.up ∨ 1024 < x.replay.length + p.1.length then none
  else some (s.modLink l fun x => { x.emit p.1 (Config.nanoseconds s.tick) s.flitHdr with part := p.2 })

/-- The flit being filled is sent as it is. -/
def Link.flush (x : Link) (now : Nat) (hdr : Word32) : Link :=
  if x.part.used = 0 ∨ 1024 ≤ x.replay.length then x else { x.emit [x.part.msgs] now hdr with part := ⟨0, []⟩ }

/-- A link sends the flit that it is filling (LOG 28). -/
def State.flitFlush (s : State) (l : Fin 16) : State :=
  if s.links[l].up ∧ s.power = .d0 then s.modLink l fun x => x.flush (Config.nanoseconds s.tick) s.flitHdr else s

/-- The module on the far side of a link, as training finds it (18 R465). -/
def State.setFar (s : State) (l : Fin 16) (m : Option Nat) : State := s.modLink l fun x => { x with far := m }

/-- A later hop of the route in use to a module is lost: that route goes (18 R466). -/
def State.hopLost (s : State) (m : Fin 64) : State :=
  match s.route m.val with
  | some l => { s with routes := s.routes.map fun e => if e.1 = m.val then (e.1, e.2.filter (· != l)) else e }
  | none => s

/-- The context on module m in whose address space remote addresses are translated; none when m has no peer (18 R467). -/
def State.peerOf (s : State) (ctx m : Nat) : Option Nat :=
  if m = s.pod then none else (s.peers.find? fun e => e.1 == ctx && e.2.1 == m).map fun e => e.2.2

/-- The check that module m has a peer (18 R468). -/
def peerCheck (s : State) (m : Nat) : Res Nat :=
  match s.peerOf (s.ctxOf s.cur.core) m with
  | some p => .ok p
  | none => trapN .prot m

/-- cprm (18 R467, R468). -/
def execCprm (tk : Tok) (p q : CReg) (a : AReg) (m : Fin 64) (o : Bool) (z : Fin 8) (s : State) : Outcome State Fault Refusal :=
  ceRun s tk do
    let len ← pairLen s q
    let peer ← peerCheck s m.val
    s.startUnlessEmpty (.cprm tk p q a m o z)
      ⟨s.cReg p, s.cReg q, len, BitVec.ofNat 64 peer, .reset, .reset, len, (len + 255) / 256, none, none⟩

/-- The issue of a sig (18 R467, R468). -/
def issueSig (s : State) (tk : Tok) (p q : CReg) (m : Fin 64) (x : Bool) (i : Instr) : Outcome State Fault Refusal :=
  ceRun s tk do
    let peer ← peerCheck s m.val
    let n := atomBytes x
    check ((s.cReg p).toNat % n == 0) .misalign (s.cReg p)
    s.startCopy i ⟨s.cReg p, s.cReg q, n, BitVec.ofNat 64 peer, .reset, .reset, n, 1, none, none⟩

/-- sig.st (18 R468). -/
def execSigSt (tk : Tok) (p q : CReg) (a : AReg) (m : Fin 64) (o x : Bool) (s : State) : Outcome State Fault Refusal :=
  issueSig s tk p q m x (.sigSt tk p q a m o x)
/-- sig.add (18 R468). -/
def execSigAdd (tk : Tok) (p q : CReg) (a : AReg) (m : Fin 64) (o x : Bool) (s : State) : Outcome State Fault Refusal :=
  issueSig s tk p q m x (.sigAdd tk p q a m o x)

/-- The remote address of a unit. -/
def Copy.remote (c : Copy) (u : Nat) : Word := c.p + BitVec.ofNat 64 (256 * u)

/-- The bytes of a remote unit. -/
def Copy.unitLen (c : Copy) (u : Nat) : Nat := Nat.min 256 (c.len - 256 * u)

/-- A unit of a cprm or a sig is sent, with its source read now; an unreachable destination faults with PROT (18 R468). -/
def State.sendUnit (s : State) (g : CoreNo) (c : Copy) (m : Nat) (d : Fin 8) (u : Nat) : Except CopyStop State := do
  let ctx := c.m.toNat
  let n := c.unitLen u
  if c.sent.contains u then .error .wait
  else do
    let r : State × Message ← match c.instr with
      | .sigSt _ _ _ _ _ _ x => .ok (s, .sigSt ctx c.p x c.q)
      | .sigAdd _ _ _ _ _ _ x => .ok (s, .sigAdd ctx c.p x c.q)
      | _ =>
        let va := (c.q + BitVec.ofNat 64 (256 * u)).toNat
        (s.sourceBytes g c 0 va n d).map fun x => (x.1, .unit ctx (c.remote u) x.2)
    match s.route m with
    | none => .error (.fault .prot (c.remote u))
    | some l => match r.1.send l ⟨s.pod, m, (g, c.id, u), r.2⟩ with
      | none => .error .wait
      | some t => .ok (t.modInst g fun i => i.modCopy c.id fun x => { x with sent := u :: x.sent })

/-- The answer to a remote unit: it is no longer awaited. -/
def Copy.answered (c : Copy) (u : Nat) : Copy := { c with sent := c.sent.filter (· != u) }

/-- A remote unit fails at the source, restartably (18 R468). -/
def State.failUnit (s : State) (g : CoreNo) (id u off : Nat) (ca : Cause) : State :=
  s.modInst g fun i => i.modCopy id fun c =>
    if c.sent.contains u then (c.answered u).withFault u ca (c.remote u + BitVec.ofNat 64 off) else c

/-- Whether an instruction is a sig.add. -/
def isSigAdd : Instr → Bool
  | .sigAdd _ _ _ _ _ _ _ => true
  | _ => false

/-- The answer to a remote unit or signal reaches its source (18 R468, R469): one that has landed is counted; one that the destination
refuses faults. -/
def State.remoteAnswer (s : State) (g : CoreNo) (copy unit : Nat) (answer : RemoteAnswer) : State :=
  match (s.inst g).copy copy with
  | none => s
  | some c =>
    let fail := fun (off : Nat) (ca : Cause) => if off < c.unitLen unit then s.failUnit g copy unit off ca else s
    if !c.sent.contains unit ∨ !isRemote c.instr then s
    else match answer with
      | .landed => (s.modInst g fun i => i.unitLanded (c.answered unit) unit (c.unitLen unit)).sink g
      | .pageW off => fail off.val .pageW
      | .prot off => fail off.val .prot
      | .poison off => if isSigAdd c.instr then fail off.val .poison else s

/-- REMOTE_UNIT_ACK (18 R468, R469). -/
def execRemoteUnitAck (g : CoreNo) (copy : Nat) (unit : Nat) (answer : RemoteAnswer) (s : State) : Outcome State Fault Refusal :=
  .next (s.remoteAnswer g copy unit answer)

/-- A message has no route left (18 R466, R468): a unit or signal of this module fails with PROT, one of another module is answered so,
and an answer is lost. -/
def State.failMessage (s : State) (e : Envelope) : State :=
  match e.msg with
  | .answer _ => s
  | _ =>
    if e.src = s.pod then s.failUnit e.tag.1 e.tag.2.1 e.tag.2.2 0 .prot
    else { s with outbox := s.outbox ++ [⟨s.pod, e.src, e.tag, .answer (.prot 0)⟩] }

/-- A message goes out on the route to its destination, or fails where none is left; none while the link has no room. -/
def State.sendOn (s : State) (e : Envelope) : Option State :=
  match s.route e.dest with
  | none => some (s.failMessage e)
  | some l => s.send l e

-- Receiving (18 R463, R466, R468, R469).

/-- What a message meets at its destination: it lands, its page is still to be served, or it is refused. -/
inductive Landing | landed (s : State) | later | refused (a : RemoteAnswer)

/-- A memory fault of a message at a byte of it: its page is served first, where that can be; else the source learns the cause. -/
def State.landFault (s : State) (c : Cause) (off : Nat) : Landing :=
  match s.cpFault (α := Unit) 50 c with
  | .later => .later
  | _ => .refused (match c with
    | .prot => .prot (Fin.ofNat 256 off)
    | .poison => .poison (Fin.ofNat 256 off)
    | _ => .pageW (Fin.ofNat 256 off))

/-- A message lands whole, translated in its context (18 R468). -/
def State.landMessage (s : State) (m : Message) : Landing :=
  let store := fun (ctx va : Nat) (bs : List Byte) => match s.writeV none ctx va bs with
    | .ok t => Landing.landed t
    | .error (c, a) => s.landFault c (a - va)
  match m with
  | .unit ctx addr data => store ctx addr.toNat data
  | .sigSt ctx addr x v => store ctx addr.toNat (leBytes (atomBytes x) v.toNat)
  | .sigAdd ctx addr x v =>
    let n := atomBytes x
    match s.translate none ctx addr.toNat .both with
    | .error c => s.landFault c 0
    | .ok pa =>
      if s.poisoned pa n then .refused (.poison 0)
      else .landed (s.agentWrite ctx pa (leBytes n (newValue .add x (leNat (s.mem.read pa n)) v.toNat)))
  | .answer _ => .landed s

/-- An answer to a message is queued. -/
def State.answerTo (s : State) (e : Envelope) (a : RemoteAnswer) : State :=
  { s with outbox := s.outbox ++ [⟨s.pod, e.src, e.tag, .answer a⟩] }

/-- A message reaches its place: it is sent on, where another module is its destination; an answer reaches the copy that sent the unit;
a unit or signal lands, and its landing or refusal is answered. None while it waits for room or for a page. -/
def State.deliverTo (s : State) (e : Envelope) : Option State :=
  if e.dest ≠ s.pod then s.sendOn e
  else match e.msg with
    | .answer a => some (s.remoteAnswer e.tag.1 e.tag.2.1 e.tag.2.2 a)
    | m => match s.landMessage m with
      | .landed t => some (t.answerTo e .landed)
      | .refused a => some (s.answerTo e a)
      | .later => none

/-- The oldest message received on a link reaches its place, so that messages do so in order on each link (18 R463). -/
def State.landOldest (s : State) (l : Fin 16) : State :=
  match s.links[l].inbox with
  | [] => s
  | e :: rest =>
    if s.power ≠ .d0 then s
    else match s.deliverTo e with
      | some t => t.modLink l fun x => { x with inbox := rest }
      | none => s

/-- The oldest answer is sent (18 R469). -/
def State.reply (s : State) : State :=
  match s.outbox with
  | [] => s
  | e :: rest => if s.power ≠ .d0 then s else ({ s with outbox := rest : State }.sendOn e).getD s

/-- A flit is accepted: its ACK is taken, the messages that end in it are received, and an ACK is returned at every 64th flit. -/
def Link.accept (l : Link) (f : Flit) (now : Nat) : Link :=
  let x := l.acked f.ack now
  let y := { x with recvSeq := x.recvSeq + 1, discarding := false, inbox := x.inbox ++ f.msgs }
  if 63 ≤ l.unacked then { y with unacked := 0, ackOut := f.seq } else { y with unacked := l.unacked + 1 }

/-- A flit is discarded: a NAK after the first one, and again after 0.2 us. -/
def Link.discard (l : Link) (now : Nat) : Link :=
  if l.discarding ∧ now < l.nakAt + 200 then l
  else { l with discarding := true, naks := l.naks + 1, nakAt := now, ackOut := l.recvSeq - 1, unacked := 0 }

/-- FLIT_RECEIVE (18 R463). -/
def execFlitReceive (l : Fin 16) (f : Flit) (s : State) : Outcome State Fault Refusal :=
  let x := s.links[l]
  let now := Config.nanoseconds s.tick
  if !x.up ∨ s.power ≠ .d0 then .next s
  else .next (s.modLink l fun y => if f.good ∧ f.seq = x.recvSeq then y.accept f now else y.discard now)

/-- NAK_RECEIVE (18 R463). -/
def execNakReceive (l : Fin 16) (ack : BitVec 16) (s : State) : Outcome State Fault Refusal :=
  let now := Config.nanoseconds s.tick
  if s.links[l].up ∧ s.power = .d0 then .next (s.modLink l fun x => (x.acked ack now).resend now) else .next s

/-- ACK_TIMER (18 R463). -/
def execAckTimer (l : Fin 16) (s : State) : Outcome State Fault Refusal :=
  let x := s.links[l]
  if x.up ∧ x.unacked ≠ 0 ∧ s.power = .d0 then .next (s.modLink l fun x => { x with unacked := 0, ackOut := x.recvSeq - 1 })
  else .next s

/-- REPLAY_TIMEOUT (18 R463): no ACK for 2 us. -/
def execReplayTimeout (l : Fin 16) (s : State) : Outcome State Fault Refusal :=
  let now := Config.nanoseconds s.tick
  let x := s.links[l]
  if x.up ∧ s.power = .d0 ∧ x.ackAt + 2000 ≤ now then .next (s.modLink l fun x => x.resend now) else .next s

/-- Another way to the neighbour of a link: the first link of the list for that module that is not retired (18 R465, R466). -/
def State.otherWay (s : State) (l : Fin 16) : Option (Fin 16) := s.links[l].far.bind s.route

/-- The flits of a retired link, from the oldest on, with what it was filling: each is sent on the other way or its messages fail; those
that must wait for room stay. -/
def rerouteFlits (way : Option (Fin 16)) : List SentFlit → State → State × List SentFlit
  | [], s => (s, [])
  | f :: fs, s =>
    match way with
    | none => rerouteFlits way fs (f.msgs.foldl State.failMessage s)
    | some k =>
      if !s.links[k].up ∨ 1023 ≤ s.links[k].replay.length then (s, f :: fs)
      else rerouteFlits way fs (s.modLink k fun x =>
        let now := Config.nanoseconds s.tick
        (x.flush now f.hdr).emit [f.msgs] now f.hdr)

/-- The flits that a link has still to bring across: its replay buffer and the flit being filled. -/
def Link.pending (x : Link) : List SentFlit :=
  x.replay ++ if x.part.used = 0 then [] else [⟨x.sendSeq, 0, 0, 0, x.part.msgs⟩]

/-- LINK_RETIRE_REROUTE (18 R465). -/
def execLinkRetireReroute (l : Fin 16) (s : State) : Outcome State Fault Refusal :=
  if s.links[l].rung ≠ 3 ∨ s.power ≠ .d0 then .next s
  else
    let r := rerouteFlits (s.otherWay l) s.links[l].pending (s.modLink l fun x => { x with part := ⟨0, []⟩ })
    .next (r.1.modLink l fun x => { x with replay := r.2 })

end Sys2Proof.Machine
end

