-- ==== Sys2Proof/Machine/Windows.lean ====
section
/-! DEFINITION. Atomics at memory: q2 (14 R382-R384), cpatm (14 R385, R386), deterministic windows (14 R387-R391); landing and
completion of the copies that one core carries out by itself. -/

namespace Sys2Proof.Machine

open Host

/-- An issuer key, field by field (14 R389). -/
def issuerKey (okey : Bool) (u : Update) : List Nat :=
  if okey then [u.ordinal, u.lane, u.seq] else [u.die, u.core, u.lane, u.seq, u.ordinal]

/-- Keys compare field by field (14 R389). -/
def keyLess : List Nat → List Nat → Bool
  | x :: xs, y :: ys => if x < y then true else if y < x then false else keyLess xs ys
  | _, _ => false

/-- An update inserted in ascending key order. -/
def insertUpdate (okey : Bool) (u : Update) : List Update → List Update
  | [] => [u]
  | v :: vs => if keyLess (issuerKey okey u) (issuerKey okey v) then u :: v :: vs else v :: insertUpdate okey u vs

/-- Updates in ascending key order. -/
def sortUpdates (okey : Bool) (l : List Update) : List Update := l.foldl (fun acc u => insertUpdate okey u acc) []

/-- The slice of the unit that takes an update (14 R390). -/
def unitOf (pa : Nat) : Fin 192 := homeSlice (pa / 256)

/-- Every accepted update of every window. -/
def State.updates (s : State) : List Update := s.tasks.flatMap fun t => t.windows.flatMap (·.updates)

/-- Whether an update finds a free entry of its unit's holding buffer (false), or a place in the overflow list of its base die
(true); none when both are full (14 R390). -/
def State.acceptPlace (s : State) (pa : Nat) : Option Bool :=
  let us := s.updates
  let sl := unitOf pa
  if (us.filter fun u => !u.overflow && unitOf u.pa == sl).length < 16 then some false
  else if (us.filter fun u => u.overflow && (unitOf u.pa).val / 48 == sl.val / 48).length < 1048576 then some true
  else none

/-- An update of the instance on core g accepted into a window of its task; none while there is no place. -/
def State.accept (s : State) (g : CoreNo) (num pa : Nat) (op : AmoOp) (w32 : Bool) (x : Word) (lane seq : Nat) : Option State :=
  match s.cores[g].occupant, s.acceptPlace pa with
  | some o, some ovf =>
    some (s.modTask o.task fun t => { t with windows := t.windows.map fun w =>
      if w.num.val == num then
        let j := w.joined.find? fun j => j.ordinal == o.ordinal
        { w with updates := w.updates ++ [⟨(j.map (·.die)).getD 0, (j.map (·.core)).getD 0, lane, seq, o.ordinal, pa, op, w32, x, ovf⟩] }
      else w })
  | _, _ => none

/-- Q2_ATOMIC_APPLY (14 R382, R384): the unit applies or accepts the oldest command pushed whole, and pushes its result when
there is a place, a sink event (05 R157). The target is translated as it stands now, so that no access after an invalidation uses
an entry that it removed (16 R417); where it cannot be reached any more, nothing is applied and the pop of the result traps
(LOG 75). -/
def execQ2AtomicApply (g : CoreNo) (s : State) : Outcome State Fault Refusal :=
  let i := s.inst g
  match i.q2w with
  | [] => .next s
  | x :: rest =>
    let op := amoOf (bits x.ctl.toNat 3 0)
    let w32 := x.ctl.getLsbD 4
    let done := fun (s : State) (r : AtomicResult) =>
      Outcome.next ((s.modInst g fun i => { i with q2w := rest, q2r := i.q2r ++ [r] }).sink g)
    if 16 ≤ i.q2r.length then .next s
    else match s.translate (some g) (s.ctxOf g) x.addr.toNat .both with
      | .error c => done s ⟨0, some (c, x.addr)⟩
      | .ok pa =>
        if s.poisoned pa (atomBytes w32) then done s ⟨0, some (.poison, x.addr)⟩
        else if x.ctl.getLsbD 5 then
          match s.accept g (bits x.ctl.toNat 11 6) pa op w32 x.operand 0 x.seq with
          | some t => done t ⟨0, none⟩
          | none => .next s
        else
          let r := s.atomApply g x.addr.toNat pa s.openDist op w32 x.operand
          done r.2 ⟨oldValue op w32 r.1, none⟩

/-- The buffer behind the list of a cpatm. -/
def listBuf : ListSrc → Option Buf
  | .mem => none
  | .w => some .w
  | .a => some .a
  | .c => some .c

/-- cpatm (14 R385, R386). -/
def execCpatm (tk : Tok) (p q : CReg) (a : AReg) (c : AmoOp) (x e o : Bool) (z : ListSrc) (s : State) : Outcome State Fault Refusal :=
  let g := s.cur.core
  let i := s.inst g
  let win := s.cReg p
  ceRun s tk do
    let len ← pairLen s q
    check (len != 0 && len % 16 == 0 && (!e || decide (len ≤ 8192))) .queueProtocol (s.cReg (nextReg q))
    check ((s.cReg q).toNat % 16 == 0) .misalign (s.cReg q)
    check (!e || (decide (win.toNat < 64) && s.windowOpenFor g win.toNat)) .queueProtocol win
    match listBuf z with
      | some b => claimCheck i b (s.cReg q).toNat len
      | none => .ok ()
    let r := if e then s.takeSeq g win.toNat else (0, s)
    r.2.startCopy (.cpatm tk p q a c x e o z)
      ⟨win, s.cReg q, len, BitVec.ofNat 64 r.1, .reset, .reset, len, len / 16, none, none⟩

/-- The movement of a record of a cpatm: checked, then applied or accepted (14 R386). -/
def State.moveRecord (s : State) (g : CoreNo) (c : Copy) (op : AmoOp) (w32 det : Bool) (z : ListSrc) (u : Nat) :
    Except CopyStop State := do
  let at' := c.q.toNat + 16 * u
  let rd ← s.sourceBytes g c (((listBuf z).map bufCode).getD 0) at' 16 s.openDist
  let s := rd.1
  let bs := rd.2
  let va := leNat (bs.take 8)
  let x : Word := BitVec.ofNat 64 (leNat (bs.drop 8))
  let n := atomBytes w32
  let tv := BitVec.ofNat 64 va
  if va % n ≠ 0 then .error (.fault .misalign tv)
  else match s.translate (some g) (s.ctxOf g) va .both with
    | .error ca => .error (.fault ca tv)
    | .ok pa =>
      if s.poisoned pa n then .error (.fault .poison tv)
      else
        let kept := s.keepBytes g c 0 ((List.range n).map (pa + ·))
        match if det then s.accept g c.p.toNat pa op w32 x u c.m.toNat else some (kept.atomApply g va pa s.openDist op w32 x).2 with
        | none => .error .stall
        | some t => .ok t

-- Windows.

/-- A window that is not Idle. -/
def Task.window (t : Task) (num : Nat) : Option Window := t.windows.find? fun w => w.num.val == num

/-- Whether a core holds D = 1 updates to a window that are issued and not yet accepted (14 R388). -/
def Inst.unaccepted (i : Inst) (num : Nat) : Bool :=
  (i.q2w.any fun c => c.ctl.getLsbD 5 && bits c.ctl.toNat 11 6 == num)
    || i.copies.any fun c => match c.instr with
        | .cpatm _ _ _ _ _ _ e _ _ => e && c.p.toNat == num && !c.landed
        | _ => false

/-- n instances have closed the window, every earlier update of theirs accepted: it is Applying (14 Table 14.6). -/
def State.applying (s : State) (task : Nat) (w : Window) : Bool :=
  decide (w.n ≤ (w.joined.filter (·.closed)).length)
    && !((List.finRange 192).any fun g => match s.cores[g].occupant with
        | some o => o.task == task && (s.inst g).unaccepted w.num.val
        | none => false)

/-- A window number in a c register (14 R387). -/
def windowCheck (v : Word) : Res Unit := check (decide (v.toNat < 64)) .queueProtocol v

/-- datm.open (14 R388), judged in the order of Table 14.6; on an Applying window it waits first and is then judged as on an Idle one (LOG
50). -/
def execDatmOpen (tk : Tok) (p q : CReg) (o : Bool) (s : State) : Outcome State Fault Refusal :=
  let g := s.cur.core
  let v := s.cReg p
  let n := s.cReg q
  ceNow s tk (match s.cores[g].occupant, s.taskOn g with
    | some oc, some t => do
      windowCheck v
      let j : Joiner := ⟨oc.ordinal, (dieOf g).val, (coreOf g).val, 0, false, none⟩
      match t.window v.toNat with
        | none => do
          check (decide (1 ≤ n.toNat ∧ n.toNat ≤ 65535)) .queueProtocol n
          let w : Window := ⟨Fin.ofNat 64 v.toNat, n.toNat, o, [j], []⟩
          .ok (s.modTask oc.task fun t => { t with windows := t.windows ++ [w] })
        | some w => do
          need (!s.applying oc.task w)
          check (w.n == n.toNat && w.okey == o && decide (w.joined.length < w.n)) .queueProtocol n
          check (!w.joined.any fun x => x.ordinal == oc.ordinal) .queueProtocol v
          .ok (s.modTask oc.task fun t => { t with windows := t.windows.map fun x =>
            if x.num.val == v.toNat then { x with joined := x.joined ++ [j] } else x })
    | _, _ => .ok s)

/-- datm.close (14 R388): a copy with count 1. -/
def execDatmClose (tk : Tok) (p : CReg) (a : AReg) (r : Bool) (s : State) : Outcome State Fault Refusal :=
  let g := s.cur.core
  let v := s.cReg p
  ceRun s tk do
    windowCheck v
    check (s.windowOpenFor g v.toNat) .queueProtocol v
    let id := (s.inst g).nextId
    let t ← s.startCopy (.datmClose tk p a r) ⟨v, 0, 1, 0, .reset, .reset, 1, 1, none, none⟩
    match s.cores[g].occupant with
      | some o => .ok (t.1.modJoiner o.task o.ordinal v.toNat fun j => { j with closed := true, closer := some (g, id, r) }, true)
      | none => .ok t

/-- The application of one update, whose doubleword is not poisoned (14 R391); the line carries the CTX of the update (15 R397). -/
def State.applyUpdate (s : State) (ctx : Nat) (u : Update) : State :=
  let n := atomBytes u.w32
  (s.physWrite u.pa (leBytes n (newValue u.op u.w32 (leNat (s.mem.read u.pa n)) u.operand.toNat))).accessL2 none (u.pa / 256)
    (sectorMask (u.pa / 256) u.pa n) s.openDist true ctx none

/-- The doubleword in which a target lies. -/
def dwordOf (pa : Nat) : Nat := pa / 8 * 8

/-- WINDOW_APPLY (14 R388, R391): every doubleword takes its updates in key order, a poisoned one none; every closer's counter
is decremented, and the window is Idle. That is no sink event of the instances that issued the updates (LOG 92). -/
def execWindowApply (task : Nat) (win : Fin 64) (s : State) : Outcome State Fault Refusal :=
  match s.task task with
  | none => .next s
  | some t => match t.window win.val with
    | none => .next s
    | some w =>
      if !s.applying task w then .next s
      else
        let bad := fun u : Update => s.poisoned (dwordOf u.pa) 8
        let good := (sortUpdates w.okey w.updates).filter fun u => !bad u
        let s1 := good.foldl (fun s u => s.applyUpdate t.ctx u) s
        let named := ((w.updates.filter bad).map fun u => dwordOf u.pa).eraseDups
        let s2 := { s1 with notices := s1.notices ++ named.map fun a => .error .unattributed (.hbm (s.channelOf (a / 256))) a 1 0xFFFF }
        let report : Word := BitVec.ofNat 64 ((good.filter (·.overflow)).length * 2 ^ 32 + good.length)
        let close := fun (s : State) (j : Joiner) => match j.closer with
          | some (g, id, _) => s.modInst g fun i => match i.copy id with
            | some c => (i.unitLanded c 0 1).modCopy id fun x => { x with input := [report] }
            | none => i
          | none => s
        let s3 := w.joined.foldl close s2
        .next (s3.modTask task fun t => { t with windows := t.windows.filter fun x => x.num != win })

-- Landing and completion.

/-- The movement of a unit of a copy that this core carries out by itself; it is not counted yet. Collectives commit by
COLLECTIVE_COMMIT, windows close by WINDOW_APPLY. -/
def State.moveUnit (s : State) (g : CoreNo) (c : Copy) (u : Nat) : Except CopyStop State :=
  match c.instr with
  | .cp _ _ _ _ x y _ z => s.moveCp g c x y z u
  | .cpn _ _ _ _ _ => s.moveCpn g c u
  | .cpx _ _ _ _ x _ z => s.moveCpx g c x z u
  | .lyt _ _ _ _ _ _ => s.moveLyt g c u
  | .keepF _ _ _ _ => .ok (s.moveKeep g c u)
  | .cflush _ _ _ h => .ok (s.moveFlush g c false h u)
  | .cinv _ _ _ => .ok (s.moveFlush g c true false u)
  | .spill _ _ _ _ b _ => s.moveSpill g c b u
  | .fill _ _ _ _ b _ => s.moveFill g c b u
  | .cpatm _ _ _ _ op x e _ z => s.moveRecord g c op x e z u
  | _ => .error .wait

/-- The unit of a copy is there: it is counted, and the record moves on. -/
def State.unitDone (s : State) (g : CoreNo) (c : Copy) (u n : Nat) : State := s.modInst g fun i => i.unitLanded c u n

/-- A unit of a copy: it lands, or for a cprm or sig it is sent (18 R468). -/
def State.landUnit (s : State) (g : CoreNo) (c : Copy) (u : Nat) : Except CopyStop State :=
  match c.instr with
  | .cprm _ _ _ _ m _ z => s.sendUnit g c m.val z u
  | .sigSt _ _ _ _ m _ _ => s.sendUnit g c m.val 2 u
  | .sigAdd _ _ _ _ m _ _ => s.sendUnit g c m.val 2 u
  | _ => (s.moveUnit g c u).map fun t => t.unitDone g c u ((s.inst g).unitCount c u)

-- Landing word by word (14 R370, 08 R232).

/-- The reuse distance at which a copy writes memory. -/
def Copy.dist (c : Copy) : Fin 8 :=
  match c.instr with
  | .cp _ _ _ _ _ _ _ z => z
  | .cpx _ _ _ _ _ _ z => z
  | _ => c.zp.dist

/-- Whether the units of a copy may land word by word: they write memory or a buffer (14 R370, 08 R232). -/
def Copy.wordWise (c : Copy) : Bool :=
  match c.instr with
  | .cp _ _ _ _ x _ _ _ => x != .mdq && x != .ve
  | .cpn _ _ _ _ _ => true
  | .cpx _ _ _ _ _ _ _ => true
  | .lyt _ _ _ _ _ _ => true
  | .fill _ _ _ _ _ _ => true
  | _ => false

/-- The aligned 32-bit words in which two states of a space differ, with the bytes that differ as the second has them. -/
def wordDiff (space : Nat) (old new : Bytes) : List WordStore :=
  let as := (((old ++ new).map (·.1)).filter fun a => old.get a != new.get a).eraseDups
  ((as.map (· / 4)).eraseDups).map fun w => ⟨space, (as.filter fun a => a / 4 == w).map fun a => (a, new.get a)⟩

/-- Bytes of an aligned word that a copy has still to write are written: a sink event (05 R157). -/
def State.putWord (s : State) (g : CoreNo) (c : Copy) (w : WordStore) : State :=
  match bufOf w.space with
  | some b => w.bytes.foldl (fun (s : State) e => s.copyBuf g b e.1 [e.2]) s
  | none => w.bytes.foldl (fun (s : State) e =>
      ((s.physWrite e.1 [e.2]).accessL2 (some g) (e.1 / 256) (sectorMask (e.1 / 256) e.1 1) c.dist true (s.ctxOf g) none).sink g) s

/-- The bytes of a space with those that the words of a unit have still to write as they stood before. -/
def backTo (space : Nat) (l : List WordStore) (old new : Bytes) : Bytes :=
  new.puts (((l.filter fun w => w.space == space).flatMap (·.bytes)).map fun e => (e.1, old.get e.1))

/-- A unit is begun: everything it reads is read now, and the words of memory and of the buffers that it changes are still to be written.
A word in a poisoned granule is written at once (15 R400); a unit that clears or sets feeder tags is not begun. -/
def State.beginUnit (s : State) (g : CoreNo) (c : Copy) (u : Nat) : State :=
  match s.moveUnit g c u with
  | .error _ => s
  | .ok t =>
    let i := s.inst g
    let j := t.inst g
    let l := ((wordDiff 0 s.mem t.mem).filter fun w => !w.bytes.any fun e => s.poisoned e.1 1)
      ++ wordDiff 1 i.bufW j.bufW ++ wordDiff 2 i.bufA j.bufA ++ wordDiff 3 i.bufC j.bufC
    if i.tagsW != j.tagsW || i.tagsA != j.tagsA then s
    else
      let t1 := { t with mem := backTo 0 l s.mem t.mem }.modInst g fun j =>
        { j with bufW := backTo 1 l i.bufW j.bufW, bufA := backTo 2 l i.bufA j.bufA, bufC := backTo 3 l i.bufC j.bufC }.modCopy c.id fun x =>
          { x with begun := some (u, l) }
      t1.modCore g fun k => { k with watchdog := s.cores[g].watchdog }

/-- Whether a copy may read its source now: no fault has been met, nothing holds it back, and of the lyts it is Larkspur's (12 R323). -/
def Inst.mayRead (i : Inst) (c : Copy) : Bool :=
  c.fault.isNone && !i.heldBack c && (!isLyt c.instr || (!c.started && (i.larkspur.map (·.id)) == some c.id))

/-- A part of the landing of a copy performed on its own (14 R370, 08 R232; LOG 96). -/
def State.landPart (s : State) (g : CoreNo) (id : Nat) (p : Part) : State :=
  let i := s.inst g
  match i.copy id with
  | none => s
  | some c => match p with
    | .read space a => if i.mayRead c then s.readAhead g c space a else s
    | .begin u =>
      if c.wordWise && c.begun.isNone && c.fault.isNone && !i.heldBack c && c.open' u then s.beginUnit g c u else s
    | .write k => match c.begun with
      | some (u, l) => match l[k]? with
        | some w => (s.putWord g c w).modInst g fun i => i.modCopy id fun x => { x with begun := some (u, l.eraseIdx k) }
        | none => s
      | none => s

/-- The lowest unit not beyond u that faults now, with its fault (12 R341). -/
def State.firstFault (s : State) (g : CoreNo) (c : Copy) (u : Nat) : Option (Nat × Cause × Word) :=
  ((List.range 64).map (c.first + ·)).findSome? fun v =>
    if v ≤ u ∧ c.open' v then
      match s.landUnit g c v with
      | .error (.fault ca tv) => some (v, ca, tv)
      | _ => none
    else none

/-- COPY_UNIT_LAND (12 R337, R340, R341). A unit begun is finished before another lands, even when the copy has met a fault. -/
def execCopyUnitLand (g : CoreNo) (copy : Nat) (unit : Nat) (s : State) : Outcome State Fault Refusal :=
  let i := s.inst g
  match i.copy copy with
  | none => .next s
  | some c => match c.begun with
    | some (v, l) =>
      if v = unit then .next ((l.foldl (fun (s : State) w => s.putWord g c w) s).unitDone g c unit (i.unitCount c unit)) else .next s
    | none =>
      if c.fault.isSome ∨ !c.open' unit ∨ i.heldBack c then .next s
      else match s.landUnit g c unit with
        | .ok t => .next t
        | .error .wait => .next s
        | .error .stall => .next (s.modInst g fun i => i.modCopy c.id fun x => { x with stalled := true })
        | .error (.fault ca tv) =>
          let f := (s.firstFault g c unit).getD (unit, ca, tv)
          let walked := if isRemote c.instr && f.2.1 == .prot then s else s.noteFailed g (s.ctxOf g) f.2.1 f.2.2.toNat
          .next (walked.modInst g fun i => i.modCopy c.id fun x => x.withFault f.1 f.2.1 f.2.2)

/-- A complete copy leaves flight; a command of q0 or q1 pushes its record (12 R346, R347). -/
def Inst.completeCopy (i : Inst) (c : Copy) : Inst :=
  let i1 := { i with copies := i.copies.filter fun x => x.id != c.id }
  match c.src with
  | .q0 => i1.pushRecord false c.count (match c.instr with
      | .cp _ _ _ _ _ _ _ _ => 0x01
      | .cpn _ _ _ _ _ => 0x02
      | .cpx _ _ _ _ _ _ _ => 0x03
      | .cprm _ _ _ _ _ _ _ => 0x04
      | .keepF _ _ _ _ => 0x06
      | .cflush _ _ _ _ => 0x08
      | .cinv _ _ _ => 0x09
      | .cpatm _ _ _ _ _ _ _ _ _ => 0x0A
      | .sigSt _ _ _ _ _ _ _ => 0x0C
      | .sigAdd _ _ _ _ _ _ _ => 0x0C
      | .lyt _ _ _ _ _ _ => 0x10
      | .spill _ _ _ _ _ _ => 0x16
      | .fill _ _ _ _ _ _ => 0x17
      | .datmClose _ _ _ _ => 0x18
      | _ => 0x0B) c.seq
  | .q1 => i1.pushRecord true c.count 0x10 c.seq
  | _ => i1

/-- The completion of a copy; the push of a record to q0 or q1 is a sink event (05 R157). -/
def State.finishCopy (s : State) (g : CoreNo) (c : Copy) : State :=
  let t := s.modInst g fun i => i.completeCopy c
  if c.src = .q0 ∨ c.src = .q1 then t.sink g else t

/-- COPY_COMPLETE (12 R323): a copy whose whole count is counted leaves flight. A datm.close.rep waits for its report's place
in q11 (14 R388); collectives complete by COLLECTIVE_COMMIT. -/
def execCopyComplete (g : CoreNo) (copy : Nat) (s : State) : Outcome State Fault Refusal :=
  match (s.inst g).copy copy with
  | none => .next s
  | some c =>
    if !c.landed ∨ isColl c.instr then .next s
    else match c.instr with
      | .datmClose _ _ _ true =>
        if s.hasRoomRead g 11 then
          let t := s.modInst g fun i => { i with qr := i.qr.set 11 (i.qr[11] ++ [c.input.headD 0]) }
          .next ((t.finishCopy g c).sink g)
        else .next s
      | _ => .next (s.finishCopy g c)

end Sys2Proof.Machine
end

