-- ==== Sys2Proof/Machine/Collectives.lean ====
section
/-! DEFINITION. Pod collectives: issue, reduction, commit (18 R470-R474), and the host's accesses through BAR1 (18 R461). -/

namespace Sys2Proof.Machine

open Host

/-- A collective descriptor (18 Table 18.5). -/
structure Descriptor where
  src : Word
  dst : Word
  count : Nat
  group : Nat
  op : Nat
  fmt : Nat
  root : Nat
  ok : Bool

/-- The descriptor in 64 bytes, and whether its fields are valid. -/
def descriptorOf (bs : List Byte) : Descriptor :=
  let u := fun o n => leNat ((bs.drop o).take n)
  let fmt := u 0x16 1
  ⟨BitVec.ofNat 64 (u 0 8), BitVec.ofNat 64 (u 8 8), u 0x10 4, u 0x14 1, u 0x15 1, fmt, u 0x17 1,
    decide (1 ≤ u 0x10 4 ∧ u 0x10 4 ≤ 2 ^ 24 ∧ u 0x14 1 < 64 ∧ u 0x15 1 < 4 ∧ u 0x18 32 = 0)
      && [0, 1, 2, 4, 6].contains fmt⟩

/-- The kinds of collective: 0 ar, 1 rs, 2 ag, 3 bc (18 R472). -/
def collKind : Instr → Nat
  | .collAr _ _ _ _ => 0
  | .collRs _ _ _ _ => 1
  | .collAg _ _ _ _ => 2
  | _ => 3

/-- The issue of a collective: from q3 its descriptor's address is the entry without its kind. -/
def issueColl (s : State) (tk : Tok) (p : CReg) (i : Instr) : Outcome State Fault Refusal :=
  let g := s.cur.core
  let x := s.inst g
  let q3 := s.cur.src == .q3
  let va : Word := if q3 then (x.qw[3].headD 0) &&& ~~~(0x3F : Word) else s.cReg p
  ceRun s tk do
    check (va.toNat % 64 == 0) .misalign va
    let r ← s.startCopy i ⟨va, 0, 1, 0, .reset, .reset, 1, 1, none, none⟩
    .ok (if q3 then r.1.modInst g fun y => { y with q3Order := y.q3Order ++ [(x.nextId, none)] } else r.1, true)

/-- coll.ar (18 R472). -/
def execCollAr (tk : Tok) (p : CReg) (a : AReg) (o : Bool) (s : State) := issueColl s tk p (.collAr tk p a o)
/-- coll.rs (18 R472). -/
def execCollRs (tk : Tok) (p : CReg) (a : AReg) (o : Bool) (s : State) := issueColl s tk p (.collRs tk p a o)
/-- coll.ag (18 R472). -/
def execCollAg (tk : Tok) (p : CReg) (a : AReg) (o : Bool) (s : State) := issueColl s tk p (.collAg tk p a o)
/-- coll.bc (18 R472). -/
def execCollBc (tk : Tok) (p : CReg) (a : AReg) (o : Bool) (s : State) := issueColl s tk p (.collBc tk p a o)

-- The reduction (18 R473).

/-- The bytes of an element of a format code. -/
def collBytes (fmt : Nat) : Nat := if fmt = 2 then 2 else if fmt = 1 ∨ fmt = 6 then 8 else 4

/-- The floating-point format of a format code; none for the integers. -/
def collFmt (fmt : Nat) : Option Fmt := if fmt = 0 then some fmtF32 else if fmt = 1 then some fmtF64 else if fmt = 2 then some fmtBF16 else none

/-- Combine of two elements: OP 0 and 1 add, 2 is the minimum, 3 the maximum. -/
def combine2 (fmt op x y : Nat) : Nat :=
  let w := 8 * collBytes fmt
  match collFmt fmt with
  | some f => if op < 2 then (fAdd f .rne (decodeF f x) (decodeF f y)).1 else (fMinMax f (op == 3) x y).1
  | none => if op < 2 then (x + y) % 2 ^ w else pickI true (op == 3) w x y

/-- Combine, with Absent neutral. -/
def combine (fmt op : Nat) : Option Nat → Option Nat → Option Nat
  | none, y => y
  | x, none => x
  | some x, some y => some (combine2 fmt op x y)

/-- One level of the tree: slots s and s + h. -/
def treeLevel (fmt op h : Nat) (xs : List (Option Nat)) : List (Option Nat) :=
  List.zipWith (combine fmt op) (xs.take h) ((xs.drop h).take h)

/-- The reduction of one element of 64 slots, of which n are live. A NaN that meets no other contribution comes out canonical too
(01 R13). -/
def reduceElem (fmt op n : Nat) (xs : List (Option Nat)) : Nat :=
  let x := (([32, 16, 8, 4, 2, 1].foldl (fun l h => treeLevel fmt op h l) xs).headD none).getD 0
  if op = 1 then
    match collFmt fmt with
    | some f => (fDiv f .rne (decodeF f x) (.fin false n 0)).1
    | none => let w := 8 * collBytes fmt; twos w ((intOf true w x).tdiv n)
  else (collFmt fmt).elim x fun f => canonical f x

/-- Element e of bytes. -/
def elemOf (fmt e : Nat) (bs : List Byte) : Nat := leNat ((bs.drop (collBytes fmt * e)).take (collBytes fmt))

/-- The reduction of elements [lo, lo + c) of every slot's source. -/
def reduceRange (fmt op n lo c : Nat) (srcs : List (Option (List Byte))) : List Byte :=
  (List.range c).flatMap fun e =>
    leBytes (collBytes fmt) (reduceElem fmt op n (srcs.map fun s => s.map (elemOf fmt (lo + e))))

/-- The source and destination lengths in bytes of a kind with S slots. -/
def collSizes (kind fmt c slots : Nat) : Nat × Nat :=
  let b := collBytes fmt * c
  (if kind = 1 then b * slots else b, if kind = 2 then b * slots else b)

/-- What a member delivers (18 R473). -/
def collResult (kind : Nat) (d : Descriptor) (slots slot live : Nat) (srcs : List (Option (List Byte))) : List Byte :=
  let b := collBytes d.fmt * d.count
  match kind with
  | 0 => reduceRange d.fmt d.op live 0 d.count srcs
  | 1 => reduceRange d.fmt d.op live (slot * d.count) d.count srcs
  | 2 => (srcs.take slots).flatMap fun s => s.getD (List.replicate b 0)
  | _ => ((srcs.drop d.root).headD none).getD []

-- Commit (18 R474).

/-- The live slots of a group. -/
def Group.liveSlots (x : Group) : List Nat := (List.range x.size).filter fun k => x.live.getLsbD k

/-- The slot of a module in a group. -/
def Group.slotOf (x : Group) (pod : Nat) : Option Nat := (List.range x.size).find? fun k => (x.modules.drop k).head? == some pod

/-- The RESULT that needs no source (18 R474): an invalid descriptor first, then a removed member, descriptors that disagree, a ROOT
that is not live (LOG 29). -/
def collFailure (x : Group) (ctx pod kind : Nat) (d : Descriptor) (agree : Bool) : Option Nat :=
  match x.slotOf pod with
  | none => some 4
  | some k =>
    if !d.ok ∨ x.ctx ≠ some ctx ∨ (kind = 3 ∧ x.size ≤ d.root) then some 4
    else if !x.live.getLsbD k then some 1
    else if !agree then some 2
    else if kind = 3 ∧ !x.live.getLsbD d.root then some 3
    else none

/-- The sources of the 64 slots: its own bytes and what the others contributed; none when a live contribution is missing. -/
def collSources (x : Group) (kind slot root n : Nat) (own : List Byte) (others : List Contribution) :
    Option (List (Option (List Byte))) :=
  (List.range 64).mapM fun k =>
    if !(x.liveSlots.contains k) ∨ (kind = 3 ∧ k ≠ root) then some none
    else if k = slot then some (some own)
    else match others.find? fun o => o.slot.val == k with
      | some o => if o.data.length = n then some (some o.data) else none
      | none => none

/-- The STATUS word (18 Table 18.5). -/
def collStatus (result live : Nat) (epoch : Word32) : Word := BitVec.ofNat 64 (epoch.toNat * 2 ^ 32 + live * 256 + result)

/-- The n bytes that a member contributes itself; a receiver of a broadcast contributes none. -/
def State.ownPart (s : State) (g : CoreNo) (d : Descriptor) (n : Nat) (receives : Bool) : Except CopyStop (State × List Byte) :=
  if receives then .ok (s, []) else s.copyReadAt g d.src.toNat n s.openDist

/-- The commit of a collective: what it delivers under the EPOCH and LIVE of this moment, or why there is none yet. A member that was
removed, and source and destination that overlap, leave free bytes. -/
def State.commitColl (s : State) (g : CoreNo) (c : Copy) (others : List Contribution) (agree : Bool) : Except CopyStop (State × Commit) := do
  let rd ← s.copyReadAt g c.p.toNat 64 s.openDist
  let s := rd.1
  let d := descriptorOf rd.2
  let kind := collKind c.instr
  let x := s.groups[Fin.ofNat 64 d.group]
  let live := x.liveSlots.length
  let size := collSizes kind d.fmt d.count x.size
  let free := (List.range size.2).map fun k => Config.freeByte s.tick k
  match collFailure x (s.ctxOf g) s.pod kind d agree with
  | some r =>
    .ok (s, ⟨if d.group < 64 then collStatus r live x.epoch else collStatus r 0 0, if r = 1 then some free else none⟩)
  | none =>
    let slot := (x.slotOf s.pod).getD 0
    let receives := decide (kind = 3 ∧ slot ≠ d.root)
    let own ← s.ownPart g d size.1 receives
    let lap := !receives && decide (d.src.toNat < d.dst.toNat + size.2 ∧ d.dst.toNat < d.src.toNat + size.1)
    match collSources x kind slot d.root size.1 own.2 others with
    | none => .error .wait
    | some srcs =>
      .ok (own.1, ⟨collStatus 0 live x.epoch, some (if lap then free else collResult kind d x.size slot live srcs)⟩)

/-- The destination of a collective takes what it delivers. Only where no result is promised may it stay as it is (LOG 29). -/
def State.collData (s : State) (g : CoreNo) (dst : Nat) (m : Commit) : Except CopyStop State :=
  match m.data with
  | none => .ok s
  | some bs => match s.copyWrite g dst bs s.openDist with
    | .ok t => .ok t
    | .error e => if bits m.status.toNat 7 0 = 0 then .error e else .ok s

/-- A collective that has committed completes, under the EPOCH of its commit: its destination and STATUS are written, its counter
decremented or its entry of q3 pushed. -/
def State.finishColl (s : State) (g : CoreNo) (c : Copy) (m : Commit) : Except CopyStop State := do
  let rd ← s.copyReadAt g c.p.toNat 64 s.openDist
  let t ← rd.1.collData g (descriptorOf rd.2).dst.toNat m
  let u ← t.copyWrite g (c.p + 0x38).toNat (leBytes 8 m.status.toNat) s.openDist
  .ok ((u.modInst g fun i =>
    let j := (i.unitLanded c 0 1).completeCopy c
    { j with q3Order := j.q3Order.map fun (e : Nat × Option Word) => if e.1 == c.id then (e.1, some m.status) else e }.flushQ3 16).sink g)

/-- COLLECTIVE_COMMIT (18 R474): the commit, and the completion, at once or by a later step; what has committed stays as it is. -/
def execCollectiveCommit (g : CoreNo) (copy : Nat) (others : List Contribution) (agree : Bool) (s : State) :
    Outcome State Fault Refusal :=
  let i := s.inst g
  let stop := fun (s : State) (id : Nat) (e : CopyStop) => match e with
    | .fault ca tv => s.modInst g fun i => i.modCopy id fun x => x.withFault 0 ca tv
    | _ => s
  let finish := fun (s : State) (c : Copy) (m : Commit) => match s.finishColl g c m with
    | .ok t => t
    | .error e => stop s c.id e
  match i.copy copy with
  | none => .next s
  | some c =>
    if !isColl c.instr ∨ c.fault.isSome ∨ i.heldBack c then .next s
    else match c.committed with
      | some m => .next (finish s c m)
      | none => match s.commitColl g c others agree with
        | .error e => .next (stop s c.id e)
        | .ok (t, m) =>
          let u := t.modInst g fun i => i.modCopy c.id fun x => { x with committed := some m }
          .next (if Config.policy s.tick 92 then u else finish u { c with committed := some m } m)

-- Members (18 R470, R471).

/-- A heartbeat of a module arrives. -/
def State.heartbeat (s : State) (m : Fin 64) : State :=
  { s with heard := (m.val, Config.nanoseconds s.tick) :: s.heard.filter (fun e => e.1 != m.val), failed := s.failed.filter (· != m.val) }

/-- Firmware reports that a module has failed: its own, or that of a member which has removed it, since the table is identical on
every member (LOG 102). -/
def State.moduleFailed (s : State) (m : Fin 64) : State := { s with failed := m.val :: s.failed.filter (· != m.val) }

/-- Firmware sets the pod timeout, whose floor is 1 ms. -/
def State.setPodTimeout (s : State) (ns : Nat) : State := { s with podTimeout := Nat.max 1000000 ns }

/-- Whether a module is to be removed from its groups: it is unreachable, it has failed, or it sends no heartbeat for the pod timeout
(18 R471). -/
def State.lostModule (s : State) (m : Nat) : Bool :=
  s.failed.contains m ||
    (m != s.pod && ((s.route m).isNone || decide ((s.heard.lookup m).getD 0 + s.podTimeout ≤ Config.nanoseconds s.tick)))

/-- MEMBER_REMOVE (18 R471): the slot of a module that is lost leaves LIVE for good, and EPOCH counts the removal. -/
def execMemberRemove (grp slot : Fin 64) (s : State) : Outcome State Fault Refusal :=
  let x := s.groups[grp]
  if x.liveSlots.contains slot.val ∧ s.lostModule ((x.modules.drop slot.val).headD s.pod) then
    .next { s with groups := s.groups.set grp { x with live := x.live &&& ~~~((1 : BitVec 64) <<< slot.val), epoch := x.epoch + 1 } }
  else .next s

-- The host (18 R460, R461).

/-- Firmware positions the window of BAR1 on device physical memory (18 R460). -/
def State.setBar1 (s : State) (pa : Nat) : State := { s with bar1 := pa }

/-- Firmware creates a collective group, with the EPOCH that its members agree on, or, with no modules, ends one. A group that exists
keeps its slots, and a removed one never becomes live again (18 R470, R471; LOG 102). -/
def State.setGroup (s : State) (grp : Fin 64) (modules : List (Fin 64)) (live : BitVec 64) (epoch : Word32) (ctx : Option Nat) : State :=
  if modules.isEmpty then { s with groups := s.groups.set grp ⟨0, [], 0, 0, none⟩ }
  else if s.groups[grp].size ≠ 0 ∨ 64 < modules.length ∨ 2 ^ modules.length ≤ live.toNat then s
  else { s with groups := s.groups.set grp ⟨modules.length, modules.map (·.val), live, epoch, ctx⟩ }

/-- The rates of the host port in tenths of GT/s, and its widths, highest first (18 Table 18.1). -/
def portRates : List Nat := [1280, 640, 320, 160, 80, 50, 25]
def portWidths : List Nat := [16, 8, 4]

/-- The rate and width that both ends support; none without flit mode, or below x4 (18 R460). -/
def trainPort (e : PortEnd) : Option (Nat × Nat) :=
  if e.flitMode then
    match portRates.find? (fun r => decide (r ≤ e.rate)), portWidths.find? (fun w => decide (w ≤ e.width)) with
    | some r, some w => some (r, w)
    | _, _ => none
  else none

/-- What the host's end of the port, and the lanes between, support (18 R460). -/
def State.setHostEnd (s : State) (e : PortEnd) : State := { s with hostEnd := e }

/-- Whether BAR1 answers an access to n bytes: Completer Abort before bring-up step 7, nothing outside D0, and only within its window of 64
GiB; a quiesced module holds the request (15 R399, 18 R460, 19 R479, R482). -/
def State.barOpen (s : State) (pa n : Nat) : Bool :=
  decide (7 ≤ s.bringUp) && s.power == .d0 && !s.quiescing && decide (s.bar1 ≤ pa ∧ pa + n ≤ s.bar1 + 2 ^ 36)

/-- A read of device memory by the host or by DMA: none where a byte is beyond it or poisoned. -/
def State.hostBytes (s : State) (pa n : Nat) : Option (List Byte) :=
  if s.paTop < pa + n ∨ s.poisoned pa n then none else some (s.mem.read pa n)

/-- A host read of n bytes through a BAR (18 R460, R461, 19 R479): of BAR0 at an offset, readable from bring-up step 6 on, whose contents
the spec does not lay out; of BAR1 at a physical address. A read that is not answered completes with Completer Abort (LOG 101). -/
def State.hostRead (s : State) (bar : Fin 2) (a n : Nat) : State :=
  let bytes := if bar = 0 then
      (if 6 ≤ s.bringUp ∧ a + n ≤ 2 ^ 26 then some ((List.range n).map fun k => Config.freeByte s.tick k) else none)
    else if s.barOpen a n then s.hostBytes a n else none
  if bar = 1 ∧ s.quiescing then s else { s with notices := s.notices ++ [.hostRead bar a bytes] }

/-- Whether the firmware rings are open for DMA: from bring-up step 7 on, in D0 (18 R461, 19 R479). -/
def State.dmaOpen (s : State) : Bool := decide (7 ≤ s.bringUp) && s.power == .d0 && !s.quiescing

/-- DMA from the host to device memory, on the firmware rings at the host driver's request (18 R461; LOG 101). -/
def State.dmaIn (s : State) (pa : Nat) (data : List Byte) : State :=
  if s.dmaOpen ∧ pa + data.length ≤ s.paTop then s.agentWrite 0 pa data else s

/-- DMA from device memory to the host (18 R461; LOG 101). -/
def State.dmaOut (s : State) (pa n : Nat) : State :=
  if s.dmaOpen then
    match s.hostBytes pa n with
    | some bs => { s with notices := s.notices ++ [.dma pa bs] }
    | none => s
  else s

/-- HOST_BAR1_WRITE (18 R461): an RC store of the host, by physical address. -/
def execHostBar1Write (pa : Nat) (data : List Byte) (s : State) : Outcome State Fault Refusal :=
  if !s.barOpen pa data.length then .next s
  else if s.paTop < pa + data.length then .fault (.outsideMemory pa)
  else .next (s.agentWrite 0xFFFF pa data)

/-- The new value of a host AtomicOp (18 Table 18.1). -/
def hostValue (op : HostAtomic) (w32 : Bool) (old x cmp : Nat) : Nat :=
  match op with
  | .fetchAdd => newValue .add w32 old x
  | .swap => newValue .swap w32 old x
  | .cas => if old = cmp % 2 ^ (8 * atomBytes w32) then newValue .swap w32 old x else old

/-- HOST_ATOMICOP (18 R461): one that is not aligned, or whose target is poisoned, has no effect (LOG 30). -/
def execHostAtomicop (op : HostAtomic) (w32 : Bool) (pa : Nat) (x cmp : Word) (s : State) : Outcome State Fault Refusal :=
  let n := atomBytes w32
  if !s.barOpen pa n then .next s
  else if s.paTop < pa + n then .fault (.outsideMemory pa)
  else if pa % n ≠ 0 ∨ s.poisoned pa n then .next s
  else .next (s.agentWrite 0xFFFF pa (leBytes n (hostValue op w32 (leNat (s.mem.read pa n)) x.toNat cmp.toNat)))

end Sys2Proof.Machine
end

