-- ==== Sys2Proof/Machine/Ladders.lean ====
section
/-! DEFINITION. The ladders of matrix engines, buffer banks and pseudo-channels, and the targeted self-test (11 R297-R304, 15
R398). -/

namespace Sys2Proof.Machine

open Host

/-- The ME of a core steps down one rung, with its record (11 R298, 19 R477). Power lost between the record and the register leaves what
power lost right after both leaves, since bring-up loads the record. -/
def State.stepMe (s : State) (g : CoreNo) : State :=
  if h : s.cores[g].rung.val + 1 < 5 then (s.modCore g fun c => { c with rung := ⟨s.cores[g].rung.val + 1, h⟩ }).writeRecord 0
  else s

/-- The next rung of a ladder of three. -/
def nextRung3 (r : Fin 3) : Fin 3 := if r = 0 then 1 else 2

/-- The rungs of a buffer's banks replaced. -/
def Core.setBanks (c : Core) (b : Buf) (v : Vector (Fin 3) 16) : Core :=
  match b with
  | .w => { c with bankW := v }
  | .a => { c with bankA := v }
  | .c => { c with bankC := v }

/-- A bank steps down one rung, with its record (11 R303). -/
def State.stepBank (s : State) (g : CoreNo) (b : Buf) (n : Fin 16) : State :=
  if (s.cores[g].banks b)[n] = 2 then s
  else (s.modCore g fun c => c.setBanks b ((c.banks b).set n (nextRung3 (c.banks b)[n]))).writeRecord 1

/-- The capacity-reduction event of a channel at rung 1: the top of the range that launches can map (15 R399). -/
def State.postReduction (s : State) (ch : Fin 1024) : State :=
  let n := s.liveChannels
  if s.channels[ch] = 1 ∧ s.reduction.isNone then
    { s with reduction := some ch,
             notices := s.notices ++ [Notice.capacity ((n - 1) * (888 * 2 ^ 20) - 2048 * 2 ^ 20) (n * (888 * 2 ^ 20) - 2048 * 2 ^ 20)] }
  else s

/-- A channel steps down: to half rate at once, and from there by the order of 15 R399 (15 R398). -/
def State.stepChannel (s : State) (ch : Fin 1024) : State :=
  if s.channels[ch] = 0 then { s with channels := s.channels.set ch 1 : State }.writeRecord 2 else s.postReduction ch

/-- A unit steps down one rung. -/
def State.stepUnit (s : State) (u : AgedUnit) : State :=
  match u with
  | .me g => s.stepMe g
  | .bank g b n => s.stepBank g b n
  | .channel c => s.stepChannel c

/-- Foxglove on a unit that is free for it (11 R301): one that passes is recorded as a soft error, one that fails steps down. -/
def State.foxTest (s : State) (u : AgedUnit) (fails : Bool) : State :=
  if fails then s.stepUnit u else { s with notices := s.notices ++ [.soft u] }

end Sys2Proof.Machine
end

