-- ==== Sys2Proof/Machine/Place.lean ====
section
/-! DEFINITION. The life of an instance: dispatch of a task, placement, passes, retirement and kill (03 R84-R105, 17 R452-R457),
pre-emption and restore (16 R428-R433), the watchdog (05 R157-R159). -/

namespace Sys2Proof.Machine

open Host

-- The order of placement.

/-- The C and D levels. -/
def Image.spatial (i : Image) : List Level := i.levels.filter fun l => l.kind != 0

/-- The ordinal of a die group's instance: the coordinates of the group and of the instance within it (03 R87, R88). -/
def Image.ordinalIn (i : Image) (d c : List Nat) : Nat :=
  (i.spatial.foldl (fun (st : Nat × List Nat × List Nat) l =>
    if l.kind = 2 then (st.1 * l.count + st.2.1.headD 0, st.2.1.tail, st.2.2)
    else (st.1 * l.count + st.2.2.headD 0, st.2.1, st.2.2.tail)) (0, d, c)).1

/-- The number of units that are placed one after another: die groups, or single instances (03 R88, R99). -/
def Image.unitCount (i : Image) : Nat := if i.hasD then i.instances / i.groupSize else i.instances

/-- The ordinals of a unit, in ascending order of the units' lowest ordinals. -/
def Image.unit (i : Image) (k : Nat) : List Nat :=
  if i.hasD then
    let d := digits k ((i.spatial.filter fun l => l.kind == 2).map (·.count))
    (List.range i.groupSize).map fun m => i.ordinalIn d (digits m ((i.spatial.filter fun l => l.kind == 1).map (·.count)))
  else [k]

/-- The image of a task that runs instances. -/
def Task.image (t : Task) : Option Image :=
  match t.work with
  | .image i => some i
  | .transform _ => none

/-- Cores in an order of the dispatcher's choice (03 R97, R101; LOG 21). -/
def State.coreOrder (s : State) : List CoreNo :=
  let key := fun g : CoreNo => (Config.freeWord s.tick (1000 + g.val)).toNat
  let ins := fun (g : CoreNo) (l : List CoreNo) => l.takeWhile (fun h => decide (key h ≤ key g)) ++ g :: l.dropWhile (fun h => decide (key h ≤ key g))
  (List.finRange 192).foldr ins []

/-- A core holds every class that a task declares (03 R96). -/
def Core.covers (c : Core) (capreq : BitVec 16) : Bool := capreq &&& ~~~(BitVec.ofNat 16 (capvOf c.rung)) == 0

/-- A free in-service core (03 R85), not about to leave service. -/
def Core.free (c : Core) : Bool := c.inService && !c.leaving && c.occupant.isNone && c.shadow.isNone && c.piece.isNone

/-- A core with a free shadow bank, its own place taken (17 R454). -/
def Core.bankFree (c : Core) : Bool := c.inService && !c.leaving && c.occupant.isSome && c.shadow.isNone

/-- Units of ordinals given cores: for each unit first the cores that are good for it, then the lesser ones; all of a unit on one
die when wanted, a die of good cores before others; none when some unit does not fit. -/
def assign (perDie : Bool) (good lesser : List Nat → CoreNo → Bool) : List (List Nat) → List CoreNo → Option (List (Nat × CoreNo))
  | [], _ => some []
  | u :: us, cores =>
    let gs := cores.filter (good u)
    let all := gs ++ cores.filter fun g => !good u g && lesser u g
    let pools := fun l : List CoreNo =>
      if perDie then (l.map dieOf).eraseDups.map fun d => l.filter fun g => dieOf g == d else [l]
    match (pools gs ++ pools all).find? fun p => decide (u.length ≤ p.length) with
    | none => none
    | some p =>
      let used := p.take u.length
      match assign perDie good lesser us (cores.filter fun g => !used.contains g) with
      | none => none
      | some rest => some (u.zip used ++ rest)

/-- Cores for some units: each instance on a free core that covers it while there is one; otherwise, if firmware's policy does not
wait, on a lesser core, or in a shadow bank (03 R97, 17 R454, R458; LOG 14). `need` is the CAPREQ of an ordinal, `die` the die of a unit
that must join the rest of its die group. A core g that is asked for comes first. -/
def State.chooseCores (s : State) (i : Image) (need : Nat → BitVec 16) (units : List (List Nat)) (g : CoreNo)
    (die : List Nat → Option (Fin 8)) : Option (List (Nat × CoreNo)) :=
  let near := fun (u : List Nat) (h : CoreNo) => (die u).all fun d => dieOf h == d
  let covers := fun (u : List Nat) (h : CoreNo) => u.all fun o => s.cores[h].covers (need o)
  let served := fun u : List Nat => u.all fun o => decide ((need o).toNat < 256)
  let policy := Config.policy s.tick 10
  let good := fun (u : List Nat) (h : CoreNo) => s.cores[h].free && covers u h && near u h
  let lesser := fun (u : List Nat) (h : CoreNo) => policy && (s.cores[h].free || s.cores[h].bankFree) && (covers u h || served u) && near u h
  assign i.hasD good lesser units ((g :: s.coreOrder.filter (· != g)).filter fun h => s.cores[h].holds i)

-- The context store (16 R431, R433).

/-- Rounded up to 64 KiB. -/
def round64K (n : Nat) : Nat := (n + 65535) / 65536 * 65536

/-- The largest context of an instance of an image. -/
def Image.contextMax (i : Image) : Nat :=
  round64K (147456 + i.claimW + i.claimA + i.claimC + (i.claimW / 256 + i.claimA / 256 + 7) / 8 + 256 * i.tileRows)

/-- The size of a saved context. -/
def Inst.contextSize (i : Inst) : Nat :=
  let rows := (i.tiles.toList.map fun t => match t with
    | some x => x.rows.length
    | none => 0).sum
  round64K (147456 + i.claimW + i.claimA + i.claimC + (i.claimW / 256 + i.claimA / 256 + 7) / 8 + 256 * rows)

/-- The free space of the context store (16 R433): a saved context that is the checkpoint too is stored once. -/
def State.storeFree (s : State) : Nat :=
  contextStoreSize - ((s.saved ++ s.checkpoints).map fun x => x.inst.contextSize).sum

/-- The placed instances: occupants and shadow banks. -/
def State.placed (s : State) : List Occupant := s.cores.toList.flatMap fun c => c.occupant.toList ++ c.shadow.toList

/-- The instances of which a checkpoint is being written. -/
def State.checkpointing (s : State) : List Occupant :=
  s.cores.toList.flatMap fun c => if c.keeping then c.occupant.toList else []

/-- The reserve: the largest contexts of the placed instances, those of which a checkpoint is being written twice (16 R433). -/
def State.reserve (s : State) : Nat :=
  ((s.placed ++ s.checkpointing).map fun o => match (s.task o.task).bind Task.image with
    | some i => i.contextMax
    | none => 0).sum

-- Starting an instance.

/-- The start state of an instance (03 Table 3.6). Where two entries of the stream table name one register, the later one holds (LOG
104). -/
def startInst (t : Task) (i : Image) (ordinal : Nat) : Inst :=
  let co := i.coords ordinal 0
  let r := Inst.reset
  let zs := i.streams.foldl (fun (z : Vector ZReg 16) e => z.set e.1 e.2) r.z
  { r with
    scu := { r.scu with imem := i.scalar }, ve := { r.ve with imem := i.vector },
    me := { r.me with imem := i.matrix }, ce := { r.ce with imem := i.copy },
    s := ((r.s.set 1 t.data).set 2 (BitVec.ofNat 64 ordinal)).set 3 (BitVec.ofNat 64 i.instances),
    c := r.c.set 0 t.data, z := zs, budget := i.tileRows,
    claimW := i.claimW, claimA := i.claimA, claimC := i.claimC, spillLen := i.spill,
    ringsW := ringVector i.rings 0, ringsA := ringVector i.rings 1,
    sys := { r.sys with capreq := i.capreq.zeroExtend 64,
                        idl := Vector.ofFn fun n : Fin 6 => BitVec.ofNat 64 (co.getD n.val 0) } }

/-- An instance of a task stands on a core and its streams start. -/
def State.occupy (s : State) (g : CoreNo) (o : Occupant) : State :=
  match s.task o.task with
  | none => s
  | some t => match t.image with
    | none => s
    | some i => s.modCore g fun c =>
        { c with occupant := some o, inst := startInst t i o.ordinal, watchdog := Config.clock s.tick, request := none, keeping := false }

/-- An instance is placed on a core, or into its shadow bank (17 R454). -/
def State.place (s : State) (o : Occupant) (g : CoreNo) : State :=
  let s1 := s.modTask o.task fun t =>
    let sp := if t.spills.contains o.ordinal then t.spills else t.spills ++ [o.ordinal]
    { t with returned := t.returned.filter (· != o.ordinal), spills := sp }
  if s.cores[g].occupant.isNone then s1.occupy g o else s1.modCore g fun c => { c with shadow := some o }

/-- The spill lines of an area of n bytes. -/
def spillLines (n : Nat) : Nat := (n + 255) / 256

/-- The way that firmware chooses for line `index` of the area of the k-th new instance (13 R367; LOG 13). -/
def State.spillWay (s : State) (task ordinal k index : Nat) : SpillLock :=
  let n := Config.spillWay s.tick k index
  ⟨Fin.ofNat 192 (n / 16384), Fin.ofNat 1024 (n / 16), Fin.ofNat 16 n, task, ordinal, index⟩

/-- Locks that 13 R367 allows beside those there are: a way of its own for each, and at most 4 in a set. -/
def locksOk : List SpillLock → Bool
  | [] => true
  | k :: rest =>
    let same := rest.filter fun x => x.slice == k.slice && x.set == k.set
    decide (same.length < 4) && same.all (fun x => x.way != k.way) && locksOk rest

/-- The locks of new instances of a task; none while their lines cannot be locked (13 R367). -/
def State.newLocks (s : State) (t : Task) (i : Image) (ords : List Nat) : Option (List SpillLock) :=
  let fresh := if i.spill = 0 then [] else ords.filter fun o => !t.spills.contains o
  let ks := fresh.zipIdx.flatMap fun e => (List.range (spillLines i.spill)).map (s.spillWay t.id e.1 e.2)
  if ks.isEmpty then some [] else if locksOk (ks ++ s.spillLocks) then some ks else none

/-- Ways become spill-locked: the lines in them are written back and leave L2 (13 R359, R367). -/
def State.lockWays (s : State) (ks : List SpillLock) : State :=
  let hit := fun x : L2Line => ks.any fun k => k.slice == x.slice && k.set.val == l2Set x.line && k.way == x.way
  let out := s.l2.filter hit
  let s1 := out.foldl (fun s x => s.writeBack x.line x.writer x.dirty) s
  { s1 with l2 := s1.l2.filter (fun x => !hit x), spillLocks := ks ++ s1.spillLocks,
            forwards := s1.forwards.filter fun f => !out.any fun x => x.line == f.1 }

/-- The die that holds the rest of an ordinal's die group. -/
def State.groupDie (s : State) (task : Nat) (i : Image) (ordinal : Nat) : Option (Fin 8) :=
  if !i.hasD then none
  else ((List.finRange 192).find? fun g => (s.cores[g].occupant.toList ++ s.cores[g].shadow.toList).any fun o =>
    o.task == task && i.dieGroup o.ordinal == i.dieGroup ordinal).map dieOf

/-- The die that the members of a unit join, when the rest of their die group stands on one (03 R88). -/
def State.unitDie (s : State) (task : Nat) (i : Image) (u : List Nat) : Option (Fin 8) := u.head?.bind (s.groupDie task i)

/-- The CAPREQ of an instance that comes back: that of its saved context, or of the image for one that never started (03 Table 3.7,
R98). -/
def State.needOf (s : State) (task : Nat) (i : Image) (ordinal : Nat) : BitVec 16 :=
  match s.saved.find? fun x => x.task == task && x.ordinal == ordinal with
  | some x => x.inst.sys.capreq.setWidth 16
  | none => i.capreq

/-- The ordinals of a task that come back next, before any new one: those of the whole of a co-resident task, of the die group with
the lowest ordinal, or the lowest one alone (03 R99, R100). -/
def State.comeback (s : State) (t : Task) (i : Image) : List Nat :=
  let back := t.returned ++ (s.saved.filter fun x => x.task == t.id).map (·.ordinal)
  let least := back.foldl Nat.min (2 ^ 24)
  if i.coResident then back
  else if i.hasD then back.filter fun o => i.dieGroup o == i.dieGroup least
  else back.filter (· == least)

/-- Ordinals as the units that are placed together on one die, or one by one. -/
def Image.unitsOf (i : Image) (l : List Nat) : List (List Nat) :=
  if i.hasD then (l.map i.dieGroup).eraseDups.map fun d => l.filter fun o => i.dieGroup o == d else l.map fun o => [o]

/-- Nothing may be placed: the module is not up, or is being quiesced (19 R479, 15 R399). -/
def State.noPlacement (s : State) : Bool := decide (s.bringUp < 7) || s.power != .d0 || s.quiescing

/-- INSTANCE_PLACE (03 R97-R100, 17 R454): the next instance, die group or co-resident task in the order of R99, on core g or,
for more than one instance, on cores of the dispatcher's choice. What comes back with a saved context comes back by
CONTEXT_RESTORE. -/
def execInstancePlace (task : Nat) (g : CoreNo) (s : State) : Outcome State Fault Refusal :=
  match s.task task with
  | none => .next s
  | some t => match t.image, t.phase with
    | some i, .dispatched =>
      let back := s.comeback t i
      let again := !back.isEmpty && back.all fun o => t.returned.contains o
      let units := if again then i.unitsOf back
        else if !back.isEmpty then []
        else if i.coResident then (if t.next = 0 then (List.range i.unitCount).map i.unit else [])
        else if t.next < i.unitCount then [i.unit t.next] else []
      let ords := units.flatten
      let room := decide (s.reserve + ords.length * i.contextMax ≤ s.storeFree)
      if units.isEmpty ∨ !room ∨ s.noPlacement then .next s
      else match s.newLocks t i ords,
          s.chooseCores i (s.needOf task i) units g (s.unitDie task i) with
        | some ks, some l =>
          if l.length = 1 ∧ (l.map (·.2)) ≠ [g] then .next s
          else
            let s1 := l.foldl (fun s e => s.place ⟨task, e.1⟩ e.2) (s.lockWays ks)
            .next (if again then s1 else s1.modTask task fun t => { t with next := t.next + units.length })
        | _, _ => .next s
    | _, _ => .next s

-- What is pre-empted together.

/-- An ordinal is pre-empted together with another of its task: in a co-resident task every one is, in a die group its members
(03 R99, R100). -/
def Image.goesWith (i : Image) (a b : Nat) : Bool := i.coResident || (if i.hasD then i.dieGroup a == i.dieGroup b else a == b)

/-- The cores whose occupant, or whose shadow bank, is pre-empted together with the occupant of g. -/
def State.companions (s : State) (g : CoreNo) (slot : Core → Option Occupant) : List CoreNo :=
  match s.cores[g].occupant, (s.taskOn g).bind Task.image with
  | some o, some i => (List.finRange 192).filter fun h => match slot s.cores[h] with
    | some p => p.task == o.task && i.goesWith p.ordinal o.ordinal
    | none => false
  | _, _ => []

/-- The cores that are pre-empted together with g: the whole of a co-resident task, a die group, or g alone (03 R99, R100). -/
def State.together (s : State) (g : CoreNo) : List CoreNo := s.companions g (·.occupant)

/-- An instance leaves a shadow bank and returns to the head of its task's order (17 R454). -/
def State.withdraw (s : State) (g : CoreNo) : State :=
  match s.cores[g].shadow with
  | none => s
  | some o => (s.modCore g fun c => { c with shadow := none }).modTask o.task fun t => { t with returned := t.returned ++ [o.ordinal] }

/-- The requests whose save always finds room: before Foxglove, or for a quiesce (16 R433). -/
def Request.forced (r : Request) : Bool := r == .test || r == .quiesce

/-- A request becomes pending on a core: one that must be met stands in place of one that need not, and a checkpoint that is asked
is taken with whatever save comes (16 R430, R437). -/
def Core.asked (c : Core) (r : Request) : Core :=
  { c with request := some (if r.forced then r else c.request.getD r), keeping := c.keeping || r == .checkpoint }

/-- A request becomes pending on the instances of some cores (16 R430). -/
def State.ask (s : State) (l : List CoreNo) (r : Request) : State := l.foldl (fun s h => s.modCore h (·.asked r)) s

/-- SHADOW_SWAP (17 R454): once the occupant has left, the bank swaps in. A request that is pending on the rest of its co-resident
task or die group is pending on it too (03 R100). -/
def execShadowSwap (g : CoreNo) (s : State) : Outcome State Fault Refusal :=
  match s.cores[g].occupant, s.cores[g].shadow with
  | none, some o =>
    let t := (s.modCore g fun c => { c with shadow := none }).occupy g o
    .next (match (t.together g).find? fun h => t.cores[h].request.isSome with
      | some h => t.modCore g fun c => { c with request := t.cores[h].request, keeping := t.cores[h].keeping }
      | none => t)
  | _, _ => .next s

/-- SHADOW_WITHDRAW (17 R454): the instance returns to the head of its task's order. -/
def execShadowWithdraw (g : CoreNo) (s : State) : Outcome State Fault Refusal := .next (s.withdraw g)

-- Passes and retirement.

/-- An outstanding copy (12 R325); a word in q1 that still lacks its second one counts too (LOG 108). -/
def Inst.outstanding (i : Inst) : Bool :=
  !i.copies.isEmpty || !i.qw[0].isEmpty || !i.qw[1].isEmpty || !i.qw[4].isEmpty || i.helper.isSome || !i.q2w.isEmpty
    || !i.qw[3].isEmpty || !i.q3Order.isEmpty || i.cmdFault.isSome

/-- All four streams have executed end. -/
def Inst.allEnded (i : Inst) : Bool := i.scu.ended && i.ve.ended && i.me.ended && i.ce.ended

/-- The stream at the start of the next pass (03 R90). -/
def Stream.nextPass (st : Stream) (hold : Bool) : Stream := { st with pc := 0, loops := [], ended := false, held := hold }

/-- An instance's windows close implicitly when it retires (14 R388). -/
def Task.closeFor (t : Task) (ordinal : Nat) : Task :=
  { t with windows := t.windows.map fun w => { w with joined := w.joined.map fun j =>
      if j.ordinal == ordinal then { j with closed := true } else j } }

/-- Retirement (03 R103): the core is free; the task completes with its last instance. -/
def State.retire (s : State) (g : CoreNo) (o : Occupant) (i : Image) : State :=
  let s1 := (s.modTask o.task fun t => { t.closeFor o.ordinal with retired := t.retired ++ [o.ordinal] }).vacate g
  s1.modTask o.task fun t => if t.retired.length = i.instances then { t with phase := .done 0 0 } else t

/-- The pass of an instance: the T coordinates read back as a number (03 R89). -/
def passOf (i : Image) (idl : Vector Word 6) : Nat :=
  ((List.finRange 6).foldl (fun (n : Nat) k =>
    match i.levels[k.val]? with
    | some l => if l.kind = 0 then n * l.count + idl[k].toNat else n
    | none => n) 0)

/-- PASS_END (03 R90, R103, 16 R427): the next pass starts, or the instance retires. A pending request is met at the boundary. -/
def execPassEnd (g : CoreNo) (s : State) : Outcome State Fault Refusal :=
  let c := s.cores[g]
  let x := c.inst
  match c.occupant, (s.taskOn g).bind Task.image with
  | some o, some i =>
    if !x.allEnded ∨ x.outstanding ∨ x.pending.isSome ∨ x.handler ∨ x.assist.isSome ∨ x.hollyhock.isSome then .next s
    else
      let p := passOf i x.sys.idl + 1
      if p < i.passes then
        let co := i.coords o.ordinal p
        let hold := c.request.isSome
        .next (s.modInst g fun x => { x with
          scu := x.scu.nextPass hold, ve := x.ve.nextPass hold, me := x.me.nextPass hold, ce := x.ce.nextPass hold,
          sys := { x.sys with idl := Vector.ofFn fun n : Fin 6 => BitVec.ofNat 64 (co.getD n.val 0) } })
      else .next (s.retire g o i)
  | _, _ => .next s

/-- TASK_KILL (03 R104). -/
def execTaskKill (task : Nat) (detail : BitVec 8) (s : State) : Outcome State Fault Refusal :=
  match s.task task with
  | some t => match t.phase with
    | .done _ _ => .next s
    | _ => .next (s.killTask task detail.toNat)
  | none => .next s

-- Completion (17 R457).

/-- A store of the command processor that is left out where it cannot be made (LOG 22); none while a page is to be served. -/
def State.cpStore (s : State) (k ctx va : Nat) (bs : List Byte) : Option State :=
  match s.cpWrite k ctx va bs with
  | .ok t => some t
  | .bad _ => some s
  | .later => none

/-- An address that takes a completion store: not 0, 8-byte aligned. -/
def storeAddr (a : Word) : Bool := a != 0 && a.toNat % 8 == 0

/-- A successor decrement of a node whose work is done (17 R455), made once: it waits while firmware serves its page (17 R446), and is
left out where it cannot be made (LOG 22). -/
def State.decrement (s : State) (ctx : Nat) (c : Word) : State :=
  match s.translate none ctx c.toNat .both with
  | .ok pa => if c.toNat % 8 = 0 ∧ !s.poisoned pa 8 then s.agentWrite ctx pa (leBytes 8 (s.mem.word pa - 1).toNat) else s
  | .error e => match s.cpFault (α := Unit) 7 e with
    | .later => { s with owed := s.owed ++ [(ctx, c)] }
    | _ => s

/-- The oldest decrement that waits is tried again. -/
def State.settleDecrement (s : State) : State :=
  match s.owed with
  | e :: rest => { s with owed := rest }.decrement e.1 e.2
  | [] => s

/-- A node whose payload's work is done leaves the table and makes its decrements (17 R455). -/
def State.finishNode (s : State) (n : Node) : State :=
  n.succ.foldl (fun s c => s.decrement n.ctx c) { s with nodes := s.nodes.filter fun x => x.id != n.id }

/-- A node is told that one of its tasks has completed; with the last one its work is done. -/
def State.nodeDone (s : State) (node : Nat) : State :=
  match s.nodes.find? fun n => n.id == node && n.stage == .running with
  | some n => if s.tasks.any fun t => t.node == some node then s else s.finishNode n
  | none => s

/-- TASK_COMPLETE (17 R457): ranges, status word, signal, successor decrements, in this order. A window that is applying is applied
first, so that no accepted update of the task is lost (14 R388, R391; LOG 87). -/
def execTaskComplete (task : Nat) (s : State) : Outcome State Fault Refusal :=
  match s.task task with
  | none => .next s
  | some t => match t.phase with
    | .done r d =>
      if t.windows.any (s.applying task ·) then .next s else
      let s1 := { s with tasks := (s.tasks.filter fun x => x.id != task).map fun x => { x with deps := x.deps.filter (· != task) },
                         spillLocks := s.spillLocks.filter fun k => k.task != task }
      let s2 := if storeAddr t.status then s1.cpStore 5 t.ctx t.status.toNat (leBytes 8 (d % 256 * 256 + r)) else some s1
      match s2 with
      | none => .next s
      | some s2 =>
        let s3 := if storeAddr t.sigAddr then s2.cpStore 6 t.ctx t.sigAddr.toNat (leBytes 8 t.sigVal.toNat) else some s2
        match s3 with
        | none => .next s
        | some s3 => .next (match t.node with
          | some n => s3.nodeDone n
          | none => s3)
    | _ => .next s

-- Pre-emption.

/-- The saves of some cores leave the store its reserve (16 R433): of the companions of a core in g's group, those in shadow
banks give up their reserve too. -/
def State.saveFits (s : State) (g : CoreNo) : Bool :=
  let l := s.together g
  let left := l.foldl (fun (s : State) h => s.modCore h fun c => { c with occupant := none })
    ((s.companions g (·.shadow)).foldl State.withdraw s)
  decide (left.reserve + (l.map fun h => (s.inst h).contextSize).sum ≤ s.storeFree)

/-- PREEMPT_REQUEST (16 R430, R433): a time slice asks, when its save would fit. -/
def execPreemptRequest (g : CoreNo) (s : State) : Outcome State Fault Refusal :=
  let l := s.together g
  if l.isEmpty ∨ !s.saveFits g then .next s else .next (s.ask l .slice)

/-- A stream that stands just past a safe, or has ended. -/
def Stream.atSafe (st : Stream) : Bool := st.held || st.ended

/-- R = T on every ring (08 R241). -/
def Inst.ringsEven (i : Inst) : Bool :=
  (i.ringsW.toList ++ i.ringsA.toList).all fun r => match r with
    | some x => x.res == x.tail
    | none => true

/-- Whether an instruction is a datm.close. -/
def isClose : Instr → Bool
  | .datmClose _ _ _ _ => true
  | _ => false

/-- The request of a core can be served (16 R423, R429, R430). With a trap pending that firmware serves, only copies that stand
still behind a fault may be left, and none that holds a ring slot or closes a window (08 R241; LOG 86). -/
def Core.saveable (c : Core) : Bool :=
  let i := c.inst
  let calm := i.boundary && i.assist.all (·.abandoned) && !i.handler
  c.request.isSome && calm &&
    (match i.pending with
      | some p => p.route != .user && i.ceSettled && i.ringsEven && !i.copies.any fun x => isClose x.instr
      | none => i.mloop.isNone && !i.outstanding && (i.scu.atSafe || i.wmon.isSome) && i.ve.atSafe && i.me.atSafe && i.ce.atSafe
          && !i.allEnded)

/-- The instance as its context holds it: the wmon restarts, every pin generation has advanced (13 R366, 16 R432), a unit in part
performed counts as unlanded (16 R419), and an abandoned assist starts anew when its word issues again (11 R311). -/
def Inst.saved (i : Inst) : Inst :=
  let j := i.dropWmon
  { j with assist := none, keep := j.keep.map fun k => { k with gen := k.gen + 1 }, copies := j.copies.map fun c => { c with begun := none } }

/-- The context on a core is saved and the core becomes free; the context is the instance's checkpoint too when that was asked, or
when firmware keeps it, and the older one is then released (16 R430, R433, R437). -/
def State.saveCore (s : State) (g : CoreNo) : State :=
  let c := s.cores[g]
  match c.occupant with
  | none => s
  | some o =>
    let keep := c.keeping || Config.policy s.tick 11
    let x : Saved := ⟨o.task, o.ordinal, c.inst.saved, c.replyOwed, keep⟩
    let s1 := s.vacate g
    { s1 with
      saved := s1.saved ++ [x],
      checkpoints := if keep then s1.checkpoints.filter (fun y => !(y.task == o.task && y.ordinal == o.ordinal)) else s1.checkpoints }

/-- The save of a core is one that always finds room. -/
def Core.saveForced (c : Core) : Bool := c.request.any Request.forced

/-- CONTEXT_SAVE (16 R430, R433): with it the companions in shadow banks return to their order (03 R100). -/
def execContextSave (g : CoreNo) (s : State) : Outcome State Fault Refusal :=
  let l := s.together g
  if l.isEmpty ∨ !(l.all fun h => s.cores[h].saveable) ∨ !(s.saveFits g || l.any fun h => s.cores[h].saveForced) then .next s
  else .next (l.foldl State.saveCore ((s.companions g (·.shadow)).foldl State.withdraw s))

/-- A saved context on a core: every stream goes on after its safe point (16 R430, R432). -/
def State.restoreOn (s : State) (x : Saved) (g : CoreNo) : State :=
  s.modCore g fun c => { c with occupant := some ⟨x.task, x.ordinal⟩, inst := x.inst, request := none, keeping := false,
                                replyOwed := x.replyOwed, watchdog := Config.clock s.tick }

/-- An instance that comes back stands on a core: from its saved context, which stays as a checkpoint where it was kept, or from its
start state. -/
def State.bringBack (s : State) (task : Nat) (e : Nat × CoreNo) : State :=
  match s.saved.find? fun y => y.task == task && y.ordinal == e.1 with
  | some y =>
    let s1 := s.restoreOn y e.2
    { s1 with saved := s1.saved.filter (fun z => !(z.task == task && z.ordinal == e.1)),
              checkpoints := if y.kept then s1.checkpoints ++ [y] else s1.checkpoints }
  | none => s.place ⟨task, e.1⟩ e.2

/-- CONTEXT_RESTORE (16 R432, R433, 03 R88, R98-R100, R105): the n-th saved context, when it stands at the head of its task's order,
with those that come back together with it. The reserve is counted again in the same step. -/
def execContextRestore (n : Nat) (g : CoreNo) (s : State) : Outcome State Fault Refusal :=
  match s.saved[n]? with
  | none => .next s
  | some x => match s.task x.task, (s.task x.task).bind Task.image with
    | some t, some i =>
      let back := s.comeback t i
      let there := s.cores.toList.any fun c => (c.occupant.toList ++ c.shadow.toList).any fun o => o.task == x.task
      if i.coResident ∧ s.inService.length < i.instances then
        .next (s.killTask x.task ((Config.freeWord s.tick 3).toNat % 256))
      else if !back.contains x.ordinal ∨ (i.coResident ∧ there) ∨ s.noPlacement then .next s
      else match s.newLocks t i back, s.chooseCores i (s.needOf x.task i) (i.unitsOf back) g (s.unitDie x.task i) with
        | some ks, some l =>
          let u := l.foldl (fun s e => s.bringBack x.task e) (s.lockWays ks)
          if (l.length = 1 ∧ (l.map (·.2)) ≠ [g]) ∨ !(l.all fun e => s.cores[e.2].free) ∨ u.storeFree < u.reserve then .next s
          else .next u
        | _, _ => .next s
    | _, _ => .next s

/-- CORE_OUT_OF_SERVICE (03 R105): a bank's instance returns to its order; an occupant is first pre-empted, and the core leaves service
when it is saved; a piece of a transform is finished first. An occupant whose context cannot be saved for want of room is killed (LOG 84). -/
def execCoreOutOfService (g : CoreNo) (s : State) : Outcome State Fault Refusal :=
  let s1 := (s.withdraw g).modCore g fun c => { c with leaving := true }
  if s.cores[g].occupant.isSome then
    .next (if s1.saveFits g then s1.ask (s1.together g) .service else s1.killOn g ((Config.freeWord s.tick 3).toNat % 256))
  else if s.cores[g].piece.isSome then .next s1
  else .next (s1.modCore g fun c => { c with inService := false, leaving := false })

end Sys2Proof.Machine
end

