-- ==== Sys2Proof/Machine/Rings.lean ====
section
/-! DEFINITION. Command rings and their packets (17 R439-R449), launches (17 R450), nodes and transforms as packets (17 R455,
R456), spawn (04 R132), and the mailbox (17 R459). -/

namespace Sys2Proof.Machine

open Host

/-- The context in whose address space a ring lies; firmware's rings use context 0 (16 R412, 17 R439; LOG 4). -/
def CmdRing.ctx (r : CmdRing) : Nat :=
  match r.grant with
  | .ctx n => n
  | _ => 0

/-- The size of a ring in bytes. -/
def CmdRing.size (r : CmdRing) : Nat := 2 ^ r.logSize

/-- A change of one ring. -/
def State.modCmdRing (s : State) (r : Fin 256) (f : CmdRing → CmdRing) : State := { s with rings := s.rings.set r (f s.rings[r]) }

/-- The parts of a ring that n bytes from an index occupy: virtual address and length (17 R440). -/
def CmdRing.parts (r : CmdRing) (idx n : Nat) : List (Nat × Nat) :=
  let o := idx % r.size
  let k := Nat.min n (r.size - o)
  [(r.base.toNat + o, k), (r.base.toNat, n - k)]

/-- Bytes of a ring from an index. -/
def State.ringRead (s : State) (r : CmdRing) (idx n : Nat) : CpRes (List Byte) :=
  match r.parts idx n with
  | [a, b] => match s.cpRead 20 r.ctx a.1 a.2 with
    | .ok x => match s.cpRead 21 r.ctx b.1 b.2 with
      | .ok y => .ok (x ++ y)
      | .later => .later
      | .bad c => .bad c
    | .later => .later
    | .bad c => .bad c
  | _ => .ok []

/-- A doubleword of the ring's state block (17 Table 17.2). -/
def State.blockWord (s : State) (r : CmdRing) (off : Nat) : CpRes Word :=
  match s.cpRead 22 r.ctx (r.stateAddr.toNat + off) 8 with
  | .ok bs => .ok (BitVec.ofNat 64 (leNat bs))
  | .later => .later
  | .bad c => .bad c

/-- The ring fault code of a fault on a packet step or on the ring's own bytes (17 Table 17.5). -/
def ringCode : Cause → Nat
  | .poison => 0x05
  | .pageR => 0x07
  | .pageW => 0x07
  | _ => 0x04

/-- The packet at RIDX has begun: its ring keeps the slot until it completes (17 R446). -/
def State.beginPacket (s : State) (r : Fin 256) : State :=
  if s.rings[r].st = .active then s.modCmdRing r fun x => { x with begun := true } else s

/-- The ring stops: FIDX, then FAULT, and the slot is given up (17 R448). While the page of the state block is to be served, the ring
waits for it. -/
def State.ringFault (s : State) (r : Fin 256) (code : Nat) : State :=
  let x := s.rings[r]
  let put := fun (s : State) (off n : Nat) => s.cpStore 23 x.ctx (x.stateAddr.toNat + off) (leBytes 8 n)
  match (put s 0x18 x.ridx.toNat).bind fun t => put t 0x10 code with
  | some t => t.modCmdRing r fun x => { x with st := .stopped, waiting := false, accepted := 0, begun := false }
  | none => s.beginPacket r

/-- A packet of LEN units completes: RIDX moves on, once, as a release (17 R442, R446). The state t holds its steps; s is where the
packet stands while a page is to be served. -/
def completePacket (s t : State) (r : Fin 256) (len : Nat) : Outcome State Fault Refusal :=
  let x := t.rings[r]
  let ridx := x.ridx + BitVec.ofNat 64 (64 * len)
  match t.cpWrite 24 x.ctx (x.stateAddr.toNat + 8) (leBytes 8 ridx.toNat) with
  | .ok u => .next (u.modCmdRing r fun x => { x with ridx := ridx, accepted := 0, waiting := false, begun := false })
  | .later => .next (s.beginPacket r)
  | .bad c => .next (s.ringFault r (ringCode c))

/-- A step of a packet that stores: then the rest, or the retry, or the stop; the stores before it stand (17 R445, R446). -/
def packetStore (t : State) (r : Fin 256) (va : Nat) (bs : List Byte) (k : State → Outcome State Fault Refusal) :
    Outcome State Fault Refusal :=
  match t.cpWrite 25 t.rings[r].ctx va bs with
  | .ok u => k u
  | .later => .next (t.beginPacket r)
  | .bad c => .next (t.ringFault r (ringCode c))

/-- The stores of WRITE, doubleword by doubleword (17 R445). -/
def packetStores (r : Fin 256) : State → Nat → List Word → (State → Outcome State Fault Refusal) → Outcome State Fault Refusal
  | t, _, [], k => k t
  | t, va, w :: ws, k => packetStore t r va (leBytes 8 w.toNat) fun u => packetStores r u (va + 8) ws k

-- Which packet comes next.

/-- The bytes of the packet at RIDX, once its header is published; none before (17 R442). Of one whose header is malformed or whose
TYPE does not admit its LEN, only the header is read. -/
def State.published (s : State) (r : Fin 256) (x : CmdRing) : CpRes (Option (List Byte)) :=
  match s.ringRead x x.ridx.toNat 8 with
  | .later => .later
  | .bad c => .bad c
  | .ok h =>
    let hd := leNat h
    let bare := h ++ List.replicate 56 0
    if bits hd 63 32 ≠ x.ridx.toNat / 64 % 2 ^ 32 ∨ bits hd 7 0 = 0 then .ok none
    else match decodePacket r bare with
      | .error .header => .ok (some bare)
      | .error .length => .ok (some bare)
      | _ => match s.ringRead x x.ridx.toNat (64 * bits hd 23 16) with
        | .ok bs => .ok (some bs)
        | .later => .later
        | .bad c => .bad c

/-- BAR: every task of the ring that was accepted earlier has completed (17 Table 17.3). -/
def State.ringBusy (s : State) (r : Fin 256) : Bool := s.tasks.any fun t => t.ring == some r

/-- The BAR bit of a packet. -/
def barOf (bs : List Byte) : Bool := bits (leNat (bs.take 8)) 8 8 == 1

/-- The turn of a ring that holds a slot: the packet to process, or the ring as it stands then (17 R442-R449). While the module is
quiesced, a ring between packets is parked (15 R399). -/
def State.turn (s : State) (r : Fin 256) : State ⊕ Instr :=
  let x := s.rings[r]
  if x.st ≠ .active ∨ x.waiting ∨ s.power ≠ .d0 then .inl s
  else if s.quiescing ∧ !x.begun ∧ x.accepted = 0 then .inl (s.modCmdRing r fun x => { x with st := .parked })
  else match s.blockWord x 0 with
    | .later => .inl s
    | .bad c => .inl (s.ringFault r (ringCode c))
    | .ok widx =>
      if widx = x.ridx then .inl (s.modCmdRing r fun x => { x with st := .idle })
      else match s.published r x with
        | .later => .inl s
        | .bad c => .inl (s.ringFault r (ringCode c))
        | .ok none => .inl s
        | .ok (some bs) => match decodePacket r bs with
          | .error e => .inl (s.ringFault r e.code)
          | .ok i => if barOf bs ∧ x.accepted = 0 ∧ !x.begun ∧ s.ringBusy r then .inl s else .inr i

-- Packets.

/-- SIGNAL (17 R445). -/
def execSignal (h : Pkt) (addr value : Word) (w32 : Bool) (s : State) : Outcome State Fault Refusal :=
  packetStore s h.ring addr.toNat (leBytes (if w32 then 4 else 8) value.toNat) fun t => completePacket t t h.ring h.len

/-- WRITE (17 R445). -/
def execWrite (h : Pkt) (addr : Word) (data : List Word) (s : State) : Outcome State Fault Refusal :=
  packetStores h.ring s addr.toNat data fun t => completePacket t t h.ring h.len

/-- WRITE_SIGNAL (17 R445). -/
def execWriteSignal (h : Pkt) (addr : Word) (data : List Word) (sigAddr sigVal : Word) (s : State) : Outcome State Fault Refusal :=
  packetStores h.ring s addr.toNat data fun t =>
    packetStore t h.ring sigAddr.toNat (leBytes 8 sigVal.toNat) fun u => completePacket u u h.ring h.len

/-- MARK (17 R445): SEQ to its address, or nothing. -/
def execMark (h : Pkt) (addr : Word) (s : State) : Outcome State Fault Refusal :=
  if addr = 0 then completePacket s s h.ring h.len
  else packetStore s h.ring addr.toNat (leBytes 4 (s.rings[h.ring].ridx.toNat / 64)) fun t => completePacket t t h.ring h.len

/-- WAIT (17 R445, R447): completes when a read satisfies the condition; otherwise it waits, and where its page is not resident it is
parked. -/
def execWait (h : Pkt) (addr value : Word) (c : WCond) (w32 : Bool) (s : State) : Outcome State Fault Refusal :=
  let n := if w32 then 4 else 8
  let hold := s.modCmdRing h.ring fun x => { x with waiting := true }
  match s.readV none s.rings[h.ring].ctx addr.toNat n with
  | .ok bs => if (condHolds c w32 (leNat bs) value).isSome then completePacket s s h.ring h.len else .next hold
  | .error (.pageR, _) => .next (s.modCmdRing h.ring fun x => { x with st := .parked, waiting := false })
  | .error (c, _) => .next (s.ringFault h.ring (ringCode c))

/-- WAIT_SATISFIED (17 R445): the waiting packet reads again. -/
def execWaitSatisfied (r : Fin 256) (s : State) : Outcome State Fault Refusal :=
  let x := s.rings[r]
  if x.st ≠ .active ∨ !x.waiting then .next s
  else match s.published r x with
    | .ok (some bs) => match decodePacket r bs with
      | .ok (.wait h a v c w) => execWait h a v c w s
      | _ => .next s
    | _ => .next s

/-- Whether core g has translated accesses that it has not performed yet: of a word of the VE, or of a unit of a copy, in part
performed. -/
def Inst.midAccess (i : Inst) : Bool := i.doneVe.writes.isSome || i.copies.any fun c => c.begun.isSome

/-- INVAL (17 R445, 16 R417): translations of the range leave every TLB and translation cache, when no access under way in the context
may still use one. -/
def execInval (h : Pkt) (ctx : Nat) (va length : Word) (s : State) : Outcome State Fault Refusal :=
  if s.rings[h.ring].grant ≠ .firmware then .next (s.ringFault h.ring 0x06)
  else if (List.finRange 192).any fun g => s.ctxOf g == ctx && (s.inst g).midAccess then .next s
  else
    let keep := fun e : TlbEntry => !(e.ctx == ctx && decide (e.va < va.toNat + length.toNat ∧ va.toNat < e.va + e.size))
    let t := { s with cores := s.cores.map (fun c : Core => { c with tlb := c.tlb.filter keep }),
                      dieTlb := s.dieTlb.map fun l => l.filter keep }
    completePacket s t h.ring h.len

/-- Operator records accepted in order from the n-th on, as far as the table and the pages allow; the ring stops at a record that
cannot be read (17 R446, R450, R452). -/
def acceptRecords (ring : Fin 256) (ctx : Nat) (first : Nat) : Nat → Nat → State → State × Bool
  | 0, _, s => (s, true)
  | left + 1, n, s =>
    if !s.trackRoom 1 then (s.beginPacket ring, false)
    else match s.cpRead 26 ctx (first + 64 * n) 64 with
      | .later => (s.beginPacket ring, false)
      | .bad c => (s.ringFault ring (ringCode c), false)
      | .ok bs => match s.acceptRecord (some ring) none ctx (opRecordOf bs) with
        | none => (s.beginPacket ring, false)
        | some t => acceptRecords ring ctx first left (n + 1) (t.modCmdRing ring fun x => { x with accepted := n + 1 })

/-- LAUNCH (17 R450): complete when every record is accepted. -/
def execLaunch (h : Pkt) (first : Word) (count : Nat) (s : State) : Outcome State Fault Refusal :=
  let x := s.rings[h.ring]
  let r := acceptRecords h.ring x.ctx first.toNat (count - x.accepted) x.accepted s
  if r.2 then completePacket r.1 r.1 h.ring h.len else .next r.1

/-- NODE (17 R455): the counter is armed, when the table of armed nodes has a place. -/
def execNode (h : Pkt) (counter payload : Word) (succ : List Word) (s : State) : Outcome State Fault Refusal :=
  if 4096 ≤ (s.nodes.filter fun n => n.stage == .armed).length then .next (s.beginPacket h.ring)
  else
    let id := (s.nodes.map (·.id)).foldl Nat.max 0 + 1
    let n : Node := ⟨id, h.ring, s.rings[h.ring].ctx, counter, payload, succ, .armed⟩
    completePacket s { s with nodes := s.nodes ++ [n] } h.ring h.len

-- Transforms as packets (17 R456).

/-- The bytes that a memory stream covers: the lowest address and the length. -/
def streamExtent (z : ZReg) : Nat × Nat :=
  let r := nestRange z.w (z.counts.zip z.strides)
  let lo := (z.base.toNat : Int) + r.1 / 8
  let hi := (z.base.toNat : Int) + (r.2 + z.w + 7) / 8
  (lo.toNat, (hi - lo).toNat)

/-- A descriptor of LAYOUT in memory: 64-byte aligned, of a memory stream, sound (17 Table 17.8). -/
def State.descriptor (s : State) (ctx va : Nat) : CpRes ZReg :=
  if va % 64 ≠ 0 then .bad .misalign
  else match s.cpRead 33 ctx va 64 with
    | .later => .later
    | .bad c => .bad c
    | .ok bs => let z := zregOf bs; if z.src ≠ 0 ∨ (loadReason .reset z).isSome then .bad .streamCfg else .ok z

/-- The ranges of a transform (17 R456). Those of LAYOUT stand in its descriptors, which are read when it is accepted (LOG 44). -/
def State.transformRanges (s : State) (ctx : Nat) (i : Instr) : CpRes (List Range) :=
  match i with
  | .transformCompress _ src dst len _ _ => .ok [⟨src.toNat, len.toNat, false⟩, ⟨dst.toNat, 0x40 + 260 * (len.toNat / 256), true⟩]
  | .transformExpand _ src dst len _ => .ok [⟨src.toNat, 0x40 + 260 * (len.toNat / 256), false⟩, ⟨dst.toNat, len.toNat, true⟩]
  | .transformQuant _ src dst len q _ _ =>
    let groups := len.toNat / 2048
    .ok [⟨src.toNat, len.toNat, false⟩, ⟨dst.toNat, groups * ((if q = .e2 then 256 else 512) + 16), true⟩]
  | .transformLayout _ sd dd _ _ =>
    match s.descriptor ctx sd.toNat, s.descriptor ctx dd.toNat with
    | .ok a, .ok b => .ok [⟨(streamExtent a).1, (streamExtent a).2, false⟩, ⟨(streamExtent b).1, (streamExtent b).2, true⟩]
    | .bad c, _ => .bad c
    | .later, _ => .later
    | _, .bad c => .bad c
    | _, .later => .later
  | _ => .ok []

/-- The report addresses of a transform. -/
def transformReport : Instr → Report
  | .transformCompress _ _ _ _ _ rep => rep
  | .transformExpand _ _ _ _ rep => rep
  | .transformQuant _ _ _ _ _ _ rep => rep
  | .transformLayout _ _ _ _ rep => rep
  | _ => ⟨0, 0, 0⟩

/-- A transform enters the tracked tasks; one whose descriptors cannot be used has failed there (17 R457); none while a page is to be
served. -/
def State.acceptTransform (s : State) (ring : Option (Fin 256)) (node : Option Nat) (ctx : Nat) (i : Instr) : Option State :=
  let rep := transformReport i
  let add := fun rs p => some (s.addTask ring node ctx ⟨0, 0, rep.sigAddr, rep.sigVal, rep.status, 0, 0, 0⟩ (.transform i) rs p)
  match s.transformRanges ctx i with
  | .ok rs => add rs .waiting
  | .bad c => add [] (.done 3 c.code)
  | .later => none

/-- A TRANSFORM packet: complete when its work is accepted (17 R445, R452). -/
def transformPacket (h : Pkt) (i : Instr) (s : State) : Outcome State Fault Refusal :=
  if !s.trackRoom 1 then .next (s.beginPacket h.ring)
  else match s.acceptTransform (some h.ring) none s.rings[h.ring].ctx i with
    | some t => completePacket s t h.ring h.len
    | none => .next (s.beginPacket h.ring)

/-- TRANSFORM, COMPRESS (17 R456). -/
def execTransformCompress (h : Pkt) (src dst length : Word) (exp : BitVec 2) (rep : Report) (s : State) : Outcome State Fault Refusal :=
  transformPacket h (.transformCompress h src dst length exp rep) s
/-- TRANSFORM, EXPAND (17 R456). -/
def execTransformExpand (h : Pkt) (src dst length : Word) (rep : Report) (s : State) : Outcome State Fault Refusal :=
  transformPacket h (.transformExpand h src dst length rep) s
/-- TRANSFORM, LAYOUT (17 R456). -/
def execTransformLayout (h : Pkt) (sdesc ddesc map : Word) (rep : Report) (s : State) : Outcome State Fault Refusal :=
  transformPacket h (.transformLayout h sdesc ddesc map rep) s
/-- TRANSFORM, QUANT (17 R456). -/
def execTransformQuant (h : Pkt) (src dst length : Word) (q : QntType) (mode : Rounding) (rep : Report) (s : State) :
    Outcome State Fault Refusal :=
  transformPacket h (.transformQuant h src dst length q mode rep) s

-- Nodes firing (17 R455).

/-- A malformed payload: an event, and the successor decrements at once. -/
def State.badPayload (s : State) (n : Node) : State :=
  ({ s with notices := s.notices ++ [Notice.payload n.counter 0x05] } : State).finishNode n

/-- A change of one node. -/
def State.modNode (s : State) (id : Nat) (f : Node → Node) : State :=
  { s with nodes := s.nodes.map fun x => if x.id == id then f x else x }

/-- All the work of a node's payload is accepted: the node waits for it, or is done when none of it is left. -/
def State.nodeRuns (s : State) (n : Node) : State := (s.modNode n.id fun x => { x with stage := .running }).nodeDone n.id

/-- The payload's records from the k-th on accepted for a node, as far as the table and the pages allow (17 R452); an unreadable record
makes the payload malformed. -/
def State.nodeRecords (s : State) (n : Node) (first : Nat) : Nat → Nat → State
  | 0, _ => s.nodeRuns n
  | left + 1, k =>
    let hold := s.modNode n.id fun x => { x with stage := .fired k }
    if !s.trackRoom 1 then hold
    else match s.cpRead 27 n.ctx (first + 64 * k) 64 with
      | .later => hold
      | .bad _ => s.badPayload n
      | .ok bs => match s.acceptRecord none (some n.id) n.ctx (opRecordOf bs) with
        | none => hold
        | some t => t.nodeRecords n first left (k + 1)

/-- The payload packet of a node; none when it is malformed. -/
def State.payload (s : State) (n : Node) : CpRes (Option Instr) :=
  match s.cpRead 28 n.ctx n.payload.toNat 64 with
  | .later => .later
  | .bad _ => .ok none
  | .ok h =>
    let hd := leNat (h.take 8)
    let len := if bits hd 7 0 = 6 then 2 else 1
    match s.cpRead 29 n.ctx n.payload.toNat (64 * len) with
    | .later => .later
    | .bad _ => .ok none
    | .ok bs =>
      if bits hd 7 0 ≠ 1 ∧ bits hd 7 0 ≠ 6 then .ok none
      else match decodePacket n.ring bs with
        | .ok i => .ok (some i)
        | .error _ => .ok none

/-- The payload of a node that is disarmed, from its record `taken` on. -/
def State.runPayload (s : State) (n : Node) (taken : Nat) : State :=
  let hold := s.modNode n.id fun x => { x with stage := .fired taken }
  match s.payload n with
  | .later => hold
  | .bad _ => hold
  | .ok (some (.launch _ first count)) => s.nodeRecords n first.toNat (count - taken) taken
  | .ok (some i) =>
    if !s.trackRoom 1 then hold
    else match s.acceptTransform none (some n.id) n.ctx i with
      | some t => t.nodeRuns n
      | none => hold
  | .ok none => s.badPayload n

/-- NODE_FIRE (17 R455): an armed counter that reads at most 0 disarms its node and dispatches the payload; a payload that waits for a
page or for a place among the tracked tasks goes on without another read of the counter. -/
def execNodeFire (id : Nat) (s : State) : Outcome State Fault Refusal :=
  match s.nodes.find? fun n => n.id == id with
  | none => .next s
  | some n => match n.stage with
    | .running => .next s
    | .fired k => .next (s.runPayload n k)
    | .armed => match s.readV none n.ctx n.counter.toNat 8 with
      | .error _ => .next s
      | .ok bs => .next (if (BitVec.ofNat 64 (leNat bs) : Word).sle 0 then s.runPayload n 0 else s)

-- Ring states (17 R447-R449).

/-- An IDLE ring whose WIDX differs from RIDX becomes READY (17 R449). -/
def State.ringReady (s : State) (r : Fin 256) : State :=
  let x := s.rings[r]
  if x.st ≠ .idle ∨ x.grant = .none ∨ s.power ≠ .d0 ∨ s.bringUp < 7 ∨ s.quiescing then s
  else match s.blockWord x 0 with
    | .ok w => if w = x.ridx then s else s.modCmdRing r fun x => { x with st := .ready }
    | .bad c => s.ringFault r (ringCode c)
    | .later => s

/-- SLOT_GRANT (17 R449): a READY ring takes one of the 64 slots (17 R439). -/
def execSlotGrant (r : Fin 256) (s : State) : Outcome State Fault Refusal :=
  if s.rings[r].st = .ready ∧ (s.rings.toList.filter fun y => y.st == .active).length < 64 ∧ s.power = .d0 ∧ 7 ≤ s.bringUp ∧ !s.quiescing then
    .next (s.modCmdRing r fun x => { x with st := .active })
  else .next s

/-- A ring that stands between two packets, or at a WAIT that is not satisfied, may lose its slot (17 R446). -/
def CmdRing.yields (x : CmdRing) : Bool := x.st == .active && x.accepted == 0 && !x.begun

/-- RING_SLICE_EXPIRY (17 R446, R449): between packets, or from a WAIT that is not satisfied. -/
def execRingSliceExpiry (r : Fin 256) (s : State) : Outcome State Fault Refusal :=
  if s.rings[r].yields then .next (s.modCmdRing r fun x => { x with st := .ready, waiting := false }) else .next s

/-- RING_PARK (17 R447): a WAIT that waits gives up its slot. -/
def execRingPark (r : Fin 256) (s : State) : Outcome State Fault Refusal :=
  if s.rings[r].st = .active ∧ s.rings[r].waiting then .next (s.modCmdRing r fun x => { x with st := .parked, waiting := false })
  else .next s

/-- RING_REARM (17 R447): a parked ring becomes READY, once the page of its WAIT is there; it stops when the page cannot be
mapped. No ring is re-armed while the module is quiesced (15 R399). -/
def execRingRearm (r : Fin 256) (s : State) : Outcome State Fault Refusal :=
  let x := s.rings[r]
  let rearm := s.modCmdRing r fun x => { x with st := .ready }
  if x.st ≠ .parked ∨ s.quiescing then .next s
  else match s.published r x with
    | .ok (some bs) => match decodePacket r bs with
      | .ok (.wait _ a _ _ _) => match s.translate none x.ctx a.toNat .read with
        | .error .pageR => if Config.policy s.tick 30 then .next (s.ringFault r 0x07) else .next s
        | _ => .next rearm
      | _ => .next rearm
    | _ => .next rearm

/-- RING_RESTART (17 R448): firmware restarts a stopped ring at an index, READY when packets stand there, and else IDLE. -/
def execRingRestart (r : Fin 256) (ridx : Word) (s : State) : Outcome State Fault Refusal :=
  let x := s.rings[r]
  if x.st ≠ .stopped then .next s
  else match s.cpStore 31 x.ctx (x.stateAddr.toNat + 8) (leBytes 8 ridx.toNat) with
    | none => .next s
    | some s1 =>
      let st : RingState := match s1.blockWord x 0 with
        | .ok w => if w = ridx then .idle else .ready
        | _ => .ready
      .next (s1.modCmdRing r fun x => { x with st := st, ridx := ridx, accepted := 0, begun := false, waiting := false })

-- spawn (04 R132).

/-- A memory fault of an SCU instruction. -/
def memRes {α : Type} (r : Except MemFault α) : Res α :=
  match r with
  | .ok x => .ok x
  | .error (c, va) => .error (.trap c (BitVec.ofNat 64 va))

/-- The packet image at an address: its bytes as far as its LEN says. -/
def State.packetImage (s : State) (g : CoreNo) (va : Nat) : Res (List Byte) := do
  let h ← memRes (s.readV (some g) (s.ctxOf g) va 64)
  let n := bits (leNat (h.take 8)) 23 16
  if n ≤ 1 ∨ 64 < n then .ok h else memRes (s.readV (some g) (s.ctxOf g) va (64 * n))

/-- Whether spawn takes a packet's header: codes 0x01 and 0x02 of 17 Table 17.5 do not arise. -/
def headerValid (r : Fin 256) (bs : List Byte) : Bool :=
  match decodePacket r bs with
  | .error .header => false
  | .error .length => false
  | _ => true

/-- Bytes written to a ring from an index, by the SCU through the L1D (13 R357). -/
def State.ringWrite (s : State) (g : CoreNo) (r : CmdRing) (idx : Nat) (bs : List Byte) : Res State :=
  (r.parts idx bs.length).foldlM (fun (st : State × List Byte) (p : Nat × Nat) =>
    (memRes (st.1.writeV (some g) r.ctx p.1 (st.2.take p.2))).map fun t => (t.noteSpan true g p.1 p.2 2 true, st.2.drop p.2)) (s, bs)
    |>.map (·.1)

/-- Whom the rings that a spawn on core g may name are granted to: its task's context, or firmware in firmware's context (17 R439). -/
def State.spawner (s : State) (g : CoreNo) : Grant := if s.cur.fw then .firmware else .ctx (s.ctxOf g)

/-- The effect of spawn on the values a and b: the state and d. The packet image and the ring are read and written through the L1D
(13 R357), the indices at the slice of the state block (17 R441). A fault of the ring's own bytes or of its state block is a trap
of spawn too, with the address in TVAL (LOG 103). -/
def State.spawn (s : State) (g : CoreNo) (a b : Word) : Res (State × Word) := do
  check (a.toNat % 64 == 0) .misalign a
  let bs ← s.packetImage g a.toNat
  let s := s.noteSpan true g a.toNat bs.length 2 false
  let r : Fin 256 := Fin.ofNat 256 b.toNat
  check (decide (b.toNat < 256) && headerValid r bs) .queueProtocol b
  let x := s.rings[r]
  check (x.grant == s.spawner g) .prot b
  let widx := leNat (← memRes (s.readV (some g) x.ctx x.stateAddr.toNat 8))
  let ridx := leNat (← memRes (s.readV (some g) x.ctx (x.stateAddr.toNat + 8) 8))
  if x.size < widx + bs.length - ridx then .ok (s, BitVec.allOnes 64)
  else do
    let hd := leNat (bs.take 4)
    let t ← s.ringWrite g x (widx + 8) (bs.drop 8)
    let u ← t.ringWrite g x widx (leBytes 4 hd ++ leBytes 4 (widx / 64))
    let v ← memRes (u.writeV (some g) x.ctx x.stateAddr.toNat (leBytes 8 (widx + bs.length)))
    .ok ((v.noteSpan false g x.stateAddr.toNat 8 2 true).sink g, BitVec.ofNat 64 widx)

/-- The checks of spawn on b alone: a ring number, and a ring granted to the task. -/
def State.spawnRing (s : State) (g : CoreNo) (b : Word) : Res Unit := do
  check (decide (b.toNat < 256)) .queueProtocol b
  check (s.rings[(Fin.ofNat 256 b.toNat : Fin 256)].grant == s.spawner g) .prot b

/-- spawn (04 R132). What the value that a queue delivers does not decide is checked before the wait (02 R491). -/
def execSpawn (d a b : SReg) (s : State) : Outcome State Fault Refusal :=
  let g := s.cur.core
  let va := s.readS g a
  let vb := s.readS g b
  let pre : Res Unit := match isQueue a, isQueue b with
    | true, true => .ok ()
    | true, false => s.spawnRing g vb
    | false, true => do
        check (va.toNat % 64 == 0) .misalign va
        discard (s.packetImage g va.toNat)
    | false, false => discard (s.spawn g va vb)
  scuRun s [a, b] (some d) pre fun t vs => t.spawn g (vs.getD 0 0) (vs.getD 1 0)

-- The mailbox (17 R459).

/-- A reply: status and value. -/
def replyWord (status value : Nat) : Word := BitVec.ofNat 64 (status * 2 ^ 56 + value % 2 ^ 56)

/-- The oldest request is served: it leaves q5 and its reply enters the read side, when there is a place. -/
def answer (s : State) (g : CoreNo) (status value : Nat) : Outcome State Fault Refusal :=
  if s.hasRoomRead g 5 then
    .next ((s.modInst g fun i =>
      { i with qw := i.qw.set 5 i.qw[5].tail, qr := i.qr.set 5 (i.qr[5] ++ [replyWord status value]) }).sink g)
  else .next s

/-- ECHO (17 Table 17.10). -/
def execEcho (g : CoreNo) (arg : BitVec 56) (s : State) : Outcome State Fault Refusal := answer s g 0 arg.toNat
/-- MODULE_TIME (17 Table 17.10). -/
def execModuleTime (g : CoreNo) (_arg : BitVec 56) (s : State) : Outcome State Fault Refusal :=
  answer s g 0 (Config.nanoseconds s.tick)
/-- IN_SERVICE_CORE_COUNT (17 Table 17.10). -/
def execInServiceCoreCount (g : CoreNo) (_arg : BitVec 56) (s : State) : Outcome State Fault Refusal :=
  answer s g 0 s.inService.length
/-- UNKNOWN_SERVICE (17 Table 17.10). -/
def execUnknownService (g : CoreNo) (_code : BitVec 8) (_arg : BitVec 56) (s : State) : Outcome State Fault Refusal := answer s g 1 0

/-- CHECKPOINT (17 Table 17.10): a request whose reply follows when the instance has resumed; refused when the save would not
fit the store (16 R433). -/
def execCheckpoint (g : CoreNo) (_arg : BitVec 56) (s : State) : Outcome State Fault Refusal :=
  let l := s.together g
  if l.isEmpty ∨ !s.saveFits g then answer s g 2 0
  else
    let s1 := s.modCore g fun c => { c with replyOwed := true }
    .next (((s1.modInst g fun i => { i with qw := i.qw.set 5 i.qw[5].tail }).sink g).ask l .checkpoint)

/-- YIELD (17 Table 17.10): a request that firmware's policy or the store may refuse (LOG 23). -/
def execYield (g : CoreNo) (_arg : BitVec 56) (s : State) : Outcome State Fault Refusal :=
  let l := s.together g
  if l.isEmpty ∨ !s.saveFits g ∨ Config.policy s.tick 32 then answer s g 2 0
  else if s.hasRoomRead g 5 then answer (s.ask l .yield) g 0 0
  else .next s

/-- The turn of firmware at a core's mailbox: an owed reply once the instance has resumed, else the oldest request. -/
def State.mailTurn (s : State) (g : CoreNo) : State ⊕ Instr :=
  let c := s.cores[g]
  if c.occupant.isNone ∨ s.power ≠ .d0 then .inl s
  else if c.replyOwed then
    if c.request.isNone ∧ s.hasRoomRead g 5 then
      .inl (((s.modCore g fun c => { c with replyOwed := false }).modInst g fun i =>
        { i with qr := i.qr.set 5 (i.qr[5] ++ [replyWord 0 0]) }).sink g)
    else .inl s
  else match c.inst.qw[5] with
    | v :: _ => .inr (decodeMailbox g v)
    | [] => .inl s

end Sys2Proof.Machine
end

