-- ==== Sys2Proof/Machine/Firmware.lean ====
section
/-! DEFINITION. Ladders and tests (11 R297-R304), errors of device memory and caches (15 R398-R402), power (19 R481, R482), bring-up
(19 R479), attestation (19 R478) and firmware update (19 R483). -/

namespace Sys2Proof.Machine

open Host

-- Tests and quiescence.

/-- No instance stands on the core or in its shadow bank, and no piece of a transform. -/
def Core.empty (c : Core) : Bool := c.occupant.isNone && c.shadow.isNone && c.piece.isNone

/-- A ring that stands between two packets, or at a WAIT that is not satisfied (17 R446). -/
def CmdRing.between (r : CmdRing) : Bool := !r.begun && r.accepted == 0

/-- A ring that processes nothing: parked, stopped, or not granted. -/
def CmdRing.rests (r : CmdRing) : Bool := r.st == .parked || r.st == .stopped || r.grant == .none

/-- The module is quiesced: placement has stopped, no instance is placed, and every ring is parked (15 R399). -/
def State.quiet (s : State) : Bool := s.quiescing && s.cores.toList.all Core.empty && s.rings.toList.all CmdRing.rests

/-- A quiesce (15 R399): placement stops, every instance is asked to leave, and every ring that stands between packets is parked
(17 R446, R447). -/
def State.quiesce (s : State) : State :=
  let s1 := (List.finRange 192).foldl State.withdraw { s with quiescing := true }
  let s2 := s1.ask ((List.finRange 192).filter fun g => s.cores[g].occupant.isSome) .quiesce
  { s2 with rings := s2.rings.map fun r : CmdRing =>
      if !r.rests && (r.st != .active || r.between) then { r with st := .parked, waiting := false } else r }

/-- Firmware releases a quiesced module (15 R399, step 5); it re-arms the rings one by one (17 R447). -/
def State.release (s : State) : State := { s with quiescing := false }

/-- The core of a unit. -/
def unitCore : AgedUnit → Option CoreNo
  | .me g => some g
  | .bank g _ _ => some g
  | .channel _ => none

/-- Every dirty line is written back and every line leaves the caches (15 R399, 19 R482). -/
def State.flushAll (s : State) : State :=
  let s1 := (List.finRange 192).foldl State.flushL1 s
  let s2 := s1.l2.foldl (fun s l => if l.dirty = 0 then s else s.writeBack l.line l.writer l.dirty) s1
  { s2 with l1 := [], l2 := [], forwards := [] }

/-- MARGIN_TEST (11 R300, R302, 15 R398): on a core that holds no instance, or for a channel on a quiesced module whose caches are written
back; at most two rungs at one visit. Otherwise firmware asks for such a core first, while the store has room (16 R433), or
quiesces. -/
def execMarginTest (u : AgedUnit) (fails again : Bool) (s : State) : Outcome State Fault Refusal :=
  let test := fun (s : State) => if fails then (if again then (s.stepUnit u).stepUnit u else s.stepUnit u) else s
  if s.power ≠ .d0 then .next s
  else match unitCore u with
    | some g =>
      let s1 := s.withdraw g
      .next (if s.cores[g].empty then test s else if s1.saveFits g then s1.ask (s1.together g) .service else s)
    | none => .next (if s.quiet then test s.flushAll else s.quiesce)

/-- An assist is abandoned without commit (11 R311): the streams stand as they are until Foxglove has run. -/
def State.abandonAssist (s : State) (g : CoreNo) : State :=
  s.modInst g fun i => { i with assist := i.assist.map fun a => { a with abandoned := true } }

/-- An abandoned assist restarts from its entry: the other streams go on, and its waits are satisfied (11 R306, R311). -/
def State.restartAssist (s : State) (g : CoreNo) : State :=
  match (s.inst g).assist with
  | some a => s.modCore g fun c =>
      { c with inst := { c.inst with assist := some { a with frozen := false, abandoned := false } },
               watchdog := c.watchdog + (Config.clock s.tick - Nat.max a.since c.watchdog) }
  | none => s

/-- Firmware asks for a core on which Foxglove is to run: its bank is cleared and its occupant pre-empted, once an assist has ended
(11 R301, R302). -/
def State.askTest (s : State) (g : CoreNo) : State := (s.withdraw g).ask ((s.withdraw g).together g) .test

/-- FOXGLOVE (11 R301, R302): on a free core, or on a channel; an occupant is pre-empted first. Between an abandoned assist and its
restart the matrix engine is tested where it stands (11 R311; LOG 93). -/
def execFoxglove (u : AgedUnit) (fails : Bool) (s : State) : Outcome State Fault Refusal :=
  if s.power ≠ .d0 then .next s
  else match unitCore u with
    | some g => .next (
        if s.cores[g].empty then s.foxTest u fails
        else if u = .me g ∧ (s.inst g).assist.any (·.abandoned) then (s.foxTest u fails).restartAssist g
        else s.askTest g)
    | none => .next (s.foxTest u fails)

/-- CAPACITY_REDUCTION (15 R399). -/
def execCapacityReduction (ch : Fin 1024) (s : State) : Outcome State Fault Refusal :=
  .next (if s.power = .d0 then s.postReduction ch else s)

/-- A physical address after the end of PA has come down by one channel: the firmware region at the top moves with it, the range below it
that the host unmapped is gone (15 R393, R399; LOG 31). -/
def movedPa (n pa : Nat) : Option Nat :=
  let size := 888 * 2 ^ 20
  let region := n * size - regionSize
  if region ≤ pa then (if pa < size then none else some (pa - size)) else if region - size ≤ pa then none else some pa

/-- The listed entries of a page table whose entry points to the firmware region, and of the tables under it, with the word that points
to where the region then stands; the rest of an entry is kept (16 R413, R414; LOG 31). -/
def State.movedEntries (s : State) (n : Nat) : List (Nat × Nat × Nat) → Nat → List (Nat × Word)
  | [], _ => []
  | (lv, sh, k) :: rest, table =>
    let at' := ((s.mem.filter fun c => decide (table ≤ c.1 ∧ c.1 < table + 8 * 2 ^ k)).map fun c => c.1 / 8 * 8).eraseDups
    at'.flatMap fun a =>
      let w := s.mem.word a
      let fixed := fun pa : Nat => match movedPa n pa with
        | some q => if q = pa then [] else [(a, w - BitVec.ofNat 64 (pa - q))]
        | none => []
      match pteOf s.paTop lv sh w with
      | some (.table pa) => fixed pa ++ s.movedEntries n rest pa
      | some (.leaf pa _ _ _ _) => fixed pa
      | none => []

/-- CHANNEL_RETIRE (15 R399): on a quiesced module, after the host's acknowledgement; every granule keeps its value and state, those of
the channel that cannot be read arrive poisoned. The firmware region comes down, and what points into it with it. -/
def execChannelRetire (ch : Fin 1024) (bad : List Nat) (s : State) : Outcome State Fault Refusal :=
  if s.reduction ≠ some ch ∨ s.power ≠ .d0 then .next s
  else if !s.quiet then .next s.quiesce
  else
    let n := s.liveChannels
    let s1 := s.flushAll
    let lost := (bad.filter fun gr => s.channelOf (gr / 8) == ch.val && decide (32 * gr < s.paTop)).eraseDups
    let s2 := lost.foldl State.poisonGranule s1
    let words := s2.roots.flatMap fun e => s2.movedEntries n pageLevels e.2
    let fixed := words.foldl (fun (m : Bytes) w => m.put w.1 (leBytes 8 w.2.toNat)) s2.mem
    let cells := fixed.filterMap fun c => (movedPa n c.1).map fun a => (a, c.2)
    .next ({ s2 with
      mem := cells,
      poison := s2.poison.filterMap fun e => (movedPa n (32 * e.granule)).map fun a => { e with granule := a / 32 },
      roots := s2.roots.map fun e => (e.1, (movedPa n e.2).getD e.2),
      channels := s2.channels.set ch 2,
      reduction := none,
      notices := s2.notices ++ lost.map fun gr => Notice.error .unattributed (.hbm ch.val) (32 * gr) 1 0xFFFF : State }.writeRecord 2)

-- Errors (15 R401, R402).

/-- An error record: class, unit, first granule, granules, CTX (15 R402). -/
def State.note (s : State) (c : ErrorClass) (u : ErrorUnit) (granule count ctx : Nat) : State :=
  { s with notices := s.notices ++ [.error c u (32 * granule) count ctx] }

/-- The sector of a granule in its line. -/
def sectorOf (gr : Nat) : Nat := gr % 8 / 2

/-- The L1D line of core g with the sector of a granule. -/
def State.l1Sector (s : State) (g : CoreNo) (gr : Nat) : Option L1Line :=
  s.l1.find? fun l => l.core == g && l.line == gr / 8 && l.valid.getLsbD (sectorOf gr)

/-- The L2 line with the sector of a granule. -/
def State.l2Sector (s : State) (gr : Nat) : Option L2Line := s.l2.find? fun l => l.line == gr / 8 && l.valid.getLsbD (sectorOf gr)

/-- The copy of a granule that a cache holds: whether its sector is dirty there, and the last-writer tag of that line (15 R397). -/
def State.cacheCopy (s : State) (gr : Nat) : CacheSite → Option (Bool × Nat)
  | .l1d g => (s.l1Sector g gr).map fun l => (l.dirty.getLsbD (sectorOf gr), l.writer)
  | .l2 => (s.l2Sector gr).map fun l => (l.dirty.getLsbD (sectorOf gr), l.writer)

/-- The dirty L1D line of a granule's sector. -/
def State.dirtyL1 (s : State) (gr : Nat) : Option L1Line := s.l1.find? fun l => l.line == gr / 8 && l.dirty.getLsbD (sectorOf gr)

/-- The dirty L2 line of a granule's sector. -/
def State.dirtyL2 (s : State) (gr : Nat) : Option L2Line := s.l2.find? fun l => l.line == gr / 8 && l.dirty.getLsbD (sectorOf gr)

/-- Whether a granule's sector is dirty in some cache. -/
def State.dirtyLine (s : State) (gr : Nat) : Bool := (s.dirtyL1 gr).isSome || (s.dirtyL2 gr).isSome

/-- Whether a granule's sector stands in some cache. -/
def State.cachedLine (s : State) (gr : Nat) : Bool :=
  s.l1.any (fun l => l.line == gr / 8 && l.valid.getLsbD (sectorOf gr)) || s.l2.any fun l => l.line == gr / 8 && l.valid.getLsbD (sectorOf gr)

/-- The last-writer tag with which a granule comes to HBM: that of the L2 line where it is dirty there, else of the L1D line, else of
the write past the caches that covers it in part (15 R397, Table 15.2). -/
def State.lastWriter (s : State) (gr : Nat) : Nat :=
  match s.dirtyL2 gr with
  | some l => l.writer
  | none => match s.dirtyL1 gr with
    | some l => l.writer
    | none => (s.partials.lookup gr).getD 0xFFFF

/-- A write of part of a granule is on its way to HBM: it is dirty in a cache, or the last write was one past the caches. -/
def State.partWrite (s : State) (gr : Nat) : Bool := s.dirtyLine gr || (s.partials.lookup gr).isSome

/-- The channel of a granule, as a unit. -/
def State.hbmUnit (s : State) (gr : Nat) : ErrorUnit := .hbm (s.channelOf (gr / 8))

/-- The unit in which an error stands: the L1D, the slice that holds the line, which after a migration is not its home, or the
channel (15 R402). -/
def State.unitAt (s : State) (gr : Nat) : Option CacheSite → ErrorUnit
  | some (.l1d g) => .l1d g.val
  | some .l2 => match s.l2Sector gr with
    | some l => .l2 l.slice.val
    | none => .l2 (homeSlice (gr / 8)).val
  | none => s.hbmUnit gr

/-- The dirty sectors of a cache's line are written back. -/
def State.settleLine (s : State) (line : Nat) : CacheSite → State
  | .l1d g => match s.l1.find? fun x => x.core == g && x.line == line with
    | some x => if x.dirty = 0 then s else s.drainL1 g line x.dirty x.writer
    | none => s
  | .l2 => match s.l2.find? fun x => x.line == line with
    | some x => s.writeBack line x.writer x.dirty
    | none => s

/-- The line of a cache goes, its dirty sectors being written back first; it is fetched again at the next access (15 Table 15.2). -/
def State.dropLine (s : State) (line : Nat) (site : CacheSite) : State :=
  let t := s.settleLine line site
  match site with
  | .l1d g => { t with l1 := t.l1.filter fun x => !(x.core == g && x.line == line) }
  | .l2 => { t with l2 := t.l2.filter (fun x => x.line != line), forwards := t.forwards.filter fun f => f.1 != line }

/-- The two granules of a sector poisoned (15 R395). -/
def State.poisonSector (s : State) (gr : Nat) : State := (s.poisonGranule (gr / 2 * 2)).poisonGranule (gr / 2 * 2 + 1)

/-- The granules whose state stands in one metadata granule with that of a granule: 112 in a row within its channel (15 R393,
R401). -/
def State.metadataPeers (s : State) (gr : Nat) : List Nat :=
  let n := Nat.max 1 s.liveChannels
  let k := gr / 8 % n
  let idx := 8 * (gr / 8 / n) + gr % 8
  ((List.range 112).map fun j => idx / 112 * 112 + j).filterMap fun x =>
    if x = idx ∨ 888 * 2 ^ 15 ≤ x then none else some (8 * (x / 8 * n + k) + x % 8)

/-- An error in HBM, or in the copy of a granule that a cache holds (15 R395, R397, R401). -/
def State.memoryError (s : State) (c : ErrorCase) (gr : Nat) : State :=
  let known := fun w : Nat => w != 0xFFFF && (w == 0 || (s.roots.lookup w).isSome)
  let hbm := s.hbmUnit gr
  let w := s.lastWriter gr
  let lost := fun (u : ErrorUnit) w => (s.poisonGranule gr).note .deferred u gr 1 w
  let there : Option CacheSite → Bool := fun site => site.all fun x => (s.cacheCopy gr x).isSome
  match c with
  | .corrected site => if there site then s.note .corrected (s.unitAt gr site) gr 1 0xFFFF else s
  | .miscorrected site bs =>
    if bs.length = 32 ∧ !s.poisoned (32 * gr) 32 ∧ there site then
      { s with mem := s.mem.put (32 * gr) bs }.note .corrected (s.unitAt gr site) gr 1 0xFFFF
    else s
  | .hbmRead => if s.cachedLine gr then s else (s.poisonSector gr).note .unattributed hbm (gr / 2 * 2) 2 0xFFFF
  | .partialMetadata =>
    let l := s.metadataPeers gr
    if s.partWrite gr then
      ((l.foldl State.poisonGranule (s.poisonGranule gr)).note .deferred hbm gr 1 w).note .unattributed hbm (l.headD gr) l.length 0xFFFF
    else s
  | .partialData => if s.partWrite gr then lost hbm w else s
  | .writeBackPoisoned => if s.dirtyLine gr ∧ s.poison.any fun e => e.granule == gr && (e.l2 ||| e.l1) != 0 then lost hbm w else s
  | .dirtyCached site => match s.cacheCopy gr site with
    | some (true, w) => if known w then lost (s.unitAt gr site) w else s
    | _ => s
  | .dirtyCachedUntagged site => match s.cacheCopy gr site with
    | some (true, w) =>
      if known w then s else (s.poisonSector gr).note .unattributed (s.unitAt gr site) (gr / 2 * 2) 2 0xFFFF
    | _ => s
  | .cleanCached site => match s.cacheCopy gr site with
    | some (false, _) => (s.dropLine (gr / 8) site).note .corrected (s.unitAt gr site) gr 1 0xFFFF
    | _ => s
  | .tagParity (.l1d g) =>
    { s with l1 := s.l1.map fun l : L1Line => if l.core = g ∧ l.line = gr / 8 then { l with writer := 0xFFFF } else l }
  | .tagParity .l2 => { s with l2 := s.l2.map fun l : L2Line => if l.line = gr / 8 then { l with writer := 0xFFFF } else l }
  | .spillLine _ => s
  | .assistResource _ => s

/-- ERROR_DETECTED (15 R401, Table 15.2): a spill line of 256 bytes is poisoned whole; an error in a resource of the assists
abandons the assist there, and Foxglove comes next (11 R311; LOG 93). -/
def execErrorDetected (c : ErrorCase) (granule : Nat) (s : State) : Outcome State Fault Refusal :=
  match c with
  | .spillLine g =>
    let i := s.inst g
    if s.cores[g].occupant.isSome ∧ 32 * granule < i.spillLen then
      .next ((s.modInst g fun i => { i with spillBad := granule / 8 :: i.spillBad }).note .deferred (.spill g.val)
        (granule / 8 * 8) 8 (s.ctxOf g))
    else .next s
  | .assistResource g =>
    if (s.inst g).assist.any fun a => a.frozen && !a.abandoned then .next (s.abandonAssist g) else .next s
  | _ => if s.paTop ≤ 32 * granule ∨ s.power ≠ .d0 then .next s else .next (s.memoryError c granule)

-- Power and bring-up (19 R479-R482).

/-- The number at a place of the record of a type in force; 0 where there is none. -/
def Flash.at' (f : Flash) (k : Fin 6) (n : Nat) : Nat := (((f.record k).elim [] (·.body)).drop n).headD 0

/-- A rung as bring-up loads it from its record (19 R477). The record is written before the register, so it is never behind the rung at
which the unit stood: the larger of the two is the record's. -/
def loadRung {n : Nat} [NeZero n] (r : Fin n) (recorded : Nat) : Fin n := Fin.ofNat n (Nat.min (n - 1) (Nat.max r.val recorded))

/-- Banks as bring-up loads them, from a place of the record on. -/
def Flash.banks (f : Flash) (v : Vector (Fin 3) 16) (at' : Nat) : Vector (Fin 3) 16 :=
  Vector.ofFn fun n => loadRung v[n] (f.at' 1 (at' + n.val))

/-- A core as bring-up finds it: its recorded rungs, and nothing else. -/
def Core.boot (c : Core) (f : Flash) (g : CoreNo) : Core :=
  { Core.reset with
    rung := loadRung c.rung (f.at' 0 g.val), bankW := f.banks c.bankW (48 * g.val), bankA := f.banks c.bankA (48 * g.val + 16),
    bankC := f.banks c.bankC (48 * g.val + 32) }

/-- A link as bring-up trains it: at its recorded rung on its intact lanes. -/
def Link.boot (l : Link) (f : Flash) (n : Fin 16) : Link :=
  let v := f.at' 3 n.val
  let x := { Link.reset with
    far := l.far, rung := loadRung l.rung (v % 4), intact := l.intact,
    half := if v / 4 = 1 then some false else if v / 4 = 2 then some true else l.half }
  x.settleRung x.rung.val

/-- The module with everything lost but what flash keeps and what has aged (19 R477, R482): device memory too. What stands outside it, and
its fault signal, stay. -/
def State.bare (s : State) (p : Power) (step : Nat) : State :=
  { State.reset with
    agenda := s.agenda, tick := s.tick, cur := s.cur, cores := Vector.ofFn fun g => s.cores[g].boot s.flash g,
    channels := Vector.ofFn fun n => loadRung s.channels[n] (s.flash.at' 2 n.val), links := Vector.ofFn fun n => s.links[n].boot s.flash n,
    power := p, bringUp := step, flash := s.flash, notices := s.notices, hostEnd := s.hostEnd, port := none, faultSignal := s.faultSignal }

/-- The keys of the module, from its helper data (19 R475); none of them is held anywhere else. -/
def Flash.keys (f : Flash) : Option Keys := f.helper.map Config.rootKeys

/-- Whether the root can derive its keys: the helper data are there, and give the identity key that the certificate names (19 R475). -/
def Flash.rooted (f : Flash) : Bool := f.keys.any fun k => k.identity == f.certificate

/-- Whether the root accepts an image (19 R476): its digest is that of its body, Quamin's signature over the digest verifies, and it is
not below the rollback floor. -/
def Flash.accepts (f : Flash) (i : FirmwareImage) : Bool :=
  Config.sha256 i.code.body == i.code.digest && Config.quaminSigned i.code.digest i.code.signature && decide (f.floor ≤ i.version)

/-- The image slot that the root boots: the valid one with the higher version (19 R476). -/
def Flash.pick (f : Flash) : Option (Fin 2) :=
  let ok := fun k : Fin 2 => f.accepts f.slots[k]
  if ok 0 ∧ (!ok 1 ∨ f.slots[(1 : Fin 2)].version ≤ f.slots[(0 : Fin 2)].version) then some 0 else if ok 1 then some 1 else none

/-- Whether a step of bring-up fails: step 1 without keys (19 R475), step 2 when no slot can be booted (R476), step 6 when the host port
does not train at x4 or more (18 R460); whether another one fails is open (LOG 32). -/
def State.stepFails (s : State) (k : Nat) : Bool :=
  if k = 1 then !s.flash.rooted
  else if k = 2 then s.flash.pick.isNone
  else if k = 6 then (trainPort s.hostEnd).isNone
  else Config.policy s.tick (70 + k)

/-- POWER_ON (19 R479, Table 19.1): the steps in order; one that fails holds the module in reset. -/
def execPowerOn (s : State) : Outcome State Fault Refusal :=
  if s.power = .d0 ∨ s.power = .d3hot then .next s
  else
    let port := trainPort s.hostEnd
    match [1, 2, 3, 4, 5, 6, 7].find? s.stepFails with
    | some k => .next { s.bare .held (k - 1) with
        port := if 7 ≤ k then port else none, faultSignal := false, notices := s.notices ++ [.bringUp k] }
    | none => .next { s.bare .d0 7 with
        port := port, faultSignal := false, flash := { s.flash with running := s.flash.pick.getD s.flash.running },
        notices := s.notices ++ [.ready] }

/-- THERMAL_TRIP (19 R481): every clock stops and the fault signal is asserted; then the module is as at power-off. -/
def execThermalTrip (s : State) : Outcome State Fault Refusal :=
  .next (if s.power = .d3cold then s else { s.bare .tripped 0 with faultSignal := true })

/-- POWER_CAP_SET (19 R481): a cap between 1,500 W and 3,400 W; it changes only time. -/
def execPowerCapSet (watts : Nat) (s : State) : Outcome State Fault Refusal :=
  .next (if 1500 ≤ watts ∧ watts ≤ 3400 then { s with capWatts := watts } else s)

-- Firmware's tables (16 R412, 17 R439).

/-- Firmware sets the root of a context's page tables, or takes the address space away (15 R397, 16 R412, R413). -/
def State.setRoot (s : State) (ctx : Nat) (root : Option Nat) : State :=
  let rest := s.roots.filter fun e => e.1 != ctx
  if 0xFFFE < ctx then s
  else match root with
    | none => { s with roots := rest }
    | some r => if r % 4096 = 0 ∧ r < s.paTop then { s with roots := (ctx, r) :: rest } else s

/-- Firmware writes a ring's grant and descriptor on request of the driver (17 R439, Table 17.1): the ring is IDLE at the RIDX that
its state block holds. Rings 0 to 7 stay firmware's, and a ring keeps its descriptor while it holds a slot (LOG 94). -/
def State.setRing (s : State) (r : Fin 256) (grant : Grant) (base : Word) (logSize : Nat) (stateAddr : Word) (slice : Nat) : State :=
  let ok := 12 ≤ logSize ∧ logSize ≤ 24 ∧ base.toNat % 2 ^ logSize = 0 ∧ stateAddr.toNat % 64 = 0
  let owner := if r.val < 8 then decide (grant = .firmware) else true
  let ctx := match grant with
    | .ctx n => n
    | _ => 0
  if s.rings[r].st = .active ∨ !owner ∨ !decide ok ∨ s.bringUp < 7 then s
  else
    let ridx : Word := match s.readV none ctx (stateAddr.toNat + 8) 8 with
      | .ok bs => BitVec.ofNat 64 (leNat bs)
      | .error _ => s.rings[r].ridx
    { s with rings := s.rings.set r ⟨grant, base, logSize, stateAddr, slice, .idle, ridx, 0, false, false⟩ }

-- Power states.

/-- A ring that has no work pending: parked, or IDLE with WIDX at RIDX (17 Table 17.6). -/
def State.ringDone (s : State) (r : CmdRing) : Bool :=
  r.st == .parked || r.st == .idle && (r.grant == .none || match s.blockWord r 0 with
    | .ok w => w == r.ridx
    | _ => true)

/-- No work is pending on the module (19 R482): no instance is placed and no task tracked, every ring is done, no node has fired, no
decrement or answer is owed, and no message waits. -/
def State.idle (s : State) : Bool :=
  s.cores.toList.all Core.empty && s.tasks.isEmpty && s.rings.toList.all s.ringDone && s.nodes.all (·.stage == .armed) &&
    s.owed.isEmpty && s.outbox.isEmpty && s.links.toList.all fun l => l.inbox.isEmpty && l.pending.isEmpty

/-- D3HOT_ENTRY (19 R482): once no work is pending; the caches are written back first. -/
def execD3hotEntry (s : State) : Outcome State Fault Refusal :=
  .next (if s.power = .d0 ∧ 7 ≤ s.bringUp ∧ s.idle then { s.flushAll with power := .d3hot } else s)

/-- D3HOT_EXIT (19 R482). -/
def execD3hotExit (s : State) : Outcome State Fault Refusal :=
  .next (if s.power = .d3hot then { s with power := .d0 } else s)

/-- D3COLD_ENTRY (19 R482): the main supply is removed, HBM contents are lost. -/
def execD3coldEntry (s : State) : Outcome State Fault Refusal := .next (s.bare .d3cold 0)

-- Attestation and update (19 R478, R483).

/-- The reported capacity in MiB (15 R393). -/
def State.capacity (s : State) : Nat := s.liveChannels * 888 - 2048

/-- A quote (19 R478). -/
def State.quote (s : State) (nonce : BitVec 256) : Notice :=
  let img := s.flash.slots[s.flash.running]
  let key := s.flash.keys.elim 0 (·.attestation)
  .quote nonce (s.cores.toList.map fun c => BitVec.ofNat 16 (capvOf c.rung))
    (s.cores.toList.flatMap fun c => (c.bankW.toList ++ c.bankA.toList ++ c.bankC.toList).map (·.val))
    (s.channels.toList.map (·.val)) (s.links.toList.map (·.rung.val)) ((List.finRange 6).map fun k => (s.flash.record k).elim 0 (·.version))
    s.inService.length s.capacity img.code.digest (Config.primrose img.version) (Config.signature s.tick key nonce)

/-- QUOTE_REQUEST (19 R478). -/
def execQuoteRequest (nonce : BitVec 256) (s : State) : Outcome State Fault Refusal :=
  .next (if s.power = .d0 ∨ s.power = .d3hot then { s with notices := s.notices ++ [s.quote nonce] } else s)

/-- FIRMWARE_UPDATE (19 R483): the slot that is not running; it takes effect at the next reset. -/
def execFirmwareUpdate (version : Nat) (code : SignedBody) (s : State) : Outcome State Fault Refusal :=
  let other : Fin 2 := if s.flash.running = 0 then 1 else 0
  .next (if s.power = .d0 ∨ s.power = .d3hot then { s with flash := { s.flash with slots := s.flash.slots.set other ⟨version, code⟩ } } else s)

/-- Firmware raises the rollback floor, with its record (19 R476, R477; LOG 101). -/
def State.setFloor (s : State) (version : Nat) : State :=
  if s.power ≠ .d0 ∨ version < s.flash.floor then s else { s with flash := { s.flash.write 5 [version] true with floor := version } }

/-- The limits within which firmware sets the margin of its tests, as their record holds them (11 R300, 19 R477). -/
def State.setMargins (s : State) (limits : List Nat) : State :=
  if s.power ≠ .d0 then s else { s with flash := s.flash.write 4 limits true }

/-- Power is lost while a record is written: that copy is bad, and the previous record stays in force (19 R477). -/
def State.tornRecord (s : State) (k : Fin 6) : State :=
  if s.power = .d0 then ({ s with flash := s.flash.write k [] false } : State).bare .d3cold 0 else s

/-- The helper data as on-module flash gives them back: changed by damage, or lost (19 R475). -/
def State.setHelper (s : State) (h : Option Nat) : State := { s with flash := { s.flash with helper := h } }

/-- The report of the management interface (19 R483): temperatures and power, the cores in service, CAPV of every core, the capacity. -/
def State.report (s : State) : State :=
  if s.power = .d0 ∨ s.power = .d3hot then
    { s with notices := s.notices ++ [.report (Config.temperatures s.tick) (Config.watts s.tick) s.inService.length
        (s.cores.toList.map fun c => BitVec.ofNat 16 (capvOf c.rung)) s.capacity] }
  else s

end Sys2Proof.Machine
end

