-- ==== Sys2Proof/Machine/Predicates.lean ====
section
/-! DEFINITION. The exact geometric predicates (07 R217-R221): determinants on integers, and their sign under the symbolic
perturbation, found on polynomials in ε. -/

namespace Sys2Proof.Machine

/-- A polynomial in ε: exponent and coefficient, exponents strictly rising, no coefficient 0. -/
abbrev Poly := List (Nat × Int)

/-- One monomial added. -/
def Poly.insert (t : Nat × Int) : Poly → Poly
  | [] => if t.2 = 0 then [] else [t]
  | u :: rest =>
    if t.1 < u.1 then (if t.2 = 0 then u :: rest else t :: u :: rest)
    else if t.1 = u.1 then (if t.2 + u.2 = 0 then rest else (u.1, t.2 + u.2) :: rest)
    else u :: insert t rest

/-- A sum. -/
def Poly.add (a b : Poly) : Poly := a.foldl (fun p t => p.insert t) b

/-- A product by an integer. -/
def Poly.scale (c : Int) (a : Poly) : Poly := if c = 0 then [] else a.map fun t => (t.1, c * t.2)

/-- A difference. -/
def Poly.sub (a b : Poly) : Poly := Poly.add (Poly.scale (-1) b) a

/-- A product. -/
def Poly.mul (a b : Poly) : Poly :=
  a.foldl (fun p t => Poly.add (b.map fun u => (t.1 + u.1, t.2 * u.2)) p) []

/-- The sign as ε → 0+ (07 R221): that of the coefficient of lowest degree. -/
def Poly.sign (a : Poly) : Int :=
  match a with
  | [] => 0
  | t :: _ => t.2.sign

/-- The constant polynomial. -/
def Poly.const (c : Int) : Poly := if c = 0 then [] else [(0, c)]

/-- A point: its coordinates. -/
abbrev Point := List Poly

/-- The sum of alternating products of a column with its minors. -/
def altSum : Bool → List (Poly × Poly) → Poly
  | _, [] => []
  | neg, (a, m) :: rest => Poly.add (Poly.scale (if neg then -1 else 1) (Poly.mul a m)) (altSum (!neg) rest)

/-- A list without its n-th entry. -/
def dropAt {α : Type} (n : Nat) (l : List α) : List α := l.take n ++ l.drop (n + 1)

/-- A determinant of n rows, expanded along its first column. -/
def det : Nat → List (List Poly) → Poly
  | 0, _ => Poly.const 1
  | n + 1, rows =>
    altSum false ((List.range rows.length).map fun i =>
      ((rows.getD i []).headD [], det n ((dropAt i rows).map fun r => r.tail)))

/-- The coordinates of p - q. -/
def minus (p q : Point) : List Poly := p.zipWith Poly.sub q

/-- A row of vincirc and vinsph: the differences and the sum of their squares (07 Table 7.6). -/
def lifted (p q : Point) : List Poly :=
  let d := minus p q
  d ++ [d.foldl (fun acc x => Poly.add (Poly.mul x x) acc) []]

/-- The point at a place of a list. -/
def pointAt (ps : List Point) (n : Nat) : Point := ps.getD n []

/-- D of vorient2: (bx - ax)(cy - ay) - (by - ay)(cx - ax) (07 Table 7.6). -/
def orient2 (ps : List Point) : Poly :=
  let b := minus (pointAt ps 1) (pointAt ps 0)
  let c := minus (pointAt ps 2) (pointAt ps 0)
  det 2 [b, c]

/-- D of vorient3. -/
def orient3 (ps : List Point) : Poly := det 3 ((ps.take 3).map fun p => minus p (pointAt ps 3))

/-- D of vincirc. -/
def inCircle (ps : List Point) : Poly := det 3 ((ps.take 3).map fun p => lifted p (pointAt ps 3))

/-- D of vinsph. -/
def inSphere (ps : List Point) : Poly := det 4 ((ps.take 4).map fun p => lifted p (pointAt ps 4))

/-- A finite number as an integer multiple of 2^g, where g is at most its exponent. -/
def intAt (g : Int) (x : Num) : Int :=
  match x with
  | .fin n m e => (if n then -1 else 1) * (m * 2 ^ (e - g).toNat : Nat)
  | _ => 0

/-- A common exponent of numbers. -/
def commonExp (l : List Num) : Int :=
  l.foldl (fun g x => match x with
    | .fin _ m e => if m = 0 then g else min g e
    | _ => g) 0

/-- The rank of point n: points in ascending order of their indices, equal indices in operand order (07 R221). -/
def rankOf (idx : List Nat) (n : Nat) : Nat :=
  ((List.range idx.length).filter fun j =>
    decide (idx.getD j 0 < idx.getD n 0 ∨ (idx.getD j 0 = idx.getD n 0 ∧ j < n))).length

/-- The points of an instance, exact. -/
def points (coords : List (List Int)) : List Point := coords.map fun p => p.map Poly.const

/-- The points perturbed: coordinate k of the point of rank r gains ε^(2^(d r + k)), in the coordinates' unit (07 R221). -/
def perturbed (unit : Int) (coords : List (List Int)) (idx : List Nat) : List Point :=
  (List.range coords.length).map fun n =>
    let p := coords.getD n []
    (List.range p.length).map fun k =>
      Poly.add (Poly.const (p.getD k 0)) [(2 ^ (p.length * rankOf idx n + k), unit)]

/-- The sign of D, or of the perturbed D where D is 0 and ties are broken (07 R220, R221). Coordinates are integers in which 1.0
is `unit`. -/
def signOfD (D : List Point → Poly) (unit : Int) (coords : List (List Int)) (idx : Option (List Nat)) : Int :=
  let d := (D (points coords)).sign
  match idx with
  | some ix => if d = 0 then (D (perturbed unit coords ix)).sign else d
  | none => d

/-- OnSeg(p, q, s) (07 R219). -/
def onSeg (p q s : List Int) : Bool :=
  (List.range 2).all fun k =>
    decide (min (q.getD k 0) (s.getD k 0) ≤ p.getD k 0 ∧ p.getD k 0 ≤ max (q.getD k 0) (s.getD k 0))

/-- The class of two closed segments (07 R219). -/
def segClass (unit : Int) (coords : List (List Int)) (idx : Option (List Nat)) : Int :=
  let o := fun p q r => signOfD (fun ps => orient2 [pointAt ps p, pointAt ps q, pointAt ps r]) unit coords idx
  let at' := fun n => coords.getD n []
  let o1 := o 0 1 2
  let o2 := o 0 1 3
  let o3 := o 2 3 0
  let o4 := o 2 3 1
  if 0 < o1 * o2 ∨ 0 < o3 * o4 then 0
  else if o1 ≠ 0 ∧ o2 ≠ 0 ∧ o3 ≠ 0 ∧ o4 ≠ 0 then 1
  else if (o1 == 0 && onSeg (at' 2) (at' 0) (at' 1)) || (o2 == 0 && onSeg (at' 3) (at' 0) (at' 1))
      || (o3 == 0 && onSeg (at' 0) (at' 2) (at' 3)) || (o4 == 0 && onSeg (at' 1) (at' 2) (at' 3)) then 2
  else 0

end Sys2Proof.Machine
end

