-- ==== Sys2Proof/Machine/Transcend.lean ====
section
/-! DEFINITION. Correctly rounded exp, log and erf (07 R212-R214). The exact value is enclosed between two rationals n / 2^p, at
rising p, until both ends round alike (LOG 24). -/

namespace Sys2Proof.Machine

/-- An enclosure lo / 2^p ≤ x ≤ hi / 2^p of a number x ≥ 0. -/
abbrev Span := Nat × Nat

/-- Division rounded up. -/
def cdiv (a b : Nat) : Nat := (a + b - 1) / b

/-- The product of two enclosures. -/
def spanMul (p : Nat) (a b : Span) : Span := (a.1 * b.1 / 2 ^ p, cdiv (a.2 * b.2) (2 ^ p))

/-- The quotient of two enclosures. -/
def spanDiv (p : Nat) (a b : Span) : Span := (a.1 * 2 ^ p / b.2, cdiv (a.2 * 2 ^ p) b.1)

/-- The enclosure of m 2^e. -/
def spanOf (p m : Nat) (e : Int) : Span :=
  let k := e + p
  if 0 ≤ k then (m * 2 ^ k.toNat, m * 2 ^ k.toNat) else (m / 2 ^ (-k).toNat, cdiv m (2 ^ (-k).toNat))

/-- The sum of n terms t, t·r/(a·1 + b), …: term j + 1 is term j times r / (a (j + 1) + b). What is left after the last term is
at most that term, when every further ratio is at most 1/2. -/
def expSeries (p a b : Nat) (r : Span) : Nat → Nat → Span → Span → Span
  | 0, _, t, acc => (acc.1, acc.2 + 2 * t.2)
  | n + 1, j, t, acc =>
    let d := a * (j + 1) + b
    let t1 := (t.1 * r.1 / (2 ^ p * d), cdiv (t.2 * r.2) (2 ^ p * d))
    expSeries p a b r n (j + 1) t1 (acc.1 + t1.1, acc.2 + t1.2)

/-- e^r for 0 ≤ r ≤ 1. -/
def expSmall (p : Nat) (r : Span) : Span :=
  let one := 2 ^ p
  expSeries p 1 0 r p 0 (one, one) (one, one)

/-- Σ z^(2j+1) / (2j+1), j < n, with alternating signs or not: the term z^(2j+1) is carried. -/
def oddSeries (p : Nat) (z2 : Span) : Nat → Nat → Span → Span → Span
  | 0, _, t, acc => (acc.1, acc.2 + 2 * t.2)
  | n + 1, j, t, acc =>
    oddSeries p z2 n (j + 1) (spanMul p t z2) (acc.1 + t.1 / (2 * j + 1), acc.2 + cdiv t.2 (2 * j + 1))

/-- artanh z for 0 ≤ z ≤ 1/2. -/
def artanh (p : Nat) (z : Span) : Span := oddSeries p (spanMul p z z) p 0 z (0, 0)

/-- ln 2 = 2 artanh(1/3). -/
def ln2 (p : Nat) : Span :=
  let t := artanh p (2 ^ p / 3, cdiv (2 ^ p) 3)
  (2 * t.1, 2 * t.2)

/-- arctan(1/k) for k ≥ 2: the positive and the negative terms are summed apart. -/
def arctanInv (p k : Nat) : Span :=
  let z : Span := (2 ^ p / k, cdiv (2 ^ p) k)
  let z2 := spanMul p z z
  let z4 := spanMul p z2 z2
  let rec' := fun (start : Nat) (t0 : Span) =>
    (List.range p).foldl (fun (st : Span × Span) j =>
      let d := 4 * j + start
      (spanMul p st.1 z4, (st.2.1 + st.1.1 / d, st.2.2 + cdiv st.1.2 d))) (t0, (0, 0))
  let pos := rec' 1 z
  let neg := rec' 3 (spanMul p z z2)
  (pos.2.1 - (neg.2.2 + 2 * neg.1.2), pos.2.2 + 2 * pos.1.2 - neg.2.1)

/-- π = 16 arctan(1/5) - 4 arctan(1/239). -/
def piSpan (p : Nat) : Span :=
  let a := arctanInv p 5
  let b := arctanInv p 239
  (16 * a.1 - 4 * b.2, 16 * a.2 - 4 * b.1)

/-- The square root of an enclosure. -/
def spanSqrt (p : Nat) (a : Span) : Span := (isqrt (a.1 * 2 ^ p), isqrt (a.2 * 2 ^ p) + 1)

/-- Rounding of (-1)^neg x 2^q for an irrational x strictly inside a span, when both its ends round alike. -/
def roundSpan (f : Fmt) (md : Rounding) (neg : Bool) (p : Nat) (x : Span) (q : Int) : Option (Nat × Flags) :=
  let lo := roundTo f md neg x.1 (q - p) true
  let hi := roundTo f md neg (x.2 - 1) (q - p) true
  if 2 ^ (f.mbits + 2) ≤ x.1 ∧ x.1 < x.2 ∧ lo = hi then some lo else none

/-- The precisions tried. -/
def precisions : List Nat := [128, 192, 256, 512, 1024, 2048]

/-- The first precision at which both ends round alike decides. -/
def settleAt (f : Fmt) (md : Rounding) (neg : Bool) (x : Nat → Span × Int) : List Nat → Nat × Flags
  | [] => roundTo f md neg (x 4096).1.1 ((x 4096).2 - 4096) true
  | p :: ps =>
    match roundSpan f md neg p (x p).1 (x p).2 with
    | some r => r
    | none => settleAt f md neg x ps

/-- e^x for |x| = m 2^e, as a span and a power of two: x = k ln 2 + r with 0 ≤ r < 1. -/
def expSpan (p : Nat) (neg : Bool) (m : Nat) (e : Int) : Span × Int :=
  let q := p + 64
  let l := ln2 q
  let x := spanOf q m e
  let k := if neg then x.2 / l.1 + 1 else x.1 / l.2
  let r : Span := if neg then (k * l.1 - x.2, k * l.2 - x.1) else (x.1 - k * l.2, x.2 - k * l.1)
  let y := expSmall q r
  ((y.1 / 2 ^ 64, y.2 / 2 ^ 64 + 1), if neg then -(k : Int) else k)

/-- A number just above m 2^e in magnitude, rounded. -/
def above (f : Fmt) (md : Rounding) (neg : Bool) (m : Nat) (e : Int) : Nat × Flags := roundTo f md neg m e true

/-- The encoding of 1. -/
def encOne (f : Fmt) (neg : Bool) : Nat := (roundTo f .rne neg 1 0 false).1

/-- e^x (07 R213, Table 7.4). Beyond 2^11 it lies outside every binade of the format; below 2^-60 it lies between 1 and its
neighbour at 100 bits. -/
def expF (f : Fmt) (md : Rounding) (x : Num) : Nat × Flags :=
  match x with
  | .nan s => nanResult f s
  | .inf n => (if n then 0 else encInf f false, 0)
  | .fin n m e =>
    if m = 0 then (encOne f false, 0)
    else if 11 ≤ floorLog2 m e then above f md false (2 ^ 100) (if n then -5000 else 5000)
    else if floorLog2 m e < -60 then above f md false (if n then 2 ^ 100 - 1 else 2 ^ 100) (-100)
    else settleAt f md false (fun p => expSpan p n m e) precisions

/-- ln(m 2^e) as its sign and a span: the number is y 2^k with 3/4 ≤ y < 3/2, and ln y = 2 artanh((y - 1)/(y + 1)). -/
def logSpan (p m : Nat) (e : Int) : Bool × Span :=
  let q := p + 64
  let b := Nat.log2 m
  let up := 3 * 2 ^ b ≤ 2 * m
  let k : Int := e + b + if up then 1 else 0
  let one := if up then 2 ^ (b + 1) else 2 ^ b
  let above1 := one ≤ m
  let num := if above1 then m - one else one - m
  let z : Span := (num * 2 ^ q / (m + one), cdiv (num * 2 ^ q) (m + one))
  let t := artanh q z
  let t2 : Span := (2 * t.1, 2 * t.2)
  let l := ln2 q
  let kl : Span := (k.natAbs * l.1, k.natAbs * l.2)
  let neg := if k = 0 then !above1 else decide (k < 0)
  let s : Span :=
    if k = 0 then t2
    else if neg = above1 then (kl.1 - t2.2, kl.2 - t2.1) else (kl.1 + t2.1, kl.2 + t2.2)
  (neg, (s.1 / 2 ^ 64, s.2 / 2 ^ 64 + 1))

/-- ln x (07 R213, Table 7.4). -/
def logF (f : Fmt) (md : Rounding) (x : Num) : Nat × Flags :=
  match x with
  | .nan s => nanResult f s
  | .inf n => if n then (cnan f, flagNV) else (encInf f false, 0)
  | .fin n m e =>
    if m = 0 then (encInf f true, flagDZ)
    else if n then (cnan f, flagNV)
    else if e ≤ 0 ∧ m = 2 ^ (-e).toNat then (0, 0)
    else settleAt f md (logSpan 64 m e).1 (fun p => ((logSpan p m e).2, 0)) precisions

/-- erf(x) / |x| for 0 < |x| = m 2^e < 9: 2/√π e^(-x²) Σ 2^j x^(2j) / (1·3·…·(2j+1)). -/
def erfSpan (p m : Nat) (e : Int) : Span :=
  let q := p + 256
  let x2 := spanOf q (m * m) (2 * e)
  let one := 2 ^ q
  let s := expSeries q 2 1 (2 * x2.1, 2 * x2.2) (q + 200) 0 (one, one) (one, one)
  let k := x2.1 / one
  let r : Span := (x2.1 - k * one, x2.2 - k * one)
  let e1 := expSmall q (one, one)
  let ex := spanMul q ((List.replicate k e1).foldl (spanMul q) (one, one)) (expSmall q r)
  let c := spanDiv q (2 * one, 2 * one) (spanSqrt q (piSpan q))
  let y := spanMul q c (spanDiv q s ex)
  (y.1 / 2 ^ 256, y.2 / 2 ^ 256 + 1)

/-- erf x (07 R213, Table 7.4). From 9 up it lies between 1 and its neighbour at 100 bits. -/
def erfF (f : Fmt) (md : Rounding) (x : Num) : Nat × Flags :=
  match x with
  | .nan s => nanResult f s
  | .inf n => (encOne f n, 0)
  | .fin n m e =>
    if m = 0 then (n.toNat * 2 ^ (f.ebits + f.mbits), 0)
    else if 9 * 2 ^ (-e).toNat ≤ m * 2 ^ e.toNat then above f md n (2 ^ 100 - 1) (-100)
    else settleAt f md n (fun p =>
      let y := erfSpan p m e
      ((m * y.1, m * y.2), e)) precisions

end Sys2Proof.Machine
end

