-- ==== Sys2Proof/Machine/Holly.lean ====
section
/-! DEFINITION. Hollyhock (07): the issue of its eight instructions, and the step at which the instruction in flight retires or
traps. -/

namespace Sys2Proof.Machine

open Host

/-- The issue of a Hollyhock instruction (07 R202, R204, R224): its checks, its waits, its token and its sources; it is then in
flight. -/
def hollyIssue (s : State) (tk : Tok) (d : VReg) (k : KReg) (read pops : List VReg) (me : Instr) : Outcome State Fault Refusal :=
  let g := s.cur.core
  let i := s.inst g
  let prep : Res Unit := do
    vOperandChecks pops (some d)
    check i.condA.isEmpty .queueProtocol 28
    need (pops.all i.vReadable && i.vHasRoom d)
  match prep with
  | .error e => engineRun s tk [] [] false (.error e)
  | .ok _ =>
    if !s.tokReady tk then .next s
    else
      let popped := (pops.eraseDups.filter isVq).map fun r => (r, i.readV r)
      let f : InFlight := ⟨me, s.cur.pc, s.cur.word, s.cur.stamp, read.map i.readV, i.mask k, i.sys.fmode, popped⟩
      let t := s.modInst g fun j =>
        { (j.moveTokens (if tk.tw then [defaultIn .ve] else []) []).popVs pops with hollyhock := some f }
      .next (if popped.isEmpty then t else t.sink g)

/-- n registers from one up, all of them plain registers (07 R217). -/
def block (b : VReg) (n : Nat) : List VReg := (List.range n).map fun j => Fin.ofNat 32 (b.val + j)

/-- A predicate's issue (07 R217): its coordinate block, and with ties its index block. -/
def hollyPredicate (s : State) (tk : Tok) (d a b : VReg) (t : Bool) (k : KReg) (coords indexes : Nat) (me : Instr) :
    Outcome State Fault Refusal :=
  hollyIssue s tk d k (block a coords ++ if t then block b indexes else []) [] me

/-- vexp (07 R212). -/
def execVexp (tk : Tok) (d a : VReg) (r : Rounding) (f : HFmt) (k : KReg) (s : State) :=
  hollyIssue s tk d k [a] [a] (.vexp tk d a r f k)
/-- vlog (07 R212). -/
def execVlog (tk : Tok) (d a : VReg) (r : Rounding) (f : HFmt) (k : KReg) (s : State) :=
  hollyIssue s tk d k [a] [a] (.vlog tk d a r f k)
/-- verf (07 R212). -/
def execVerf (tk : Tok) (d a : VReg) (r : Rounding) (f : HFmt) (k : KReg) (s : State) :=
  hollyIssue s tk d k [a] [a] (.verf tk d a r f k)
/-- vorient2 (07 R216). -/
def execVorient2 (tk : Tok) (d a b : VReg) (t q : Bool) (f : HFmt) (k : KReg) (s : State) :=
  hollyPredicate s tk d a b t k 6 3 (.vorient2 tk d a b t q f k)
/-- vorient3 (07 R216). -/
def execVorient3 (tk : Tok) (d a b : VReg) (t q : Bool) (f : HFmt) (k : KReg) (s : State) :=
  hollyPredicate s tk d a b t k 12 4 (.vorient3 tk d a b t q f k)
/-- vincirc (07 R216). -/
def execVincirc (tk : Tok) (d a b : VReg) (t q : Bool) (f : HFmt) (k : KReg) (s : State) :=
  hollyPredicate s tk d a b t k 8 4 (.vincirc tk d a b t q f k)
/-- vinsph (07 R216). -/
def execVinsph (tk : Tok) (d a b : VReg) (t q : Bool) (f : HFmt) (k : KReg) (s : State) :=
  hollyPredicate s tk d a b t k 15 5 (.vinsph tk d a b t q f k)
/-- vsegx (07 R216). -/
def execVsegx (tk : Tok) (d a b : VReg) (t q : Bool) (f : HFmt) (k : KReg) (s : State) :=
  hollyPredicate s tk d a b t k 8 4 (.vsegx tk d a b t q f k)

/-- What the instruction in flight will do: its token, its destination, its placement, result and flags by element, and whether
a raised NV traps whatever FMODE holds (07 R223). -/
structure Settled where
  tk : Tok
  d : VReg
  w : Elem
  res : Nat → Nat × Flags
  force : Bool

/-- The coordinates of an instance: n registers of FP32 or FP64 from the first, as numbers. -/
def InFlight.coords (x : InFlight) (f : HFmt) (n e : Nat) : List Num :=
  (x.srcs.take n).map fun v => decodeF (HFmt.fmt f) (elemAt (elemH f) v e)

/-- The points of an instance as integers of one scale, np points of d coordinates. -/
def scaled (g : Int) (l : List Num) (d np : Nat) : List (List Int) :=
  (List.range np).map fun p => (List.range d).map fun k => intAt g (l.getD (d * p + k) (.fin false 0 0))

/-- The result of a predicate on element e: its sign or class, or the mark of a non-finite instance with NV (07 R218-R223). -/
def InFlight.predicate (x : InFlight) (f : HFmt) (tie : Bool) (d np mark : Nat)
    (sign : Int → List (List Int) → Option (List Nat) → Int) (e : Nat) : Nat × Flags :=
  let cs := x.coords f (d * np) e
  let w := elemH f
  if cs.all Num.isFin then
    let idx := (x.srcs.drop (d * np)).map fun v => elemAt w v e
    ((sign (2 ^ (-commonExp cs).toNat) (scaled (commonExp cs) cs d np) (if tie then some idx else none) % 2 ^ w.bits).toNat, 0)
  else (mark, flagNV)

/-- The outcome of the instruction in flight, element by element (07 R213, R214, R218-R223). -/
def InFlight.settled (x : InFlight) : Option Settled :=
  let fn := fun (tk : Tok) (d : VReg) (r : Rounding) (f : HFmt) (op : Fmt → Rounding → Num → Nat × Flags) =>
    some (⟨tk, d, elemH f, fun e =>
      op (HFmt.fmt f) (modeOf r x.fmode) (decodeF (HFmt.fmt f) (elemAt (elemH f) (x.srcs.headD zeroLanes) e)), false⟩ : Settled)
  let pr := fun (tk : Tok) (d : VReg) (t q : Bool) (f : HFmt) (dim np mark : Nat) sign =>
    some (⟨tk, d, elemH f, x.predicate f t dim np mark sign, !q⟩ : Settled)
  match x.instr with
  | .vexp tk d _ r f _ => fn tk d r f expF
  | .vlog tk d _ r f _ => fn tk d r f logF
  | .verf tk d _ r f _ => fn tk d r f erfF
  | .vorient2 tk d _ _ t q f _ => pr tk d t q f 2 3 2 (signOfD orient2)
  | .vorient3 tk d _ _ t q f _ => pr tk d t q f 3 4 2 (signOfD orient3)
  | .vincirc tk d _ _ t q f _ => pr tk d t q f 2 4 2 (signOfD inCircle)
  | .vinsph tk d _ _ t q f _ => pr tk d t q f 3 5 2 (signOfD inSphere)
  | .vsegx tk d _ _ t q f _ => pr tk d t q f 2 4 3 segClass
  | _ => none

/-- The instance after the instruction in flight has trapped: its token and its pops are back (05 R151); a queue that has been filled
again meanwhile holds one entry more than its depth (LOG 40). -/
def Inst.dropHolly (i : Inst) (x : InFlight) (tw : Bool) : Inst :=
  let i1 := { i with hollyhock := none }.moveTokens [] (if tw then [defaultIn .ve] else [])
  x.popped.foldl (fun j e => match vqNo e.1 with
    | some q => { j with vq := j.vq.set q (e.2 :: j.vq[q]) }
    | none => j) i1

/-- HOLLYHOCK_SETTLE (07 R206-R215, R223): the last element is settled, and the instruction retires or traps. -/
def execHollyhockSettle (g : CoreNo) (s : State) : Outcome State Fault Refusal :=
  match (s.inst g).hollyhock with
  | none => .next s
  | some x =>
    match x.settled with
    | none => .next s
    | some y =>
      let t := { s with cur := ⟨g, .ve, x.pc, x.word, 0, x.stamp, false⟩ }
      let on := active y.w x.mask
      let fl := fun l => if on l then (y.res l).2 else 0
      match fpxOf (if y.force then x.fmode ||| 0x100 else x.fmode) fl with
      | some m => .next ((t.modInst g fun i => i.dropHolly x y.tk.tw).raiseFpx fl m.1 m.2)
      | none =>
        let u := t.modInst g fun i =>
          ({ i with hollyhock := none }.raiseFlags fl).writeV y.d (setElems y.w (i.oldV y.d) on fun e => (y.res e).1)
        let v := if isVq y.d then u.sink g else u
        .next (v.retireWord [] (if y.tk.ts then [defaultOut .ve] else []))

end Sys2Proof.Machine
end

