-- ==== Sys2Proof/Machine/VecData.lean ====
section
/-! DEFINITION. Block-scale quantisation (06 R178, R179), exact accumulators (06 R180-R182), lane moves (06 R183, R184) and
reductions (01 R42, 06 R185, R186). -/

namespace Sys2Proof.Machine

open Host

/-- The format of an element type of vqnt. -/
def qntFmt : QntType → Fmt
  | .e4 => fmtE4M3
  | .e5 => fmtE5M2
  | .e2 => fmtE2M1

/-- emax of an element type (06 R178). -/
def qntEmax : QntType → Int
  | .e4 => 8
  | .e5 => 15
  | .e2 => 2

/-- One block of 32 FP32 encodings, each with whether it takes part: the elements with their flags, and the scale (06 R178). -/
def quantBlock (t : QntType) (md : Rounding) (xs : List (Nat × Bool)) : List (Nat × Flags) × Nat :=
  let vs := xs.map fun x => (decodeF fmtF32 x.1, x.2)
  if vs.any fun v => v.2 && !v.1.isFin then (vs.map fun v => (0, flagIf (v.2 && v.1.snan) flagNV), 0xFF)
  else
    let logs := vs.filterMap fun v => match v.1 with
      | .fin _ m e => if v.2 && m != 0 then some (floorLog2 m e) else none
      | _ => none
    let e : Int := match logs with
      | [] => -127
      | l :: rest => max (rest.foldl max l - qntEmax t) (-127)
    let f := qntFmt t
    (vs.map fun v => match v with
      | (.fin n m x, true) =>
        let r := roundTo f md n m (x - e) false
        (if t == .e5 && (r.1 == encInf f false || r.1 == encInf f true) then encMax f n else r.1, r.2)
      | _ => (0, 0), (e + 127).toNat)

/-- The first n elements of a list, and so on: the list cut into k pieces of n. -/
def chunks {α : Type} (n : Nat) : Nat → List α → List (List α)
  | 0, _ => []
  | k + 1, l => l.take n :: chunks n k (l.drop n)

/-- Elements of an element type packed into bytes (01 R16). -/
def packQnt (t : QntType) (q : List Nat) : List Byte :=
  match t with
  | .e2 => (chunks 2 (q.length / 2) q).map fun p => BitVec.ofNat 8 (p.getD 0 0 + 16 * p.getD 1 0)
  | _ => q.map (BitVec.ofNat 8)

/-- vqnt (06 R178, R179): it writes every byte of vD. -/
def execVqnt (tk : Tok) (d a : VReg) (r : Rounding) (t : QntType) (k : KReg) (s : State) :=
  vecRun s tk [a] (some d) false (.ok ()) fun i vs _ =>
    let m := i.mask k
    let xs := (List.range 512).map fun n => (laneAt (vs.getD 0 zeroLanes) n, m.getLsbD n)
    let bs := (chunks 32 16 xs).map (quantBlock t (modeOf r i.sys.fmode))
    let es := bs.flatMap (·.1)
    let q := packQnt t (es.map (·.1))
    let img := q ++ List.replicate (1024 - q.length) 0 ++ bs.map (fun b => BitVec.ofNat 8 b.2)
    .ok ⟨lanesOf img, some fun l => ((es[l]?).map (·.2)).getD 0, id⟩

-- Exact accumulators (06 R180).

/-- S(p) of the quad based at register n. -/
def Inst.quad (i : Inst) (n p : Nat) : Int :=
  let part := fun j => if h : n + j < 24 then laneAt i.v[n + j] p else 0
  intOf true 128 (part 0 + part 1 * 2 ^ 32 + part 2 * 2 ^ 64 + part 3 * 2 ^ 96)

/-- A quad with some of its accumulators replaced. -/
def Inst.setQuad (i : Inst) (n : Nat) (on : Nat → Bool) (val : Nat → Int) : Inst :=
  { i with v := Vector.ofFn fun r : Fin 24 =>
      if n ≤ r.val ∧ r.val < n + 4 then setElems .e32 i.v[r] on fun p => twos 128 (val p) / 2 ^ (32 * (r.val - n))
      else i.v[r] }

/-- Element n as a number: exact for integers (06 R181). -/
def fixNum (f : FixFmt) (x : Nat) : Num :=
  let ofInt := fun w => let v := intOf true w x; Num.fin (decide (v < 0)) v.natAbs 0
  match f with
  | .f32 => decodeF fmtF32 x
  | .f64 => decodeF fmtF64 x
  | .i32 => ofInt 32
  | .i64 => ofInt 64

/-- One addition of vxacc: the new S, or none where it is unchanged, and the flags (06 R181). -/
def accStep (acc : Int) (x : Num) (g : Int) : Option Int × Flags :=
  match x with
  | .fin n m e =>
    let u := truncUnits n m e g
    let sum := acc + u.1
    let wrapped := decide (sum < -2 ^ 127 ∨ 2 ^ 127 ≤ sum)
    (some (intOf true 128 (twos 128 sum)), flagIf u.2 flagNX ||| flagIf wrapped flagOF)
  | _ => (none, flagNV)

/-- vxacc (06 R181). -/
def execVxacc (tk : Tok) (d a b : VReg) (f : FixFmt) (k : KReg) (s : State) :=
  vecRun s tk [a, b] none false (.ok ()) fun i vs _ =>
    let on := active (elemX f) (i.mask k)
    let step := fun n => accStep (i.quad d.val n) (fixNum f (elemAt (elemX f) (vs.getD 0 zeroLanes) n))
      (intOf true 32 (laneAt (vs.getD 1 zeroLanes) n))
    .ok ⟨zeroLanes, some fun l => if on l then (step l).2 else 0, fun t => t.modInst s.cur.core fun j =>
      j.setQuad d.val (fun n => on n && (step n).1.isSome) fun n => ((step n).1).getD 0⟩

/-- The rounding of an accumulator (06 R182). -/
def accRound (f : Fmt) (md : Rounding) (acc g : Int) : Nat × Flags :=
  if acc = 0 then ((md == .rdn).toNat * 2 ^ (f.ebits + f.mbits), 0) else roundTo f md (decide (acc < 0)) acc.natAbs g false

/-- vxrnd (06 R182). -/
def execVxrnd (tk : Tok) (d a b : VReg) (r : Rounding) (f : HFmt) (k : KReg) (s : State) :=
  vecRun s tk [b] (some d) false (.ok ()) fun i vs old =>
    let on := active (elemH f) (i.mask k)
    let res := fun n => accRound (HFmt.fmt f) (modeOf r i.sys.fmode) (i.quad a.val n)
      (intOf true 32 (laneAt (vs.getD 0 zeroLanes) n))
    .ok ⟨setElems (elemH f) old on fun n => (res n).1, some fun l => if on l then (res l).2 else 0, id⟩

-- Lane moves (06 Table 6.7).

/-- vmov (06 R183). -/
def execVmov (tk : Tok) (d a : VReg) (f : LaneW) (k : KReg) (s : State) :=
  vecMove s tk [a] d k (elemW f) fun _ vs n => elemAt (elemW f) (vs.getD 0 zeroLanes) n

/-- vsel (06 R183): the mask selects and does not enable. -/
def execVsel (tk : Tok) (d a b : VReg) (f : LaneW) (k : KReg) (s : State) :=
  vecMove s tk [a, b] d 0 (elemW f) fun i vs n =>
    elemAt (elemW f) (vs.getD (if (i.mask k).getLsbD n then 0 else 1) zeroLanes) n

/-- vperm (06 R183). -/
def execVperm (tk : Tok) (d a b : VReg) (f : LaneW) (k : KReg) (s : State) :=
  vecMove s tk [a, b] d k (elemW f) fun _ vs n =>
    elemAt (elemW f) (vs.getD 0 zeroLanes) (elemAt (elemW f) (vs.getD 1 zeroLanes) n % 2 ^ 32 % (elemW f).count)

/-- viota (06 R183). -/
def execViota (tk : Tok) (d : VReg) (f : FixFmt) (k : KReg) (s : State) := vecMove s tk [] d k (elemX f) fun _ _ n => n

/-- vbcast (06 R183, R184). -/
def execVbcast (tk : Tok) (d a : VReg) (l : Fin 512) (x : LaneW) (k : KReg) (s : State) :=
  vecMove s tk [a] d k (elemW x) fun _ vs _ => elemAt (elemW x) (vs.getD 0 zeroLanes) l.val

/-- vslide (06 R183, R184). -/
def execVslide (tk : Tok) (d a b : VReg) (n : Fin 64) (k : KReg) (s : State) :=
  vecMove s tk [a, b] d k .e32 fun _ vs j =>
    let p := j + n.val
    if p < 512 then laneAt (vs.getD 0 zeroLanes) p else laneAt (vs.getD 1 zeroLanes) (p - 512)

-- Reductions.

/-- A reduction: the result goes to every element of vD, whatever the mask, and its flags to lane 0 (06 R185, R186). -/
def vecReduce (s : State) (tk : Tok) (d a : VReg) (k : KReg) (w : Elem) (fp : Bool)
    (red : Inst → List (Option Nat) → Nat × Flags) : Outcome State Fault Refusal :=
  vecRun s tk [a] (some d) false (.ok ()) fun i vs old =>
    let m := i.mask k
    let xs := (List.range w.count).map fun n => if m.getLsbD n then some (elemAt w (vs.getD 0 zeroLanes) n) else none
    let r := red i xs
    .ok ⟨setElems w old (fun n => decide (n < w.count)) fun _ => r.1,
      if fp then some fun l => if l = 0 then r.2 else 0 else none, id⟩

/-- Two lanes of the reduction tree (01 R42): an absent lane is no zero. -/
def sumPair (f : Fmt) (md : Rounding) (x y : Option Nat) : Option Nat × Flags :=
  match x, y with
  | none, y => (y, 0)
  | some a, none => (some a, 0)
  | some a, some b =>
    let r := fAdd f md (decodeF f a) (decodeF f b)
    (some r.1, r.2)

/-- The pairwise tree of 01 R42: the first number bounds its levels. -/
def sumTree (f : Fmt) (md : Rounding) : Nat → List (Option Nat) → Flags → Option Nat × Flags
  | 0, xs, fl => (xs.headD none, fl)
  | n + 1, xs, fl =>
    if xs.length ≤ 1 then (xs.headD none, fl)
    else
      let h := xs.length / 2
      let rs := ((xs.take h).zip (xs.drop h)).map fun p => sumPair f md p.1 p.2
      sumTree f md n (rs.map (·.1)) (rs.foldl (fun u r => u ||| r.2) fl)

/-- vredsum (01 R42, 06 R185). A lone active NaN, which no step of the tree adds, is delivered canonical too, without a flag (LOG
52). -/
def execVredsum (tk : Tok) (d a : VReg) (r : Rounding) (f : HFmt) (k : KReg) (s : State) :=
  vecReduce s tk d a k (elemH f) true fun i xs =>
    let t := sumTree (HFmt.fmt f) (modeOf r i.sys.fmode) 9 xs 0
    (canonical (HFmt.fmt f) (t.1.getD 0), t.2)

/-- A format code of vredmin and vredmax as a floating-point format. -/
def redFp : RedFmt → Option Fmt
  | .f32 => some fmtF32
  | .f64 => some fmtF64
  | _ => none

/-- Placement of a format of vredmin and vredmax. -/
def elemR : RedFmt → Elem
  | .f64 | .i64 => .e64
  | _ => .e32

/-- The order-free minimum or maximum (06 Table 6.8). -/
def redMinMax (f : RedFmt) (isMax : Bool) (xs : List Nat) : Nat × Flags :=
  let w := (elemR f).bits
  match redFp f with
  | some fm =>
    match xs with
    | [] => (encInf fm isMax, 0)
    | x :: _ => xs.foldl (fun r y =>
        let t := fMinMax fm isMax r.1 y
        (t.1, r.2 ||| t.2)) (x, 0)
  | none =>
    let signed := f != .u32
    let rg := intRange signed w
    match xs with
    | [] => (twos w (if isMax then rg.1 else rg.2), 0)
    | x :: rest => (rest.foldl (pickI signed isMax w) x, 0)

/-- vredmin (06 R186). -/
def execVredmin (tk : Tok) (d a : VReg) (f : RedFmt) (k : KReg) (s : State) :=
  vecReduce s tk d a k (elemR f) (redFp f).isSome fun _ xs => redMinMax f false (xs.filterMap id)
/-- vredmax (06 R186). -/
def execVredmax (tk : Tok) (d a : VReg) (f : RedFmt) (k : KReg) (s : State) :=
  vecReduce s tk d a k (elemR f) (redFp f).isSome fun _ xs => redMinMax f true (xs.filterMap id)
/-- viredsum (06 R186). -/
def execViredsum (tk : Tok) (d a : VReg) (f : IntFmt) (k : KReg) (s : State) :=
  vecReduce s tk d a k (elemI f) false fun _ xs => ((xs.filterMap id).sum % 2 ^ (elemI f).bits, 0)

end Sys2Proof.Machine
end

