-- ==== Sys2Proof/Machine/VecMem.lean ====
section
/-! DEFINITION. Vector memory access (06 R187-R190), masks (06 R175), flag instructions (06 R194, R195), conditional streams (06
R196-R198) and the stream control of the vector engine (06 R200). -/

namespace Sys2Proof.Machine

open Host

/-- The size of an element of a format code in bytes (06 R187). -/
def elemBytes (f : VFmt) : Nat := (elemV f).bits / 8

/-- Doubleword 0 of a vector (06 R187). -/
def dword0 (v : Lanes) : Word := BitVec.ofNat 64 (elemAt .e64 v 0)

/-- Lane n as a sign-extended INT32. -/
def laneOffset (v : Lanes) (n : Nat) : Word := (BitVec.ofNat 32 (laneAt v n)).signExtend 64

/-- The translations of the active elements in ascending order, or the first failed check (06 R188). -/
def State.elemAddrs (s : State) (g : CoreNo) (n : Nat) (w : Need) : List (Nat × Word) → Res (List (Nat × Word × Nat))
  | [] => .ok []
  | (i, ea) :: rest =>
    match s.scalarAddr g ea n w with
    | .error e => .error e
    | .ok pa => (s.elemAddrs g n w rest).map fun l => (i, ea, pa) :: l

/-- The caches after the accesses of the elements of a vector instruction, one after another; an element in a sector that an earlier one
touched finds it there (13 R356, R357). -/
def State.noteElems (s : State) (g : CoreNo) (d : Fin 8) (write : Bool) (n : Nat) : List (Nat × Nat) → List Nat → State
  | [], _ => s
  | (va, pa) :: rest, seen =>
    if seen.contains (pa / 64) then s.noteElems g d write n rest seen
    else (s.noteAccess true g va pa n d write).noteElems g d write n rest (pa / 64 :: seen)

/-- The value of element e of a load: the one that the word has read ahead, or else what stands there now (06 R189, R193). -/
def Inst.elemRead (i : Inst) (e now : Nat) : Nat := (i.doneVe.reads.lookup e).getD now

/-- A vector load (06 R187, R188): srcs hold the base first, then stride or offsets. -/
def vecLoad (s : State) (tk : Tok) (d : VReg) (srcs : List VReg) (c : Fin 8) (f : VFmt) (k : KReg)
    (addr : List Lanes → Nat → Word) : Outcome State Fault Refusal :=
  let g := s.cur.core
  let n := elemBytes f
  vecRun s tk srcs (some d) (srcs.any isVq) (.ok ()) fun i vs old =>
    let m := i.mask k
    (s.elemAddrs g n .read ((actives (elemV f) m).map fun e => (e, addr vs e))).map fun l =>
      ⟨setElems (elemV f) old (active (elemV f) m) fun e =>
          match l.find? fun x => x.1 == e with
          | some x => i.elemRead e (leNat (s.mem.read x.2.2 n))
          | none => 0,
        none, fun t => t.noteElems g c false n (l.map fun x => (x.2.1.toNat, x.2.2)) []⟩

/-- Some words of a tile of an instance written, where the tile has them. -/
def Inst.putWords (i : Inst) (t : TReg) (ws : List (Nat × Nat × Word32)) : Inst :=
  { i with tiles := i.tiles.set t (i.tiles[t].map fun (x : Tile) =>
      { x with rows := ws.foldl (fun (l : List Row) (w : Nat × Nat × Word32) =>
          l.modify w.1 fun (r : Row) => if h : w.2.1 < 64 then r.set w.2.1 w.2.2 else r) x.rows }) }

/-- A write of an element, without its access to the caches. -/
def State.putElem (s : State) (g : CoreNo) (e : ElemStore) : State :=
  match e with
  | .mem _ pa bs => s.physWriteIn true pa bs
  | .tile t ws => s.modInst g fun i => i.putWords t ws

/-- The addresses of the element writes that go to memory. -/
def storeAddrs (l : List ElemStore) : List (Nat × Nat) :=
  l.filterMap fun e => match e with
    | .mem va pa _ => some (va, pa)
    | .tile _ _ => none

/-- The element writes of a vector store, in ascending order of the elements, or the first failed check (06 R187, R188). -/
def State.storeElems (s : State) (g : CoreNo) (f : VFmt) (m : Mask) (addr : Nat → Word) (data : Lanes) : Res (List ElemStore) :=
  (s.elemAddrs g (elemBytes f) .write ((actives (elemV f) m).map fun e => (e, addr e))).map fun l =>
    l.map fun x => .mem x.2.1.toNat x.2.2 (leBytes (elemBytes f) (elemAt (elemV f) data x.1))

/-- What is left of the element writes of a word of which some are performed; else all of them (06 R189, R193). A word of which one is
performed is past its checks. -/
def Inst.writesLeft (i : Inst) (all : Res (List ElemStore)) : Res (List ElemStore) :=
  match i.doneVe.writes with
  | some l => .ok l
  | none => all

/-- A vector store (06 R187-R189): a later element stays where two have one address; a sink event (05 R157). -/
def vecStore (s : State) (tk : Tok) (d : VReg) (srcs : List VReg) (c : Fin 8) (f : VFmt) (k : KReg)
    (addr : List Lanes → Nat → Word) : Outcome State Fault Refusal :=
  let g := s.cur.core
  vecRun s tk (srcs ++ [d]) none (srcs.any isVq) (.ok ()) fun i vs _ =>
    (i.writesLeft (s.storeElems g f (i.mask k) (addr vs) (vs.getD srcs.length zeroLanes))).map fun l =>
      ⟨zeroLanes, none, fun t =>
        ((l.foldl (fun u e => u.putElem g e) t).noteElems g c true (elemBytes f) (storeAddrs l) []).sink g⟩

/-- The address of element e of vld and vst. -/
def unitAddr (f : VFmt) (vs : List Lanes) (e : Nat) : Word := dword0 (vs.getD 0 zeroLanes) + BitVec.ofNat 64 (e * elemBytes f)
/-- The address of element e of vlds and vsts: the stride is doubleword 0 of vB. -/
def strideAddr (vs : List Lanes) (e : Nat) : Word :=
  dword0 (vs.getD 0 zeroLanes) + BitVec.ofNat 64 e * dword0 (vs.getD 1 zeroLanes)
/-- The address of element e of vgath and vscat. -/
def gatherAddr (vs : List Lanes) (e : Nat) : Word := dword0 (vs.getD 0 zeroLanes) + laneOffset (vs.getD 1 zeroLanes) e

/-- vld (06 Table 6.9). -/
def execVld (tk : Tok) (d a : VReg) (c : Fin 8) (f : VFmt) (k : KReg) (s : State) := vecLoad s tk d [a] c f k (unitAddr f)
/-- vst (06 Table 6.9). -/
def execVst (tk : Tok) (d a : VReg) (c : Fin 8) (f : VFmt) (k : KReg) (s : State) := vecStore s tk d [a] c f k (unitAddr f)
/-- vlds (06 Table 6.9). -/
def execVlds (tk : Tok) (d a b : VReg) (c : Fin 8) (f : VFmt) (k : KReg) (s : State) := vecLoad s tk d [a, b] c f k strideAddr
/-- vsts (06 Table 6.9). -/
def execVsts (tk : Tok) (d a b : VReg) (c : Fin 8) (f : VFmt) (k : KReg) (s : State) := vecStore s tk d [a, b] c f k strideAddr
/-- vgath (06 Table 6.9). -/
def execVgath (tk : Tok) (d a b : VReg) (c : Fin 8) (f : VFmt) (k : KReg) (s : State) := vecLoad s tk d [a, b] c f k gatherAddr
/-- vscat (06 Table 6.9). -/
def execVscat (tk : Tok) (d a b : VReg) (c : Fin 8) (f : VFmt) (k : KReg) (s : State) := vecStore s tk d [a, b] c f k gatherAddr

-- Masks (06 Table 6.6).

/-- An operation on two masks, bit by bit. -/
def maskOp (s : State) (tk : Tok) (d a b k : KReg) (op : Bool → Bool → Bool) : Outcome State Fault Refusal :=
  vecToMask s tk [] d k .e32 false fun i _ n => (op ((i.mask a).getLsbD n) ((i.mask b).getLsbD n), 0)

/-- vmsk.and (06 R175). -/
def execVmskAnd (tk : Tok) (d a b k : KReg) (s : State) := maskOp s tk d a b k fun x y => x && y
/-- vmsk.or (06 R175). -/
def execVmskOr (tk : Tok) (d a b k : KReg) (s : State) := maskOp s tk d a b k fun x y => x || y
/-- vmsk.xor (06 R175). -/
def execVmskXor (tk : Tok) (d a b k : KReg) (s : State) := maskOp s tk d a b k fun x y => x != y
/-- vmsk.andn (06 R175). -/
def execVmskAndn (tk : Tok) (d a b k : KReg) (s : State) := maskOp s tk d a b k fun x y => x && !y
/-- vmsk.fromv (06 R175). -/
def execVmskFromv (tk : Tok) (d : KReg) (a : VReg) (k : KReg) (s : State) :=
  vecToMask s tk [a] d k .e32 false fun _ vs n => (laneAt (vs.getD 0 zeroLanes) n % 2 == 1, 0)
/-- vmsk.tov (06 R175). -/
def execVmskTov (tk : Tok) (d : VReg) (a k : KReg) (s : State) :=
  vecMove s tk [] d k .e32 fun i _ n => ((i.mask a).getLsbD n).toNat
/-- vmsk.cnt (06 R175). -/
def execVmskCnt (tk : Tok) (d : VReg) (a k : KReg) (s : State) :=
  vecMove s tk [] d k .e32 fun i _ _ => ((List.range 512).filter fun n => (i.mask a).getLsbD n).length
/-- vmsk.first (06 R175). -/
def execVmskFirst (tk : Tok) (d : VReg) (a k : KReg) (s : State) :=
  vecMove s tk [] d k .e32 fun i _ _ => ((List.range 512).find? fun n => (i.mask a).getLsbD n).getD (2 ^ 32 - 1)

-- Flags (06 Table 6.10).

/-- An instruction of vflg that changes the instance. -/
def flagOp (s : State) (tk : Tok) (srcs : List VReg) (op : Inst → List Lanes → Inst) : Outcome State Fault Refusal :=
  vecRun s tk srcs none false (.ok ()) fun _ vs _ => .ok ⟨zeroLanes, none, fun t => t.modInst s.cur.core fun i => op i vs⟩

/-- The sticky flags of lane n. -/
def Inst.flagsAt (i : Inst) (n : Nat) : Flags := if h : n < 512 then i.flags[n] else 0

/-- vflg.rd (06 R194). -/
def execVflgRd (tk : Tok) (d : VReg) (k : KReg) (s : State) := vecMove s tk [] d k .e32 fun i _ n => (i.flagsAt n).toNat
/-- vflg.clr (06 R194). -/
def execVflgClr (tk : Tok) (f : BitVec 5) (k : KReg) (s : State) :=
  flagOp s tk [] fun i _ =>
    let fl := Vector.ofFn fun l : Fin 512 => if active .e32 (i.mask k) l.val then i.flags[l] &&& ~~~f else i.flags[l]
    { i with flags := fl }
/-- vflg.wr (06 R194). -/
def execVflgWr (tk : Tok) (a : VReg) (k : KReg) (s : State) :=
  flagOp s tk [a] fun i vs =>
    let fl := Vector.ofFn fun l : Fin 512 =>
      if active .e32 (i.mask k) l.val then BitVec.ofNat 5 (laneAt (vs.getD 0 zeroLanes) l.val) else i.flags[l]
    { i with flags := fl }
/-- vflg.any (06 R194). -/
def execVflgAny (tk : Tok) (d : KReg) (f : BitVec 5) (k : KReg) (s : State) :=
  vecToMask s tk [] d k .e32 false fun i _ n => (i.flagsAt n &&& f != 0, 0)
/-- vflg.tm (06 R194). -/
def execVflgTm (tk : Tok) (d : KReg) (s : State) := flagOp s tk [] fun i _ => { i with k := i.k.set d i.trapMask }
/-- vflg.ctm (06 R194). -/
def execVflgCtm (tk : Tok) (s : State) := flagOp s tk [] fun i _ => { i with trapMask := 0 }

-- Conditional streams (06 R196-R198).

/-- The 32-bit slots that records fill. -/
def slots (l : List Record) : Nat := (l.map fun r => if r.wide then 2 else 1).sum

/-- A conditional stream: 28 names A, 29 names B. -/
def Inst.cond (i : Inst) (q : VReg) : List Record := if q = 28 then i.condA else i.condB

/-- A conditional stream replaced. -/
def Inst.setCond (i : Inst) (q : VReg) (l : List Record) : Inst := if q = 28 then { i with condA := l } else { i with condB := l }

/-- A field that must name a conditional stream (06 R197, R198). -/
def condCheck (q : VReg) : Res Unit := if q = 28 ∨ q = 29 then .ok () else trapN .queueProtocol q.val

/-- vpush (06 R197). -/
def execVpush (tk : Tok) (q a : VReg) (x : LaneW) (k : KReg) (s : State) :=
  let i := s.inst s.cur.core
  let w := elemW x
  let ns := actives w (i.mask k)
  let rec32 := x == .b64
  let more := ns.length * (if rec32 then 2 else 1)
  let pre : Res Unit := do
    condCheck q
    check (decide (slots (i.cond q) + more ≤ 2048)) .queueProtocol (BitVec.ofNat 64 q.val)
  vecRun s tk [a] none false pre fun _ vs _ => .ok ⟨zeroLanes, none, fun t =>
    let u := t.modInst s.cur.core fun j =>
      j.setCond q (j.cond q ++ ns.map fun n => ⟨rec32, BitVec.ofNat 64 (elemAt w (vs.getD 0 zeroLanes) n)⟩)
    if ns.isEmpty then u else u.sink s.cur.core⟩

/-- A pop of the first n records, all of one width (06 R198). -/
def popCheck (q : VReg) (x : LaneW) (l : List Record) (n : Nat) : Res Unit :=
  check (decide (n ≤ l.length) && (l.take n).all fun r => r.wide == (x == .b64)) .queueProtocol (BitVec.ofNat 64 q.val)

/-- A pop of records into elements of vD, and what else it changes. The direction of vD is judged before the stream that va names and
its records (LOG 17). -/
def condPop (s : State) (tk : Tok) (d q : VReg) (x : LaneW) (ns : List Nat) (also : Inst → Inst) : Outcome State Fault Refusal :=
  let l := (s.inst s.cur.core).cond q
  vecRun s tk [] (some d) false (do condCheck q; popCheck q x l ns.length) fun _ _ old =>
    .ok ⟨setElems (elemW x) old ns.contains fun n => ((l[ns.idxOf n]?).map (·.value.toNat)).getD 0, none, fun t =>
      let u := t.modInst s.cur.core fun j => also (j.setCond q (l.drop ns.length))
      if ns.isEmpty then u else u.sink s.cur.core⟩

/-- vpop.pack (06 R198). -/
def execVpopPack (tk : Tok) (d q : VReg) (b : KReg) (x : LaneW) (s : State) :=
  let m := (elemW x).count
  let n := Nat.min ((s.inst s.cur.core).cond q).length m
  condPop s tk d q x (List.range n) fun j => j.setMask b (fun l => decide (l < m)) fun l => decide (l < n)

/-- vpop.exp (06 R198). -/
def execVpopExp (tk : Tok) (d q : VReg) (x : LaneW) (k : KReg) (s : State) :=
  condPop s tk d q x (actives (elemW x) ((s.inst s.cur.core).mask k)) id

-- Stream control.

/-- tkw (05 R144). -/
def execVeTkw (tk : Tok) (f : Engine) (s : State) := engineTkw s tk f
/-- tks (05 R144). -/
def execVeTks (tk : Tok) (f : Engine) (s : State) := engineTks s tk f
/-- seg (16 R434). -/
def execVeSeg (tk : Tok) (cnt : BitVec 24) (crc : BitVec 16) (s : State) := engineSeg s tk cnt crc
/-- safe (16 R428). -/
def execVeSafe (tk : Tok) (s : State) := engineSafe s tk
/-- end (16 R428). -/
def execVeEnd (tk : Tok) (s : State) := engineEnd s tk

/-- loop (06 R200): its count is immediate, or doubleword 0 of vq2. -/
def execVeLoop (tk : Tok) (l : Fin 1024) (c : Bool) (n : Fin 8192) (s : State) :=
  let g := s.cur.core
  let popped : Res (State × Word) := do
    need ((s.inst g).vReadable 26)
    .ok ((s.modInst g fun i => i.popV 26).sink g, dword0 ((s.inst g).readV 26))
  engineLoop s tk l.val (if c then none else some n.val) popped

end Sys2Proof.Machine
end

