-- ==== Sys2Proof/Machine/Tiles.lean ====
section
/-! DEFINITION. The tile pool (09 R249-R255), tile lines (02 R58, 06 R191, R192, 09 R266, R267, 10 R292) and the instructions that
move them. -/

namespace Sys2Proof.Machine

open Host

/-- A row of zeros. -/
def zeroRow : Row := Vector.replicate 64 0

/-- Word c of pool row r of a tile. -/
def Tile.word (t : Tile) (r c : Nat) : Nat := ((t.rows[r]?).bind fun w => w[c]?).elim 0 (·.toNat)

/-- Element (i, j) of a tile: of 64 bits in a d64 tile, of 32 bits otherwise (09 R250, 10 R275). -/
def Tile.elem (t : Tile) (i j : Nat) : Nat :=
  match t.form with
  | .d64 => t.word (2 * i + j / 32) (2 * (j % 32)) + t.word (2 * i + j / 32) (2 * (j % 32) + 1) * 2 ^ 32
  | _ => t.word i j

/-- Pool rows from words. -/
def rowsOf (n : Nat) (f : Nat → Nat → Nat) : List Row :=
  (List.range n).map fun r => Vector.ofFn fun c : Fin 64 => BitVec.ofNat 32 (f r c.val)

/-- A tile with new elements (09 R250). -/
def Tile.ofElems (t : Tile) (f : Nat → Nat → Nat) : Tile :=
  match t.form with
  | .d64 => { t with rows := rowsOf 128 fun r c => f (r / 2) (32 * (r % 2) + c / 2) / 2 ^ (32 * (c % 2)) }
  | _ => { t with rows := rowsOf t.rows.length f }

/-- Element e of line n (02 Table 2.8). -/
def lineElem (dir : Dir) (n e : Nat) : Nat × Nat :=
  match dir with
  | .row => (n, e)
  | .col => (e, n)
  | .diag => (e, (e + n) % 64)
  | .anti => (e, (64 + n - e) % 64)

/-- The inverse: the line of direction dir that holds element (i, j), and the element's place in it. -/
def lineOf (dir : Dir) (i j : Nat) : Nat × Nat :=
  match dir with
  | .row => (i, j)
  | .col => (j, i)
  | .diag => ((64 + j - i) % 64, i)
  | .anti => ((i + j) % 64, i)

/-- A tile of an instance replaced. -/
def Inst.setTile (i : Inst) (t : TReg) (x : Option Tile) : Inst := { i with tiles := i.tiles.set t x }

/-- Allocated rows. -/
def Inst.rowsUsed (i : Inst) : Nat := (i.tiles.toList.map fun t => (t.map fun x => x.rows.length).getD 0).sum

/-- BUFFER_RANGE with a small TVAL. -/
def tileTrap {α : Type} (n : Nat) : Res α := trapN .bufferRange n

/-- A named tile, which must be allocated. -/
def Inst.tileAt (i : Inst) (t : TReg) : Res Tile :=
  match i.tiles[t] with
  | some x => .ok x
  | none => tileTrap t.val

-- The pool (09 R252-R254).

/-- talloc (09 R252). -/
def execTalloc (tk : Tok) (d : TReg) (n : Fin 2048) (f : TileForm) (s : State) : Outcome State Fault Refusal :=
  let i := s.inst s.cur.core
  engineRun s tk [] [] false do
    check (i.tiles[d].isNone) .bufferRange (BitVec.ofNat 64 (0x200 + d.val))
    check (decide (i.rowsUsed + n.val ≤ i.budget)) .slotexh (BitVec.ofNat 64 (d.val * 2 ^ 16 + n.val))
    .ok (s.modInst s.cur.core fun i => i.setTile d (some ⟨f, List.replicate n.val zeroRow, 0⟩))

/-- tfree (09 R253). -/
def execTfree (tk : Tok) (d : TReg) (s : State) : Outcome State Fault Refusal :=
  engineRun s tk [] [] false do
    discard ((s.inst s.cur.core).tileAt d)
    .ok (s.modInst s.cur.core fun i => i.setTile d none)

/-- tclr (09 R254, 10 R292). -/
def execTclr (tk : Tok) (d : TReg) (s : State) : Outcome State Fault Refusal :=
  engineRun s tk [] [] false do
    let t ← (s.inst s.cur.core).tileAt d
    let x := if t.form = .lr then { t with rank := 0 } else { t with rows := t.rows.map fun _ => zeroRow }
    .ok (s.modInst s.cur.core fun i => i.setTile d (some x))

/-- tmov (09 R254). -/
def execTmov (tk : Tok) (d a : TReg) (s : State) : Outcome State Fault Refusal :=
  engineRun s tk [] [] false do
    let x ← (s.inst s.cur.core).tileAt a
    let y ← (s.inst s.cur.core).tileAt d
    check (x.form == y.form && x.rows.length == y.rows.length) .bufferRange (BitVec.ofNat 64 (0x100 + d.val))
    .ok (s.modInst s.cur.core fun i => i.setTile d (some x))

-- Lines of a tile.

/-- The checks of an access to 32-bit or 64-bit lines (06 R192, 10 Table 10.5). -/
def lineCheck (i : Inst) (t : TReg) (wide : Option Bool) (dir : Dir) (n : Nat) : Res Tile := do
  let x ← i.tileAt t
  let ok := match x.form with
    | .d32 => wide != some true
    | .d64 => wide != some false
    | .lr => wide != some true && dir == .row && decide (n < x.rows.length)
  check ok .bufferRange (BitVec.ofNat 64 (0x100 + t.val))
  .ok x

/-- The lines of one entry: 8 of a tile of 32-bit elements, 4 of a d64 tile, from line n (06 R191, 09 R266); lines of a low-rank
tile do not wrap (10 Table 10.5). Element k of the entry. -/
def Tile.lineEntry (t : Tile) (dir : Dir) (n k : Nat) : Nat :=
  let l := n + k / 64
  if t.form = .lr then t.word l (k % 64)
  else
    let p := lineElem dir (l % 64) (k % 64)
    t.elem p.1 p.2

/-- The tile after some elements of an entry are written to its lines. -/
def Tile.putLines (t : Tile) (dir : Dir) (n : Nat) (on : Nat → Bool) (val : Nat → Nat) : Tile :=
  let count := if t.form = .d64 then 4 else 8
  t.ofElems fun i j =>
    let l := if t.form = .lr then (i, j) else lineOf dir i j
    let step := if t.form = .lr then l.1 - n else (64 + l.1 - n) % 64
    let hit := decide (step < count) && (t.form != .lr || decide (n ≤ l.1)) && on (64 * step + l.2)
    if hit then val (64 * step + l.2) else t.elem i j

/-- The placement of an entry's elements. -/
def Tile.entryElem (t : Tile) : Elem := if t.form = .d64 then .e64 else .e32

/-- The width that a format field of vtrd and vtwr asks for. -/
def tileWide (f : TileFmt) : Bool := f == .f64

/-- The words of element (i, j) of a tile with a new value: row, place in the row, word. -/
def Tile.elemWords (t : Tile) (i j v : Nat) : List (Nat × Nat × Word32) :=
  match t.form with
  | .d64 => [(2 * i + j / 32, 2 * (j % 32), BitVec.ofNat 32 v), (2 * i + j / 32, 2 * (j % 32) + 1, BitVec.ofNat 32 (v / 2 ^ 32))]
  | _ => [(i, j, BitVec.ofNat 32 v)]

/-- The element writes of an entry to the lines of a tile, in ascending order of the elements that are on; a line beyond the last row
of a low-rank tile does not exist (06 R191, 10 Table 10.5). -/
def Tile.lineStores (x : Tile) (t : TReg) (dir : Dir) (n : Nat) (on : Nat → Bool) (val : Nat → Nat) : List ElemStore :=
  ((List.range x.entryElem.count).filter on).filterMap fun k =>
    let l := n + k / 64
    if x.form = .lr then
      if l < x.rows.length then some (.tile t (x.elemWords l (k % 64) (val k))) else none
    else
      let p := lineElem dir (l % 64) (k % 64)
      some (.tile t (x.elemWords p.1 p.2 (val k)))

/-- vtrd (06 R191, R192). With TW its tile is checked after that wait, since the token may order it behind the talloc of the tile (05
R145, 09 R255, 21 R486; LOG 100). -/
def execVtrd (tk : Tok) (v : VReg) (t : TReg) (e : Dir) (n : Fin 64) (f : TileFmt) (k : KReg) (s : State) :=
  vecRun s tk [] (some v) tk.tw (.ok ()) fun i _ old =>
    (lineCheck i t (some (tileWide f)) e n.val).map fun x =>
      ⟨setElems x.entryElem old (active x.entryElem (i.mask k)) fun m => i.elemRead m (x.lineEntry e n.val m), none, id⟩

/-- vtwr (06 R191, R192), its tile checked like that of vtrd. -/
def execVtwr (tk : Tok) (v : VReg) (t : TReg) (e : Dir) (n : Fin 64) (f : TileFmt) (k : KReg) (s : State) :=
  vecRun s tk [v] none tk.tw (.ok ()) fun i vs _ =>
    match i.doneVe.writes with
    | some l => .ok ⟨zeroLanes, none, fun u => l.foldl (fun u e => u.putElem s.cur.core e) u⟩
    | none => (lineCheck i t (some (tileWide f)) e n.val).map fun x =>
      let y := x.putLines e n.val (active x.entryElem (i.mask k)) (elemAt x.entryElem (vs.getD 0 zeroLanes))
      ⟨zeroLanes, none, fun u => u.modInst s.cur.core fun j => j.setTile t (some y)⟩

/-- mrd (09 R266): the lines go to the VE through vq0. -/
def execMrd (tk : Tok) (t : TReg) (e : Dir) (n : Fin 64) (s : State) : Outcome State Fault Refusal :=
  let g := s.cur.core
  engineRun s tk [] [] false do
    let x ← lineCheck (s.inst g) t none e n.val
    need (decide ((s.inst g).vq[0].length < 4))
    let entry := setElems x.entryElem zeroLanes (fun k => decide (k < x.entryElem.count)) (x.lineEntry e n.val)
    .ok ((s.modInst g fun i => { i with vq := i.vq.set 0 (i.vq[0] ++ [entry]) }).sink g)

/-- mwr (09 R266): the lines come from the VE through vq1. -/
def execMwr (tk : Tok) (t : TReg) (e : Dir) (n : Fin 64) (s : State) : Outcome State Fault Refusal :=
  let g := s.cur.core
  engineRun s tk [] [] false do
    let x ← lineCheck (s.inst g) t none e n.val
    need (!(s.inst g).vq[1].isEmpty)
    let entry := (s.inst g).vq[1].headD zeroLanes
    let y := x.putLines e n.val (fun _ => true) (elemAt x.entryElem entry)
    .ok ((s.modInst g fun i => { i.setTile t (some y) with vq := i.vq.set 1 i.vq[1].tail }).sink g)

/-- The checks of a whole-tile move (09 R267, 10 Table 10.5): the tile, and the bytes of C that it moves. -/
def frameCheck (i : Inst) (t : TReg) (dir : Dir) (n frame : Nat) : Res (Tile × Nat × Nat) := do
  let x ← i.tileAt t
  check (x.form != .lr || (dir == .row && n == 0)) .bufferRange (BitVec.ofNat 64 (0x100 + t.val))
  let len := match x.form with
    | .d64 => 64 * 512
    | .d32 => 64 * 256
    | .lr => 256 * x.rows.length
  claimCheck i .c (frame * 16384) len
  .ok (x, frame * 16384, len)

/-- The byte of C, from the frame's start, at which element (i, j) of a tile stands: line (n + l) mod 64 at l times the line's
length. -/
def frameByte (t : Tile) (dir : Dir) (n i j : Nat) : Nat :=
  if t.form = .lr then 256 * i + 4 * j
  else
    let p := lineOf dir i j
    let w := if t.form = .d64 then 8 else 4
    (64 + p.1 - n) % 64 * (64 * w) + p.2 * w

/-- mldc (09 R267). -/
def execMldc (tk : Tok) (t : TReg) (e : Dir) (n : Fin 64) (f : Fin 32) (g : Bool) (s : State) : Outcome State Fault Refusal :=
  let c := s.cur.core
  engineRun s tk [] [] false do
    let r ← frameCheck (s.inst c) t e n.val (f.val + 32 * g.toNat)
    let img := ((s.inst c).bufC.read r.2.1 r.2.2).toArray
    let w := if r.1.form = .d64 then 8 else 4
    let at' := fun i j => leNat ((List.range w).map fun b => (img[frameByte r.1 e n.val i j + b]?).getD 0)
    .ok (s.modInst c fun i => i.setTile t (some (r.1.ofElems at')))

/-- mstc (09 R267): its store into C is a sink event (05 R157). -/
def execMstc (tk : Tok) (t : TReg) (e : Dir) (n : Fin 64) (f : Fin 32) (g : Bool) (s : State) : Outcome State Fault Refusal :=
  let c := s.cur.core
  engineRun s tk [] [] false do
    let r ← frameCheck (s.inst c) t e n.val (f.val + 32 * g.toNat)
    let w := if r.1.form = .d64 then 8 else 4
    let bs := (List.range (r.2.2 / w)).flatMap fun k =>
      let p := if r.1.form = .lr then (k / 64, k % 64) else lineElem e ((n.val + k / 64) % 64) (k % 64)
      leBytes w (r.1.elem p.1 p.2)
    .ok ((s.modInst c fun i => { i with bufC := i.bufC.put r.2.1 bs }).sink c)

end Sys2Proof.Machine
end

