-- ==== Sys2Proof/Machine/Matrix.lean ====
section
/-! DEFINITION. Matrix multiply-accumulate (09 R256-R265, 01 R34-R41): the streams of the matrix engine (08 R238, R244-R247), the
fused group rule and integer accumulation on tiles, and the path of a class that the core has lost (11 R305). -/

namespace Sys2Proof.Machine

open Host

-- Streams read by the ME.

/-- Whether a stream register is ring-sourced. -/
def ringSourced (z : ZReg) : Bool := z.src == 4 || z.src == 5

/-- The issue checks of one stream of an ME instruction that takes e elements in format fmt (08 Table 8.7); `other` is the
second stream, tested for naming the same ring in the first stream's pass. -/
def streamIssue (i : Inst) (n : Sys2Proof.ZReg) (fmt e : Nat) (other : Option Sys2Proof.ZReg) : Res Unit := do
  let z := i.z[n]
  streamCheck (z.src != 0 && z.src != 3 && !z.x8 && z.fmt != 12) n.val 0x06
  streamCheck (z.fmt == fmt) n.val 0x07
  match other with
  | some m =>
    let y := i.z[m]
    streamCheck (!(ringSourced z && y.src == z.src && bits y.base.toNat 2 0 == bits z.base.toNat 2 0)) n.val 0x08
  | none => .ok ()
  streamCheck (decide (e ≤ z.elems)) n.val 0x09

/-- A landed slot stands at the head of the stream's ring (08 R238). -/
def Inst.slotReady (i : Inst) (n : Sys2Proof.ZReg) : Bool :=
  match i.ringOf i.z[n] with
  | some (_, _, r) => r.head != r.tail
  | none => true

/-- The buffer that an ME stream reads, and its data origin (08 R244). -/
def Inst.streamOrigin (i : Inst) (z : ZReg) : Buf × Nat :=
  match i.ringOf z with
  | some (b, _, r) => (b, r.slotAt r.head)
  | none => (if z.src = 1 then .w else .a, z.base.toNat)

/-- DECODE in the instruction that reads a bad tagged unit (09 R273, 15 R411). -/
def feederStop {α : Type} (b : Buf) (r : Except Nat α) : Res α :=
  match r with
  | .ok x => .ok x
  | .error u => .error (.late .decode (BitVec.ofNat 64 (bufCode b * 2 ^ 32 + u)))

/-- w bits at bit position p of a buffer. -/
def Inst.bufBits (i : Inst) (b : Buf) (p w : Nat) : Res Nat :=
  (feederStop b (i.bufRead b (p / 8) ((p % 8 + w + 7) / 8))).map fun bs => bitsAt bs (p % 8) w

/-- Element number k of what an instruction takes: its number in the stream (08 R245). -/
def elemNo (z : ZReg) (k : Nat) : Nat := if ringSourced z then k else (z.cursor.toNat + k) % z.elems

/-- The p-bit value of a plane-nested element, as an unsigned field (01 R19). -/
def Inst.planeBits (i : Inst) (b : Buf) (z : ZReg) (p : Nat) : Nat → Nat → Res Nat
  | 0, acc => .ok acc
  | j + 1, acc =>
    match i.bufBits b (p + 8 * (z.planeOf (z.planes - 1 - j)).toNat) 1 with
    | .ok v => i.planeBits b z p j (2 * acc + v)
    | .error e => .error e

/-- Element n of a stream as bits, with the E8M0 scale of its block, 127 where the format has none (08 R244, R246). -/
def Inst.element (i : Inst) (z : ZReg) (n : Nat) : Res (Nat × Nat) := do
  let o := i.streamOrigin z
  let p := (8 * (o.2 : Int) + z.bitOf n).toNat
  if z.fmt = 10 then
    let v ← i.planeBits o.1 z p z.planes 0
    .ok (v, 127)
  else
    let v ← i.bufBits o.1 p z.w
    if z.fmt = 6 then
      let x ← i.bufBits o.1 (8 * ((o.2 : Int) + z.scaleOf (n / 32)).toNat) 8
      .ok (v, x)
    else .ok (v, 127)

/-- The elements that an instruction takes from a stream, in order (08 R245). -/
def Inst.take (i : Inst) (n : Sys2Proof.ZReg) (e : Nat) : Res (Array (Nat × Nat)) :=
  ((List.range e).mapM fun k => i.element i.z[n] (elemNo i.z[n] k)).map List.toArray

/-- What the retirement of a reader does to a stream: the head of its ring, or its cursor (08 R238, R245). -/
def Inst.consume (i : Inst) (e : Nat) (n : Sys2Proof.ZReg) : Inst :=
  let z := i.z[n]
  match i.ringOf z with
  | some (b, r, _) => i.modRing b r fun x => { x with head := x.head + 1 }
  | none => { i with z := i.z.set n { z with cursor := BitVec.ofNat 32 ((z.cursor.toNat + e) % z.elems) } }

/-- A floating-point operand (09 R257): MXFP4 times its block's scale, 0xFF giving NaN. -/
def fpOperand (fmt : Nat) (x : Nat × Nat) : Num :=
  match fmt with
  | 0 => decodeF fmtF64 x.1
  | 1 => decodeF fmtF32 x.1
  | 2 => decodeF fmtBF16 x.1
  | 3 => decodeF fmtF16 x.1
  | 4 => decodeF fmtE4M3 x.1
  | 5 => decodeF fmtE5M2 x.1
  | _ =>
    if x.2 = 0xFF then .nan false
    else match decodeF fmtE2M1 x.1 with
      | .fin n m e => .fin n m (e + x.2 - 127)
      | y => y

/-- An integer operand (09 R257): p bits of a plane-nested element, INT8, UINT8 or INT4. -/
def intOperand (z : ZReg) (x : Nat × Nat) : Int :=
  match z.fmt with
  | 7 => intOf true 8 x.1
  | 8 => x.1
  | 9 => intOf true 4 x.1
  | _ => intOf true z.planes x.1

-- Results.

/-- One element by the fused group rule: groups of g products in order, each rounded (01 R36-R38). -/
def groupChain (f : Fmt) (md : Rounding) (g : Nat) : Nat → List (Num × Bool) → Option Nat → Flags → Nat × Flags
  | 0, _, x, fl => (x.getD 0, fl)
  | n + 1, ts, x, fl =>
    if ts.isEmpty then (x.getD 0, fl)
    else
      let now := ts.take g
      let r := groupSum f md (now.map (·.1)) (x.map (decodeF f))
      groupChain f md g n (ts.drop g) (some r.1) (fl ||| r.2 ||| flagIf (now.any (·.2)) flagNV)

/-- One element of an integer class: products added one at a time, and whether a sum wrapped (01 R40). -/
def intChain : List Int → Int → Bool → Int × Bool
  | [], x, ov => (x, ov)
  | p :: ps, x, ov =>
    let s := x + p
    intChain ps (intOf true 32 (twos 32 s)) (ov || decide (s < -2 ^ 31 ∨ 2 ^ 31 ≤ s))

/-- A tile computed element by element, with the flags of all elements for MFLG. -/
def tileOf (t : Tile) (f : Nat → Nat → Nat × Word) : Tile × Word :=
  let rs := ((List.range 4096).map fun n => f (n / 64) (n % 64)).toArray
  (t.ofElems fun i j => (rs[64 * i + j]?).elim 0 (·.1), rs.foldl (fun w r => w ||| r.2) 0)

/-- Element (k, j) of B from its stream (09 R257). -/
def bIndex (bt : Bool) (depth k j : Nat) : Nat := if bt then j * depth + k else k * 64 + j

/-- A floating-point product (01 R36-R39): the terms of element (i, j) in order, by `term i j`. -/
def fpTile (f : Fmt) (md : Rounding) (g : Nat) (acc : Bool) (t : Tile) (term : Nat → Nat → List (Num × Bool)) : Tile × Word :=
  tileOf t fun i j =>
    let ts := term i j
    let r := groupChain f md g ts.length ts (if acc then some (t.elem i j) else none) 0
    (r.1, r.2.zeroExtend 64)

/-- The dense floating-point classes: the terms of element (i, j) are the products over k. -/
def denseTerms (a b : Array Num) (bt : Bool) (depth i j : Nat) : List (Num × Bool) :=
  (List.range depth).map fun k => product ((a[i * depth + k]?).getD (.fin false 0 0)) ((b[bIndex bt depth k j]?).getD (.fin false 0 0))

/-- The kept positions of a metadata entry, in order; none when some chunk has P0 ≥ P1 (09 R262). -/
def keptOf (m : Bytes) : Option (Array Nat) :=
  let at' := fun n => (m.get (16 * (n / 64) + n % 64 / 4)).toNat / 2 ^ (2 * (n % 4)) % 4
  let ks := (List.range 4096).map fun n => 4 * (n % 64 / 2) + at' n
  let ok := (List.range 2048).all fun c => decide (at' (2 * c) < at' (2 * c + 1))
  if ok then some ks.toArray else none

/-- td of an ME instruction: allocated, and of a form (09 R259). -/
def tdCheck (i : Inst) (d : TReg) (form : TileForm) : Res Tile := do
  let t ← i.tileAt d
  check (t.form == form) .bufferRange (BitVec.ofNat 64 (0x100 + d.val))
  .ok t

/-- An M.A instruction (09 R259): checks, waits, operands, then its effect, all at once (LOG 26). `f` computes the tile and what
is ORed into MFLG from td, the operands of A and B and the metadata. Of several tagged units that do not decode, the first that it reads
is named: A before B, in the order of the elements (LOG 107). -/
def maResult (s : State) (d : TReg) (a b : Sys2Proof.ZReg) (form : TileForm) (fa fb ea eb : Nat) (sparse : Bool)
    (f : Tile → Array (Nat × Nat) → Array (Nat × Nat) → Array Nat → Tile × Word) : Res State := do
  let g := s.cur.core
  let i := s.inst g
  streamIssue i a fa ea (some b)
  streamIssue i b fb eb none
  let t ← tdCheck i d form
  need (i.slotReady a && i.slotReady b)
  let kept ← if sparse then
      match i.mdq with
      | [] => .error .wait
      | e :: _ =>
        if !e.landed then .error .wait
        else match keptOf e.data with
          | some k => .ok k
          | none => .error (.late .streamCfg 0x0A00)
    else .ok #[]
  let xa ← i.take a ea
  let xb ← i.take b eb
  let r := f t xa xb kept
  .ok (s.modInst g fun j =>
    let j1 := (((j.setTile d (some r.1)).orMflg r.2).consume ea a).consume eb b
    if sparse then { j1 with mdq := j1.mdq.tail } else j1)

/-- A floating-point M.A instruction of depth k, groups of g. -/
def fpResult (s : State) (d : TReg) (a b : Sys2Proof.ZReg) (form : TileForm) (fa fb k : Nat) (f : Fmt) (grp : Nat) (r : Rounding)
    (acc bt : Bool) : Res State :=
  let md := modeOf r (s.inst s.cur.core).sys.fmode
  maResult s d a b form fa fb (64 * k) (64 * k) false fun t xa xb _ =>
    fpTile f md grp acc t (denseTerms (xa.map (fpOperand fa)) (xb.map (fpOperand fb)) bt k)

/-- An integer M.A instruction of depth k. -/
def intResult (s : State) (d : TReg) (a b : Sys2Proof.ZReg) (fa fb k : Nat) (acc bt : Bool) : Res State :=
  let i := s.inst s.cur.core
  maResult s d a b .d32 fa fb (64 * k) (64 * k) false fun t xa xb _ =>
    let va := xa.map (intOperand i.z[a])
    let vb := xb.map (intOperand i.z[b])
    tileOf t fun x y =>
      let ps := (List.range k).map fun n => (va[x * k + n]?).getD 0 * (vb[bIndex bt k n y]?).getD 0
      let res := intChain ps (if acc then intOf true 32 (t.elem x y) else 0) false
      (twos 32 res.1, if res.2 then mflgOV else 0)

/-- FMT of a 16-bit operand format. -/
def b16Code : B16Fmt → Nat
  | .bf16 => 2
  | .f16 => 3

/-- The effect of mma.f64 (09 Table 9.2). -/
def resMmaF64 (s : State) (d : TReg) (a b : Sys2Proof.ZReg) (r : Rounding) (c t : Bool) : Res State :=
  fpResult s d a b .d64 0 0 8 fmtF64 1 r c t

/-- The effect of mma.b16. -/
def resMmaB16 (s : State) (d : TReg) (a b : Sys2Proof.ZReg) (f : B16Fmt) (r : Rounding) (c t : Bool) : Res State :=
  fpResult s d a b .d32 (b16Code f) (b16Code f) 64 fmtF32 8 r c t

/-- The effect of mma.f8: bit 1 of the format is A's, bit 0 B's (02 Table 2.10). -/
def resMmaF8 (s : State) (d : TReg) (a b : Sys2Proof.ZReg) (f : BitVec 2) (r : Rounding) (c t : Bool) : Res State :=
  fpResult s d a b .d32 (4 + (f.getLsbD 1).toNat) (4 + (f.getLsbD 0).toNat) 128 fmtF32 16 r c t

/-- The effect of mma.f4. -/
def resMmaF4 (s : State) (d : TReg) (a b : Sys2Proof.ZReg) (r : Rounding) (c t : Bool) : Res State :=
  fpResult s d a b .d32 6 6 256 fmtF32 32 r c t

/-- The effect of mma.i8: bit 1 of the format is A's, bit 0 B's (02 Table 2.10). -/
def resMmaI8 (s : State) (d : TReg) (a b : Sys2Proof.ZReg) (f : BitVec 2) (c t : Bool) : Res State :=
  intResult s d a b (7 + (f.getLsbD 1).toNat) (7 + (f.getLsbD 0).toNat) 128 c t

/-- The effect of mma.i4: bit 8 of the word marks A as plane-nested, bit 9 marks B (02 Table 2.10). -/
def resMmaI4 (s : State) (d : TReg) (a b : Sys2Proof.ZReg) (f : BitVec 2) (c t : Bool) : Res State :=
  intResult s d a b (9 + (f.getLsbD 0).toNat) (9 + (f.getLsbD 1).toNat) 256 c t

/-- The effect of mmas (09 R261, R262): the kept products of a row, in ascending position, in groups of 8. -/
def resMmas (s : State) (d : TReg) (a b : Sys2Proof.ZReg) (f : B16Fmt) (r : Rounding) (c t : Bool) : Res State :=
  let md := modeOf r (s.inst s.cur.core).sys.fmode
  maResult s d a b .d32 (b16Code f) (b16Code f) 4096 8192 true fun x xa xb kept =>
    let va := xa.map (fpOperand (b16Code f))
    let vb := xb.map (fpOperand (b16Code f))
    fpTile fmtF32 md 8 c x fun i j => (List.range 64).map fun n =>
      product ((va[64 * i + n]?).getD (.fin false 0 0)) ((vb[bIndex t 128 ((kept[64 * i + n]?).getD 0) j]?).getD (.fin false 0 0))

/-- The effect of lrset (10 R281, R282): td is checked first, and each column takes 64 elements. -/
def resLrset (s : State) (d : TReg) (a b : Sys2Proof.ZReg) : Res State := do
  let g := s.cur.core
  let i := s.inst g
  let t ← tdCheck i d .lr
  let m := t.rows.length / 2
  let e := 64 * m
  streamIssue i a 1 e (some b)
  streamIssue i b 1 e none
  need (i.slotReady a && i.slotReady b)
  let xa ← i.take a e
  let xb ← i.take b e
  let rows := rowsOf t.rows.length fun r c =>
    if r < m then (xa[64 * r + c]?).elim 0 (·.1) else (xb[64 * (r - m) + c]?).elim 0 (·.1)
  .ok (s.modInst g fun j => ((j.setTile d (some { t with rows := rows, rank := m })).consume e a).consume e b)

/-- An ME instruction of a class: it runs natively when CAPV holds the class, and otherwise enters the assist path (11 R305). A check of
its own entry that fails traps at once, before any wait, as it does natively (02 R491, 11 R310). -/
def classed (s : State) (cls : Nat) (instr : Instr) (tk : Tok) (close : Bool) (res : Res State) : Outcome State Fault Refusal :=
  let g := s.cur.core
  if (capvOf s.cores[g].rung).testBit cls then engineRun s tk [] [] close res
  else match res with
    | .error (.trap c v) => .next (s.raise c v)
    | _ => .next (s.modInst g fun i =>
        { i with assist := some (i.assist.getD ⟨instr, s.cur.pc, s.cur.word, s.cur.stamp, false, 0, false⟩) })

end Sys2Proof.Machine
end

