-- ==== Sys2Proof/Machine/LowRank.lean ====
section
/-! DEFINITION. Low-rank tiles (10): the arithmetic of their instructions (R279), multiplication, addition, densification and
recompression (R283-R287), rank overflow and workspace (R289-R291). Columns are lists of FP32 encodings; the flags of every step
are carried along. -/

namespace Sys2Proof.Machine

open Host

/-- A computation of low-rank steps, with the flags they raise (10 R279). -/
abbrev Lr := StateM Flags

/-- A step that raises flags. -/
def lrStep (r : Nat × Flags) : Lr Nat := fun f => (r.1, f ||| r.2)

/-- An FP32 value. -/
def d32 (x : Nat) : Num := decodeF fmtF32 x

/-- The sign bit inverted. -/
def negBit (x : Nat) : Nat := if x < 2 ^ 31 then x + 2 ^ 31 else x - 2 ^ 31
/-- |x|. -/
def absBit (x : Nat) : Nat := x % 2 ^ 31
/-- 1.0. -/
def one32 : Nat := 0x3F800000
/-- Sgn(x) as an encoding. -/
def sgn32 (x : Nat) : Nat := if x < 2 ^ 31 then one32 else one32 + 2 ^ 31

/-- x + y. -/
def lrAdd (x y : Nat) : Lr Nat := lrStep (fAdd fmtF32 .rne (d32 x) (d32 y))
/-- x - y. -/
def lrSub (x y : Nat) : Lr Nat := lrStep (fAdd fmtF32 .rne (d32 x) (d32 y).negate)
/-- x × y. -/
def lrTimes (x y : Nat) : Lr Nat := lrStep (fMul fmtF32 .rne (d32 x) (d32 y))
/-- x ÷ y. -/
def lrDiv (x y : Nat) : Lr Nat := lrStep (fDiv fmtF32 .rne (d32 x) (d32 y))
/-- √x. -/
def lrSqrt (x : Nat) : Lr Nat := lrStep (fSqrt fmtF32 .rne (d32 x))

/-- LrDot (10 R279): groups of 8 terms; an empty list gives +0, or acc unchanged. -/
def lrDot (ts : List (Num × Bool)) (acc : Option Nat) : Lr Nat := lrStep (groupChain fmtF32 .rne 8 ts.length ts acc 0)

/-- The term of one value. -/
def term1 (x : Nat) : Num × Bool := (d32 x, false)
/-- The term of an exact product. -/
def term2 (x y : Nat) : Num × Bool := product (d32 x) (d32 y)

/-- LrDot of two columns. -/
def colDot (x y : List Nat) : Lr Nat := lrDot (x.zipWith term2 y) none

/-- Entry n of a column. -/
def at0 (x : List Nat) (n : Nat) : Nat := x.getD n 0

/-- Column c of a matrix. -/
def col (m : List (List Nat)) (c : Nat) : List Nat := m.getD c []

/-- Columns 0 to k - 1 of the identity with n rows. -/
def identity (k n : Nat) : List (List Nat) :=
  (List.range k).map fun c => (List.range n).map fun i => if i = c then one32 else 0

/-- A test for a nonzero number; a NaN passes no test (10 R287). -/
def nonzero (x : Nat) : Bool :=
  match d32 x with
  | .nan _ => false
  | .inf _ => true
  | .fin _ m _ => m != 0

/-- A test for zero. -/
def isZero (x : Nat) : Bool := absBit x == 0

/-- X(i, c) ← LrDot(X(i, c), -w v(i)) for i from j up. -/
def reflect (w : Nat) (v x : List Nat) (j : Nat) : Lr (List Nat) :=
  (List.range x.length).mapM fun i =>
    if i < j then pure (at0 x i) else lrDot [term1 (at0 x i), term2 (negBit w) (at0 v i)] none

/-- One column step of HouseQR: the columns after it, with its v and τ appended. -/
def houseStep (k : Nat) (st : List (List Nat) × List (List Nat × Nat)) (j : Nat) :
    Lr (List (List Nat) × List (List Nat × Nat)) := do
  let xj := col st.1 j
  let below := xj.drop j
  let s ← lrSqrt (← colDot below below)
  if isZero s then pure (st.1, st.2 ++ [([], 0)])
  else
    let xjj := at0 xj j
    let a := if xjj < 2 ^ 31 then negBit s else s
    let vj ← lrSub xjj a
    let v := (List.range 64).map fun i => if i < j then 0 else if i = j then vj else at0 xj i
    let tau ← lrDiv one32 (← lrTimes s (← lrAdd s (absBit xjj)))
    let cols ← (List.range k).mapM fun c => do
      let x := col st.1 c
      if c < j then pure x
      else if c = j then pure ((List.range 64).map fun i => if i < j then at0 x i else if i = j then a else 0)
      else
        let w ← lrTimes tau (← colDot v x)
        reflect w v x j
    pure (cols, st.2 ++ [(v, tau)])

/-- One backward step of HouseQR on Q. -/
def houseBack (q : List (List Nat)) (vt : List Nat × Nat) : Lr (List (List Nat)) :=
  if nonzero vt.2 then
    q.mapM fun x => do
      let w ← lrTimes vt.2 (← colDot vt.1 x)
      reflect w vt.1 x 0
  else pure q

/-- HouseQR(X, k): Q, and the columns of R with k rows (10 R287). -/
def houseQR (x : List (List Nat)) (k : Nat) : Lr (List (List Nat) × List (List Nat)) := do
  let st ← (List.range k).foldlM (houseStep k) (x, [])
  let q ← st.2.reverse.foldlM houseBack (identity k 64)
  pure (q, st.1.map (·.take k))

/-- The rotation of columns p and q of M and J (10 R287). -/
def rotate (k : Nat) (mj : List (List Nat) × List (List Nat)) (pq : Nat × Nat) : Lr (List (List Nat) × List (List Nat)) := do
  let mp := col mj.1 pq.1
  let mq := col mj.1 pq.2
  let al ← colDot mp mp
  let be ← colDot mq mq
  let ga ← colDot mp mq
  if nonzero ga then
    let ze ← lrDiv (← lrSub be al) (← lrTimes 0x40000000 ga)
    let root ← lrSqrt (← lrAdd one32 (← lrTimes ze ze))
    let t ← lrDiv (sgn32 ze) (← lrAdd (absBit ze) root)
    let cs ← lrDiv one32 (← lrSqrt (← lrAdd one32 (← lrTimes t t)))
    let sn ← lrTimes cs t
    let turn := fun (m : List (List Nat)) => do
      let x := col m pq.1
      let y := col m pq.2
      let cp ← (List.range k).mapM fun i => lrDot [term2 cs (at0 x i), term2 (negBit sn) (at0 y i)] none
      let cq ← (List.range k).mapM fun i => lrDot [term2 sn (at0 x i), term2 cs (at0 y i)] none
      pure ((m.set pq.1 cp).set pq.2 cq)
    let m ← turn mj.1
    let j ← turn mj.2
    pure (m, j)
  else pure mj

/-- The pairs (p, q) of a sweep in order. -/
def sweepPairs (k : Nat) : List (Nat × Nat) :=
  (List.range k).flatMap fun p => ((List.range k).filter fun q => decide (p < q)).map fun q => (p, q)

/-- σ(a) ranks before σ(b): descending, +Inf first, a NaN below every number, equals by number (10 R287). Encodings with sign
bit 0 order like their values. -/
def sigmaBefore (s : List Nat) (a b : Nat) : Bool :=
  let key := fun c => if (d32 (at0 s c)).isNan then 0 else absBit (at0 s c) + 1
  decide (key b < key a) || (key a == key b && decide (a < b))

/-- The numbers c in the order of their σ. -/
def sigmaOrder (s : List Nat) : List Nat :=
  (List.range s.length).foldl (fun l c => l.takeWhile (fun x => sigmaBefore s x c) ++ [c] ++ l.dropWhile (fun x => sigmaBefore s x c)) []

/-- x > y; false with a NaN. -/
def gt32 (x y : Nat) : Bool := compareNum (d32 x) (d32 y) == some .gt

/-- A factor pair: columns of U and of V. -/
abbrev Factors := List (List Nat) × List (List Nat)

/-- Recompression of k columns with tolerance `tol` (10 R287); `cap` limits the kept columns, except under MRMODE 2 (R290). -/
def recompress (u v : List (List Nat)) (k tol : Nat) (cap : Option Nat) : Lr Factors := do
  if k = 0 then pure ([], [])
  else if (u ++ v).any fun c => c.any fun x => !(d32 x).isFin then
    let _ ← lrStep (0, flagNV)
    pure ([List.replicate 64 0x7FC00000], [List.replicate 64 0x7FC00000])
  else
    let qu ← houseQR u k
    let qv ← houseQR v k
    let row := fun (r : List (List Nat)) p => (List.range k).map fun c => at0 (col r c) p
    let m0 ← (List.range k).mapM fun q => (List.range k).mapM fun p => colDot (row qu.2 p) (row qv.2 q)
    let pairs := (List.replicate 6 (sweepPairs k)).flatten
    let mj ← pairs.foldlM (rotate k) (m0, identity k k)
    let sig ← mj.1.mapM fun c => do
      let d ← colDot c c
      lrSqrt d
    let order := sigmaOrder sig
    let s0 := at0 sig (order.headD 0)
    let thr ← lrTimes tol s0
    let n0 := (sig.filter fun s => gt32 s thr).length
    let n1 := if gt32 s0 0 then Nat.max n0 1 else n0
    let n := match cap with
      | some c => Nat.min n1 c
      | none => n1
    let build := fun (q m : List (List Nat)) => (order.take n).mapM fun h =>
      (List.range 64).mapM fun i => colDot ((List.range k).map fun c => at0 (col q c) i) (col m h)
    let u' ← build qu.1 mj.1
    let v' ← build qv.1 mj.2
    pure (u', v')

-- Tiles.

/-- The cap of a low-rank tile (10 R275). -/
def Tile.cap (t : Tile) : Nat := t.rows.length / 2

/-- A low-rank tile in factor state (10 R275). -/
def Tile.factor (t : Tile) : Bool := t.form == .lr && t.rank != 64

/-- The first r columns of U and of V. -/
def Tile.factors (t : Tile) : Factors :=
  let rowL := fun r => (List.range 64).map fun c => t.word r c
  ((List.range t.rank).map rowL, (List.range t.rank).map fun c => rowL (t.cap + c))

/-- The columns of a dense 64 × 64 matrix. -/
def Tile.denseCols (t : Tile) : List (List Nat) := (List.range 64).map fun j => (List.range 64).map fun i => t.word i j

/-- X = U Vᵀ, column by column (10 R285). -/
def densify (f : Factors) : Lr (List (List Nat)) :=
  let us := fun (m : List (List Nat)) i => m.map fun c => at0 c i
  (List.range 64).mapM fun j => (List.range 64).mapM fun i => colDot (us f.1 i) (us f.2 j)

/-- The columns of a tile read as a dense matrix: densified when in factor state. -/
def Tile.dense (t : Tile) : Lr (List (List Nat)) := if t.factor then densify t.factors else pure t.denseCols

/-- The tile in factor state with given columns; every other row is +0 (10 R276). -/
def Tile.ofFactors (t : Tile) (f : Factors) : Tile :=
  let m := t.cap
  let r := f.1.length
  { t with
    rows := rowsOf t.rows.length fun n c =>
      if n < m then (if n < r then at0 (col f.1 n) c else 0) else (if n - m < r then at0 (col f.2 (n - m)) c else 0)
    rank := r }

/-- The tile holding a dense matrix; a low-rank tile is then in dense state (10 R275). -/
def Tile.ofDense (t : Tile) (cols : List (List Nat)) : Tile :=
  { t with rows := rowsOf 64 fun i j => at0 (col cols j) i, rank := if t.form = .lr then 64 else t.rank }

/-- RANKOVF of td with a required rank (10 R290). -/
def rankOvf {α : Type} (d : TReg) (req m : Nat) : Res α :=
  trapN .rankovf (d.val + Nat.min req 255 * 2 ^ 8 + m * 2 ^ 16)

/-- The workspace check for k columns (10 R291). -/
def workspace (i : Inst) (d : TReg) (k : Nat) : Res Unit :=
  check (decide (i.rowsUsed + 2 * k ≤ i.budget)) .slotexh (BitVec.ofNat 64 (d.val * 2 ^ 16 + 2 * k))

/-- MTOL.TOL (10 R277). -/
def Inst.tol (i : Inst) : Nat := bits i.sys.mtol.toNat 31 0

/-- MRMODE.MODE (10 R278). -/
def Inst.rankMode (i : Inst) : Nat := bits i.sys.mrmode.toNat 1 0

/-- A factor pair written to td, or its overflow (10 R289, R290). -/
def deliverFactors (i : Inst) (d : TReg) (t : Tile) (r : Factors × Flags) : Res (Tile × Flags) :=
  let n := r.1.1.length
  if n ≤ t.cap then .ok (t.ofFactors r.1, r.2)
  else if i.rankMode = 1 ∧ t.rows.length = 64 then
    let x := (densify r.1).run r.2
    .ok (t.ofDense x.1, x.2)
  else if i.rankMode = 2 then do
    workspace i d n
    let y := (recompress r.1.1 r.1.2 n i.tol none).run r.2
    if y.1.1.length ≤ t.cap then .ok (t.ofFactors y.1, y.2) else rankOvf d y.1.1.length t.cap
  else rankOvf d n t.cap

/-- A dense sum written to td (10 R284): it requires rank 64. -/
def deliverDense (i : Inst) (d : TReg) (t : Tile) (r : List (List Nat) × Flags) : Res (Tile × Flags) :=
  if t.rows.length = 64 then .ok (t.ofDense r.1, r.2)
  else if i.rankMode = 2 then deliverFactors i d t ((r.1, identity 64 64), r.2)
  else rankOvf d 64 t.cap

/-- A tile operand: allocated, and not of 64-bit elements (10 R281, R283). -/
def lrOperand (i : Inst) (t : TReg) : Res Tile := do
  let x ← i.tileAt t
  check (x.form != .d64) .bufferRange (BitVec.ofNat 64 (0x100 + t.val))
  .ok x

/-- The commit of a low-rank instruction: td and MFLG (10 R279). -/
def lrCommit (s : State) (d : TReg) (r : Res (Tile × Flags)) : Res State :=
  r.map fun x => s.modInst s.cur.core fun i => (i.setTile d (some x.1)).orMflg (x.2.zeroExtend 64)

/-- The product of two factor pairs (10 R283). -/
def mulFactors (a b : Factors) : Lr Factors := do
  let w ← a.2.mapM fun va => b.1.mapM fun ub => colDot va ub
  if a.1.length ≤ b.1.length then
    let v ← w.mapM fun wc => (List.range 64).mapM fun j => colDot (b.2.map fun c => at0 c j) wc
    pure (a.1, v)
  else
    let u ← (List.range b.1.length).mapM fun e =>
      (List.range 64).mapM fun i => colDot (a.1.map fun c => at0 c i) (w.map fun r => at0 r e)
    pure (u, b.2)

/-- The rows of a dense matrix given by columns. -/
def rowOf (cols : List (List Nat)) (i : Nat) : List Nat := cols.map fun c => at0 c i

/-- The effect of lrmul (10 R283). -/
def resLrmul (s : State) (d a b : TReg) : Res State := do
  let i := s.inst s.cur.core
  let x ← lrOperand i a
  let y ← lrOperand i b
  let t ← tdCheck i d .lr
  check (x.factor || y.factor) .bufferRange (BitVec.ofNat 64 (0x100 + b.val))
  let r : Factors × Flags :=
    if x.factor && y.factor then (mulFactors x.factors y.factors).run 0
    else if x.factor then
      let f := x.factors
      let r := (f.2.mapM fun v => y.denseCols.mapM fun c => colDot c v).run 0
      ((f.1, r.1), r.2)
    else
      let f := y.factors
      let r := (f.1.mapM fun u => (List.range 64).mapM fun k => colDot (rowOf x.denseCols k) u).run 0
      ((r.1, f.2), r.2)
  lrCommit s d (deliverFactors i d t r)

/-- The effect of lradd (10 R284). -/
def resLradd (s : State) (d a b : TReg) (neg : Bool) : Res State := do
  let i := s.inst s.cur.core
  let x ← lrOperand i a
  let y ← lrOperand i b
  let t ← tdCheck i d .lr
  let sg := fun (m : List (List Nat)) => if neg then m.map (·.map negBit) else m
  if x.factor && y.factor then
    lrCommit s d (deliverFactors i d t ((x.factors.1 ++ sg y.factors.1, x.factors.2 ++ y.factors.2), 0))
  else
    let sum : Lr (List (List Nat)) := do
      let xa ← x.dense
      let xb ← y.dense
      (xa.zip (sg xb)).mapM fun c => (c.1.zip c.2).mapM fun e => lrDot [term1 e.1, term1 e.2] none
    lrCommit s d (deliverDense i d t (sum.run 0))

/-- The effect of lrcmp (10 R287). -/
def resLrcmp (s : State) (d a : TReg) : Res State := do
  let i := s.inst s.cur.core
  let x ← tdCheck i a .lr
  let t ← tdCheck i d .lr
  let k := x.rank
  let f : Factors := if x.factor then x.factors else (x.denseCols, identity 64 64)
  if k = 0 then .ok () else workspace i d k
  let y := (recompress f.1 f.2 k i.tol (some t.cap)).run 0
  lrCommit s d (.ok (t.ofFactors y.1, y.2))

/-- The effect of lrden (10 R285). -/
def resLrden (s : State) (d a : TReg) (acc : Bool) : Res State := do
  let i := s.inst s.cur.core
  let x ← tdCheck i a .lr
  let t ← i.tileAt d
  check ((t.form == .d32 || (t.form == .lr && t.rows.length == 64)) && (d != a || (!x.factor && acc))) .bufferRange
    (BitVec.ofNat 64 (0x100 + d.val))
  let run : Lr (List (List Nat)) := do
    let old ← if acc then t.dense else pure []
    let accAt := fun i j => if acc then some (at0 (col old j) i) else none
    if x.factor then
      (List.range 64).mapM fun j => (List.range 64).mapM fun i =>
        lrDot ((rowOf x.factors.1 i).zipWith term2 (rowOf x.factors.2 j)) (accAt i j)
    else if acc then
      (List.range 64).mapM fun j => (List.range 64).mapM fun i => lrDot [term1 (x.word i j)] (accAt i j)
    else pure x.denseCols
  let r := run.run 0
  lrCommit s d (.ok (t.ofDense r.1, r.2))

/-- lrrank (10 R286): the rank goes to q9; it belongs to no class. -/
def execLrrank (tk : Tok) (a : TReg) (s : State) : Outcome State Fault Refusal :=
  let g := s.cur.core
  engineRun s tk [] [] false do
    let x ← tdCheck (s.inst g) a .lr
    need (decide ((s.inst g).qr[9].length < 8))
    .ok ((s.modInst g fun i => { i with qr := i.qr.set 9 (i.qr[9] ++ [BitVec.ofNat 64 x.rank]) }).sink g)

/-- lrrank.set (10 R286): the rank comes from q8. -/
def execLrrankSet (tk : Tok) (d : TReg) (s : State) : Outcome State Fault Refusal :=
  let g := s.cur.core
  engineRun s tk [] [] false do
    let t ← tdCheck (s.inst g) d .lr
    need (!(s.inst g).qw[8].isEmpty)
    let v := ((s.inst g).qw[8].headD 0).toNat
    asLate true (if v ≤ t.cap ∨ (v = 64 ∧ t.rows.length = 64) then .ok () else rankOvf d v t.cap)
    .ok ((s.modInst g fun i => { i.setTile d (some { t with rank := v }) with qw := i.qw.set 8 i.qw[8].tail }).sink g)

end Sys2Proof.Machine
end

