-- ==== Sys2Proof/Machine/Fetch.lean ====
section
/-! DEFINITION. Which word a stream or a queue issues next, and when it may (02 R46, R64, R65, 05 R143, 12 R341, R346-R349,
16 R424, R430), and the placing of one word for `State.withFetchWord`. -/

namespace Sys2Proof.Machine

open Host

/-- What an agent finds when it turns to its next instruction: nothing it may do now, a trap, or an instruction. -/
inductive Fetched
  | idle
  | trap (cur : Cur) (c : Cause) (tval : Word)
  | run (cur : Cur) (i : Instr)

/-- A source whose update waits for a place in an overflow list issues nothing (14 R390). -/
def Inst.stalled (i : Inst) (src : Source) : Bool := i.copies.any fun c => c.stalled && c.src == src

/-- Whether a source may issue now; `asked` says that a pre-emption request is pending. A stream that stands at a safe point
issues nothing then (16 R430); a word of the VE or the ME in part performed is finished even while the streams freeze (16 R424). -/
def Inst.mayIssue (i : Inst) (asked : Bool) (src : Source) : Bool :=
  let quiet := !i.freezing && !i.handler
  let free := fun st : Stream => !st.ended && !(st.held && asked && !i.handler)
  let ce := quiet && !i.ceFaulted && !i.stalled src
  match src with
  | .scu => free i.scu && i.wmon.isNone && (i.slot.isSome || !i.freezing)
  | .ve => (quiet || i.doneVe != .none) && free i.ve && i.hollyhock.isNone
  | .me => (quiet || !i.doneMe.isEmpty) && free i.me && i.assist.isNone
  | .ce => ce && free i.ce
  | .q0 => ce && !i.qw[0].isEmpty && i.q0Held.isEmpty
  | .q1 => ce && decide (2 ≤ i.qw[1].length) && i.q1Held.isEmpty && decide (i.qr[1].length < 16)
  | .q3 => ce && !i.qw[3].isEmpty
  | .helper => ce && i.helper.isSome

/-- The CE majors that the helper issues (12 R349). -/
def helperMajor (m : Nat) : Bool := decide ((1 ≤ m ∧ m ≤ 0x18) ∨ m = 0x1F)

/-- Words of the helper alone (12 R349). -/
def helperOnly (m : Nat) : Bool := m == 0x14 || m == 0x15

/-- The address of the next word of a source that reads an instruction memory; an mloop's slot for the ME (09 R269). -/
def Inst.nextPc (i : Inst) (src : Source) : Nat :=
  match src with
  | .me => match i.mloop with
    | some m => m.pc + 4 + 4 * (m.st * m.ii + m.w)
    | none => i.me.pc
  | .helper => match i.helper with
    | some h => h.pc
    | none => 0
  | _ => (i.stream src.engine).pc

/-- The fate of a word by the checks of 02 R64, and its TVAL (02 R65). -/
def judge (cur : Cur) (e : Engine) : Fetched :=
  let w := cur.word.toNat
  let w1 := cur.word1.toNat
  let m := majorOf e w
  let bad : Fetched := .trap cur .illegal (BitVec.ofNat 64 (w + if isSegWord e w then w1 * 2 ^ 32 else 0))
  let other := match cur.src with
    | .helper => !helperMajor m || decide (2 ^ 30 ≤ w)
    | .ce => helperOnly m
    | _ => false
  if other then bad
  else match decode e w w1 with
    | .ok i => .run cur i
    | .error (.absentClass n) => .trap cur .mxcap (BitVec.ofNat 64 (w + n * 2 ^ 32))
    | .error _ => bad

/-- The collective that a q3 entry names: its kind in bits [1:0] (18 R472). -/
def q3Instr (v : Word) : Instr :=
  let t : Tok := ⟨false, false⟩
  match bits v.toNat 1 0 with
  | 0 => .collAr t 0 0 false
  | 1 => .collRs t 0 0 false
  | 2 => .collAg t 0 0 false
  | _ => .collBc t 0 0 false

/-- The next instruction of a source on core g. A fetch past the end of the instruction memory is ILLEGAL (02 R46); so is a seg in
its last word, whose word 1 would be fetched there, and this comes before the reserved bits of its word 0 (LOG 80). -/
def State.fetch (s : State) (g : CoreNo) (src : Source) : Fetched :=
  let i := s.inst g
  if s.power ≠ .d0 ∨ s.cores[g].occupant.isNone ∨ !i.mayIssue (s.asked g) src then .idle
  else
    let e := src.engine
    let at' (pc : Nat) (w w1 : Word32) : Cur := ⟨g, src, pc, w, w1, s.tick, false⟩
    match src with
    | .q0 => judge (at' 0 ((i.qw[0].headD 0).setWidth 32) 0) .ce
    | .q1 => judge (at' 0 ((i.qw[1].headD 0).setWidth 32) 0) .ce
    | .q3 => .run (at' 0 0 0) (q3Instr (i.qw[3].headD 0))
    | _ =>
      let pc := i.nextPc src
      let st := i.stream e
      let w := st.wordAt pc
      let w1 := st.wordAt (pc + 4)
      if imemSize e ≤ pc then .trap (at' pc 0 0) .illegal (BitVec.ofNat 64 pc)
      else if isSegWord e w.toNat ∧ imemSize e ≤ pc + 4 then .trap (at' pc w 0) .illegal (BitVec.ofNat 64 (pc + 4))
      else judge (at' pc w w1) e

-- Steps of their own.

/-- The rows that are a step of some unit of their own; words, packets and mailbox requests run only through what holds them. -/
def ownStep : Instr → Bool
  | .fmodeWrite _ _ _ => true
  | .mflgWrite _ _ _ => true
  | .mtolWrite _ _ _ => true
  | .mrmodeWrite _ _ _ => true
  | .rungWrite _ _ => true
  | .fshareWrite _ _ => true
  | .wdogWrite _ _ => true
  | .q6ToVq2Transfer _ => true
  | .vq3ToQ7Transfer _ => true
  | .helperStart _ => true
  | .larkspurStart _ => true
  | .copyUnitLand _ _ _ => true
  | .copyComplete _ _ => true
  | .q2AtomicApply _ => true
  | .windowApply _ _ => true
  | .wmonSatisfy _ => true
  | .hollyhockSettle _ => true
  | .meFeederDecode _ => true
  | .assistEnter _ => true
  | .assistDone _ => true
  | .trapTake _ => true
  | .firmwareFirstService _ _ => true
  | .segMismatchReplay _ _ _ => true
  | .passEnd _ => true
  | .instancePlace _ _ => true
  | .shadowSwap _ => true
  | .taskKill _ _ => true
  | .preemptRequest _ => true
  | .contextSave _ => true
  | .contextRestore _ _ => true
  | .watchdogExpiry _ => true
  | .marginTest _ _ _ => true
  | .foxglove _ _ => true
  | .errorDetected _ _ => true
  | .capacityReduction _ => true
  | .channelRetire _ _ => true
  | .nodeFire _ => true
  | .ringPark _ => true
  | .ringRearm _ => true
  | .ringRestart _ _ => true
  | .slotGrant _ => true
  | .ringSliceExpiry _ => true
  | .taskDispatch _ => true
  | .taskComplete _ => true
  | .flitReceive _ _ => true
  | .nakReceive _ _ => true
  | .ackTimer _ => true
  | .replayTimeout _ => true
  | .retrainComplete _ _ => true
  | .laneFailure _ _ => true
  | .linkRetireReroute _ => true
  | .remoteUnitAck _ _ _ _ => true
  | .memberRemove _ _ => true
  | .collectiveCommit _ _ _ _ => true
  | .hostBar1Write _ _ => true
  | .hostAtomicop _ _ _ _ _ => true
  | .powerOn => true
  | .thermalTrip => true
  | .powerCapSet _ => true
  | .d3hotEntry => true
  | .d3coldEntry => true
  | .quoteRequest _ => true
  | .firmwareUpdate _ _ => true
  | .d3hotExit => true
  | .waitSatisfied _ => true
  | .coreOutOfService _ => true
  | .shadowWithdraw _ => true
  | _ => false

-- Placing one word.

/-- A stream with a word at its PC, able to issue; a PC outside the memory returns to 0. -/
def Stream.withWord (st : Stream) (e : Engine) (bs : List Byte) : Stream :=
  let pc := if st.pc % 4 = 0 ∧ st.pc + 8 ≤ imemSize e then st.pc else 0
  { st with pc := pc, imem := st.imem.put pc bs, ended := false, held := false }

/-- The instance with a word where engine e, or the helper for its own words, issues next, and nothing in the way of it. -/
def Inst.withWord (i : Inst) (e : Engine) (helper : Bool) (bs : List Byte) : Inst :=
  let i1 := { i with pending := none, assist := none, wmon := none, hollyhock := none, mloop := none, cmdFault := none,
                     doneVe := .none, doneMe := [], sys := { i.sys with tstat := 0 },
                     copies := i.copies.map fun c : Copy => { c with fault := none, stalled := false } }
  let i2 := i1.modStream e fun st => st.withWord e bs
  if helper then { i2 with helper := some ⟨i2.ce.pc, 0⟩ } else i2

/-- An instance stands on core 0 with an instruction's bytes where its engine issues next, and that issue is the next step. -/
def State.placeWord (s : State) (nbits w : Nat) : State :=
  let v := w % 2 ^ nbits
  let bs := leBytes 8 v
  let e := (tableEngine (leNat (bs.take 4)) (leNat (bs.drop 4))).getD .scu
  let helper := e == .ce && helperOnly (majorOf .ce v)
  let src : Source := if helper then .helper else match e with
    | .scu => .scu
    | .ve => .ve
    | .me => .me
    | .ce => .ce
  let t := s.modCore 0 fun c => { c with occupant := some (c.occupant.getD ⟨0, 0⟩), inst := c.inst.withWord e helper bs }
  { t with power := .d0, agenda := .issue 0 src :: s.agenda }

end Sys2Proof.Machine
end

