-- ==== Sys2Proof/Machine/MatrixWords.lean ====
section
/-! DEFINITION. The words of the matrix engine that belong to a capability class (09 R256, 10 R280), the assist trap (11 R305-R311),
DECODE in the operand feeder (09 R273), the loops of the ME (09 R268-R271) and its stream control (09 R272). -/

namespace Sys2Proof.Machine

open Host

/-- mma.f64 (09 R256). -/
def execMmaF64 (tk : Tok) (d : TReg) (a b : Sys2Proof.ZReg) (r : Rounding) (c t e : Bool) (s : State) :=
  classed s 0 (.mmaF64 tk d a b r c t e) tk e (resMmaF64 s d a b r c t)
/-- mma.b16 (09 R256). -/
def execMmaB16 (tk : Tok) (d : TReg) (a b : Sys2Proof.ZReg) (f : B16Fmt) (r : Rounding) (c t e : Bool) (s : State) :=
  classed s 2 (.mmaB16 tk d a b f r c t e) tk e (resMmaB16 s d a b f r c t)
/-- mmas (09 R261). -/
def execMmas (tk : Tok) (d : TReg) (a b : Sys2Proof.ZReg) (f : B16Fmt) (r : Rounding) (c t e : Bool) (s : State) :=
  classed s 7 (.mmas tk d a b f r c t e) tk e (resMmas s d a b f r c t)
/-- mma.f8 (09 R256). -/
def execMmaF8 (tk : Tok) (d : TReg) (a b : Sys2Proof.ZReg) (f : BitVec 2) (r : Rounding) (c t e : Bool) (s : State) :=
  classed s 3 (.mmaF8 tk d a b f r c t e) tk e (resMmaF8 s d a b f r c t)
/-- mma.i8 (09 R256). -/
def execMmaI8 (tk : Tok) (d : TReg) (a b : Sys2Proof.ZReg) (f : BitVec 2) (c t e : Bool) (s : State) :=
  classed s 4 (.mmaI8 tk d a b f c t e) tk e (resMmaI8 s d a b f c t)
/-- mma.f4 (09 R256). -/
def execMmaF4 (tk : Tok) (d : TReg) (a b : Sys2Proof.ZReg) (r : Rounding) (c t e : Bool) (s : State) :=
  classed s 5 (.mmaF4 tk d a b r c t e) tk e (resMmaF4 s d a b r c t)
/-- mma.i4 (09 R256). -/
def execMmaI4 (tk : Tok) (d : TReg) (a b : Sys2Proof.ZReg) (f : BitVec 2) (c t e : Bool) (s : State) :=
  classed s 6 (.mmaI4 tk d a b f c t e) tk e (resMmaI4 s d a b f c t)
/-- lrset (10 R282). -/
def execLrset (tk : Tok) (d : TReg) (a b : Sys2Proof.ZReg) (e : Bool) (s : State) :=
  classed s 1 (.lrset tk d a b e) tk e (resLrset s d a b)
/-- lrmul (10 R283). -/
def execLrmul (tk : Tok) (d a b : TReg) (s : State) :=
  classed s 1 (.lrmul tk d a b) tk false (resLrmul s d a b)
/-- lradd (10 R284). -/
def execLradd (tk : Tok) (d a b : TReg) (n : Bool) (s : State) :=
  classed s 1 (.lradd tk d a b n) tk false (resLradd s d a b n)
/-- lrcmp (10 R287). -/
def execLrcmp (tk : Tok) (d a : TReg) (s : State) :=
  classed s 1 (.lrcmp tk d a) tk false (resLrcmp s d a)
/-- lrden (10 R285). -/
def execLrden (tk : Tok) (d a : TReg) (c : Bool) (s : State) :=
  classed s 1 (.lrden tk d a c) tk false (resLrden s d a c)

/-- An instruction of classes 0 to 7: its class, its tokens, its SE flag and its effect; its streams and whether it pops the MDQ are what
it waits for (09 R259). -/
structure Classed where
  cls : Nat
  tk : Tok
  se : Bool
  streams : List Sys2Proof.ZReg
  sparse : Bool
  res : State → Res State

/-- The classed reading of an instruction, if it belongs to a class. -/
def classedOf : Instr → Option Classed
  | .mmaF64 tk d a b r c t e => some ⟨0, tk, e, [a, b], false, fun s => resMmaF64 s d a b r c t⟩
  | .mmaB16 tk d a b f r c t e => some ⟨2, tk, e, [a, b], false, fun s => resMmaB16 s d a b f r c t⟩
  | .mmas tk d a b f r c t e => some ⟨7, tk, e, [a, b], true, fun s => resMmas s d a b f r c t⟩
  | .mmaF8 tk d a b f r c t e => some ⟨3, tk, e, [a, b], false, fun s => resMmaF8 s d a b f r c t⟩
  | .mmaI8 tk d a b f c t e => some ⟨4, tk, e, [a, b], false, fun s => resMmaI8 s d a b f c t⟩
  | .mmaF4 tk d a b r c t e => some ⟨5, tk, e, [a, b], false, fun s => resMmaF4 s d a b r c t⟩
  | .mmaI4 tk d a b f c t e => some ⟨6, tk, e, [a, b], false, fun s => resMmaI4 s d a b f c t⟩
  | .lrset tk d a b e => some ⟨1, tk, e, [a, b], false, fun s => resLrset s d a b⟩
  | .lrmul tk d a b => some ⟨1, tk, false, [], false, fun s => resLrmul s d a b⟩
  | .lradd tk d a b n => some ⟨1, tk, false, [], false, fun s => resLradd s d a b n⟩
  | .lrcmp tk d a => some ⟨1, tk, false, [], false, fun s => resLrcmp s d a⟩
  | .lrden tk d a c => some ⟨1, tk, false, [], false, fun s => resLrden s d a c⟩
  | _ => none

-- The assist trap.

/-- The word of an assist as the executing word. -/
def State.atAssist (s : State) (g : CoreNo) (a : Assist) : State := { s with cur := ⟨g, .me, a.pc, a.word, 0, a.stamp, false⟩ }

/-- ASSIST_ENTER (11 R306, R307): the instruction's waits are over and the other streams stand at their boundaries; they freeze. -/
def execAssistEnter (g : CoreNo) (s : State) : Outcome State Fault Refusal :=
  let i := s.inst g
  match i.assist with
  | none => .next s
  | some a =>
    match classedOf a.instr with
    | none => .next s
    | some c =>
      let mdqReady := !c.sparse || (i.mdq.head?).any (·.landed)
      let ready := (s.atAssist g a).tokReady c.tk && c.streams.all i.slotReady && mdqReady
      if a.frozen ∨ i.pending.isSome ∨ i.handler ∨ !i.boundary ∨ !ready then .next s
      else .next (s.modInst g fun j => { j with assist := some { a with frozen := true, since := Config.clock s.tick } })

/-- The resources of assists after one has run: what the injected words leave there is open (11 R308; LOG 74). -/
def AssistUnit.used (tick : Nat) : AssistUnit :=
  let w := fun n : Nat => (Config.freeWord tick (2000 + n)).setWidth 32
  ⟨Vector.ofFn fun r : Fin 24 => Vector.ofFn fun l : Fin 512 => w (512 * r.val + l.val),
    Vector.ofFn fun k : Fin 8 => BitVec.ofFnLE fun l : Fin 512 => (w (20000 + 512 * k.val + l.val)).getLsbD 0,
    Vector.ofFn fun l : Fin 512 => (w (30000 + l.val)).setWidth 5,
    Vector.ofFn fun t : Fin 2 => some ⟨.d32, (List.range 64).map fun r => Vector.ofFn fun c : Fin 64 => w (40000 + 4096 * t.val + 64 * r + c.val), 0⟩,
    Vector.ofFn fun o : Fin 3 => [Vector.ofFn fun l : Fin 512 => w (60000 + 512 * o.val + l.val)]⟩

/-- The internal cause ASSIST_DONE, in firmware's own trap state only (11 R309, 16 Table 16.9). -/
def assistDoneCode : Nat := 0x14

/-- ASSIST_DONE (11 R309, R310): the instruction is committed as at native retirement, or its trap is raised; the streams are
released, firmware's trap state holds the cause, and the sink watchdog has stood still (05 R157). -/
def execAssistDone (g : CoreNo) (s : State) : Outcome State Fault Refusal :=
  match (s.inst g).assist with
  | none => .next s
  | some a =>
    match classedOf a.instr with
    | none => .next s
    | some c =>
      if !a.frozen ∨ a.abandoned then .next s
      else
        let t := (s.atAssist g a).modCore g fun x =>
          { x with inst := { x.inst with assist := none }, aux := .used s.tick, fw := { x.fw with cause := assistDoneCode },
                   watchdog := x.watchdog + (Config.clock s.tick - Nat.max a.since x.watchdog) }
        engineRun t c.tk [] [] c.se (c.res t)

/-- ME_FEEDER_DECODE (09 R273, 15 R411): the feeder finds a bad tagged unit in what the next ME word reads; the word traps DECODE. -/
def execMeFeederDecode (g : CoreNo) (s : State) : Outcome State Fault Refusal :=
  match s.fetch g .me with
  | .run cur instr =>
    let t := { s with cur := cur }
    match classedOf instr with
    | none => .next s
    | some c =>
      match c.res t with
      | .error (.late .decode v) =>
        if (capvOf s.cores[g].rung).testBit c.cls then engineRun t c.tk [] [] c.se (.error (.late .decode v)) else .next s
      | _ => .next s
  | _ => .next s

-- Loops.

/-- Words that no mloop body may hold (09 R270): loop, mloop, seg, safe, end, and any word with SE set. -/
def mloopForbidden (w : Word32) : Bool :=
  let m := majorOf .me w.toNat
  decide (m = 0x15 ∨ m = 0x16 ∨ (0x19 ≤ m ∧ m ≤ 0x1B)) || (decide (1 ≤ m ∧ m ≤ 7) && w.getLsbD 1)

/-- The limits of an mloop of length l at address p (09 R270): one that lies in the body of an active loop ends before that loop's last
word. -/
def mloopOk (st : Stream) (p l ii : Nat) : Bool :=
  decide (ii ≠ 0 ∧ l % ii = 0 ∧ l / ii ≤ 16 ∧ p + 4 * l + 4 ≤ imemSize .me)
    && (List.range l).all (fun k => !mloopForbidden (st.wordAt (p + 4 + 4 * k)))
    && st.loops.all fun f => !decide (f.start ≤ p ∧ p ≤ f.last) || decide (p + 4 * l < f.last)

/-- The oldest entry of q8, popped. -/
def popQ8 (s : State) : Res (State × Word) := do
  let g := s.cur.core
  need (!(s.inst g).qw[8].isEmpty)
  .ok ((s.modInst g fun i => { i with qw := i.qw.set 8 i.qw[8].tail }).sink g, (s.inst g).qw[8].headD 0)

/-- mloop (09 R269): its count is immediate or popped from q8. -/
def execMloop (tk : Tok) (l : Fin 1024) (ii : Fin 64) (c : Bool) (n : Fin 128) (s : State) : Outcome State Fault Refusal :=
  let st := (s.inst s.cur.core).me
  let f : Res (State × Word) := do
    check (mloopOk st s.cur.pc l.val ii.val) .illegal (s.cur.word.zeroExtend 64)
    if c then popQ8 s else .ok (s, BitVec.ofNat 64 n.val)
  let n' : Word := match f with
    | .ok r => r.2
    | .error _ => 0
  engineRunThen s tk [] [] false (f.map (·.1)) fun t =>
    t.modInst s.cur.core fun i =>
      if n' = 0 then { i with me := { i.me with pc := s.cur.pc + 4 + 4 * l.val, loops := st.loops, held := false } }
      else { i with mloop := some ⟨s.cur.pc, l.val, ii.val, n', 0, 0, l.val / ii.val - 1⟩ }.settleMloop

/-- loop (09 R268): its count is immediate or popped from q8. -/
def execMeLoop (tk : Tok) (l : Fin 1024) (c : Bool) (n : Fin 8192) (s : State) :=
  engineLoop s tk l.val (if c then none else some n.val) (popQ8 s)

-- Stream control (09 Table 9.4).

/-- tkw (05 R144). -/
def execMeTkw (tk : Tok) (f : Engine) (s : State) := engineTkw s tk f
/-- tks (05 R144). -/
def execMeTks (tk : Tok) (f : Engine) (s : State) := engineTks s tk f
/-- seg (16 R434). -/
def execMeSeg (tk : Tok) (cnt : BitVec 24) (crc : BitVec 16) (s : State) := engineSeg s tk cnt crc
/-- safe (16 R428). -/
def execMeSafe (tk : Tok) (s : State) := engineSafe s tk
/-- end (16 R428). -/
def execMeEnd (tk : Tok) (s : State) := engineEnd s tk
/-- nop (09 R272). -/
def execMeNop (tk : Tok) (s : State) : Outcome State Fault Refusal := engineRun s tk [] [] false (.ok s)

end Sys2Proof.Machine
end

