-- ==== Sys2Proof/Machine/Scalar.lean ====
section
/-! DEFINITION. Integer register instructions, immediates, loads and stores of the scalar stream (04 R110-R117). -/

namespace Sys2Proof.Machine

open Host

/-- 1 or 0. -/
def ofBool64 (b : Bool) : Word := if b then 1 else 0

/-- The 6-bit shift count of a register (04 R111). -/
def shiftCount (b : Word) : Nat := b.toNat % 64

/-- Signed division: -1 for b = 0, and wrapping for the most negative number by -1 (04 R112). -/
def divS (a b : Word) : Word := if b = 0 then BitVec.allOnes 64 else BitVec.ofInt 64 (a.toInt.tdiv b.toInt)

/-- Unsigned division: all ones for b = 0 (04 R112). -/
def divU (a b : Word) : Word := if b = 0 then BitVec.allOnes 64 else BitVec.ofNat 64 (a.toNat / b.toNat)

/-- Signed remainder, with the sign of the dividend: a for b = 0 (04 R111, R112). -/
def remS (a b : Word) : Word := if b = 0 then a else BitVec.ofInt 64 (a.toInt.tmod b.toInt)

/-- Unsigned remainder: a for b = 0 (04 R112). -/
def remU (a b : Word) : Word := if b = 0 then a else BitVec.ofNat 64 (a.toNat % b.toNat)

/-- add (04 R110). -/
def execAdd (d a b : SReg) (s : State) := scuAlu2 s d a b fun x y => x + y
/-- sub (04 R110). -/
def execSub (d a b : SReg) (s : State) := scuAlu2 s d a b fun x y => x - y
/-- and (04 R110). -/
def execAnd (d a b : SReg) (s : State) := scuAlu2 s d a b fun x y => x &&& y
/-- or (04 R110). -/
def execOr (d a b : SReg) (s : State) := scuAlu2 s d a b fun x y => x ||| y
/-- xor (04 R110). -/
def execXor (d a b : SReg) (s : State) := scuAlu2 s d a b fun x y => x ^^^ y
/-- shl (04 R110, R111). -/
def execShl (d a b : SReg) (s : State) := scuAlu2 s d a b fun x y => x <<< shiftCount y
/-- shr (04 R110, R111). -/
def execShr (d a b : SReg) (s : State) := scuAlu2 s d a b fun x y => x >>> shiftCount y
/-- sar (04 R110, R111). -/
def execSar (d a b : SReg) (s : State) := scuAlu2 s d a b fun x y => x.sshiftRight (shiftCount y)
/-- slt (04 R110). -/
def execSlt (d a b : SReg) (s : State) := scuAlu2 s d a b fun x y => ofBool64 (x.slt y)
/-- sltu (04 R110). -/
def execSltu (d a b : SReg) (s : State) := scuAlu2 s d a b fun x y => ofBool64 (x.ult y)
/-- mul (04 R110). -/
def execMul (d a b : SReg) (s : State) := scuAlu2 s d a b fun x y => x * y
/-- mulh (04 R110): the high half of the signed product. -/
def execMulh (d a b : SReg) (s : State) := scuAlu2 s d a b fun x y => BitVec.ofInt 64 ((x.toInt * y.toInt) / 2 ^ 64)
/-- mulhu (04 R110): the high half of the unsigned product. -/
def execMulhu (d a b : SReg) (s : State) := scuAlu2 s d a b fun x y => BitVec.ofNat 64 ((x.toNat * y.toNat) / 2 ^ 64)
/-- div (04 R112). -/
def execDiv (d a b : SReg) (s : State) := scuAlu2 s d a b divS
/-- divu (04 R112). -/
def execDivu (d a b : SReg) (s : State) := scuAlu2 s d a b divU
/-- rem (04 R111, R112). -/
def execRem (d a b : SReg) (s : State) := scuAlu2 s d a b remS
/-- remu (04 R112). -/
def execRemu (d a b : SReg) (s : State) := scuAlu2 s d a b remU
/-- min (04 R110). -/
def execMin (d a b : SReg) (s : State) := scuAlu2 s d a b fun x y => if y.slt x then y else x
/-- minu (04 R110). -/
def execMinu (d a b : SReg) (s : State) := scuAlu2 s d a b fun x y => if y.ult x then y else x
/-- max (04 R110). -/
def execMax (d a b : SReg) (s : State) := scuAlu2 s d a b fun x y => if x.slt y then y else x
/-- maxu (04 R110). -/
def execMaxu (d a b : SReg) (s : State) := scuAlu2 s d a b fun x y => if x.ult y then y else x
/-- addi (04 R113). -/
def execAddi (d a : SReg) (i : BitVec 14) (s : State) := scuAlu1 s d a fun x => x + sext14 i
/-- andi (04 R113). -/
def execAndi (d a : SReg) (i : BitVec 14) (s : State) := scuAlu1 s d a fun x => x &&& i.zeroExtend 64
/-- ori (04 R113). -/
def execOri (d a : SReg) (i : BitVec 14) (s : State) := scuAlu1 s d a fun x => x ||| i.zeroExtend 64
/-- xori (04 R113). -/
def execXori (d a : SReg) (i : BitVec 14) (s : State) := scuAlu1 s d a fun x => x ^^^ i.zeroExtend 64
/-- shli (04 R113). -/
def execShli (d a : SReg) (i : Fin 64) (s : State) := scuAlu1 s d a fun x => x <<< i.val
/-- shri (04 R113). -/
def execShri (d a : SReg) (i : Fin 64) (s : State) := scuAlu1 s d a fun x => x >>> i.val
/-- sari (04 R113). -/
def execSari (d a : SReg) (i : Fin 64) (s : State) := scuAlu1 s d a fun x => x.sshiftRight i.val
/-- slti (04 R113). -/
def execSlti (d a : SReg) (i : BitVec 14) (s : State) := scuAlu1 s d a fun x => ofBool64 (x.slt (sext14 i))
/-- sltui (04 R113): the immediate is sign-extended, the comparison unsigned. -/
def execSltui (d a : SReg) (i : BitVec 14) (s : State) := scuAlu1 s d a fun x => ofBool64 (x.ult (sext14 i))
/-- lui (04 R114): imm20 at [33:14], sign-extended above. -/
def execLui (d : SReg) (i : BitVec 20) (s : State) :=
  scuRun s [] (some d) (.ok ()) fun t _ => .ok (t, (i.signExtend 64) <<< 14)
/-- pcadd (04 R114): PC + 4 x imm20. -/
def execPcadd (d : SReg) (i : BitVec 20) (s : State) :=
  scuRun s [] (some d) (.ok ()) fun t _ => .ok (t, BitVec.ofNat 64 s.cur.pc + (i.signExtend 64) <<< 2)
/-- ldb (04 R115). -/
def execLdb (d a : SReg) (i : BitVec 14) (s : State) := scuLoad s d a i 1 (sextBytes 1)
/-- ldbu (04 R115). -/
def execLdbu (d a : SReg) (i : BitVec 14) (s : State) := scuLoad s d a i 1 (BitVec.ofNat 64)
/-- ldh (04 R115). -/
def execLdh (d a : SReg) (i : BitVec 14) (s : State) := scuLoad s d a i 2 (sextBytes 2)
/-- ldhu (04 R115). -/
def execLdhu (d a : SReg) (i : BitVec 14) (s : State) := scuLoad s d a i 2 (BitVec.ofNat 64)
/-- ldw (04 R115). -/
def execLdw (d a : SReg) (i : BitVec 14) (s : State) := scuLoad s d a i 4 (sextBytes 4)
/-- ldwu (04 R115). -/
def execLdwu (d a : SReg) (i : BitVec 14) (s : State) := scuLoad s d a i 4 (BitVec.ofNat 64)
/-- ldd (04 R115). -/
def execLdd (d a : SReg) (i : BitVec 14) (s : State) := scuLoad s d a i 8 (BitVec.ofNat 64)
/-- stb (04 R115). -/
def execStb (d a : SReg) (i : BitVec 14) (s : State) := scuStore s d a i 1
/-- sth (04 R115). -/
def execSth (d a : SReg) (i : BitVec 14) (s : State) := scuStore s d a i 2
/-- stw (04 R115). -/
def execStw (d a : SReg) (i : BitVec 14) (s : State) := scuStore s d a i 4
/-- std (04 R115). -/
def execStd (d a : SReg) (i : BitVec 14) (s : State) := scuStore s d a i 8

end Sys2Proof.Machine
end

