-- ==== Sys2Proof/Machine/Transforms.lean ====
section
/-! DEFINITION. Dispatch of tracked tasks (17 R452) and the four transforms (17 R456). -/

namespace Sys2Proof.Machine

open Host

/-- A part of a transform's work on a core: what one step reads and writes. -/
abbrev PartWork := State → Except CopyStop State

/-- A failed check of a transform. -/
def pieceFault {α : Type} (c : Cause) : Except CopyStop α := .error (.fault c 0)

/-- COMPRESS, block k of the image of 15 R407. -/
def compressPart (g : CoreNo) (src dst len exp k : Nat) : PartWork := fun s => do
  let r ← s.copyReadAt g src len s.openDist
  let bs := ((compressImage r.2 exp).drop (256 * k)).take 256
  if bs.isEmpty then .ok r.1 else r.1.copyWrite g (dst + 256 * k) bs s.openDist

/-- EXPAND, the header: the buffer stands at a multiple of 256 and its header is sound (15 R404, R410). -/
def expandHeader (g : CoreNo) (src len : Nat) : PartWork := fun s => do
  if src % 256 ≠ 0 then pieceFault .misalign
  else match headerOf (← s.copyRead g src 64) len with
    | none => pieceFault .decode
    | some _ => .ok s

/-- The copy that an EXPAND stands for. -/
def expandCopy : Copy := bareCopy (.cpx ⟨false, false⟩ 0 0 0 .mem false 0) .reset .reset 0

/-- EXPAND, tile t. -/
def expandTilePart (g : CoreNo) (src dst len t : Nat) : PartWork := fun s => do
  let r ← s.readTile g expandCopy src len t s.openDist
  match r.2.2 with
  | .plain bs => r.1.copyWrite g (dst + 256 * t) bs s.openDist
  | .stored bs _ => match expandTile bs with
    | some full => r.1.copyWrite g (dst + 256 * t) full s.openDist
    | none => pieceFault .decode

/-- A descriptor of LAYOUT: 64-byte aligned, sound, in memory. -/
def layoutStream (s : State) (g : CoreNo) (va : Nat) : Except CopyStop ZReg := do
  if va % 64 ≠ 0 then pieceFault .misalign
  else do
    let z := zregOf (← s.copyRead g va 64)
    if z.src ≠ 0 ∨ (loadReason .reset z).isSome then pieceFault .streamCfg else .ok z

/-- The copy that a LAYOUT stands for: it belongs to no instance. -/
def layoutCopy (src dst : ZReg) (map : Word) : Copy := bareCopy (.lyt ⟨false, false⟩ 0 0 0 0 false) dst src map

/-- LAYOUT: elements lo to lo + n of the lyt of 12 R352-R354 between two memory streams. -/
def layoutPart (g : CoreNo) (sdesc ddesc : Nat) (map : Word) (lo n : Nat) : PartWork := fun s => do
  let zq ← layoutStream s g sdesc
  let zp ← layoutStream s g ddesc
  let i : Inst := { Inst.reset with z := (Inst.reset.z.set 0 zp).set 1 zq }
  match lytChecks i 0 1 map with
  | .error _ => pieceFault .streamCfg
  | .ok _ => do
    let counts := zq.counts
    let parts := ((List.range (Nat.min n (outCount counts map - lo))).map (lo + ·)).map fun t =>
      (sourceElem counts map t).map fun e => (zq.bitOf e, zq.w)
    let vs ← s.readParts g (layoutCopy zq zp map) ⟨none, zq.base.toNat⟩ zq.dist (parts.filterMap id)
    let filled := (parts.foldl (fun (st : List Nat × List Nat) p => match p with
      | some _ => (st.1.drop 1, st.1.headD 0 :: st.2)
      | none => (st.1, 0 :: st.2)) (vs.2, [])).2.reverse
    vs.1.writeParts g (layoutCopy zq zp map) ⟨none, zp.base.toNat⟩ zp.dist (filled.zipIdx.map fun e => (zp.bitOf (lo + e.2), zp.w, e.1))

/-- QUANT, group k of n: its 512 elements and its 16 scales (06 R178). -/
def quantPart (g : CoreNo) (src dst n : Nat) (q : QntType) (md : Rounding) (k : Nat) : PartWork := fun s => do
  let r ← s.copyReadAt g (src + 2048 * k) 2048 s.openDist
  let xs := (chunks 4 512 r.2).map fun b => (leNat b, true)
  let blocks := (chunks 32 16 xs).map (quantBlock q md)
  let es := packQnt q ((blocks.flatMap (·.1)).map (·.1))
  let d := if q = .e2 then 256 else 512
  let t ← r.1.copyWrite g (dst + k * d) es s.openDist
  t.copyWrite g (dst + n * d + 16 * k) (blocks.map fun b => BitVec.ofNat 8 b.2) s.openDist

/-- The elements of a LAYOUT that one part of its work moves. -/
def layoutChunk : Nat := 256

/-- How many parts the work of a transform has, and how many of them a piece of at most 16 MiB of source takes (17 R456). -/
def State.transformSize (s : State) (ctx : Nat) : Instr → Nat × Nat
  | .transformCompress _ _ _ len _ _ => ((0x40 + 260 * (len.toNat / 256) + 255) / 256, 65536)
  | .transformExpand _ _ _ len _ => (1 + len.toNat / 256, 64527)
  | .transformQuant _ _ _ len _ _ _ => (len.toNat / 2048, 8192)
  | .transformLayout _ sd _ map _ => match s.descriptor ctx sd.toNat with
    | .ok z => ((outCount z.counts map + layoutChunk - 1) / layoutChunk, 2 ^ 27 / (layoutChunk * Nat.max 1 z.w))
    | _ => (1, 1)
  | _ => (0, 1)

/-- Part k of the work of a transform, on core g. -/
def transformPart (g : CoreNo) (i : Instr) (k : Nat) : PartWork :=
  match i with
  | .transformCompress _ src dst len exp _ => compressPart g src.toNat dst.toNat len.toNat exp.toNat k
  | .transformExpand _ src dst len _ =>
    if k = 0 then expandHeader g src.toNat len.toNat else expandTilePart g src.toNat dst.toNat len.toNat (k - 1)
  | .transformLayout _ sd dd map _ => layoutPart g sd.toNat dd.toNat map (layoutChunk * k) layoutChunk
  | .transformQuant _ src dst len q md _ => quantPart g src.toNat dst.toNat (len.toNat / 2048) q md k
  | _ => fun s => .ok s

/-- A change of phase. -/
def State.setPhase (s : State) (id : Nat) (p : TaskPhase) : State := s.modTask id fun t => { t with phase := p }

/-- The pieces of a transform of `total` parts, `per` to a piece. -/
def pieceCount (n : Nat × Nat) : Nat := (n.1 + n.2 - 1) / n.2

/-- The next piece of a dispatched transform begins on a free core, which it occupies (17 R456). -/
def State.pieceStart (s : State) (task : Nat) (g : CoreNo) : State :=
  match s.task task with
  | some t => match t.work, t.phase with
    | .transform i, .dispatched =>
      let n := s.transformSize t.ctx i
      if pieceCount n ≤ t.next ∨ !s.cores[g].free ∨ s.noPlacement then s
      else (s.modCore g fun c => { c with piece := some ⟨task, t.next, t.next * n.2⟩ }).modTask task fun t => { t with next := t.next + 1 }
    | _, _ => s
  | none => s

/-- A piece is finished: its core is free, and the transform completes with its last piece (17 R457). -/
def State.pieceEnd (s : State) (g : CoreNo) (p : PieceRun) (count : Nat) : State :=
  (s.modCore g (·.drop p.task)).modTask p.task fun t =>
    let l := t.retired ++ [p.num]
    { t with retired := l, phase := if count ≤ l.length then .done 0 0 else t.phase }

/-- A part of the work of a piece on core g, with the context of its task. -/
def State.pieceWork (s : State) (g : CoreNo) (p : PieceRun) (i : Instr) : Except CopyStop State :=
  (transformPart g i p.part (s.modCore g fun c => { c with occupant := some ⟨p.task, 0⟩ })).map fun u =>
    u.modCore g fun c => { s.cores[g] with tlb := c.tlb, piece := some { p with part := p.part + 1 } }

/-- The piece on core g does the next part of its work. A page that firmware may serve is served first; any other trap fails the
transform (17 R457). -/
def State.pieceStep (s : State) (g : CoreNo) : State :=
  match s.cores[g].piece with
  | none => s
  | some p => match s.task p.task with
    | none => s.modCore g (·.drop p.task)
    | some t => match t.work with
      | .image _ => s
      | .transform i =>
        let n := s.transformSize t.ctx i
        if Nat.min n.1 ((p.num + 1) * n.2) ≤ p.part then s.pieceEnd g p (pieceCount n)
        else match s.pieceWork g p i with
          | .ok u => u
          | .error (.fault c _) =>
            if (c == .pageR || c == .pageW) && !Config.policy s.tick 61 then s
            else { s with cores := s.cores.map fun c : Core => c.drop p.task }.setPhase p.task (.done 3 c.code)
          | .error _ => s

/-- TASK_DISPATCH (17 R451, R452): the data section of a task without dependences is copied to DATA, and the task is dispatched;
the pieces of a transform then take their cores. While the module is quiesced nothing is dispatched (15 R399). -/
def execTaskDispatch (task : Nat) (s : State) : Outcome State Fault Refusal :=
  match s.task task with
  | none => .next s
  | some t =>
    if t.phase ≠ .waiting ∨ !t.deps.isEmpty ∨ s.noPlacement then .next s
    else match t.work with
      | .image i => match s.cpWrite 60 t.ctx t.data.toNat i.data with
        | .ok u => .next (u.setPhase task .dispatched)
        | .later => .next s
        | .bad _ => .next (s.setPhase task (.done 2 0x04))
      | .transform i => .next (s.setPhase task (if (s.transformSize t.ctx i).1 = 0 then .done 0 0 else .dispatched))

end Sys2Proof.Machine
end

