-- ==== Sys2Proof/Machine/Traps.lean ====
section
/-! DEFINITION. Traps that are taken later than they were met: restartable faults of the copy engine (12 R341), delivery when the
other streams stand at their boundaries (16 R424), firmware-first causes (16 R421-R423) and segment mismatches (16 R437). -/

namespace Sys2Proof.Machine

open Host

/-- TPC of a trap of the copy engine (16 Table 16.5); for q3 the spec names none (LOG 16). -/
def State.ceTpc (s : State) (src : Source) (pc : Nat) (seq : BitVec 16) : Nat :=
  match src with
  | .q0 => seq.toNat
  | .q1 => seq.toNat
  | .q3 => (Config.freeWord s.tick 1).toNat % 65536
  | _ => pc

/-- The trap of the oldest faulting command of the copy engine (12 R341): a copy, or an scfg that waited behind the copies issued
before it. -/
def State.ceTrap (s : State) (g : CoreNo) : Option Pending :=
  let i := s.inst g
  let mk := fun (src : Source) (pc : Nat) (seq : BitVec 16) (c : Cause) (v : Word) =>
    (⟨c, v, s.ceTpc src pc seq, .ce, s.srcCode src, false, s.tick, c.route, false, none, none, false, none⟩ : Pending)
  match i.oldestFault with
  | some c => c.fault.map fun f => { mk c.src c.pc c.seq f.1 f.2 with copy := some c.id }
  | none => i.cmdFault.map fun f => mk f.src f.pc f.seq f.cause f.tval

/-- TRAP_TAKE (16 R424, 12 R341): a trap that waits is delivered once the other streams stand at their boundaries; a segment mismatch
is taken by firmware; with none pending, a fault of the copy engine is taken when no copy makes progress. -/
def execTrapTake (g : CoreNo) (s : State) : Outcome State Fault Refusal :=
  let i := s.inst g
  let calm := s.cores[g].occupant.isSome && !i.handler && i.boundary && !i.assist.any (·.frozen)
  if !calm then .next s
  else match i.pending with
    | some p =>
      if p.route = .segment then (if p.served then .next s else .next (s.modInst g fun i => i.takeSegment p))
      else if p.route = .user ∨ p.served then .next (s.deliver g p)
      else .next s
    | none =>
      if i.ceFaulted ∧ i.ceSettled then match s.ceTrap g with
        | some p => .next (s.raiseOn g p)
        | none => .next s
      else .next s

/-- TVEC.PF (16 Table 16.8). -/
def Inst.pageTraps (i : Inst) : Bool := i.sys.tvec.getLsbD 1

/-- The instance resumes after service: the faulting instruction issues again; faulted copies go on from their records. -/
def Inst.serviced (i : Inst) (e : Engine) : Inst :=
  match e with
  | .ce => { i.resumeCe false with pending := none }
  | _ => { i with pending := none }

/-- Firmware's writes of page-table words. -/
def State.writeWords (s : State) (l : List (Nat × Word)) : State :=
  l.foldl (fun s e => s.agentWrite 0 e.1 (leBytes 8 e.2.toNat)) s

/-- Firmware's record of a POISON trap (16 R422, 15 R402): no one is charged for a poison that is read. A fill names the spill line, any
other access the granule in memory; an address with no translation left is recorded as it stands (LOG 76). -/
def State.poisonRecord (s : State) (g : CoreNo) (p : Pending) : Notice :=
  let fills := match p.copy.bind fun n => (s.inst g).copy n with
    | some c => isFill c.instr
    | none => false
  if fills then .error .unattributed (.spill g.val) (bits p.tval.toNat 31 0 / 256 * 256) 8 0xFFFF
  else
    let pa := match s.lookup (some g) (s.ctxOf g) p.tval.toNat with
      | some e => e.pa + (p.tval.toNat - e.va)
      | none => p.tval.toNat
    .error .unattributed (.hbm (s.channelOf (pa / 256))) (pa / 32 * 32) 1 0xFFFF

/-- FIRMWARE_FIRST_SERVICE (16 R422): a page made resident resumes the instance, or with TVEC.PF is delivered; a page that cannot be
mapped, and poison, are delivered. Delivery in the handler is unhandled. -/
def execFirmwareFirstService (g : CoreNo) (answer : Service) (s : State) : Outcome State Fault Refusal :=
  let i := s.inst g
  match s.cores[g].occupant, i.pending with
  | some _, some p =>
    if p.route ≠ .firmware ∨ p.served ∨ !i.boundary then .next s
    else
      let done := { p with served := true }
      if p.cause = .poison then .next ({ s with notices := s.notices ++ [s.poisonRecord g p] }.deliver g done)
      else match answer with
        | .unmappable => .next (s.deliver g done)
        | .served ws =>
          let t := s.writeWords ws
          if i.pageTraps then .next (t.deliver g done) else .next (t.modInst g fun j => j.serviced p.eng)
  | _, _ => .next s

/-- A request that is pending on a core stands on the core to which its instance goes. -/
def State.carry (s t : State) (g h : CoreNo) : State :=
  t.modCore h fun c => { c with request := s.cores[g].request, keeping := s.cores[g].keeping }

/-- SEG_MISMATCH_REPLAY (16 R437): firmware has taken the mismatch and runs Foxglove on the core, freed for it. The instance goes
back to its last checkpoint, on its core when Foxglove passed there and the core stays in service, and else on another that 03 R98
allows; without replay or checkpoint its task is killed (LOG 85). Spill lines are no part of a context and stand as they are
(16 R432). -/
def execSegMismatchReplay (g : CoreNo) (passed : Bool) (dest : CoreNo) (s : State) : Outcome State Fault Refusal :=
  let i := s.inst g
  match s.cores[g].occupant, i.pending with
  | some o, some p =>
    if p.route ≠ .segment ∨ !p.served ∨ !i.boundary then .next s
    else
      let kill := Outcome.next ((s.killOn g Cause.segMismatch.code).foxTest (.me g) (!passed))
      match s.taskOn g, s.checkpoints.find? fun x => x.task == o.task && x.ordinal == o.ordinal with
      | some t, some x =>
        if !t.replay then kill
        else
          let x1 := { x with inst := { x.inst with spill := i.spill, spillBad := i.spillBad } }
          let u := (s.vacate g).foxTest (.me g) (!passed)
          if passed ∧ !s.cores[g].leaving then .next (s.carry (u.restoreOn x1 g) g g)
          else
            let found := match t.image with
              | some im => s.chooseCores im (fun _ => x.inst.sys.capreq.setWidth 16) [[o.ordinal]] dest (u.unitDie t.id im)
              | none => none
            if found = some [(o.ordinal, dest)] ∧ s.cores[dest].free then .next (s.carry (u.restoreOn x1 dest) g dest) else .next s
      | _, _ => kill
  | _, _ => .next s

end Sys2Proof.Machine
end

