-- ==== Sys2Proof/Machine/Watchdog.lean ====
section
/-! DEFINITION. The sink watchdog and its hang report (05 R157-R159). -/

namespace Sys2Proof.Machine

open Host

/-- The letter of an engine in the name of a token FIFO (05 R142). -/
def engineLetter : Engine → String
  | .scu => "s"
  | .ve => "v"
  | .me => "m"
  | .ce => "c"

/-- The name of a token FIFO. -/
def fifoName (f : Fin 16) : String :=
  let e := fun n : Nat => engineLetter (if n = 0 then .scu else if n = 1 then .ve else if n = 2 then .me else .ce)
  "tk." ++ e (f.val / 4) ++ e (f.val % 4)

/-- The token FIFOs that a word pops and pushes: by its token bits, and by a tkw or tks (05 R143, R144). -/
def wordTokens (e : Engine) (w : Word32) : List (Fin 16) × List (Fin 16) :=
  let tw := e != .scu && w.getLsbD 31
  let ts := e != .scu && w.getLsbD 30
  let own := match decode e w.toNat 0 with
    | .ok (.scuTkw f) => ([fifo f .scu], [])
    | .ok (.veTkw _ f) => ([fifo f .ve], [])
    | .ok (.meTkw _ f) => ([fifo f .me], [])
    | .ok (.ceTkw _ f) => ([fifo f .ce], [])
    | .ok (.scuTks f) => ([], [fifo .scu f])
    | .ok (.veTks _ f) => ([], [fifo .ve f])
    | .ok (.meTks _ f) => ([], [fifo .me f])
    | .ok (.ceTks _ f) => ([], [fifo .ce f])
    | _ => ([], [])
  ((if tw then [defaultIn e] else []) ++ own.1, (if ts then [defaultOut e] else []) ++ own.2)

/-- The registers that a scalar word reads, and those it writes (02 R51). -/
def scalarNames (w : Nat) : List SReg × List SReg :=
  let m := majorOf .scu w
  let d : SReg := Fin.ofNat 64 (bits w 25 20)
  let a : SReg := Fin.ofNat 64 (bits w 19 14)
  let b : SReg := Fin.ofNat 64 (bits w 13 8)
  if (1 ≤ m ∧ m ≤ 0x0F) ∨ m = 0x32 ∨ m = 0x33 ∨ m = 0x38 then ([a, b], [d])
  else if (0x10 ≤ m ∧ m ≤ 0x18) ∨ (0x1B ≤ m ∧ m ≤ 0x21) ∨ m = 0x2E then ([a], [d])
  else if m = 0x19 ∨ m = 0x1A ∨ m = 0x30 then ([], [d])
  else if 0x22 ≤ m ∧ m ≤ 0x25 then ([a, d], [])
  else if 0x26 ≤ m ∧ m ≤ 0x2B then ([d, a], [])
  else if m = 0x2F ∨ m = 0x31 then ([a], [])
  else if m = 0x34 then ([a, b, d], [d])
  else ([], [])

/-- The vector registers that a VE word names (02 Table 2.5). -/
def vectorNames (w : Nat) : List VReg :=
  let m := majorOf .ve w
  let at' := fun lo : Nat => (Fin.ofNat 32 (bits w (lo + 4) lo) : VReg)
  (if m ≤ 0x39 then [at' 19] else [])
    ++ (if (1 ≤ m ∧ m ≤ 0x29) ∨ (0x2D ≤ m ∧ m ≤ 0x38) then [at' 14] else [])
    ++ (if (1 ≤ m ∧ m ≤ 0x1D) ∨ m = 0x1F ∨ m = 0x20 ∨ (0x26 ≤ m ∧ m ≤ 0x29) ∨ (0x32 ≤ m ∧ m ≤ 0x36) then [at' 9] else [])

/-- The name of a scalar queue, of a vector queue, of an arrival counter. -/
def queueName (r : SReg) : String := "q" ++ toString (r.val - 48)
def vqName (r : VReg) : String := "vq" ++ toString (r.val - 24)
def counterName (a : AReg) : String := "a" ++ toString a.val

/-- A vector queue keeps a word of the VE waiting: it has nothing to pop, or no place (05 R149, R151). -/
def Inst.vqBlocks (i : Inst) (r : VReg) : Bool :=
  match r.val with
  | 24 => i.vq[0].isEmpty
  | 25 => !i.vHasRoom r
  | 26 => i.vq[2].isEmpty
  | 27 => !i.vHasRoom r
  | 30 => i.vq[6].isEmpty
  | 31 => !i.vHasRoom r
  | _ => false

/-- The queue that a scalar word waits on: the first source that holds nothing, else a full destination. -/
def State.scalarWait (s : State) (g : CoreNo) (w : Nat) : Option String :=
  let n := scalarNames w
  match n.1.find? fun r => !s.readable g r with
  | some r => some (queueName r)
  | none => (n.2.find? fun r => !s.hasRoom g r).map queueName

/-- What a word of the VE, ME or CE waits on besides its tokens: a queue, an arrival counter, a ring slot, an MDQ entry, or a place among
the 64 copies in flight (05 R151, 12 R337, 08 R238, 09 R263, 12 R323). -/
def State.engineWait (s : State) (g : CoreNo) (e : Engine) (w : Nat) : Option String :=
  let i := s.inst g
  let pops := fun (q : Fin 16) => if i.qw[q].isEmpty then some (queueName (Fin.ofNat 64 (q.val + 48))) else none
  let pushes := fun (q : Fin 16) => if s.hasRoomRead g q then none else some (queueName (Fin.ofNat 64 (q.val + 48)))
  match decode e w 0 with
  | .ok (.veLoop _ _ true _) => if i.vq[2].isEmpty then some (vqName 26) else none
  | .ok (.meLoop _ _ true _) => pops 8
  | .ok (.mloop _ _ _ true _) => pops 8
  | .ok (.lrrankSet _ _) => pops 8
  | .ok (.lrrank _ _) => pushes 9
  | .ok (.mrd _ _ _ _) => if i.vHasRoom 24 then none else some (vqName 24)
  | .ok (.mwr _ _ _ _) => if i.vq[1].isEmpty then some (vqName 25) else none
  | .ok (.ceLoop _ _ true _) => pops 10
  | .ok (.cgetPop _ _) => pops 10
  | .ok (.cgetC _ _) => pushes 11
  | .ok (.cgetCur _ _) => pushes 11
  | .ok (.cgetScale _ _) => pushes 11
  | .ok (.cgetAc _ _) => pushes 11
  | .ok (.cgetLi _ _ _) => none
  | .ok (.acwait _ a) => if i.a[a].value.sle 0 then none else some (counterName a)
  | .ok j =>
    match e with
    | .ve => ((vectorNames w).find? i.vqBlocks).map vqName
    | .me => match classedOf j with
      | some c => if !c.streams.all i.slotReady then some "ring" else if c.sparse && !(i.mdq.head?).any (·.landed) then some "mdq" else none
      | none => none
    | .ce => if 64 ≤ i.copies.length then some "copies" else none
    | .scu => none
  | .error _ => none

/-- Why a stream stands, as a hang report gives it: ended, held, in a wmon, frozen, a token FIFO, queue, counter or other resource that
its next word waits on, or another wait (the spec fixes no words for it: LOG 48). -/
def State.stall (s : State) (g : CoreNo) (e : Engine) : String :=
  let i := s.inst g
  let st := i.stream e
  let w := st.wordAt (if e = .me then i.nextPc .me else st.pc)
  let t := wordTokens e w
  let dry := t.1.find? fun f => decide (i.tokens[f] < times t.1 f)
  let full := t.2.find? fun f => decide (8 < i.tokens[f] + times t.2 f)
  if st.ended then "end"
  else if st.held && s.asked g then "safe"
  else if e = .scu ∧ i.wmon.isSome then "wmon"
  else if i.freezing then "frozen"
  else match dry, full with
    | some f, _ => fifoName f
    | none, some f => fifoName f
    | none, none => ((if e = .scu then s.scalarWait g w.toNat else s.engineWait g e w.toNat)).getD "wait"

/-- The entries that wait between a mesh port and its neighbour (05 R155). -/
def State.meshSent (s : State) (g : CoreNo) (port : Fin 16) : Nat :=
  match neighbour g port with
  | some h => if s.sameLaunch g h then (s.inst h).qr[facing port].length else 0
  | none => 0

/-- The occupancy of every queue register, in entries (05 R159): write sides of q0 to q15, read sides of q0 to q15, and vq0 to vq7. A
q2 command counts its three entries, a mesh send queue what stands at the neighbour, and vq4 and vq5 count records (LOG 48). -/
def State.occupancy (s : State) (g : CoreNo) : List Nat :=
  let i := s.inst g
  ((List.finRange 16).map fun q : Fin 16 =>
      if q = 2 then 3 * i.q2w.length + i.asm.pos.val else if q.val < 12 then i.qw[q].length else s.meshSent g q)
    ++ (i.qr.toList.map List.length).set 2 i.q2r.length
    ++ ((i.vq.toList.map List.length).set 4 i.condA.length).set 5 i.condB.length

/-- WATCHDOG_EXPIRY (05 R159): no sink event for the interval; the counter restarts. It stands while an assist freezes the
instance (05 R157). -/
def execWatchdogExpiry (g : CoreNo) (s : State) : Outcome State Fault Refusal :=
  let c := s.cores[g]
  let i := c.inst
  match c.occupant with
  | none => .next s
  | some o =>
    let frozen := i.assist.any (·.frozen)
    if frozen ∨ Config.clock s.tick < c.watchdog + i.sys.wdog.toNat * 1024 then .next s
    else
      let es := [Engine.scu, .ve, .me, .ce]
      let n : Notice := .hang o.task o.ordinal (dieOf g).val (coreOf g).val (es.map fun e => (i.stream e).pc) (es.map (s.stall g)) i.tkstat (s.occupancy g)
      .next ({ s with notices := s.notices ++ [n] }.modCore g fun c => { c with watchdog := Config.clock s.tick })

end Sys2Proof.Machine
end

