-- ==== Sys2Proof/Machine/Dispatch.lean ====
section
/-! DEFINITION. The meaning of every instruction and step: one arm for each constructor of `Instr`. -/

namespace Sys2Proof.Machine

open Host

/-- The effect of an instruction or step. -/
def exec (i : Instr) (s : State) : Host.Outcome State Fault Refusal :=
  match i with
  | .add d a b => Sys2Proof.Machine.execAdd d a b s
  | .sub d a b => Sys2Proof.Machine.execSub d a b s
  | .and d a b => Sys2Proof.Machine.execAnd d a b s
  | .or d a b => Sys2Proof.Machine.execOr d a b s
  | .xor d a b => Sys2Proof.Machine.execXor d a b s
  | .shl d a b => Sys2Proof.Machine.execShl d a b s
  | .shr d a b => Sys2Proof.Machine.execShr d a b s
  | .sar d a b => Sys2Proof.Machine.execSar d a b s
  | .slt d a b => Sys2Proof.Machine.execSlt d a b s
  | .sltu d a b => Sys2Proof.Machine.execSltu d a b s
  | .mul d a b => Sys2Proof.Machine.execMul d a b s
  | .mulh d a b => Sys2Proof.Machine.execMulh d a b s
  | .mulhu d a b => Sys2Proof.Machine.execMulhu d a b s
  | .div d a b => Sys2Proof.Machine.execDiv d a b s
  | .divu d a b => Sys2Proof.Machine.execDivu d a b s
  | .rem d a b => Sys2Proof.Machine.execRem d a b s
  | .remu d a b => Sys2Proof.Machine.execRemu d a b s
  | .min d a b => Sys2Proof.Machine.execMin d a b s
  | .minu d a b => Sys2Proof.Machine.execMinu d a b s
  | .max d a b => Sys2Proof.Machine.execMax d a b s
  | .maxu d a b => Sys2Proof.Machine.execMaxu d a b s
  | .addi d a im => Sys2Proof.Machine.execAddi d a im s
  | .andi d a im => Sys2Proof.Machine.execAndi d a im s
  | .ori d a im => Sys2Proof.Machine.execOri d a im s
  | .xori d a im => Sys2Proof.Machine.execXori d a im s
  | .shli d a im => Sys2Proof.Machine.execShli d a im s
  | .shri d a im => Sys2Proof.Machine.execShri d a im s
  | .sari d a im => Sys2Proof.Machine.execSari d a im s
  | .slti d a im => Sys2Proof.Machine.execSlti d a im s
  | .sltui d a im => Sys2Proof.Machine.execSltui d a im s
  | .lui d im => Sys2Proof.Machine.execLui d im s
  | .pcadd d im => Sys2Proof.Machine.execPcadd d im s
  | .ldb d a im => Sys2Proof.Machine.execLdb d a im s
  | .ldbu d a im => Sys2Proof.Machine.execLdbu d a im s
  | .ldh d a im => Sys2Proof.Machine.execLdh d a im s
  | .ldhu d a im => Sys2Proof.Machine.execLdhu d a im s
  | .ldw d a im => Sys2Proof.Machine.execLdw d a im s
  | .ldwu d a im => Sys2Proof.Machine.execLdwu d a im s
  | .ldd d a im => Sys2Proof.Machine.execLdd d a im s
  | .stb d a im => Sys2Proof.Machine.execStb d a im s
  | .sth d a im => Sys2Proof.Machine.execSth d a im s
  | .stw d a im => Sys2Proof.Machine.execStw d a im s
  | .std d a im => Sys2Proof.Machine.execStd d a im s
  | .beq a b im => Sys2Proof.Machine.execBeq a b im s
  | .bne a b im => Sys2Proof.Machine.execBne a b im s
  | .blt a b im => Sys2Proof.Machine.execBlt a b im s
  | .bge a b im => Sys2Proof.Machine.execBge a b im s
  | .bltu a b im => Sys2Proof.Machine.execBltu a b im s
  | .bgeu a b im => Sys2Proof.Machine.execBgeu a b im s
  | .j im => Sys2Proof.Machine.execJ im s
  | .jal im => Sys2Proof.Machine.execJal im s
  | .jalr d a => Sys2Proof.Machine.execJalr d a s
  | .scuLoop a l => Sys2Proof.Machine.execScuLoop a l s
  | .csrr d n => Sys2Proof.Machine.execCsrr d n s
  | .csrw a n => Sys2Proof.Machine.execCsrw a n s
  | .wmon d a b w c => Sys2Proof.Machine.execWmon d a b w c s
  | .amo d a b o w c => Sys2Proof.Machine.execAmo d a b o w c s
  | .cas d a b o w => Sys2Proof.Machine.execCas d a b o w s
  | .fence st k => Sys2Proof.Machine.execFence st k s
  | .scuTkw f => Sys2Proof.Machine.execScuTkw f s
  | .scuTks f => Sys2Proof.Machine.execScuTks f s
  | .spawn d a b => Sys2Proof.Machine.execSpawn d a b s
  | .scuSafe => Sys2Proof.Machine.execScuSafe s
  | .scuSeg cnt crc => Sys2Proof.Machine.execScuSeg cnt crc s
  | .scuEnd => Sys2Proof.Machine.execScuEnd s
  | .trap im => Sys2Proof.Machine.execTrap im s
  | .eret => Sys2Proof.Machine.execEret s
  | .vadd tk d a b r f k => Sys2Proof.Machine.execVadd tk d a b r f k s
  | .vsub tk d a b r f k => Sys2Proof.Machine.execVsub tk d a b r f k s
  | .vmul tk d a b r f k => Sys2Proof.Machine.execVmul tk d a b r f k s
  | .vdiv tk d a b r f k => Sys2Proof.Machine.execVdiv tk d a b r f k s
  | .vsqrt tk d a r f k => Sys2Proof.Machine.execVsqrt tk d a r f k s
  | .vfma tk d a b r f k => Sys2Proof.Machine.execVfma tk d a b r f k s
  | .vfms tk d a b r f k => Sys2Proof.Machine.execVfms tk d a b r f k s
  | .vfnma tk d a b r f k => Sys2Proof.Machine.execVfnma tk d a b r f k s
  | .vmin tk d a b f k => Sys2Proof.Machine.execVmin tk d a b f k s
  | .vmax tk d a b f k => Sys2Proof.Machine.execVmax tk d a b f k s
  | .vsgnNeg tk d a f k => Sys2Proof.Machine.execVsgnNeg tk d a f k s
  | .vsgnAbs tk d a f k => Sys2Proof.Machine.execVsgnAbs tk d a f k s
  | .vsgnCp tk d a b f k => Sys2Proof.Machine.execVsgnCp tk d a b f k s
  | .vsgnXs tk d a b f k => Sys2Proof.Machine.execVsgnXs tk d a b f k s
  | .vsgnExp tk d a f k => Sys2Proof.Machine.execVsgnExp tk d a f k s
  | .viadd tk d a b f k => Sys2Proof.Machine.execViadd tk d a b f k s
  | .visub tk d a b f k => Sys2Proof.Machine.execVisub tk d a b f k s
  | .vimul tk d a b f k => Sys2Proof.Machine.execVimul tk d a b f k s
  | .vand tk d a b f k => Sys2Proof.Machine.execVand tk d a b f k s
  | .vor tk d a b f k => Sys2Proof.Machine.execVor tk d a b f k s
  | .vxor tk d a b f k => Sys2Proof.Machine.execVxor tk d a b f k s
  | .vshl tk d a b f k => Sys2Proof.Machine.execVshl tk d a b f k s
  | .vshr tk d a b f k => Sys2Proof.Machine.execVshr tk d a b f k s
  | .vsar tk d a b f k => Sys2Proof.Machine.execVsar tk d a b f k s
  | .vimin tk d a b f k => Sys2Proof.Machine.execVimin tk d a b f k s
  | .vimax tk d a b f k => Sys2Proof.Machine.execVimax tk d a b f k s
  | .vcmp tk d a b c f k => Sys2Proof.Machine.execVcmp tk d a b c f k s
  | .vicmp tk d a b c f k => Sys2Proof.Machine.execVicmp tk d a b c f k s
  | .vcvt tk d a h g r f k => Sys2Proof.Machine.execVcvt tk d a h g r f k s
  | .vqnt tk d a r t k => Sys2Proof.Machine.execVqnt tk d a r t k s
  | .vxacc tk d a b f k => Sys2Proof.Machine.execVxacc tk d a b f k s
  | .vxrnd tk d a b r f k => Sys2Proof.Machine.execVxrnd tk d a b r f k s
  | .vperm tk d a b f k => Sys2Proof.Machine.execVperm tk d a b f k s
  | .vbcast tk d a l x k => Sys2Proof.Machine.execVbcast tk d a l x k s
  | .vslide tk d a b n k => Sys2Proof.Machine.execVslide tk d a b n k s
  | .vsel tk d a b f k => Sys2Proof.Machine.execVsel tk d a b f k s
  | .vredsum tk d a r f k => Sys2Proof.Machine.execVredsum tk d a r f k s
  | .vredmin tk d a f k => Sys2Proof.Machine.execVredmin tk d a f k s
  | .vredmax tk d a f k => Sys2Proof.Machine.execVredmax tk d a f k s
  | .viredsum tk d a f k => Sys2Proof.Machine.execViredsum tk d a f k s
  | .vld tk d a c f k => Sys2Proof.Machine.execVld tk d a c f k s
  | .vst tk d a c f k => Sys2Proof.Machine.execVst tk d a c f k s
  | .vlds tk d a b c f k => Sys2Proof.Machine.execVlds tk d a b c f k s
  | .vsts tk d a b c f k => Sys2Proof.Machine.execVsts tk d a b c f k s
  | .vgath tk d a b c f k => Sys2Proof.Machine.execVgath tk d a b c f k s
  | .vscat tk d a b c f k => Sys2Proof.Machine.execVscat tk d a b c f k s
  | .vtrd tk v t e n f k => Sys2Proof.Machine.execVtrd tk v t e n f k s
  | .vtwr tk v t e n f k => Sys2Proof.Machine.execVtwr tk v t e n f k s
  | .vflgRd tk d k => Sys2Proof.Machine.execVflgRd tk d k s
  | .vflgClr tk f k => Sys2Proof.Machine.execVflgClr tk f k s
  | .vflgWr tk a k => Sys2Proof.Machine.execVflgWr tk a k s
  | .vflgAny tk d f k => Sys2Proof.Machine.execVflgAny tk d f k s
  | .vflgTm tk d => Sys2Proof.Machine.execVflgTm tk d s
  | .vflgCtm tk => Sys2Proof.Machine.execVflgCtm tk s
  | .vpush tk q a x k => Sys2Proof.Machine.execVpush tk q a x k s
  | .vpopPack tk d q b x => Sys2Proof.Machine.execVpopPack tk d q b x s
  | .vpopExp tk d q x k => Sys2Proof.Machine.execVpopExp tk d q x k s
  | .vexp tk d a r f k => Sys2Proof.Machine.execVexp tk d a r f k s
  | .vlog tk d a r f k => Sys2Proof.Machine.execVlog tk d a r f k s
  | .verf tk d a r f k => Sys2Proof.Machine.execVerf tk d a r f k s
  | .vorient2 tk d a b t q f k => Sys2Proof.Machine.execVorient2 tk d a b t q f k s
  | .vorient3 tk d a b t q f k => Sys2Proof.Machine.execVorient3 tk d a b t q f k s
  | .vincirc tk d a b t q f k => Sys2Proof.Machine.execVincirc tk d a b t q f k s
  | .vinsph tk d a b t q f k => Sys2Proof.Machine.execVinsph tk d a b t q f k s
  | .vsegx tk d a b t q f k => Sys2Proof.Machine.execVsegx tk d a b t q f k s
  | .vmskAnd tk d a b k => Sys2Proof.Machine.execVmskAnd tk d a b k s
  | .vmskOr tk d a b k => Sys2Proof.Machine.execVmskOr tk d a b k s
  | .vmskXor tk d a b k => Sys2Proof.Machine.execVmskXor tk d a b k s
  | .vmskAndn tk d a b k => Sys2Proof.Machine.execVmskAndn tk d a b k s
  | .vmskTov tk d a k => Sys2Proof.Machine.execVmskTov tk d a k s
  | .vmskFromv tk d a k => Sys2Proof.Machine.execVmskFromv tk d a k s
  | .vmskCnt tk d a k => Sys2Proof.Machine.execVmskCnt tk d a k s
  | .vmskFirst tk d a k => Sys2Proof.Machine.execVmskFirst tk d a k s
  | .vmov tk d a f k => Sys2Proof.Machine.execVmov tk d a f k s
  | .viota tk d f k => Sys2Proof.Machine.execViota tk d f k s
  | .veTkw tk f => Sys2Proof.Machine.execVeTkw tk f s
  | .veTks tk f => Sys2Proof.Machine.execVeTks tk f s
  | .veLoop tk l c n => Sys2Proof.Machine.execVeLoop tk l c n s
  | .veSeg tk cnt crc => Sys2Proof.Machine.execVeSeg tk cnt crc s
  | .veSafe tk => Sys2Proof.Machine.execVeSafe tk s
  | .veEnd tk => Sys2Proof.Machine.execVeEnd tk s
  | .mmaF64 tk d a b r c t e => Sys2Proof.Machine.execMmaF64 tk d a b r c t e s
  | .mmaB16 tk d a b f r c t e => Sys2Proof.Machine.execMmaB16 tk d a b f r c t e s
  | .mmas tk d a b f r c t e => Sys2Proof.Machine.execMmas tk d a b f r c t e s
  | .mmaF8 tk d a b f r c t e => Sys2Proof.Machine.execMmaF8 tk d a b f r c t e s
  | .mmaI8 tk d a b f c t e => Sys2Proof.Machine.execMmaI8 tk d a b f c t e s
  | .mmaF4 tk d a b r c t e => Sys2Proof.Machine.execMmaF4 tk d a b r c t e s
  | .mmaI4 tk d a b f c t e => Sys2Proof.Machine.execMmaI4 tk d a b f c t e s
  | .lrset tk d a b e => Sys2Proof.Machine.execLrset tk d a b e s
  | .lrmul tk d a b => Sys2Proof.Machine.execLrmul tk d a b s
  | .lradd tk d a b n => Sys2Proof.Machine.execLradd tk d a b n s
  | .lrcmp tk d a => Sys2Proof.Machine.execLrcmp tk d a s
  | .lrden tk d a c => Sys2Proof.Machine.execLrden tk d a c s
  | .lrrank tk a => Sys2Proof.Machine.execLrrank tk a s
  | .lrrankSet tk d => Sys2Proof.Machine.execLrrankSet tk d s
  | .mrd tk t e n => Sys2Proof.Machine.execMrd tk t e n s
  | .mwr tk t e n => Sys2Proof.Machine.execMwr tk t e n s
  | .mldc tk t e n f g => Sys2Proof.Machine.execMldc tk t e n f g s
  | .mstc tk t e n f g => Sys2Proof.Machine.execMstc tk t e n f g s
  | .talloc tk d n f => Sys2Proof.Machine.execTalloc tk d n f s
  | .tfree tk d => Sys2Proof.Machine.execTfree tk d s
  | .tclr tk d => Sys2Proof.Machine.execTclr tk d s
  | .tmov tk d a => Sys2Proof.Machine.execTmov tk d a s
  | .mloop tk l im c n => Sys2Proof.Machine.execMloop tk l im c n s
  | .meLoop tk l c n => Sys2Proof.Machine.execMeLoop tk l c n s
  | .meTkw tk f => Sys2Proof.Machine.execMeTkw tk f s
  | .meTks tk f => Sys2Proof.Machine.execMeTks tk f s
  | .meSeg tk cnt crc => Sys2Proof.Machine.execMeSeg tk cnt crc s
  | .meSafe tk => Sys2Proof.Machine.execMeSafe tk s
  | .meEnd tk => Sys2Proof.Machine.execMeEnd tk s
  | .meNop tk => Sys2Proof.Machine.execMeNop tk s
  | .cp tk p q a x y o z => Sys2Proof.Machine.execCp tk p q a x y o z s
  | .cpn tk p q a o => Sys2Proof.Machine.execCpn tk p q a o s
  | .cpx tk p q a x o z => Sys2Proof.Machine.execCpx tk p q a x o z s
  | .cprm tk p q a m o z => Sys2Proof.Machine.execCprm tk p q a m o z s
  | .pf tk q l z => Sys2Proof.Machine.execPf tk q l z s
  | .keep tk n q => Sys2Proof.Machine.execKeep tk n q s
  | .keepF tk n q a => Sys2Proof.Machine.execKeepF tk n q a s
  | .unkeep tk n => Sys2Proof.Machine.execUnkeep tk n s
  | .cflush tk q a h => Sys2Proof.Machine.execCflush tk q a h s
  | .cinv tk q a => Sys2Proof.Machine.execCinv tk q a s
  | .cpatm tk p q a c x e o z => Sys2Proof.Machine.execCpatm tk p q a c x e o z s
  | .collAr tk p a o => Sys2Proof.Machine.execCollAr tk p a o s
  | .collRs tk p a o => Sys2Proof.Machine.execCollRs tk p a o s
  | .collAg tk p a o => Sys2Proof.Machine.execCollAg tk p a o s
  | .collBc tk p a o => Sys2Proof.Machine.execCollBc tk p a o s
  | .sigSt tk p q a m o x => Sys2Proof.Machine.execSigSt tk p q a m o x s
  | .sigAdd tk p q a m o x => Sys2Proof.Machine.execSigAdd tk p q a m o x s
  | .acset tk q a => Sys2Proof.Machine.execAcset tk q a s
  | .acadd tk q a => Sys2Proof.Machine.execAcadd tk q a s
  | .acwait tk a => Sys2Proof.Machine.execAcwait tk a s
  | .lyt tk p q a m o => Sys2Proof.Machine.execLyt tk p q a m o s
  | .scfg tk p q => Sys2Proof.Machine.execScfg tk p q s
  | .cgetPop tk p => Sys2Proof.Machine.execCgetPop tk p s
  | .cgetC tk p => Sys2Proof.Machine.execCgetC tk p s
  | .cgetCur tk p => Sys2Proof.Machine.execCgetCur tk p s
  | .cgetScale tk p => Sys2Proof.Machine.execCgetScale tk p s
  | .cgetAc tk n => Sys2Proof.Machine.execCgetAc tk n s
  | .cgetLi tk p im => Sys2Proof.Machine.execCgetLi tk p im s
  | .cadd tk p q im => Sys2Proof.Machine.execCadd tk p q im s
  | .hret c => Sys2Proof.Machine.execHret c s
  | .hflag p q => Sys2Proof.Machine.execHflag p q s
  | .spill tk p q a b o => Sys2Proof.Machine.execSpill tk p q a b o s
  | .fill tk p q a b o => Sys2Proof.Machine.execFill tk p q a b o s
  | .datmOpen tk p q o => Sys2Proof.Machine.execDatmOpen tk p q o s
  | .datmClose tk p a r => Sys2Proof.Machine.execDatmClose tk p a r s
  | .ceLoop tk l c n => Sys2Proof.Machine.execCeLoop tk l c n s
  | .ceTkw tk f => Sys2Proof.Machine.execCeTkw tk f s
  | .ceTks tk f => Sys2Proof.Machine.execCeTks tk f s
  | .ceSeg tk cnt crc => Sys2Proof.Machine.execCeSeg tk cnt crc s
  | .ceSafe tk => Sys2Proof.Machine.execCeSafe tk s
  | .ceEnd tk => Sys2Proof.Machine.execCeEnd tk s
  | .ceNop tk => Sys2Proof.Machine.execCeNop tk s
  | .launch h first count => Sys2Proof.Machine.execLaunch h first count s
  | .wait h addr value c w32 => Sys2Proof.Machine.execWait h addr value c w32 s
  | .signal h addr value w32 => Sys2Proof.Machine.execSignal h addr value w32 s
  | .write h addr data => Sys2Proof.Machine.execWrite h addr data s
  | .writeSignal h addr data sigAddr sigVal => Sys2Proof.Machine.execWriteSignal h addr data sigAddr sigVal s
  | .transformCompress h src dst length exp rep => Sys2Proof.Machine.execTransformCompress h src dst length exp rep s
  | .transformExpand h src dst length rep => Sys2Proof.Machine.execTransformExpand h src dst length rep s
  | .transformLayout h sdesc ddesc map rep => Sys2Proof.Machine.execTransformLayout h sdesc ddesc map rep s
  | .transformQuant h src dst length q mode rep => Sys2Proof.Machine.execTransformQuant h src dst length q mode rep s
  | .node h counter payload succ => Sys2Proof.Machine.execNode h counter payload succ s
  | .mark h addr => Sys2Proof.Machine.execMark h addr s
  | .inval h ctx va length => Sys2Proof.Machine.execInval h ctx va length s
  | .echo g arg => Sys2Proof.Machine.execEcho g arg s
  | .moduleTime g arg => Sys2Proof.Machine.execModuleTime g arg s
  | .checkpoint g arg => Sys2Proof.Machine.execCheckpoint g arg s
  | .yield g arg => Sys2Proof.Machine.execYield g arg s
  | .inServiceCoreCount g arg => Sys2Proof.Machine.execInServiceCoreCount g arg s
  | .unknownService g code arg => Sys2Proof.Machine.execUnknownService g code arg s
  | .fmodeWrite g fw v => Sys2Proof.Machine.execFmodeWrite g fw v s
  | .mflgWrite g fw v => Sys2Proof.Machine.execMflgWrite g fw v s
  | .mtolWrite g fw v => Sys2Proof.Machine.execMtolWrite g fw v s
  | .mrmodeWrite g fw v => Sys2Proof.Machine.execMrmodeWrite g fw v s
  | .rungWrite g v => Sys2Proof.Machine.execRungWrite g v s
  | .fshareWrite g v => Sys2Proof.Machine.execFshareWrite g v s
  | .wdogWrite g v => Sys2Proof.Machine.execWdogWrite g v s
  | .q6ToVq2Transfer g => Sys2Proof.Machine.execQ6ToVq2Transfer g s
  | .vq3ToQ7Transfer g => Sys2Proof.Machine.execVq3ToQ7Transfer g s
  | .helperStart g => Sys2Proof.Machine.execHelperStart g s
  | .larkspurStart g => Sys2Proof.Machine.execLarkspurStart g s
  | .copyUnitLand g copy unit => Sys2Proof.Machine.execCopyUnitLand g copy unit s
  | .copyComplete g copy => Sys2Proof.Machine.execCopyComplete g copy s
  | .q2AtomicApply g => Sys2Proof.Machine.execQ2AtomicApply g s
  | .windowApply task win => Sys2Proof.Machine.execWindowApply task win s
  | .wmonSatisfy g => Sys2Proof.Machine.execWmonSatisfy g s
  | .hollyhockSettle g => Sys2Proof.Machine.execHollyhockSettle g s
  | .meFeederDecode g => Sys2Proof.Machine.execMeFeederDecode g s
  | .assistEnter g => Sys2Proof.Machine.execAssistEnter g s
  | .assistDone g => Sys2Proof.Machine.execAssistDone g s
  | .trapTake g => Sys2Proof.Machine.execTrapTake g s
  | .firmwareFirstService g answer => Sys2Proof.Machine.execFirmwareFirstService g answer s
  | .segMismatchReplay g passed dest => Sys2Proof.Machine.execSegMismatchReplay g passed dest s
  | .passEnd g => Sys2Proof.Machine.execPassEnd g s
  | .instancePlace task g => Sys2Proof.Machine.execInstancePlace task g s
  | .shadowSwap g => Sys2Proof.Machine.execShadowSwap g s
  | .taskKill task detail => Sys2Proof.Machine.execTaskKill task detail s
  | .preemptRequest g => Sys2Proof.Machine.execPreemptRequest g s
  | .contextSave g => Sys2Proof.Machine.execContextSave g s
  | .contextRestore n g => Sys2Proof.Machine.execContextRestore n g s
  | .watchdogExpiry g => Sys2Proof.Machine.execWatchdogExpiry g s
  | .marginTest u fails again => Sys2Proof.Machine.execMarginTest u fails again s
  | .foxglove u fails => Sys2Proof.Machine.execFoxglove u fails s
  | .errorDetected c granule => Sys2Proof.Machine.execErrorDetected c granule s
  | .capacityReduction ch => Sys2Proof.Machine.execCapacityReduction ch s
  | .channelRetire ch bad => Sys2Proof.Machine.execChannelRetire ch bad s
  | .nodeFire n => Sys2Proof.Machine.execNodeFire n s
  | .ringPark r => Sys2Proof.Machine.execRingPark r s
  | .ringRearm r => Sys2Proof.Machine.execRingRearm r s
  | .ringRestart r ridx => Sys2Proof.Machine.execRingRestart r ridx s
  | .slotGrant r => Sys2Proof.Machine.execSlotGrant r s
  | .ringSliceExpiry r => Sys2Proof.Machine.execRingSliceExpiry r s
  | .taskDispatch task => Sys2Proof.Machine.execTaskDispatch task s
  | .taskComplete task => Sys2Proof.Machine.execTaskComplete task s
  | .flitReceive l f => Sys2Proof.Machine.execFlitReceive l f s
  | .nakReceive l ack => Sys2Proof.Machine.execNakReceive l ack s
  | .ackTimer l => Sys2Proof.Machine.execAckTimer l s
  | .replayTimeout l => Sys2Proof.Machine.execReplayTimeout l s
  | .retrainComplete l trained => Sys2Proof.Machine.execRetrainComplete l trained s
  | .laneFailure l lane => Sys2Proof.Machine.execLaneFailure l lane s
  | .linkRetireReroute l => Sys2Proof.Machine.execLinkRetireReroute l s
  | .remoteUnitAck g copy unit answer => Sys2Proof.Machine.execRemoteUnitAck g copy unit answer s
  | .memberRemove grp slot => Sys2Proof.Machine.execMemberRemove grp slot s
  | .collectiveCommit g copy others agree => Sys2Proof.Machine.execCollectiveCommit g copy others agree s
  | .hostBar1Write pa data => Sys2Proof.Machine.execHostBar1Write pa data s
  | .hostAtomicop op w32 pa x cmp => Sys2Proof.Machine.execHostAtomicop op w32 pa x cmp s
  | .powerOn => Sys2Proof.Machine.execPowerOn s
  | .thermalTrip => Sys2Proof.Machine.execThermalTrip s
  | .powerCapSet watts => Sys2Proof.Machine.execPowerCapSet watts s
  | .d3hotEntry => Sys2Proof.Machine.execD3hotEntry s
  | .d3coldEntry => Sys2Proof.Machine.execD3coldEntry s
  | .quoteRequest nonce => Sys2Proof.Machine.execQuoteRequest nonce s
  | .firmwareUpdate version code => Sys2Proof.Machine.execFirmwareUpdate version code s
  | .d3hotExit => Sys2Proof.Machine.execD3hotExit s
  | .waitSatisfied r => Sys2Proof.Machine.execWaitSatisfied r s
  | .coreOutOfService g => Sys2Proof.Machine.execCoreOutOfService g s
  | .shadowWithdraw g => Sys2Proof.Machine.execShadowWithdraw g s

end Sys2Proof.Machine
end

