-- ==== Sys2Proof/Machine/Early.lean ====
section
/-! DEFINITION. Instructions that are not atomic (06 R189, R193): the reads and writes of single elements by the next word of the VE, and
the reads of single elements of tiles by the next word of the ME, in steps ahead of the rest of it (LOG 96). -/

namespace Sys2Proof.Machine

open Host

/-- The value of element n that a vector load or vtrd reads, as it stands now; none where the word reads no such element. -/
def State.elemNow (s : State) (g : CoreNo) (i : Instr) (n : Nat) : Option Nat :=
  let j := s.inst g
  let mem := fun (srcs : List VReg) (f : VFmt) (k : KReg) (addr : List Lanes → Nat → Word) =>
    if active (elemV f) (j.mask k) n then
      match s.scalarAddr g (addr (srcs.map j.readV) n) (elemBytes f) .read with
      | .ok pa => some (leNat (s.mem.read pa (elemBytes f)))
      | .error _ => none
    else none
  match i with
  | .vld _ _ a _ f k => mem [a] f k (unitAddr f)
  | .vlds _ _ a b _ f k => mem [a, b] f k strideAddr
  | .vgath _ _ a b _ f k => mem [a, b] f k gatherAddr
  | .vtrd _ _ t e l f k => match lineCheck j t (some (tileWide f)) e l.val with
    | .ok x => if active x.entryElem (j.mask k) n then some (x.lineEntry e l.val n) else none
    | .error _ => none
  | _ => none

/-- The element writes of a vector store or vtwr, lower-numbered elements first, with the reuse distance and the size of those to
memory; none for other words and where a check fails. -/
def State.elemStores (s : State) (g : CoreNo) (i : Instr) : Option (List ElemStore × Fin 8 × Nat) :=
  let j := s.inst g
  let mem := fun (d : VReg) (srcs : List VReg) (c : Fin 8) (f : VFmt) (k : KReg) (addr : List Lanes → Nat → Word) =>
    (s.storeElems g f (j.mask k) (addr (srcs.map j.readV)) (j.readV d)).toOption.map fun l => (l, c, elemBytes f)
  match i with
  | .vst _ d a c f k => mem d [a] c f k (unitAddr f)
  | .vsts _ d a b c f k => mem d [a, b] c f k strideAddr
  | .vscat _ d a b c f k => mem d [a, b] c f k gatherAddr
  | .vtwr _ v t e l f k => (lineCheck j t (some (tileWide f)) e l.val).toOption.map fun x =>
      (x.lineStores t e l.val (active x.entryElem (j.mask k)) (elemAt x.entryElem (j.readV v)), 0, 0)
  | _ => none

/-- Whether two element writes reach a common byte or word. -/
def ElemStore.meets (a b : ElemStore) : Bool :=
  match a, b with
  | .mem _ p x, .mem _ q y => decide (p < q + y.length ∧ q < p + x.length)
  | .tile t ws, .tile u vs => t == u && ws.any fun w => vs.any fun v => w.1 == v.1 && w.2.1 == v.2.1
  | _, _ => false

/-- Some words of a tile of an instance, as they stand. -/
def Inst.getWords (i : Inst) (t : TReg) (ws : List (Nat × Nat × Word32)) : List (Nat × Nat × Word32) :=
  i.tiles[t].elim [] fun x => ws.map fun w => (w.1, w.2.1, BitVec.ofNat 32 (x.word w.1 w.2.1))

/-- The words of element (r, c) of a tile of an instance; none where there is no such element. -/
def Inst.tileElem (i : Inst) (t : TReg) (r c : Nat) : Option (List (Nat × Nat × Word32)) :=
  i.tiles[t].bind fun x =>
    let ws := x.elemWords r c (x.elem r c)
    if c < 64 ∧ ws.all fun w => decide (w.1 < x.rows.length) then some ws else none

/-- The instance as the next word of the ME sees it: the elements read ahead stand in its tiles. -/
def Inst.withReads (i : Inst) : Inst := i.doneMe.foldl (fun j e => j.putWords e.1 e.2) i

/-- After that word, which made j of i as it saw it: an element read ahead that the word did not write stands as it stood in i. -/
def Inst.afterReads (i j : Inst) : Inst :=
  { i.doneMe.foldl (fun j e => if j.getWords e.1 e.2 = e.2 then j.putWords e.1 (i.getWords e.1 e.2) else j) j with doneMe := [] }

/-- Whether the word of the VE, or of the ME, has retired between s and t. -/
def State.retired (s t : State) (g : CoreNo) (src : Source) : Bool :=
  let i := s.inst g
  let j := t.inst g
  s.cores[g].occupant == t.cores[g].occupant && i.handler == j.handler
    && if src = .me then i.me != j.me || i.mloop != j.mloop else i.ve != j.ve

/-- A change of one instance after a word, where the word answers a next state. -/
def thenInst (o : Outcome State Fault Refusal) (g : CoreNo) (f : State → Inst → Inst) : Outcome State Fault Refusal :=
  match o with
  | .next t => .next (t.modInst g (f t))
  | x => x

/-- The executing word. What a word of the VE has performed ahead is past once it retires; one that does not retire reads again. A word of
the ME sees the elements that it has read ahead. -/
def runWord (cur : Cur) (i : Instr) (s : State) : Outcome State Fault Refusal :=
  let s1 := { s with cur := cur }
  let j := s.inst cur.core
  if cur.src = .ve ∧ j.doneVe ≠ .none then
    thenInst (exec i s1) cur.core fun t j =>
      { j with doneVe := if s.retired t cur.core .ve then .none else { j.doneVe with reads := [] } }
  else if cur.src = .me ∧ j.doneMe ≠ [] then
    thenInst (exec i (s1.modInst cur.core Inst.withReads)) cur.core fun _ => j.afterReads
  else exec i s1

/-- The element write number k of those that the next word of the VE has still to perform; a write stays behind a lower-numbered one of
the same bytes (06 R189). -/
def State.earlyWrite (s : State) (g : CoreNo) (i : Instr) (k : Nat) : State :=
  match s.elemStores g i with
  | none => s
  | some (all, d, n) =>
    let l := (s.inst g).doneVe.writes.getD all
    match l[k]? with
    | none => s
    | some w =>
      if (l.take k).any w.meets then s
      else
        let t := (s.putElem g w).noteElems g d true n (storeAddrs [w]) []
        (if (storeAddrs [w]).isEmpty then t else t.sink g).modInst g fun j => { j with doneVe := { j.doneVe with writes := some (l.eraseIdx k) } }

/-- Element (r, c) of a tile is read by the next word of the ME, once. -/
def State.earlyTile (s : State) (g : CoreNo) (t : TReg) (r c : Nat) : State :=
  s.modInst g fun j => match j.tileElem t r c with
    | some ws => if j.doneMe.any (fun e => e.1 == t && e.2.map (·.1) == ws.map (·.1) && e.2.map (·.2.1) == ws.map (·.2.1)) then j
        else { j with doneMe := (t, ws) :: j.doneMe }
    | none => j

/-- The stream whose next word an access belongs to. -/
def Early.src : Early → Source
  | .tile _ _ _ => .me
  | _ => .ve

/-- One access of an element by the next word of the VE or the ME, ahead of the rest of it: the word must be one that now retires. A
stream that has begun a word stands at no safe point. -/
def State.early (s : State) (g : CoreNo) (e : Early) : State :=
  match s.fetch g e.src with
  | .run cur i =>
    let s1 := { s with cur := cur }
    match runWord cur i s with
    | .next t =>
      if !s.retired t g e.src then s
      else match e with
        | .read n => match s1.elemNow g i n with
          | some v => s1.modInst g fun j => { j with
              doneVe := { j.doneVe with reads := if (j.doneVe.reads.lookup n).isSome then j.doneVe.reads else (n, v) :: j.doneVe.reads },
              ve := { j.ve with held := false } }
          | none => s
        | .write k =>
          let u := s1.earlyWrite g i k
          if (u.inst g).doneVe = (s.inst g).doneVe then s else u.modInst g fun j => { j with ve := { j.ve with held := false } }
        | .tile t r c => (s1.earlyTile g t r c).modInst g fun j => { j with me := { j.me with held := j.me.held && j.doneMe.isEmpty } }
    | _ => s
  | _ => s

end Sys2Proof.Machine
end

