-- ==== Sys2Proof/Machine/FwWords.lean ====
section
/-! DEFINITION. The firmware context of a core executes one word (03 R106, 04 R139, R140). Where its words stand is not in the spec, so
the step brings the word (LOG 82). -/

namespace Sys2Proof.Machine

open Host

/-- Whether the scalar words of a major name a register in bits [25:20], [19:14] and [13:8] (02 R51). -/
def namesRegs (m : Nat) : Bool × Bool × Bool :=
  let atom := decide (0x32 ≤ m ∧ m ≤ 0x34)
  (decide ((1 ≤ m ∧ m ≤ 0x2B) ∨ m = 0x2E ∨ m = 0x30 ∨ m = 0x38) || atom,
   decide ((1 ≤ m ∧ m ≤ 0x18) ∨ (0x1B ≤ m ∧ m ≤ 0x2B) ∨ m = 0x2E ∨ m = 0x2F ∨ m = 0x31 ∨ m = 0x38) || atom,
   decide ((1 ≤ m ∧ m ≤ 0x0F) ∨ m = 0x38) || atom)

/-- A register field that names a queue names s0 instead, which reads zero and discards writes. -/
def clearField (named : Bool) (lo w : Nat) : Nat :=
  let r := bits w (lo + 5) lo
  if named && decide (48 ≤ r) then w - r * 2 ^ lo else w

/-- A scalar word with its queue registers replaced: outside an assist s48 to s63 read zero and discard writes (04 R139). -/
def noQueues (w : Nat) : Nat :=
  let n := namesRegs (majorOf .scu w)
  clearField n.1 20 (clearField n.2.1 14 (clearField n.2.2 8 w))

/-- The words that the firmware context executes: the others act on a stream or on the tokens of an instance, which it does not have
(LOG 82). -/
def fwWord (w : Nat) : Bool :=
  let m := majorOf .scu w
  decide ((1 ≤ m ∧ m ≤ 0x35) ∨ m = 0x38 ∨ m = 0x3C)

/-- The instance as the firmware context sees it: its own PC, registers, loops and slot, and the instance's queues and system
registers (04 R139, R140). -/
def FwContext.view (f : FwContext) (i : Inst) : Inst :=
  { i with scu := ⟨f.pc, [], f.loops, false, false, none⟩, s := f.s, slot := f.slot, wmon := none }

/-- The core after a firmware word: what the view held goes back to the firmware context, the rest to the instance. -/
def Core.leaveFirmware (c : Core) (i : Inst) : Core :=
  let j := c.inst
  { c with fw := { c.fw with pc := j.scu.pc, s := j.s, loops := j.scu.loops, slot := j.slot },
           inst := { j with scu := i.scu, s := i.s, slot := i.slot, wmon := i.wmon } }

/-- A word of the firmware context of core g (03 R106, 04 R139, R140): between two instructions of the instance, never before a slot.
A trap goes to firmware's own trap state, and its PC stays (00 R7; LOG 82). A wmon that its read does not satisfy waits: it issues
again. -/
def execFirmware (g : CoreNo) (w w1 : Word32) (s : State) : Outcome State Fault Refusal :=
  let c := s.cores[g]
  let cur : Cur := ⟨g, .scu, c.fw.pc, w, w1, s.tick, true⟩
  let s1 := { s with cur := cur }
  let free := c.inst.assist.any (·.frozen)
  let done := fun t : State => { t with cur := { t.cur with fw := false } }
  if s.power ≠ .d0 ∨ !s.betweenUser g ∨ !fwWord w.toNat then .next s
  else match judge cur .scu with
    | .idle => .next s
    | .trap _ k v => .next (done (s1.raise k v))
    | .run _ _ =>
      match decode .scu (if free then w.toNat else noQueues w.toNat) w1.toNat with
      | .error _ => .next s
      | .ok i =>
        match exec i (s1.modCore g fun x => { x with inst := x.fw.view x.inst }) with
        | .next t =>
          if (t.inst g).wmon.isSome then .next s
          else .next (done (t.modCore g fun x => x.leaveFirmware c.inst))
        | x => x

end Sys2Proof.Machine
end

