-- ==== Sys2Proof/Machine/Step.lean ====
section
/-! DEFINITION. One step of the machine (LOG 1): the head of the agenda, or else an action drawn freely. -/

namespace Sys2Proof.Machine

open Host

/-- What the step does, and the state at which it does it. -/
def State.begin (s : State) : Action × State :=
  let c := { s.cur with fw := false }
  match s.agenda with
  | a :: rest => (a, { s with agenda := rest, tick := s.tick + 1, cur := c })
  | [] => (Config.nextAction s.tick, { s with tick := s.tick + 1, cur := c })

/-- The outcome of what an agent found: nothing, a trap, or an instruction, with what it has performed already. -/
def perform (s : State) (f : Fetched) : Outcome State Fault Refusal :=
  match f with
  | .idle => .next s
  | .trap cur c v => .next ({ s with cur := cur }.raise c v)
  | .run cur i => runWord cur i s

/-- One action. -/
def act (a : Action) (s : State) : Outcome State Fault Refusal :=
  match a with
  | .issue g src => perform s (s.fetch g src)
  | .packet r => match s.turn r with
    | .inl t => .next t
    | .inr i => exec i s
  | .mailbox g => match s.mailTurn g with
    | .inl t => .next t
    | .inr i => exec i s
  | .event i => if ownStep i then exec i s else .next s
  | .early g e => .next (s.early g e)
  | .landPart g copy p => .next (s.landPart g copy p)
  | .sectorRead g copy pa => .next (s.sectorRead g copy pa)
  | .firmware g w w1 => execFirmware g w w1 s
  | .setRoot ctx root => .next (s.setRoot ctx root)
  | .setRing r grant base logSize stateAddr slice => .next (s.setRing r grant base logSize stateAddr slice)
  | .ringReady r => .next (s.ringReady r)
  | .decrement => .next s.settleDecrement
  | .pieceStart task g => .next (s.pieceStart task g)
  | .pieceStep g => .next (s.pieceStep g)
  | .release => .next s.release
  | .setPod n => .next (s.setPod n)
  | .setPeer ctx m peer => .next (s.setPeer ctx m peer)
  | .setRoutes m links => .next (s.setRoutes m links)
  | .setGroup grp modules live epoch ctx => .next (s.setGroup grp modules live epoch ctx)
  | .setBar1 pa => .next (s.setBar1 pa)
  | .setPodTimeout ns => .next (s.setPodTimeout ns)
  | .dmaIn pa data => .next (s.dmaIn pa data)
  | .dmaOut pa n => .next (s.dmaOut pa n)
  | .setFloor v => .next (s.setFloor v)
  | .setMargins limits => .next (s.setMargins limits)
  | .report => .next s.report
  | .flitFlush l => .next (s.flitFlush l)
  | .deliver l => .next (s.landOldest l)
  | .reply => .next s.reply
  | .setFar l m => .next (s.setFar l m)
  | .hopLost m => .next (s.hopLost m)
  | .heartbeat m => .next (s.heartbeat m)
  | .moduleFailed m => .next (s.moduleFailed m)
  | .setHostEnd e => .next (s.setHostEnd e)
  | .hostRead bar a n => .next (s.hostRead bar a n)
  | .setHelper h => .next (s.setHelper h)
  | .tornRecord k => .next (s.tornRecord k)

/-- One step. -/
def step (s : State) : Outcome State Fault Refusal := act s.begin.1 s.begin.2

/-- The state with an instruction's bits, numbered as spec/opcode_table.json numbers them, where the next step fetches them:
on an instance on core 0, whose issue the agenda names next (LOG 20). -/
def State.withFetchWord (s : State) (nbits w : Nat) : State := s.placeWord nbits w

end Sys2Proof.Machine
end

