-- ==== Sys2Proof/Machine/Primrose.lean ====
section
/-! DEFINITION. Primrose, the slice method (11 R297, R313-R318): the slices of a rung, balanced digits, the choice of a path group by
group, and the served classes. ASSIST_DONE commits the native result, which 11 R312 and R316 make the same (LOG 57). -/

namespace Sys2Proof.Machine

/-- The slice width w of a rung (11 Table 11.3); rung 0 runs every class natively, and rung 4 has the vector engine only. -/
def sliceWidth (rung : Nat) : Option Nat :=
  match rung with
  | 1 => some 8
  | 2 => some 8
  | 3 => some 4
  | _ => none

/-- The significand bits p of an operand, by the FMT code of its stream (11 R313, 08 Table 8.4). -/
def sigBits (fmt : Nat) : Nat :=
  match fmt with
  | 0 => 53
  | 1 => 24
  | 2 => 8
  | 3 => 11
  | 4 => 4
  | 5 => 3
  | _ => 8

/-- The number of slices n = ceil((p + 2) / w) of an operand (11 R313). -/
def sliceCount (w p : Nat) : Nat := (p + 2 + w - 1) / w

/-- The budget b = w n - p - 2 in binades (11 R313, Table 11.5). -/
def sliceBudget (w p : Nat) : Int := (w * sliceCount w p : Nat) - (p : Int) - 2

/-- One balanced digit of m (11 R314). -/
def digit (w : Nat) (m : Int) : Int := (m + 2 ^ (w - 1)) % 2 ^ w - 2 ^ (w - 1)

/-- The balanced digits d0 to d(n-1) of m (11 R314). -/
def balanced (w : Nat) : Nat → Int → List Int
  | 0, _ => []
  | n + 1, m => digit w m :: balanced w n ((m - digit w m) / 2 ^ w)

/-- The largest floor(log2 |x|) of the nonzero numbers of a list, none where there is none (11 R315). -/
def topLog (xs : List Num) : Option Int :=
  xs.foldl (fun m x => match x with
    | .fin _ (k + 1) e => some (m.elim (floorLog2 (k + 1) e) (max · (floorLog2 (k + 1) e)))
    | _ => m) none

/-- Whether a number is a multiple of 2^q; a NaN and an infinity are not. -/
def Num.multiple (x : Num) (q : Int) : Bool :=
  match x with
  | .fin n m e => !(truncUnits n m e q).2
  | _ => false

/-- A number in units of 2^q, of which it is a multiple. -/
def Num.units (x : Num) (q : Int) : Int :=
  match x with
  | .fin n m e => (truncUnits n m e q).1
  | _ => 0

/-- One slice product: the sum over the group of dA(k, s) dB(k, t) (11 R315); mma.i8 in .ss form at w = 8, mma.i4 in .ii form at
w = 4 (11 R313). -/
def sliceProduct (da db : List (List Int)) (s t : Nat) : Int :=
  (da.zipWith (fun x y => x.getD s 0 * y.getD t 0) db).sum

/-- The lane v added by vxacc at lane grid g (06 R181), in units of that grid. -/
def laneUnits (v g : Int) : Int := (truncUnits (decide (v < 0)) v.natAbs 0 g).1

/-- The sum of the slice path in units of 2^eg (11 R315), the accumulator term not yet added. -/
def sliceSum (w na nb : Nat) (qa qb eg : Int) (ma mb : List Int) : Int :=
  let da := ma.map (balanced w na)
  let db := mb.map (balanced w nb)
  ((List.range na).map fun s => ((List.range nb).map fun t =>
    laneUnits (sliceProduct da db s t) (eg - (qa + qb + ((w * (s + t) : Nat) : Int)))).sum).sum

/-- vxrnd (06 R182) of an accumulator of s units of 2^g. -/
def roundUnits (f : Fmt) (md : Rounding) (s g : Int) : Nat × Flags :=
  if s = 0 then ((md == .rdn).toNat * 2 ^ (f.ebits + f.mbits), 0) else roundTo f md (decide (s < 0)) s.natAbs g false

/-- The scales qA, qB and the grid exponent e_g of a group whose slice path is taken, none where it takes the fallback path: a NaN,
an infinity, only zeros, or a failed condition (11 R315, R316). A group with no nonzero A or B has no eA or eB and falls back. -/
def slicePath (w na nb : Nat) (f : Fmt) (ps : List (Num × Num)) (acc : Option Num) : Option (Int × Int × Int) :=
  let ts := ps.map (fun p => (product p.1 p.2).1) ++ acc.toList
  match topLog (ps.map (·.1)), topLog (ps.map (·.2)), topLog ts with
  | some ea, some eb, some e =>
    let qa := ea - ((w * na : Nat) - 3 : Int)
    let qb := eb - ((w * nb : Nat) - 3 : Int)
    let eg := e - (if f.mbits = 52 then 109 else 49)
    if ps.all (fun p => p.1.multiple qa && p.2.multiple qb) && ts.all (·.multiple eg) then some (qa, qb, eg) else none
  | _, _, _ => none

/-- One group by Primrose (11 R315, R316): the slice path, or the fallback path, which forms the terms on the VE. -/
def primroseGroup (w na nb : Nat) (f : Fmt) (md : Rounding) (ps : List (Num × Num)) (acc : Option Num) : Nat × Flags :=
  match slicePath w na nb f ps acc with
  | some (qa, qb, eg) =>
    let s := sliceSum w na nb qa qb eg (ps.map fun p => p.1.units qa) (ps.map fun p => p.2.units qb)
    roundUnits f md (s + acc.elim 0 (·.units eg)) eg
  | none => groupSum f md (ps.map fun p => (product p.1 p.2).1) acc

/-- One element by Primrose: groups of g pairs in order (01 R36, 11 R315, R316). A rung with no slice width takes the fallback path in every group
(11 R318). With the low-rank classes each LrDot is such a chain of FP32 pairs (11 R317). -/
def primroseChain (rung : Nat) (fa fb : Nat) (f : Fmt) (md : Rounding) (g : Nat) :
    Nat → List (Num × Num) → Option Nat → Flags → Nat × Flags
  | 0, _, x, fl => (x.getD 0, fl)
  | n + 1, ps, x, fl =>
    if ps.isEmpty then (x.getD 0, fl)
    else
      let now : List (Num × Num) := ps.take g
      let acc := x.map (decodeF f)
      let r := match sliceWidth rung with
        | some w => primroseGroup w (sliceCount w (sigBits fa)) (sliceCount w (sigBits fb)) f md now acc
        | none => groupSum f md (now.map fun p : Num × Num => (product p.1 p.2).1) acc
      primroseChain rung fa fb f md g n (ps.drop g) (some r.1)
        (fl ||| r.2 ||| flagIf (now.any fun p : Num × Num => (product p.1 p.2).2) flagNV)

/-- The pairs of element (i, j) of mmas: the kept positions of the MDQ entry select the terms (11 R317, 09 R262). -/
def keptPairs (kept : Array Nat) (a b : Array Num) (bt : Bool) (i j : Nat) : List (Num × Num) :=
  (List.range 64).map fun n => ((a[64 * i + n]?).getD (.fin false 0 0),
    (b[bIndex bt 128 ((kept[64 * i + n]?).getD 0) j]?).getD (.fin false 0 0))

/-- An integer product by slices of width w, with no exponents (11 R317); with no width it is formed on the VE (11 R318). -/
def primroseProduct (rung : Nat) (a b : Int) : Int :=
  match sliceWidth rung with
  | some w =>
    let n := sliceCount w (sigBits 7)
    ((List.range n).map fun s => ((List.range n).map fun t =>
      sliceProduct [balanced w n a] [balanced w n b] s t * 2 ^ (w * (s + t))).sum).sum
  | none => a * b

/-- One element of MX.I8 by Primrose (11 R317): the exact prefix sums in ascending k, OV when one leaves INT32, then the sum modulo
2^32. -/
def primroseInt (rung : Nat) (ps : List (Int × Int)) (acc : Int) : Int × Bool :=
  let sums := ps.foldl (fun (l : List Int) (p : Int × Int) => (l.headD acc + primroseProduct rung p.1 p.2) :: l) []
  (intOf true 32 (twos 32 (sums.headD acc)), sums.any fun s => decide (s < -2 ^ 31 ∨ 2 ^ 31 ≤ s))

end Sys2Proof.Machine
end

