-- ==== Sys2Proof/Safety.lean ====
section
/-! DEFINITION. What the claims about this machine speak of: the results that the spec gives its instructions, written a second
time in exact arithmetic and apart from the meanings, the conditions under which an instruction completes, and the
invariants of a step. -/

namespace Sys2Proof.Machine

open Host

-- Results of the scalar stream (04 R110-R114).

/-- The sources, the destination and the result of the SCU words that compute one register, from the word's address and its
sources' values, in exact integers (04 R110 to R114). -/
def scalarRule : Instr → Option (List SReg × SReg × (Nat → Word → Word → Word))
  | .add d a b => some ([a, b], d, fun _ x y => BitVec.ofNat 64 (x.toNat + y.toNat))
  | .sub d a b => some ([a, b], d, fun _ x y => BitVec.ofInt 64 (x.toInt - y.toInt))
  | .and d a b => some ([a, b], d, fun _ x y => BitVec.ofNat 64 (x.toNat &&& y.toNat))
  | .or d a b => some ([a, b], d, fun _ x y => BitVec.ofNat 64 (x.toNat ||| y.toNat))
  | .xor d a b => some ([a, b], d, fun _ x y => BitVec.ofNat 64 (x.toNat ^^^ y.toNat))
  | .shl d a b => some ([a, b], d, fun _ x y => BitVec.ofNat 64 (x.toNat * 2 ^ (y.toNat % 64)))
  | .shr d a b => some ([a, b], d, fun _ x y => BitVec.ofNat 64 (x.toNat / 2 ^ (y.toNat % 64)))
  | .sar d a b => some ([a, b], d, fun _ x y => BitVec.ofInt 64 (x.toInt / 2 ^ (y.toNat % 64)))
  | .slt d a b => some ([a, b], d, fun _ x y => if x.toInt < y.toInt then 1 else 0)
  | .sltu d a b => some ([a, b], d, fun _ x y => if x.toNat < y.toNat then 1 else 0)
  | .mul d a b => some ([a, b], d, fun _ x y => BitVec.ofInt 64 (x.toInt * y.toInt))
  | .mulh d a b => some ([a, b], d, fun _ x y => BitVec.ofInt 64 (x.toInt * y.toInt / 2 ^ 64))
  | .mulhu d a b => some ([a, b], d, fun _ x y => BitVec.ofNat 64 (x.toNat * y.toNat / 2 ^ 64))
  | .div d a b => some ([a, b], d, fun _ x y => BitVec.ofInt 64 (if y = 0 then -1 else x.toInt.tdiv y.toInt))
  | .divu d a b => some ([a, b], d, fun _ x y => BitVec.ofNat 64 (if y = 0 then 2 ^ 64 - 1 else x.toNat / y.toNat))
  | .rem d a b => some ([a, b], d, fun _ x y => BitVec.ofInt 64 (if y = 0 then x.toInt else x.toInt.tmod y.toInt))
  | .remu d a b => some ([a, b], d, fun _ x y => BitVec.ofNat 64 (if y = 0 then x.toNat else x.toNat % y.toNat))
  | .min d a b => some ([a, b], d, fun _ x y => BitVec.ofInt 64 (min x.toInt y.toInt))
  | .minu d a b => some ([a, b], d, fun _ x y => BitVec.ofNat 64 (min x.toNat y.toNat))
  | .max d a b => some ([a, b], d, fun _ x y => BitVec.ofInt 64 (max x.toInt y.toInt))
  | .maxu d a b => some ([a, b], d, fun _ x y => BitVec.ofNat 64 (max x.toNat y.toNat))
  | .addi d a i => some ([a], d, fun _ x _ => BitVec.ofInt 64 (x.toInt + i.toInt))
  | .andi d a i => some ([a], d, fun _ x _ => BitVec.ofNat 64 (x.toNat &&& i.toNat))
  | .ori d a i => some ([a], d, fun _ x _ => BitVec.ofNat 64 (x.toNat ||| i.toNat))
  | .xori d a i => some ([a], d, fun _ x _ => BitVec.ofNat 64 (x.toNat ^^^ i.toNat))
  | .shli d a n => some ([a], d, fun _ x _ => BitVec.ofNat 64 (x.toNat * 2 ^ n.val))
  | .shri d a n => some ([a], d, fun _ x _ => BitVec.ofNat 64 (x.toNat / 2 ^ n.val))
  | .sari d a n => some ([a], d, fun _ x _ => BitVec.ofInt 64 (x.toInt / 2 ^ n.val))
  | .slti d a i => some ([a], d, fun _ x _ => if x.toInt < i.toInt then 1 else 0)
  | .sltui d a i => some ([a], d, fun _ x _ => if x.toNat < (i.toInt % 2 ^ 64).toNat then 1 else 0)
  | .lui d i => some ([], d, fun _ _ _ => BitVec.ofInt 64 (i.toInt * 2 ^ 14))
  | .pcadd d i => some ([], d, fun pc _ _ => BitVec.ofInt 64 (pc + 4 * i.toInt))
  | _ => none

/-- The first two of some values. -/
def firstTwo (f : Word → Word → Word) (vs : List Word) : Word := f (vs.getD 0 0) (vs.getD 1 0)

/-- The write of an optional destination. -/
def State.writeOpt (s : State) (g : CoreNo) (late : Bool) (dst : Option SReg) (v : Word) : Res State :=
  match dst with
  | some d => s.writeDst g late d v
  | none => .ok s

/-- The operands of the executing SCU word are in order and there: directions (05 R153), the link of a branch in whose slot it stands
(04 R118), entries to pop (05 R151), and a free place for the destination. -/
def State.scuReady (s : State) (srcs : List SReg) (dst : Option SReg) : Prop :=
  operandChecks s.cur.core srcs dst = .ok () ∧ s.linkCheck s.cur.core = .ok () ∧ s.sourcesReady s.cur.core srcs = .ok () ∧
    dst.all ((s.pushLink s.cur.core).hasRoom s.cur.core) = true

/-- What an SCU word leaves when its own effect has led to t: its sources popped, its destination written, the word retired. -/
def State.scuDone (s t : State) (srcs : List SReg) (dst : Option SReg) (v : Word) : Res State :=
  ((t.popAll s.cur.core srcs).writeOpt s.cur.core (srcs.any isQueue) dst v).map fun u =>
    u.modInst s.cur.core fun i => i.retireScu s.cur s.len

/-- Destination, base register, displacement, bytes and signedness of the scalar loads (04 R115, Table 4.4). -/
def loadRule : Instr → Option (SReg × SReg × BitVec 14 × Nat × Bool)
  | .ldb d a i => some (d, a, i, 1, true)
  | .ldbu d a i => some (d, a, i, 1, false)
  | .ldh d a i => some (d, a, i, 2, true)
  | .ldhu d a i => some (d, a, i, 2, false)
  | .ldw d a i => some (d, a, i, 4, true)
  | .ldwu d a i => some (d, a, i, 4, false)
  | .ldd d a i => some (d, a, i, 8, false)
  | _ => none

/-- Data register, base register, displacement and bytes of the scalar stores (04 R115, Table 4.4). -/
def storeRule : Instr → Option (SReg × SReg × BitVec 14 × Nat)
  | .stb d a i => some (d, a, i, 1)
  | .sth d a i => some (d, a, i, 2)
  | .stw d a i => some (d, a, i, 4)
  | .std d a i => some (d, a, i, 8)
  | _ => none

/-- A number of n bytes extended to 64 bits. -/
def extended (signed : Bool) (n v : Nat) : Word :=
  BitVec.ofInt 64 (if signed ∧ 2 ^ (8 * n - 1) ≤ v then (v : Int) - 2 ^ (8 * n) else v)

/-- The effective address of a scalar access: the base plus the sign-extended displacement, modulo 2^64 (04 R115). -/
def effective (base : Word) (i : BitVec 14) : Word := BitVec.ofInt 64 (base.toInt + i.toInt)

/-- A branch or jump: its sources, its link register, its target from its address and its sources, and when it is taken (04 R118,
Table 4.5). -/
def branchRule : Instr → Option (List SReg × Option SReg × (Nat → Word → Int) × (Word → Word → Bool))
  | .beq a b i => some ([a, b], none, fun pc _ => pc + 4 * i.toInt, fun x y => x.toNat == y.toNat)
  | .bne a b i => some ([a, b], none, fun pc _ => pc + 4 * i.toInt, fun x y => x.toNat != y.toNat)
  | .blt a b i => some ([a, b], none, fun pc _ => pc + 4 * i.toInt, fun x y => decide (x.toInt < y.toInt))
  | .bge a b i => some ([a, b], none, fun pc _ => pc + 4 * i.toInt, fun x y => decide (y.toInt ≤ x.toInt))
  | .bltu a b i => some ([a, b], none, fun pc _ => pc + 4 * i.toInt, fun x y => decide (x.toNat < y.toNat))
  | .bgeu a b i => some ([a, b], none, fun pc _ => pc + 4 * i.toInt, fun x y => decide (y.toNat ≤ x.toNat))
  | .j i => some ([], none, fun pc _ => pc + 4 * i.toInt, fun _ _ => true)
  | .jal i => some ([], some 47, fun pc _ => pc + 4 * i.toInt, fun _ _ => true)
  | .jalr d a => some ([a], some d, fun _ x => x.toNat, fun _ _ => true)
  | _ => none

/-- Whether a word of memory satisfies a condition against b (04 Table 4.6): 32-bit values are compared as 32-bit numbers, signed
for lt and ge. -/
def monitorHolds (c : WCond) (w32 : Bool) (mem b : Nat) : Bool :=
  let n := if w32 then 32 else 64
  let x := mem % 2 ^ n
  let y := b % 2 ^ n
  let sx := (BitVec.ofNat n x).toInt
  let sy := (BitVec.ofNat n y).toInt
  match c with
  | .eq => x == y
  | .ne => x != y
  | .lt => decide (sx < sy)
  | .ge => decide (sy ≤ sx)
  | .ltu => decide (x < y)
  | .geu => decide (y ≤ x)
  | .any => x &&& y != 0

/-- The value that a satisfied wmon delivers: 32-bit values extended as the condition reads them (04 R130). -/
def monitorValue (c : WCond) (w32 : Bool) (mem : Nat) : Word :=
  if w32 then extended (c == .lt || c == .ge) 4 (mem % 2 ^ 32) else BitVec.ofNat 64 mem

/-- New(old, x) of the atomic operations on words of w bits, fadd apart (14 Table 14.5). -/
def atomicRule (op : AmoOp) (w old x : Nat) : Option Nat :=
  let a := BitVec.ofNat w old
  let b := BitVec.ofNat w x
  match op with
  | .add => some ((old + x) % 2 ^ w)
  | .and => some ((a &&& b).toNat)
  | .or => some ((a ||| b).toNat)
  | .xor => some ((a ^^^ b).toNat)
  | .min => some (BitVec.ofInt w (min a.toInt b.toInt)).toNat
  | .max => some (BitVec.ofInt w (max a.toInt b.toInt)).toNat
  | .minu => some (min (old % 2 ^ w) (x % 2 ^ w))
  | .maxu => some (max (old % 2 ^ w) (x % 2 ^ w))
  | .swap => some (x % 2 ^ w)
  | .fadd => none

/-- The new value of an atomic operation of n bytes, fadd with the FP32 or FP64 sum in RNE (14 Table 14.5). -/
def atomicNew (op : AmoOp) (n old x : Nat) : Nat :=
  let f := if n = 4 then fmtF32 else fmtF64
  (atomicRule op (8 * n) old x).getD (fAdd f .rne (decodeF f (old % 2 ^ (8 * n))) (decodeF f (x % 2 ^ (8 * n)))).1

/-- The old value as d receives it: 32-bit values are sign-extended but for minu, maxu and fadd (14 Table 14.5). -/
def atomicOld (op : AmoOp) (n old : Nat) : Word := extended (n == 4 && op != .minu && op != .maxu && op != .fadd) n old

/-- A doubleword after one update of a window: the bytes of its target take the new value, the others stay (14 R391). -/
def chained (v : Nat) (u : Update) : Nat :=
  let n := if u.w32 then 4 else 8
  let o := 8 * (u.pa % 8)
  let b := v / 2 ^ o % 2 ^ (8 * n)
  v - b * 2 ^ o + atomicNew u.op n b u.operand.toNat % 2 ^ (8 * n) * 2 ^ o

/-- An aligned address that may be accessed, and where it is (04 R116): none of its bytes is poisoned for an access that reads. -/
def State.mapped (s : State) (g : CoreNo) (ea : Word) (n : Nat) (need : Need) (pa : Nat) : Prop :=
  ea.toNat % n = 0 ∧ s.translate (some g) (s.ctxOf g) ea.toNat need = .ok pa ∧ (need = .write ∨ s.poisoned pa n = false)

/-- The words of the SCU that may not stand in a delay slot, seg apart (04 R120). -/
def slotWord (i : Instr) : Bool :=
  (branchRule i).isSome || match i with
    | .scuLoop _ _ => true
    | .wmon _ _ _ _ _ => true
    | .scuSafe => true
    | .scuEnd => true
    | .trap _ => true
    | .eret => true
    | _ => false

-- The vector engine.

/-- The operands of the executing VE word are in order and there: directions (05 R153), entries to pop, a free place, tokens. -/
def State.vecReady (s : State) (tk : Tok) (srcs : List VReg) (dst : Option VReg) : Prop :=
  vOperandChecks srcs dst = .ok () ∧ srcs.all (s.inst s.cur.core).vReadable = true ∧
    dst.all (s.inst s.cur.core).vHasRoom = true ∧ s.tokReady tk = true

/-- No exception arises whose trap FMODE enables (01 R32). -/
def Inst.quiet (i : Inst) (f : Nat → Flags) : Prop := ∀ l < 512, f l &&& enabled i.sys.fmode = 0

/-- What a word of the VE, ME or CE leaves when its effect has led to t: tokens moved, the word retired. -/
def State.wordDone (s t : State) (tk : Tok) : State :=
  t.retireWord (if tk.tw then [defaultIn s.cur.src.engine] else []) (if tk.ts then [defaultOut s.cur.src.engine] else [])

/-- An element-by-element instruction: its operands, the placements of what it reads and writes, whether it can raise
exceptions, and its result on the encodings of its sources' elements, from FMODE. -/
structure ElemRule where
  tk : Tok
  srcs : List VReg
  d : VReg
  k : KReg
  from' : Elem
  into : Elem
  fp : Bool
  op : Word → List Nat → Nat × Flags

/-- A floating-point operation on the numbers that encodings of a format stand for. -/
def onNums (f : FpFmt) (r : Rounding) (op : Fmt → Rounding → Num → Num → Num → Nat × Flags) (fmode : Word) (xs : List Nat) :
    Nat × Flags :=
  let x := fun j => decodeF (FpFmt.fmt f) (xs.getD j 0)
  op (FpFmt.fmt f) (modeOf r fmode) (x 0) (x 1) (x 2)

/-- An integer operation on encodings of w bits: no flags. -/
def onInts (f : IntFmt) (op : Nat → Nat → Nat → Int) (xs : List Nat) : Nat × Flags :=
  let w := (elemI f).bits
  ((op w (xs.getD 0 0) (xs.getD 1 0) % 2 ^ w).toNat, 0)

/-- An encoding with its sign bit replaced. -/
def resigned (f : FpFmt) (op : Nat → Nat → Nat) (xs : List Nat) : Nat × Flags :=
  let n := (FpFmt.fmt f).ebits + (FpFmt.fmt f).mbits
  let x := xs.getD 0 0
  let y := xs.getD 1 0
  (x % 2 ^ n + op (x / 2 ^ n % 2) (y / 2 ^ n % 2) % 2 * 2 ^ n, 0)

/-- The element-by-element instructions (06 R169 to R173). -/
def elemRule : Instr → Option ElemRule
  | .vadd tk d a b r f k => some ⟨tk, [a, b], d, k, elemF f, elemF f, true, onNums f r fun fm md x y _ => fAdd fm md x y⟩
  | .vsub tk d a b r f k => some ⟨tk, [a, b], d, k, elemF f, elemF f, true, onNums f r fun fm md x y _ => fAdd fm md x y.negate⟩
  | .vmul tk d a b r f k => some ⟨tk, [a, b], d, k, elemF f, elemF f, true, onNums f r fun fm md x y _ => fMul fm md x y⟩
  | .vdiv tk d a b r f k => some ⟨tk, [a, b], d, k, elemF f, elemF f, true, onNums f r fun fm md x y _ => fDiv fm md x y⟩
  | .vsqrt tk d a r f k => some ⟨tk, [a], d, k, elemF f, elemF f, true, onNums f r fun fm md x _ _ => fSqrt fm md x⟩
  | .vfma tk d a b r f k =>
    some ⟨tk, [a, b, d], d, k, elemF f, elemF f, true, onNums f r fun fm md x y z => fFma fm md false x y z⟩
  | .vfms tk d a b r f k =>
    some ⟨tk, [a, b, d], d, k, elemF f, elemF f, true, onNums f r fun fm md x y z => fFma fm md false x y z.negate⟩
  | .vfnma tk d a b r f k =>
    some ⟨tk, [a, b, d], d, k, elemF f, elemF f, true, onNums f r fun fm md x y z => fFma fm md true x y z⟩
  | .vmin tk d a b f k => some ⟨tk, [a, b], d, k, elemF f, elemF f, true, fun _ xs => fMinMax (FpFmt.fmt f) false (xs.getD 0 0) (xs.getD 1 0)⟩
  | .vmax tk d a b f k => some ⟨tk, [a, b], d, k, elemF f, elemF f, true, fun _ xs => fMinMax (FpFmt.fmt f) true (xs.getD 0 0) (xs.getD 1 0)⟩
  | .vsgnNeg tk d a f k => some ⟨tk, [a], d, k, elemF f, elemF f, false, fun _ => resigned f fun x _ => x + 1⟩
  | .vsgnAbs tk d a f k => some ⟨tk, [a], d, k, elemF f, elemF f, false, fun _ => resigned f fun _ _ => 0⟩
  | .vsgnCp tk d a b f k => some ⟨tk, [a, b], d, k, elemF f, elemF f, false, fun _ => resigned f fun _ y => y⟩
  | .vsgnXs tk d a b f k => some ⟨tk, [a, b], d, k, elemF f, elemF f, false, fun _ => resigned f fun x y => x + y⟩
  | .vsgnExp tk d a f k =>
    some ⟨tk, [a], d, k, elemF f, if f = FpFmt.f64 then .e64 else .e32, false, fun _ xs =>
      ((expOf (decodeF (FpFmt.fmt f) (xs.getD 0 0)) % 2 ^ (if f = FpFmt.f64 then 64 else 32)).toNat, 0)⟩
  | .viadd tk d a b f k => some ⟨tk, [a, b], d, k, elemI f, elemI f, false, fun _ => onInts f fun _ x y => x + y⟩
  | .visub tk d a b f k => some ⟨tk, [a, b], d, k, elemI f, elemI f, false, fun _ => onInts f fun _ x y => x - y⟩
  | .vimul tk d a b f k => some ⟨tk, [a, b], d, k, elemI f, elemI f, false, fun _ => onInts f fun _ x y => x * y⟩
  | .vand tk d a b f k => some ⟨tk, [a, b], d, k, elemI f, elemI f, false, fun _ => onInts f fun _ x y => (x &&& y : Nat)⟩
  | .vor tk d a b f k => some ⟨tk, [a, b], d, k, elemI f, elemI f, false, fun _ => onInts f fun _ x y => (x ||| y : Nat)⟩
  | .vxor tk d a b f k => some ⟨tk, [a, b], d, k, elemI f, elemI f, false, fun _ => onInts f fun _ x y => (x ^^^ y : Nat)⟩
  | .vshl tk d a b f k => some ⟨tk, [a, b], d, k, elemI f, elemI f, false, fun _ => onInts f fun w x y => x * 2 ^ (y % w)⟩
  | .vshr tk d a b f k => some ⟨tk, [a, b], d, k, elemI f, elemI f, false, fun _ => onInts f fun w x y => x / 2 ^ (y % w)⟩
  | .vsar tk d a b f k => some ⟨tk, [a, b], d, k, elemI f, elemI f, false, fun _ => onInts f fun w x y => intOf true w x / 2 ^ (y % w)⟩
  | .vimin tk d a b f k => some ⟨tk, [a, b], d, k, elemI f, elemI f, false, fun _ => onInts f fun w x y =>
      min (intOf (signedI f) w x) (intOf (signedI f) w y)⟩
  | .vimax tk d a b f k => some ⟨tk, [a, b], d, k, elemI f, elemI f, false, fun _ => onInts f fun w x y =>
      max (intOf (signedI f) w x) (intOf (signedI f) w y)⟩
  | _ => none

/-- What a VE word that moves elements or numbers them writes to the active elements of its destination: its operands, its placement,
and element n from the instance and the sources (06 R175, R183, R194). -/
def moveRule : Instr → Option (Tok × List VReg × VReg × KReg × Elem × (Inst → List Lanes → Nat → Nat))
  | .vmov tk d a f k => some (tk, [a], d, k, elemW f, fun _ vs n => elemAt (elemW f) (vs.getD 0 zeroLanes) n)
  | .vsel tk d a b f k => some (tk, [a, b], d, 0, elemW f, fun i vs n =>
      if (i.mask k).getLsbD n then elemAt (elemW f) (vs.getD 0 zeroLanes) n else elemAt (elemW f) (vs.getD 1 zeroLanes) n)
  | .vperm tk d a b f k => some (tk, [a, b], d, k, elemW f, fun _ vs n =>
      elemAt (elemW f) (vs.getD 0 zeroLanes) (elemAt (elemW f) (vs.getD 1 zeroLanes) n % 2 ^ 32 % (elemW f).count))
  | .vbcast tk d a l x k => some (tk, [a], d, k, elemW x, fun _ vs _ => elemAt (elemW x) (vs.getD 0 zeroLanes) l.val)
  | .vslide tk d a b m k => some (tk, [a, b], d, k, .e32, fun _ vs n =>
      if n + m.val < 512 then laneAt (vs.getD 0 zeroLanes) (n + m.val) else laneAt (vs.getD 1 zeroLanes) (n + m.val - 512))
  | .viota tk d f k => some (tk, [], d, k, elemX f, fun _ _ n => n)
  | .vmskTov tk d a k => some (tk, [], d, k, .e32, fun i _ n => if (i.mask a).getLsbD n then 1 else 0)
  | .vmskCnt tk d a k => some (tk, [], d, k, .e32, fun i _ _ => ((List.range 512).filter fun n => (i.mask a).getLsbD n).length)
  | .vmskFirst tk d a k => some (tk, [], d, k, .e32, fun i _ _ =>
      ((List.range 512).find? fun n => (i.mask a).getLsbD n).getD (2 ^ 32 - 1))
  | .vflgRd tk d k => some (tk, [], d, k, .e32, fun i _ n => (i.flagsAt n).toNat)
  | _ => none

/-- What a VE word that writes a mask register writes to its active bits: its operands, its placement, whether it can raise
exceptions, and bit n with its flags (06 R174, R175, R194). -/
def maskRule : Instr → Option (Tok × List VReg × KReg × KReg × Elem × Bool × (Inst → List Lanes → Nat → Bool × Flags))
  | .vcmp tk d a b c f k => some (tk, [a, b], d, k, elemF f, true, fun _ vs n =>
      vcmpOf c (decodeF (FpFmt.fmt f) (elemAt (elemF f) (vs.getD 0 zeroLanes) n)) (decodeF (FpFmt.fmt f) (elemAt (elemF f) (vs.getD 1 zeroLanes) n)))
  | .vicmp tk d a b c f k => some (tk, [a, b], d, k, elemI f, false, fun _ vs n =>
      let x := intOf (signedI f) (elemI f).bits (elemAt (elemI f) (vs.getD 0 zeroLanes) n)
      let y := intOf (signedI f) (elemI f).bits (elemAt (elemI f) (vs.getD 1 zeroLanes) n)
      (match c with
        | .eq => decide (x = y)
        | .ne => decide (x ≠ y)
        | .lt => decide (x < y)
        | .le => decide (x ≤ y)
        | .gt => decide (y < x)
        | .ge => decide (y ≤ x), 0))
  | .vmskAnd tk d a b k => some (tk, [], d, k, .e32, false, fun i _ n => ((i.mask a &&& i.mask b).getLsbD n, 0))
  | .vmskOr tk d a b k => some (tk, [], d, k, .e32, false, fun i _ n => ((i.mask a ||| i.mask b).getLsbD n, 0))
  | .vmskXor tk d a b k => some (tk, [], d, k, .e32, false, fun i _ n => ((i.mask a ^^^ i.mask b).getLsbD n, 0))
  | .vmskAndn tk d a b k => some (tk, [], d, k, .e32, false, fun i _ n => ((i.mask a).getLsbD n && !(i.mask b).getLsbD n, 0))
  | .vmskFromv tk d a k => some (tk, [a], d, k, .e32, false, fun _ vs n => ((laneAt (vs.getD 0 zeroLanes) n).testBit 0, 0))
  | .vflgAny tk d f k => some (tk, [], d, k, .e32, false, fun i _ n => (i.flagsAt n &&& f != 0, 0))
  | _ => none

/-- A reduction: its operands, its placement, whether it can raise exceptions, and its result on its active elements, from FMODE;
an inactive element is none (01 R42, 06 R185, R186). -/
def reduceRule : Instr → Option (Tok × VReg × VReg × KReg × Elem × Bool × (Word → List (Option Nat) → Nat × Flags))
  | .vredsum tk d a r f k => some (tk, d, a, k, elemH f, true, fun fm xs =>
      let t := sumTree (HFmt.fmt f) (modeOf r fm) 9 xs 0
      let sum := t.1.getD 0
      (if (decodeF (HFmt.fmt f) sum).isNan then cnan (HFmt.fmt f) else sum, t.2))
  | .vredmin tk d a f k => some (tk, d, a, k, elemR f, (redFp f).isSome, fun _ xs => redMinMax f false (xs.filterMap id))
  | .vredmax tk d a f k => some (tk, d, a, k, elemR f, (redFp f).isSome, fun _ xs => redMinMax f true (xs.filterMap id))
  | .viredsum tk d a f k => some (tk, d, a, k, elemI f, false, fun _ xs => ((xs.filterMap id).sum % 2 ^ (elemI f).bits, 0))
  | _ => none

/-- Doubleword 0 of a vector register: elements 0 and 1 of 32 bits, the lower first (06 R187). -/
def baseOf (v : Lanes) : Int := laneAt v 0 + laneAt v 1 * 2 ^ 32

/-- Element e's address: unit stride, stride, or base plus signed offset (06 Table 6.9). -/
def unitEa (f : VFmt) (vs : List Lanes) (e : Nat) : Word := BitVec.ofInt 64 (baseOf (vs.getD 0 zeroLanes) + e * elemBytes f)
def strideEa (vs : List Lanes) (e : Nat) : Word :=
  BitVec.ofInt 64 (baseOf (vs.getD 0 zeroLanes) + e * baseOf (vs.getD 1 zeroLanes))
def gatherEa (vs : List Lanes) (e : Nat) : Word :=
  BitVec.ofInt 64 (baseOf (vs.getD 0 zeroLanes) + (BitVec.ofNat 32 (laneAt (vs.getD 1 zeroLanes) e)).toInt)

/-- A vector memory access: whether it stores, its tokens, data register, address sources, reuse class, format, mask and the address
of each element (06 R187, Table 6.9). -/
def vecMemRule : Instr → Option (Bool × Tok × VReg × List VReg × Fin 8 × VFmt × KReg × (List Lanes → Nat → Word))
  | .vld tk d a c f k => some (false, tk, d, [a], c, f, k, unitEa f)
  | .vst tk d a c f k => some (true, tk, d, [a], c, f, k, unitEa f)
  | .vlds tk d a b c f k => some (false, tk, d, [a, b], c, f, k, strideEa)
  | .vsts tk d a b c f k => some (true, tk, d, [a, b], c, f, k, strideEa)
  | .vgath tk d a b c f k => some (false, tk, d, [a, b], c, f, k, gatherEa)
  | .vscat tk d a b c f k => some (true, tk, d, [a, b], c, f, k, gatherEa)
  | _ => none

/-- Whether vtrd or vtwr with element format f may access line n of direction dir of a tile (06 R192, 10 Table 10.5). -/
def lineOk (x : Tile) (f : TileFmt) (dir : Dir) (n : Nat) : Bool :=
  match x.form with
  | .d32 => f != .f64
  | .d64 => f == .f64
  | .lr => f != .f64 && dir == .row && decide (n < x.rows.length)

/-- A Hollyhock word: its tokens, destination, mask, the registers it reads and those of them that may be queues (07 R212, R217). -/
def hollyRule : Instr → Option (Tok × VReg × KReg × List VReg × List VReg)
  | .vexp tk d a _ _ k => some (tk, d, k, [a], [a])
  | .vlog tk d a _ _ k => some (tk, d, k, [a], [a])
  | .verf tk d a _ _ k => some (tk, d, k, [a], [a])
  | .vorient2 tk d a b t _ _ k => some (tk, d, k, block a 6 ++ (if t then block b 3 else []), [])
  | .vorient3 tk d a b t _ _ k => some (tk, d, k, block a 12 ++ (if t then block b 4 else []), [])
  | .vincirc tk d a b t _ _ k => some (tk, d, k, block a 8 ++ (if t then block b 4 else []), [])
  | .vinsph tk d a b t _ _ k => some (tk, d, k, block a 15 ++ (if t then block b 5 else []), [])
  | .vsegx tk d a b t _ _ k => some (tk, d, k, block a 8 ++ (if t then block b 4 else []), [])
  | _ => none

/-- A finite number is c 2^g. -/
def Num.isAt (g : Int) (c : Int) (x : Num) : Prop :=
  ∃ n m e, x = .fin n m e ∧ (m = 0 ∧ c = 0 ∨ g ≤ e ∧ c = (if n then -1 else 1) * (m * 2 ^ (e - g).toNat : Nat))

/-- The determinants of three and of four rows of integers. -/
def intDet3 (r : Nat → Nat → Int) : Int :=
  r 0 0 * (r 1 1 * r 2 2 - r 1 2 * r 2 1) - r 0 1 * (r 1 0 * r 2 2 - r 1 2 * r 2 0) + r 0 2 * (r 1 0 * r 2 1 - r 1 1 * r 2 0)
def intDet4 (r : Nat → Nat → Int) : Int :=
  r 0 0 * intDet3 (fun i k => r (i + 1) (k + 1)) - r 1 0 * intDet3 (fun i k => r (if i = 0 then 0 else i + 1) (k + 1))
    + r 2 0 * intDet3 (fun i k => r (if i = 2 then 3 else i) (k + 1)) - r 3 0 * intDet3 (fun i k => r i (k + 1))

/-- Table 7.6 on the coordinates of points: P p k is coordinate k of point p. -/
def orientD (P : Nat → Nat → Int) (a b c : Nat) : Int :=
  (P b 0 - P a 0) * (P c 1 - P a 1) - (P b 1 - P a 1) * (P c 0 - P a 0)
def incircleD (P : Nat → Nat → Int) : Int :=
  intDet3 fun r k =>
    let x := P r 0 - P 3 0
    let y := P r 1 - P 3 1
    if k = 0 then x else if k = 1 then y else x ^ 2 + y ^ 2
def insphereD (P : Nat → Nat → Int) : Int :=
  intDet4 fun r k =>
    let d := fun j => P r j - P 4 j
    if k = 3 then d 0 ^ 2 + d 1 ^ 2 + d 2 ^ 2 else d k

/-- The class of the segments ab and cd (07 R219): orientations on Q, places on P. -/
def segmentClass (Q P : Nat → Nat → Int) : Int :=
  let o := fun a b c => (orientD Q a b c).sign
  let on := fun p q s => ∀ k < 2, min (P q k) (P s k) ≤ P p k ∧ P p k ≤ max (P q k) (P s k)
  if 0 < o 0 1 2 * o 0 1 3 ∨ 0 < o 2 3 0 * o 2 3 1 then 0
  else if o 0 1 2 ≠ 0 ∧ o 0 1 3 ≠ 0 ∧ o 2 3 0 ≠ 0 ∧ o 2 3 1 ≠ 0 then 1
  else if o 0 1 2 = 0 ∧ on 2 0 1 ∨ o 0 1 3 = 0 ∧ on 3 0 1 ∨ o 2 3 0 = 0 ∧ on 0 2 3 ∨ o 2 3 1 = 0 ∧ on 1 2 3 then 2
  else 0

/-- An exact predicate (07 R216 to R223): whether it breaks ties, whether it is quiet, its format, the dimension and the number of its
points, its mark of a non-finite instance, and its result, from the coordinates that its determinants take and those of the points. -/
def signRule : Instr → Option (Bool × Bool × HFmt × Nat × Nat × Nat × ((Nat → Nat → Int) → (Nat → Nat → Int) → Int))
  | .vorient2 _ _ _ _ t q f _ => some (t, q, f, 2, 3, 2, fun Q _ => (orientD Q 0 1 2).sign)
  | .vorient3 _ _ _ _ t q f _ => some (t, q, f, 3, 4, 2, fun Q _ => (intDet3 fun r k => Q r k - Q 3 k).sign)
  | .vincirc _ _ _ _ t q f _ => some (t, q, f, 2, 4, 2, fun Q _ => (incircleD Q).sign)
  | .vinsph _ _ _ _ t q f _ => some (t, q, f, 3, 5, 2, fun Q _ => (insphereD Q).sign)
  | .vsegx _ _ _ _ t q f _ => some (t, q, f, 2, 4, 3, segmentClass)
  | _ => none

/-- Coordinates perturbed with ε = 1/N (07 R221), each multiplied by N^(2^(d np)): coordinate k of the point of rank r gains
ε^(2^(d r + k)), and `one` is 1.0. Points rank in the order of their indices, equal indices in operand order. -/
def perturbedAt (N : Nat) (one : Int) (d np : Nat) (idx : Nat → Nat) (P : Nat → Nat → Int) (p k : Nat) : Int :=
  let rank := ((List.range np).filter fun j => decide (idx j < idx p ∨ idx j = idx p ∧ j < p)).length
  let top := 2 ^ (d * np)
  P p k * (N : Int) ^ top + one * (N : Int) ^ (top - 2 ^ (d * rank + k))

/-- The special operands of vexp, vlog and verf (07 Table 7.4): the encodings of the sign, of infinity, of 1 and of the canonical NaN, and
the result and flags of an operand v that the table lists or that is a NaN. -/
def specialRule (i : Instr) (f : HFmt) (v : Nat) : Option (Nat × Flags) :=
  let c : Nat × Nat × Nat × Nat := match f with
    | .f32 => (0x80000000, 0x7F800000, 0x3F800000, 0x7FC00000)
    | .f64 => (0x8000000000000000, 0x7FF0000000000000, 0x3FF0000000000000, 0x7FF8000000000000)
  let (sgn, inf, one, nan) := c
  if inf < v % sgn then some (nan, if nan ≤ v % sgn then 0 else 1)
  else match i with
    | .vexp _ _ _ _ _ _ => if v % sgn = 0 then some (one, 0) else if v = inf then some (inf, 0) else if v = sgn + inf then some (0, 0) else none
    | .vlog _ _ _ _ _ _ =>
      if v % sgn = 0 then some (sgn + inf, 2) else if v = one then some (0, 0) else if v = inf then some (inf, 0)
      else if sgn < v then some (nan, 1) else none
    | .verf _ _ _ _ _ _ => if v % sgn = 0 then some (v, 0) else if v % sgn = inf then some (v - inf + one, 0) else none
    | _ => none

-- Stream control of the VE, ME and CE.

/-- tkw and tks of the VE, the ME or the CE: tokens, whether it pushes, and the other engine. -/
def tokenRule : Instr → Option (Tok × Bool × Engine)
  | .veTkw tk f => some (tk, false, f)
  | .meTkw tk f => some (tk, false, f)
  | .ceTkw tk f => some (tk, false, f)
  | .veTks tk f => some (tk, true, f)
  | .meTks tk f => some (tk, true, f)
  | .ceTks tk f => some (tk, true, f)
  | _ => none

-- The matrix engine.

/-- A word of the ME whose effect is t completes: tokens moved, the word retired, and the segment closed by an SE word. -/
def State.matrixDone (s t : State) (tk : Tok) (close : Bool) : State :=
  let u := s.wordDone t tk
  if close then u.modInst s.cur.core fun i => i.modStream s.cur.src.engine fun x => { x with seg := none } else u

/-- A word of the ME may complete: its tokens are there, and an SE word closes no broken segment. -/
def State.matrixReady (s : State) (tk : Tok) (close : Bool) : Prop :=
  s.tokReady tk = true ∧ (close && (((s.inst s.cur.core).stream s.cur.src.engine).count s.cur.word).mismatch) = false

/-- A multiply-accumulate word: its class, tokens, SE flag, tile, streams, tile form, the formats and element counts that its streams must
have, whether it pops metadata, and element (i, j) of its result with its MFLG bits, from FMODE, the streams' registers, the old
tile, the elements of A and of B with their scales, and the kept positions. -/
structure MmaRule where
  cls : Nat
  tk : Tok
  se : Bool
  d : TReg
  a : Sys2Proof.ZReg
  b : Sys2Proof.ZReg
  form : TileForm
  fa : Nat
  fb : Nat
  ea : Nat
  eb : Nat
  sparse : Bool
  elem : Word → ZReg → ZReg → Tile → Array (Nat × Nat) → Array (Nat × Nat) → Array Nat → Nat → Nat → Nat × Word

/-- The fused group rule (01 R36 to R38) on the products of row i of A and column j of B: depth k, groups of g. -/
def fpElem (f : Fmt) (fa fb k g : Nat) (r : Rounding) (acc bt : Bool) (fmode : Word) (t : Tile) (xa xb : Array (Nat × Nat))
    (i j : Nat) : Nat × Word :=
  let a := fun n => ((xa[i * k + n]?).map (fpOperand fa)).getD (.fin false 0 0)
  let b := fun n => ((xb[if bt then j * k + n else n * 64 + j]?).map (fpOperand fb)).getD (.fin false 0 0)
  let res := groupChain f (modeOf r fmode) g k ((List.range k).map fun n => product (a n) (b n))
    (if acc then some (t.elem i j) else none) 0
  (res.1, res.2.zeroExtend 64)

/-- Integer accumulation (01 R40): the sum of the products and the old element modulo 2^32, and OV when a partial sum left INT32. -/
def intElem (k : Nat) (acc bt : Bool) (za zb : ZReg) (t : Tile) (xa xb : Array (Nat × Nat)) (i j : Nat) : Nat × Word :=
  let a := fun n => ((xa[i * k + n]?).map (intOperand za)).getD 0
  let b := fun n => ((xb[if bt then j * k + n else n * 64 + j]?).map (intOperand zb)).getD 0
  let ps := (List.range k).map fun n => a n * b n
  let old : Int := if acc then intOf true 32 (t.elem i j) else 0
  (((old + ps.sum) % 2 ^ 32).toNat, if (intChain ps old false).2 then 32 else 0)

/-- The multiply-accumulate words (09 Table 9.2, 02 Table 2.10). -/
def mmaRule : Instr → Option MmaRule
  | .mmaF64 tk d a b r c t e => some ⟨0, tk, e, d, a, b, .d64, 0, 0, 512, 512, false, fun fm _ _ x xa xb _ =>
      fpElem fmtF64 0 0 8 1 r c t fm x xa xb⟩
  | .mmaB16 tk d a b f r c t e =>
    let n := if f = .bf16 then 2 else 3
    some ⟨2, tk, e, d, a, b, .d32, n, n, 4096, 4096, false, fun fm _ _ x xa xb _ => fpElem fmtF32 n n 64 8 r c t fm x xa xb⟩
  | .mmaF8 tk d a b f r c t e =>
    let na := if f.getLsbD 1 then 5 else 4
    let nb := if f.getLsbD 0 then 5 else 4
    some ⟨3, tk, e, d, a, b, .d32, na, nb, 8192, 8192, false, fun fm _ _ x xa xb _ => fpElem fmtF32 na nb 128 16 r c t fm x xa xb⟩
  | .mmaF4 tk d a b r c t e => some ⟨5, tk, e, d, a, b, .d32, 6, 6, 16384, 16384, false, fun fm _ _ x xa xb _ =>
      fpElem fmtF32 6 6 256 32 r c t fm x xa xb⟩
  | .mmaI8 tk d a b f c t e => some ⟨4, tk, e, d, a, b, .d32, if f.getLsbD 1 then 8 else 7, if f.getLsbD 0 then 8 else 7, 8192, 8192,
      false, fun _ za zb x xa xb _ => intElem 128 c t za zb x xa xb⟩
  | .mmaI4 tk d a b f c t e => some ⟨6, tk, e, d, a, b, .d32, if f.getLsbD 0 then 10 else 9, if f.getLsbD 1 then 10 else 9, 16384, 16384,
      false, fun _ za zb x xa xb _ => intElem 256 c t za zb x xa xb⟩
  | .mmas tk d a b f r c t e =>
    let n := if f = .bf16 then 2 else 3
    some ⟨7, tk, e, d, a, b, .d32, n, n, 4096, 8192, true, fun fm _ _ x xa xb kept i j =>
      let pa := fun m => ((xa[64 * i + m]?).map (fpOperand n)).getD (.fin false 0 0)
      let at' := fun m => (kept[64 * i + m]?).getD 0
      let pb := fun m => ((xb[if t then j * 128 + at' m else at' m * 64 + j]?).map (fpOperand n)).getD (.fin false 0 0)
      let res := groupChain fmtF32 (modeOf r fm) 8 64 ((List.range 64).map fun m => product (pa m) (pb m))
        (if c then some (x.elem i j) else none) 0
      (res.1, res.2.zeroExtend 64)⟩
  | _ => none

/-- The operands of a multiply-accumulate are readable: both streams are configured for it and do not name one ring, a ring-sourced
one has a landed slot, and their elements are there. -/
def streamsReady (i : Inst) (a b : Sys2Proof.ZReg) (fa fb ea eb : Nat) (xa xb : Array (Nat × Nat)) : Prop :=
  streamIssue i a fa ea (some b) = .ok () ∧ streamIssue i b fb eb none = .ok () ∧ i.slotReady a = true ∧ i.slotReady b = true ∧
    i.take a ea = .ok xa ∧ i.take b eb = .ok xb

/-- The factor pair of a product of two tiles, at least one in factor state (10 R283). -/
def lrProduct (x y : Tile) : Factors × Flags :=
  if x.factor then
    if y.factor then (mulFactors x.factors y.factors).run 0
    else
      let r := (x.factors.2.mapM fun v => y.denseCols.mapM fun c => colDot c v).run 0
      ((x.factors.1, r.1), r.2)
  else
    let r := (y.factors.1.mapM fun u => (List.range 64).mapM fun k => colDot (x.denseCols.map fun c => at0 c k) u).run 0
    ((r.1, y.factors.2), r.2)

/-- The dense sum or difference of two tiles, element by element, with its flags (10 R284). -/
def lrDenseSum (x y : Tile) (neg : Bool) : List (List Nat) × Flags :=
  (do
    let p ← x.dense
    let q ← y.dense
    (p.zip (if neg then q.map (·.map negBit) else q)).mapM fun c =>
      (c.1.zip c.2).mapM fun e => lrDot [term1 e.1, term1 e.2] none : Lr (List (List Nat))).run 0

/-- The dense matrix of a low-rank tile, added to the old dense matrix of t with acc, and its flags (10 R285). -/
def lrDensified (x t : Tile) (acc : Bool) : List (List Nat) × Flags :=
  if acc then
    (do
      let old ← t.dense
      (List.range 64).mapM fun j => (List.range 64).mapM fun i =>
        lrDot (if x.factor then (x.factors.1.map fun c => at0 c i).zipWith term2 (x.factors.2.map fun c => at0 c j)
          else [term1 (x.word i j)]) (some (at0 (col old j) i)) : Lr (List (List Nat))).run 0
  else if x.factor then (densify x.factors).run 0
  else (x.denseCols, 0)

/-- The recompression of a low-rank tile at the tolerance of MTOL, within the cap of t (10 R287). -/
def lrRecompressed (i : Inst) (x t : Tile) : Factors × Flags :=
  let f : Factors := if x.factor then x.factors else (x.denseCols, identity 64 64)
  (recompress f.1 f.2 x.rank i.tol (some t.cap)).run 0

-- The copy engine.

/-- The record of a q0 command that leaves no copy in flight: zero bytes, its major and its SEQ (12 R346). -/
def State.recorded (s t : State) : State :=
  if s.cur.src = .q0 then
    (t.modInst s.cur.core fun i => i.pushRecord false 0 (majorOf .ce s.cur.word.toNat) (s.inst s.cur.core).q0Seq).sink s.cur.core
  else t

/-- A slot of the ring that a stream register names holds n bytes; a stream of no ring has no such bound (08 R237). -/
def Inst.slotHolds (i : Inst) (z : ZReg) (n : Nat) : Bool := (i.ringOf z).all fun r => decide (n ≤ r.2.2.slotBytes)

/-- The ring that a stream register names has a free slot: fewer than its slots are reserved and not released (08 R236, R237). -/
def Inst.ringFree (i : Inst) (z : ZReg) : Bool := (i.ringOf z).all fun r => r.2.2.res - r.2.2.head != BitVec.ofNat 32 r.2.2.slots

/-- The slot at R of the ring that a stream register names (08 R237). -/
def Inst.slotAtR (i : Inst) (z : ZReg) : Option SlotRef := (i.ringOf z).map fun r => ⟨r.1, r.2.1, r.2.2.res⟩

/-- The state with that slot reserved: R counts one more (08 R237). -/
def State.reserved (s : State) (z : ZReg) : State :=
  match (s.inst s.cur.core).ringOf z with
  | some r => s.modInst s.cur.core fun i => i.modRing r.1 r.2.1 fun x => { x with res := x.res + 1 }
  | none => s

/-- A range of a buffer lies in its claim; an end of a copy that is no buffer has none (08 R230). -/
def Inst.inClaim (i : Inst) (b : Option Buf) (off n : Nat) : Bool := b.all fun x => n == 0 || decide (off + n ≤ i.claim x)

/-- A new copy of the executing word: the registers it read, no unit landed (12 R323, R419). -/
def State.issued (s : State) (i : Instr) (x : CopySpec) : State :=
  s.modInst s.cur.core fun j =>
    { j with
      copies := j.copies ++ [{ id := j.nextId, src := s.cur.src, seq := if s.cur.src = .q1 then j.q1Seq else j.q0Seq, pc := s.cur.pc,
                               instr := i, p := x.p, q := x.q, len := x.len, m := x.m, zp := x.zp, zq := x.zq, count := x.count,
                               units := x.units, first := 0, map := 0, after := j.waitsFor s.cur.src (hasOrd i), sent := [],
                               slot := x.slot, mdq := x.mdq, started := false, input := [], stage := [], entry := [], fault := none,
                               faultUnit := 0, kept := [], ahead := [], sectors := [], begun := none, stalled := false, committed := none }],
      nextId := j.nextId + 1 }

/-- A word that issues a copy: its tokens, whether its checks hold, whether there is room for it, what it does at any length, what it
reserves, the copy, and what it does once the copy is in flight. -/
structure CopyRule where
  tk : Tok
  ok : Bool
  room : Bool
  spec : CopySpec
  always : State → State
  before : State → State
  after : State → State

/-- The length of the pair at q. -/
def State.lenOf (s : State) (q : CReg) : Nat := (s.cReg (nextReg q)).toNat

/-- The words that issue copies, from a source other than q3 (12 R326 to R335, R352, 13 R365, R368, 14 R385, R388, 18 R467 to R472). -/
def copyRule (s : State) : Instr → Option CopyRule
  | .cp tk p q _ x y _ _ =>
    let i := s.inst s.cur.core
    let n := s.lenOf q
    let zp := i.z[p]
    some
      { tk := tk
        ok := decide (n < 2 ^ 31) && (x != .mdq || n == 1024) && (!(x == .ve || y == .ve) || n % 2048 == 0)
          && (x != .ring || ((i.ringOf zp).isSome && i.slotHolds zp n))
          && i.inClaim (cpSrcBuf y) (s.cReg q).toNat n && i.inClaim (cpDstBuf x) (s.cReg p).toNat n
        room := (x != .ring || i.ringFree zp) && (x != .mdq || decide (i.mdq.length < 8))
        spec := ⟨s.cReg p, s.cReg q, n, 0, zp, .reset, n,
          if x = .ring then unitsFrom (i.slotFrom (i.slotAtR zp)) n
          else if x = .mdq ∨ x = .ve then unitsFrom 0 n else unitsFrom (s.cReg p).toNat n,
          if x = .ring then i.slotAtR zp else none, if x = .mdq then some i.nextId else none⟩
        always := id
        before := fun t => if x = .ring then t.reserved zp
          else if x = .mdq then t.modInst s.cur.core fun j => { j with mdq := j.mdq ++ [⟨j.nextId, [], false⟩] }
          else t
        after := id }
  | .cpn tk p q _ _ =>
    let i := s.inst s.cur.core
    let zp := i.z[p]
    let zq := i.z[q]
    let n := zq.countBytes
    some
      { tk := tk
        ok := zq.src != 4 && zq.src != 5 && (zp.wlog == zq.wlog && zp.elems == zq.elems && (zp.fmt == 6) == (zq.fmt == 6)
          && (zp.fmt == 10) == (zq.fmt == 10) && zp.planes == zq.planes) && i.slotHolds zp n
        room := i.ringFree zp
        spec := ⟨zp.base, zq.base, n, 0, zp, zq, n, streamUnits (i.placeOf zp (i.slotAtR zp)).origin (cpnParts zp zq), i.slotAtR zp, none⟩
        always := id, before := fun t => t.reserved zp, after := id }
  | .cpx tk p q _ x _ _ =>
    let i := s.inst s.cur.core
    let n := s.lenOf q
    let zp := i.z[p]
    some
      { tk := tk
        ok := decide (n < 2 ^ 31) && (s.cReg q).toNat % 256 == 0 && n % 256 == 0
          && (x != .ring || ((i.ringOf zp).isSome && i.slotHolds zp n)) && i.inClaim (cpxDstBuf x) (s.cReg p).toNat n
        room := x != .ring || i.ringFree zp
        spec := ⟨s.cReg p, s.cReg q, n, 0, zp, .reset, n,
          if x = .ring then unitsFrom (i.slotFrom (i.slotAtR zp)) n else if x = .mem then n / 256 else unitsFrom (s.cReg p).toNat n,
          if x = .ring then i.slotAtR zp else none, none⟩
        always := id, before := fun t => if x = .ring then t.reserved zp else t, after := id }
  | .lyt tk p q _ m _ =>
    let i := s.inst s.cur.core
    let zp := i.z[p]
    let zq := i.z[q]
    let map := if s.cur.src = .q1 then i.qw[1].getD 1 0 else s.cReg m
    let n := outCount zq.counts map * zq.w / 8
    some
      { tk := tk
        ok := lytChecks i p q map matches .ok _ && i.slotHolds zp n
        room := decide ((i.copies.filter fun c => isLyt c.instr).length < 4) && i.ringFree zp
        spec := ⟨zp.base, zq.base, n, map, zp, zq, n, streamUnits (i.placeOf zp (i.slotAtR zp)).origin (lytParts zp), i.slotAtR zp, none⟩
        always := id, before := fun t => t.reserved zp, after := id }
  | .keepF tk k q _ =>
    let n := s.lenOf q
    some
      { tk := tk
        ok := decide (n < 2 ^ 31) && (s.cReg q).toNat % 256 == 0 && n % 256 == 0
        room := true
        spec := ⟨0, s.cReg q, n, 0, .reset, .reset, n, n / 256, none, none⟩
        always := fun t => t.setKeep s.cur.core k (s.cReg q) n, before := id, after := id }
  | .cflush tk q _ _ => some (flushRule s tk q)
  | .cinv tk q _ => some (flushRule s tk q)
  | .cpatm tk p q _ _ _ e _ z =>
    let i := s.inst s.cur.core
    let n := s.lenOf q
    let win := s.cReg p
    let taken := s.takeSeq s.cur.core win.toNat
    some
      { tk := tk
        ok := decide (0 < n ∧ n < 2 ^ 31 ∧ n % 16 = 0 ∧ (s.cReg q).toNat % 16 = 0)
          && (!e || (decide (n ≤ 8192 ∧ win.toNat < 64) && s.windowOpenFor s.cur.core win.toNat))
          && i.inClaim (listBuf z) (s.cReg q).toNat n
        room := true
        spec := ⟨win, s.cReg q, n, if e then BitVec.ofNat 64 taken.1 else 0, .reset, .reset, n, n / 16, none, none⟩
        always := id, before := fun t => if e then (t.takeSeq s.cur.core win.toNat).2 else t, after := id }
  | .cprm tk p q _ m _ _ =>
    let n := s.lenOf q
    let peer := s.peerOf (s.ctxOf s.cur.core) m.val
    some
      { tk := tk
        ok := decide (n < 2 ^ 31) && peer.isSome
        room := true
        spec := ⟨s.cReg p, s.cReg q, n, BitVec.ofNat 64 (peer.getD 0), .reset, .reset, n, (n + 255) / 256, none, none⟩
        always := id, before := id, after := id }
  | .sigSt tk p q _ m _ x => some (sigRule s tk p q m x)
  | .sigAdd tk p q _ m _ x => some (sigRule s tk p q m x)
  | .collAr tk p _ _ => some (collRule s tk p)
  | .collRs tk p _ _ => some (collRule s tk p)
  | .collAg tk p _ _ => some (collRule s tk p)
  | .collBc tk p _ _ => some (collRule s tk p)
  | .spill tk p q _ b _ => some (spillRule s tk p q b (s.cReg p))
  | .fill tk p q _ b _ => some (spillRule s tk p q b (s.cReg q))
  | .datmClose tk p _ r =>
    let g := s.cur.core
    let v := s.cReg p
    some
      { tk := tk
        ok := decide (v.toNat < 64) && s.windowOpenFor g v.toNat
        room := true
        spec := ⟨v, 0, 1, 0, .reset, .reset, 1, 1, none, none⟩
        always := id, before := id
        after := fun t => match s.cores[g].occupant with
          | some o => t.modJoiner o.task o.ordinal v.toNat fun j => { j with closed := true, closer := some (g, (s.inst g).nextId, r) }
          | none => t }
  | _ => none
where
  /-- cflush and cinv. -/
  flushRule (s : State) (tk : Tok) (q : CReg) : CopyRule :=
    let n := s.lenOf q
    { tk := tk, ok := decide (n < 2 ^ 31) && (s.cReg q).toNat % 64 == 0 && n % 64 == 0, room := true
      spec := ⟨0, s.cReg q, n, 0, .reset, .reset, n, (n + 255) / 256, none, none⟩
      always := id, before := id, after := id }
  /-- sig.st and sig.add. -/
  sigRule (s : State) (tk : Tok) (p q : CReg) (m : Fin 64) (x : Bool) : CopyRule :=
    let n := if x then 4 else 8
    let peer := s.peerOf (s.ctxOf s.cur.core) m.val
    { tk := tk, ok := peer.isSome && (s.cReg p).toNat % n == 0, room := true
      spec := ⟨s.cReg p, s.cReg q, n, BitVec.ofNat 64 (peer.getD 0), .reset, .reset, n, 1, none, none⟩
      always := id, before := id, after := id }
  /-- The collectives. -/
  collRule (s : State) (tk : Tok) (p : CReg) : CopyRule :=
    { tk := tk, ok := (s.cReg p).toNat % 64 == 0, room := true
      spec := ⟨s.cReg p, 0, 1, 0, .reset, .reset, 1, 1, none, none⟩
      always := id, before := id, after := id }
  /-- spill and fill, whose destination starts at `base`. -/
  spillRule (s : State) (tk : Tok) (p q : CReg) (b : Buf) (base : Word) : CopyRule :=
    let i := s.inst s.cur.core
    let n := s.lenOf q
    { tk := tk
      ok := decide (n < 2 ^ 31) && (s.cReg p).toNat % 64 == 0 && n % 64 == 0
        && (n == 0 || decide ((s.cReg p).toNat + n ≤ i.spillLen)) && i.inClaim (some b) (s.cReg q).toNat n
      room := true
      spec := ⟨s.cReg p, s.cReg q, n, 0, .reset, .reset, n, unitsFrom base.toNat n, none, none⟩
      always := id, before := id, after := id }

/-- A word of the CE with its whole effect at issue: its tokens, whether its checks hold and what it waits for is there, its effect. -/
def ceNowRule (s : State) : Instr → Option (Tok × Bool × State)
  | .pf tk q l z =>
    let g := s.cur.core
    let top := (s.cReg q).toNat + s.lenOf q
    some (tk, decide (s.lenOf q < 2 ^ 31), (linesOf (s.cReg q).toNat (s.lenOf q)).foldl (fun t va =>
      match t.translate (some g) (t.ctxOf g) va .read with
      | .ok pa => t.prefetch l g va pa (min 256 (top - va)) z
      | .error _ => t) s)
  | .keep tk k q =>
    let n := s.lenOf q
    some (tk, decide (n < 2 ^ 31) && (s.cReg q).toNat % 256 == 0 && n % 256 == 0, s.setKeep s.cur.core k (s.cReg q) n)
  | .unkeep tk k => some (tk, true, s.setKeep s.cur.core k 0 0)
  | .acset tk q a => some (tk, true, counter a fun _ => ⟨BitVec.ofNat 32 (s.cReg q).toNat, false⟩)
  | .acadd tk q a => some (tk, true, counter a fun x => { x with value := x.value + BitVec.ofNat 32 (s.cReg q).toNat })
  | .acwait tk a =>
    let x := (s.inst s.cur.core).a[a]
    some (tk, !x.overrun && decide (x.value.toInt ≤ 0), s)
  | .cgetPop tk p => match (s.inst s.cur.core).qw[10] with
    | [] => none
    | v :: rest => some (tk, true, (s.modInst s.cur.core fun i => { i with qw := i.qw.set 10 rest, c := i.c.set p v }).sink s.cur.core)
  | .cgetC tk p => some (push tk (s.cReg p))
  | .cgetCur tk p => some (push tk (BitVec.ofNat 64 (s.inst s.cur.core).z[p].cursor.toNat))
  | .cgetScale tk p =>
    let z := (s.inst s.cur.core).z[p]
    some (push tk (BitVec.ofNat 64 (if z.fmt = 10 then z.scale else z.qscale).toNat))
  | .cgetAc tk n =>
    let x := (s.inst s.cur.core).a[n]
    some (push tk (BitVec.ofNat 64 (x.overrun.toNat * 2 ^ 32 + x.value.toNat)))
  | .cgetLi tk p i => some (tk, true, setC p (BitVec.ofInt 64 i.toInt))
  | .cadd tk p q i => some (tk, true, setC p (BitVec.ofInt 64 ((s.cReg q).toInt + i.toInt)))
  | .scfg tk p q =>
    let g := s.cur.core
    let va := (s.cReg q).toNat
    match s.readV (some g) (s.ctxOf g) va 64 with
    | .error _ => none
    | .ok bs => some (tk, decide (va % 64 = 0) && (loadReason (s.inst g) (zregOf bs)).isNone,
        (s.noteRange g va 64 s.openDist false).modInst g fun i => { i with z := i.z.set p { zregOf bs with scale := (zregOf bs).effective } })
  | .hret c =>
    let i := s.inst s.cur.core
    let reply : Word := BitVec.ofNat 64 ((i.helper.elim 0 fun h => h.tag.toNat) * 65536 + c.toNat)
    some (⟨false, false⟩, i.helperIdle && decide (i.qr[4].length < 4), (s.modInst s.cur.core fun i =>
      { i with helper := none, qr := i.qr.set 4 (i.qr[4] ++ [reply]) }).sink s.cur.core)
  | .hflag p q =>
    let i := s.inst s.cur.core
    let off := (s.cReg p).toNat
    some (⟨false, false⟩, decide (off % 4 = 0 ∧ off + 4 ≤ i.claimA) && i.helperIdle,
      s.copyBuf s.cur.core .a off (leBytes 4 (s.cReg q).toNat))
  | .datmOpen tk p q o =>
    let g := s.cur.core
    let v := (s.cReg p).toNat
    let n := (s.cReg q).toNat
    match s.cores[g].occupant, s.taskOn g with
    | some oc, some t =>
      let j : Joiner := ⟨oc.ordinal, (dieOf g).val, (coreOf g).val, 0, false, none⟩
      match t.window v with
      | none => some (tk, decide (v < 64 ∧ 1 ≤ n ∧ n ≤ 65535),
          s.modTask oc.task fun t => { t with windows := t.windows ++ [⟨Fin.ofNat 64 v, n, o, [j], []⟩] })
      | some w => some (tk, decide (v < 64 ∧ w.n = n ∧ w.okey = o ∧ w.joined.length < n ∧ ∀ x ∈ w.joined, x.ordinal ≠ oc.ordinal)
            && !s.applying oc.task w,
          s.modTask oc.task fun t => { t with windows := t.windows.map fun x =>
            if x.num.val = v then { x with joined := x.joined ++ [j] } else x })
    | _, _ => none
  | _ => none
where
  counter (a : AReg) (f : Arrival → Arrival) : State := s.modInst s.cur.core fun i => { i with a := i.a.set a (f i.a[a]) }
  setC (p : CReg) (v : Word) : State := s.modInst s.cur.core fun i => { i with c := i.c.set p v }
  push (tk : Tok) (v : Word) : Tok × Bool × State :=
    (tk, decide ((s.inst s.cur.core).qr[11].length < 8),
      (s.modInst s.cur.core fun i => { i with qr := i.qr.set 11 (i.qr[11] ++ [v]) }).sink s.cur.core)

-- The bytes that units of copies write.

/-- Bit n of some bytes, numbered from bit 0 of byte 0 up. -/
def bitOf (m : Bytes) (n : Nat) : Bool := (m.get (n / 8)).getLsbD (n % 8)

/-- Parts of a stream, first bit from the byte `origin`, width and value, have been put into some bytes: a bit that no part holds is as
before, and a part that no later one overlaps holds its value. -/
def partsStand (old new : Bytes) (origin : Nat) (l : List (Int × Nat × Nat)) : Prop :=
  let first := fun e : Int × Nat × Nat => (8 * (origin : Int) + e.1).toNat
  (∀ n, (∀ e ∈ l, ¬ (first e ≤ n ∧ n < first e + e.2.1)) → bitOf new n = bitOf old n) ∧
  ∀ (k : Nat) e, l[k]? = some e → (∀ (m : Nat) f, k < m → l[m]? = some f → first f + f.2.1 ≤ first e ∨ first e + e.2.1 ≤ first f) →
    ∀ j < e.2.1, bitOf new (first e + j) = e.2.2.testBit j

/-- Where a cp finds the bytes from offset `off` of its source up: the space, 0 memory and 1 to 3 a buffer, and the address. -/
def Copy.cpFrom (c : Copy) (y : CpSrc) (off : Nat) : Option (Nat × Nat) :=
  match y with
  | .mem => some (0, (c.q + BitVec.ofNat 64 off).toNat)
  | .w => some (1, c.q.toNat + off)
  | .a => some (2, c.q.toNat + off)
  | .c => some (3, c.q.toNat + off)
  | .ve => none

/-- The buffer that a cp or cpx into a typed buffer or a ring slot writes, or cpn or lyt through a stream register. -/
def Inst.copyDst (i : Inst) (c : Copy) : Option Buf :=
  match c.slot with
  | some r => some r.buf
  | none => match c.instr with
    | .cp _ _ _ _ x _ _ _ => cpDstBuf x
    | .cpx _ _ _ _ x _ _ => cpxDstBuf x
    | _ => (i.placeOf c.zp none).buf

/-- Only a buffer of core g has changed of memory, the spill area and the buffers, if any has. -/
def State.onlyBuf (s t : State) (g : CoreNo) (b : Buf) : Prop :=
  t.mem = s.mem ∧ (t.inst g).spill = (s.inst g).spill ∧ ∀ x, x ≠ b → (t.inst g).buf x = (s.inst g).buf x

-- Frames.

/-- The executing word has trapped: t is s after a trap. -/
def State.trapped (s t : State) : Prop :=
  ∃ (c : Cause) (v : Word) (q2 : Bool) (seg : Option (Word × Word)) (m : Option FpxMark), t = s.raiseAs c v q2 seg m

/-- Sources and destination of the SCU words of the scalar frame. -/
def scuForm : Instr → Option (List SReg × Option SReg)
  | .amo d a b _ _ _ => some ([a, b], some d)
  | .cas d a b _ _ => some ([a, b, d], some d)
  | .csrr d _ => some ([], some d)
  | .csrw a _ => some ([a], none)
  | .wmon d a b _ _ => some ([a, b], some d)
  | .scuLoop a _ => some ([a], none)
  | i =>
    match scalarRule i, loadRule i, storeRule i, branchRule i with
    | some (srcs, d, _), _, _, _ => some (srcs, some d)
    | _, some (d, a, _), _, _ => some ([a], some d)
    | _, _, some (d, a, _), _ => some ([a, d], none)
    | _, _, _, some (srcs, d, _) => some (srcs, d)
    | _, _, _, _ => none

/-- What an SCU word stores to: the address that it computes, its bytes, and the access it needs. -/
def scuStoreAt (s : State) : Instr → Option (Word × Nat × Need)
  | .amo _ a _ _ w _ => some (s.readS s.cur.core a, if w then 4 else 8, .both)
  | .cas _ a _ _ w => some (s.readS s.cur.core a, if w then 4 else 8, .both)
  | i => (storeRule i).map fun r => (effective (s.readS s.cur.core r.2.1) r.2.2.1, r.2.2.2, .write)

/-- The scalar registers that the executing SCU word writes: its destination, and the link of the branch whose slot it is. -/
def State.scuWrites (s : State) (dst : Option SReg) : List SReg :=
  dst.toList ++ (match (s.inst s.cur.core).slot with
    | some b => b.link.toList.map (·.1)
    | none => [])

/-- The state of an instance that no word of the SCU, the VE or the ME writes by its effect on registers of another kind. -/
structure Rest where
  c : Vector Word 16
  a : Vector Arrival 64
  keep : Vector Keep 8
  bufW : Bytes
  bufA : Bytes
  bufC : Bytes
  budget : Nat
  spill : Bytes
  condA : List Record
  condB : List Record
  copies : List Copy

/-- That part of an instance. -/
def Inst.rest (i : Inst) : Rest := ⟨i.c, i.a, i.keep, i.bufW, i.bufA, i.bufC, i.budget, i.spill, i.condA, i.condB, i.copies⟩

/-- A vector word of the vector frame: sources, vector registers written, mask register written, whether it may change the sticky flags. A
Hollyhock word writes its register when it settles (07 R204). -/
def vecForm : Instr → Option (List VReg × List VReg × Option KReg × Bool)
  | .vcvt _ d a _ _ _ _ _ => some ([a], [d], none, true)
  | .vqnt _ d a _ _ _ => some ([a], [d], none, true)
  | .vxacc _ d a b _ _ => some ([a, b], block d 4, none, true)
  | .vxrnd _ d _ b _ _ _ => some ([b], [d], none, true)
  | .vtrd _ v _ _ _ _ _ => some ([], [v], none, false)
  | .vtwr _ v _ _ _ _ _ => some ([v], [], none, false)
  | .vflgClr _ _ _ => some ([], [], none, true)
  | .vflgWr _ a _ => some ([a], [], none, true)
  | .vflgTm _ d => some ([], [], some d, false)
  | .vflgCtm _ => some ([], [], none, false)
  | .vpush _ _ a _ _ => some ([a], [], none, false)
  | .vpopPack _ d _ b _ => some ([], [d], some b, false)
  | .vpopExp _ d _ _ _ => some ([], [d], none, false)
  | i =>
    match elemRule i, moveRule i, maskRule i, reduceRule i, vecMemRule i, hollyRule i with
    | some r, _, _, _, _, _ => some (r.srcs, [r.d], none, r.fp)
    | _, some (_, srcs, d, _), _, _, _, _ => some (srcs, [d], none, false)
    | _, _, some (_, srcs, d, _, _, fp, _), _, _, _ => some (srcs, [], some d, fp)
    | _, _, _, some (_, d, a, _, _, fp, _), _, _ => some ([a], [d], none, fp)
    | _, _, _, _, some (st, _, d, srcs, _), _ => some (if st then (srcs ++ [d], [], none, false) else (srcs, [d], none, false))
    | _, _, _, _, _, some (_, _, _, _, pops) => some (pops, [], none, false)
    | _, _, _, _, _, _ => none

/-- The tile that a vector word writes. -/
def vecTile : Instr → Option TReg
  | .vtwr _ _ t _ _ _ _ => some t
  | _ => none

/-- The conditional stream that a vector word pushes or pops. -/
def vecCond : Instr → Option VReg
  | .vpush _ q _ _ _ => some q
  | .vpopPack _ _ q _ _ => some q
  | .vpopExp _ _ q _ _ => some q
  | _ => none

/-- The element writes of the VE's word that an earlier part of it has left (06 R189). -/
def Inst.leftWrites (i : Inst) : List ElemStore := i.doneVe.writes.getD []

/-- A byte that a vector store may reach: one of an active element at an address that it may write (06 R188, R189). -/
def State.vecStored (s : State) (i : Instr) (x : Nat) : Prop :=
  let g := s.cur.core
  let j := s.inst g
  ∃ tk d srcs c f k addr, vecMemRule i = some (true, tk, d, srcs, c, f, k, addr) ∧
    ∃ e pa, e < (elemV f).count ∧ (j.mask k).getLsbD e = true ∧
      s.translate (some g) (s.ctxOf g) (addr (srcs.map j.readV) e).toNat .write = .ok pa ∧ pa ≤ x ∧ x < pa + elemBytes f

/-- A matrix word of the matrix frame: the tile that it writes, the streams that it consumes, and whether it raises MFLG bits. -/
def matForm : Instr → Option (Option TReg × List Sys2Proof.ZReg × Bool)
  | .lrset _ d a b _ => some (some d, [a, b], false)
  | .lrmul _ d _ _ => some (some d, [], true)
  | .lradd _ d _ _ _ => some (some d, [], true)
  | .lrcmp _ d _ => some (some d, [], true)
  | .lrden _ d _ _ => some (some d, [], true)
  | .talloc _ d _ _ => some (some d, [], false)
  | .tfree _ d => some (some d, [], false)
  | .tclr _ d => some (some d, [], false)
  | .tmov _ d _ => some (some d, [], false)
  | .mldc _ d _ _ _ _ => some (some d, [], false)
  | .mwr _ d _ _ => some (some d, [], false)
  | .lrrankSet _ d => some (some d, [], false)
  | .mrd _ _ _ _ => some (none, [], false)
  | .mstc _ _ _ _ _ _ => some (none, [], false)
  | .lrrank _ _ => some (none, [], false)
  | i => (mmaRule i).map fun r => (some r.d, [r.a, r.b], true)

/-- The bytes of buffer C, first and number, that mstc stores to from a tile (09 R267). -/
def matStored (i : Inst) : Instr → Option (Nat × Nat)
  | .mstc _ t _ _ f g => i.tiles[t].map fun x =>
      ((f.val + 32 * g.toNat) * 16384, if x.form = .d64 then 32768 else if x.form = .d32 then 16384 else 256 * x.rows.length)
  | _ => none

/-- What a word of the copy engine may change of an instance's registers and queues: a c register, a counter, a stream register, a KEEP
register, the queue that it pushes, the one that it pops, and a token FIFO besides the default ones. -/
structure CeTouch where
  c : Option CReg := none
  a : Option AReg := none
  z : Option Sys2Proof.ZReg := none
  keep : Option (Fin 8) := none
  push : Option (Fin 16) := none
  pop : Option (Fin 16) := none
  fifo : Option (Fin 16) := none

/-- The words of the copy engine. -/
def ceForm : Instr → Option CeTouch
  | .cp _ _ _ _ _ _ _ _ => some {}
  | .cpn _ _ _ _ _ => some {}
  | .cpx _ _ _ _ _ _ _ => some {}
  | .cprm _ _ _ _ _ _ _ => some {}
  | .pf _ _ _ _ => some {}
  | .keep _ n _ => some { keep := some n }
  | .keepF _ n _ _ => some { keep := some n }
  | .unkeep _ n => some { keep := some n }
  | .cflush _ _ _ _ => some {}
  | .cinv _ _ _ => some {}
  | .cpatm _ _ _ _ _ _ _ _ _ => some {}
  | .collAr _ _ _ _ => some {}
  | .collRs _ _ _ _ => some {}
  | .collAg _ _ _ _ => some {}
  | .collBc _ _ _ _ => some {}
  | .sigSt _ _ _ _ _ _ _ => some {}
  | .sigAdd _ _ _ _ _ _ _ => some {}
  | .acset _ _ a => some { a := some a }
  | .acadd _ _ a => some { a := some a }
  | .acwait _ _ => some {}
  | .lyt _ _ _ _ _ _ => some {}
  | .scfg _ p _ => some { z := some p }
  | .cgetPop _ p => some { c := some p, pop := some 10 }
  | .cgetC _ _ => some { push := some 11 }
  | .cgetCur _ _ => some { push := some 11 }
  | .cgetScale _ _ => some { push := some 11 }
  | .cgetAc _ _ => some { push := some 11 }
  | .cgetLi _ p _ => some { c := some p }
  | .cadd _ p _ _ => some { c := some p }
  | .hret _ => some { push := some 4 }
  | .hflag _ _ => some {}
  | .spill _ _ _ _ _ _ => some {}
  | .fill _ _ _ _ _ _ => some {}
  | .datmOpen _ _ _ _ => some {}
  | .datmClose _ _ _ _ => some {}
  | .ceLoop _ _ _ _ => some { pop := some 10 }
  | .ceTkw _ f => some { fifo := some (Machine.fifo f .ce) }
  | .ceTks _ f => some { fifo := some (Machine.fifo .ce f) }
  | .ceSeg _ _ _ => some {}
  | .ceSafe _ => some {}
  | .ceEnd _ => some {}
  | .ceNop _ => some {}
  | _ => none

-- The command processor.

/-- What the completion of a packet leaves: RIDX moved on by the packet's length, in its ring's state block and in the processor (17 R442,
R446). -/
def State.packetDone (s : State) (h : Pkt) : Except MemFault State :=
  let x := s.rings[h.ring]
  let ridx := x.ridx + BitVec.ofNat 64 (64 * h.len)
  (s.writeV none x.ctx (x.stateAddr.toNat + 8) (leBytes 8 ridx.toNat)).map fun t =>
    t.modCmdRing h.ring fun y => { y with ridx := ridx, accepted := 0, waiting := false, begun := false }

/-- Doublewords stored at rising addresses of a context (17 R445). -/
def State.storeWords (s : State) (ctx va : Nat) : List Word → Except MemFault State
  | [] => .ok s
  | w :: ws => (s.writeV none ctx va (leBytes 8 w.toNat)).bind fun t => t.storeWords ctx (va + 8) ws

/-- The header of a transform packet (17 R456). -/
def transformOf : Instr → Option Pkt
  | .transformCompress h _ _ _ _ _ => some h
  | .transformExpand h _ _ _ _ => some h
  | .transformLayout h _ _ _ _ => some h
  | .transformQuant h _ _ _ _ _ _ => some h
  | _ => none

/-- Translations of a range leave every TLB and every die's cache (16 R417). -/
def State.invalidated (s : State) (ctx lo n : Nat) : State :=
  let keep := fun e : TlbEntry => !(e.ctx == ctx && decide (e.va < lo + n ∧ lo < e.va + e.size))
  { s with cores := s.cores.map (fun c : Core => { c with tlb := c.tlb.filter keep }), dieTlb := s.dieTlb.map fun l => l.filter keep }

end Sys2Proof.Machine
end

