-- ==== Sys2Proof/Certificates/Slice0/Obligations.lean ====
section
/-! DEFINITION. The statements about this machine, each a `Prop`. Its docstring names the rule of spec/ that it formalises, or the log
entry of a choice of the model that it rests on. -/

open Sys2Proof Sys2Proof.Machine Host

-- The scalar stream.

/-- 04 R110 to R114: every SCU word that computes one register from registers, an immediate or the PC writes its destination with
the value that the rules give, whatever its operands name (registers or queues), pops its queue sources and retires. -/
def Obligations.ScalarResults : Prop :=
  ∀ (i : Instr) (s t : State) (srcs : List SReg) (d : SReg) (f : Nat → Word → Word → Word),
    scalarRule i = some (srcs, d, f) → s.scuReady srcs (some d) →
    s.scuDone (s.pushLink s.cur.core) srcs (some d) (firstTwo (f s.cur.pc) (srcs.map (s.readS s.cur.core))) = .ok t →
    exec i s = .next t

/-- 04 R108, R109, 05 R151: a write of a plain register other than s0 stores the value, a write of s0 stores nothing, and a write
of a queue that has room and accepts the value appends it to that queue; no other register, queue, core or byte changes. 05 R155: a
write of a mesh port with room, q12 to q15, appends to the receive queue of the facing port on the neighbour. 14 R382, R383: the
writes of q2 are the control, the address and the operand of a command in this order, which the third completes, with the SEQ that
14 R389 counts where D is 1; a control that breaks the layout, or names a window that the instance has not open, traps QUEUE_PROTOCOL
with TVAL the value, an address that is no multiple of the width MISALIGN, one that does not translate for reading and writing its
cause, each with TVAL the address, and the operand of a window closed since QUEUE_PROTOCOL with TVAL the control entry; with five
commands in q2 the operand waits. -/
def Obligations.WriteDestination : Prop :=
  ∀ (s : State) (g : CoreNo) (late : Bool) (d : SReg) (v : Word),
    (d.val < 48 → ∃ t, s.writeDst g late d v = .ok t ∧ t.mem = s.mem ∧
      (∀ r : SReg, r.val < 48 → t.readS g r = if r = d ∧ d ≠ 0 then v else s.readS g r) ∧
      (∀ q : Fin 16, (t.inst g).qw[q] = (s.inst g).qw[q]) ∧ ∀ h : CoreNo, h ≠ g → t.inst h = s.inst h) ∧
    (∀ q : Fin 16, queueNo d = some q → q.val < 12 → q ≠ 2 → pushCheck (s.inst g) q v = .ok () → s.hasRoom g d = true →
      ∃ t, s.writeDst g late d v = .ok t ∧ t.mem = s.mem ∧ (t.inst g).qw[q] = (s.inst g).qw[q] ++ [v] ∧
        (∀ p : Fin 16, p ≠ q → (t.inst g).qw[p] = (s.inst g).qw[p]) ∧ (∀ r : SReg, t.readS g r = s.readS g r) ∧
        ∀ h : CoreNo, h ≠ g → t.inst h = s.inst h) ∧
    (∀ (q : Fin 16) (h : CoreNo), queueNo d = some q → 12 ≤ q.val → neighbour g q = some h → s.hasRoom g d = true →
      ∃ t, s.writeDst g late d v = .ok t ∧ t.mem = s.mem ∧ (t.inst h).qr[facing q] = (s.inst h).qr[facing q] ++ [v] ∧
        (∀ p : Fin 16, p ≠ facing q → (t.inst h).qr[p] = (s.inst h).qr[p]) ∧ (t.inst h).qw = (s.inst h).qw ∧
        (t.inst h).s = (s.inst h).s ∧ ∀ k : CoreNo, k ≠ h → t.inst k = s.inst k) ∧
    (queueNo d = some 2 →
      let i := s.inst g
      let a := i.asm
      let n := if a.ctl.getLsbD 4 then 4 else 8
      let win := fun w : Word => w.toNat / 64 % 64
      let legal := v.toNat % 16 < 10 ∧ v.toNat < 4096 ∧ if v.getLsbD 5 then s.windowOpenFor g (win v) = true else win v = 0
      let taken := fun j : Inst => ∃ t, s.writeDst g late d v = .ok t ∧ t.mem = s.mem ∧ t.inst g = j
      (a.pos = 0 → (legal → taken { i with asm := ⟨1, v, 0⟩ }) ∧ (¬legal → s.writeDst g late d v = .error (.q2 .queueProtocol v))) ∧
      (a.pos = 1 → (v.toNat % n ≠ 0 → s.writeDst g late d v = .error (.q2 .misalign v)) ∧
        (v.toNat % n = 0 → ∀ c, s.translate (some g) (s.ctxOf g) v.toNat .both = .error c →
          s.writeDst g late d v = .error (.q2 c v)) ∧
        (v.toNat % n = 0 → ∀ pa, s.translate (some g) (s.ctxOf g) v.toNat .both = .ok pa → taken { i with asm := ⟨2, a.ctl, v⟩ })) ∧
      (a.pos = 2 → let shut := a.ctl.getLsbD 5 = true ∧ s.windowOpenFor g (win a.ctl) = false
        (shut → s.writeDst g late d v = .error (.q2 .queueProtocol a.ctl)) ∧
        (¬shut → 5 ≤ i.q2w.length → s.writeDst g late d v = .error .wait) ∧
        (¬shut → i.q2w.length < 5 → taken { i with asm := ⟨0, 0, 0⟩, q2w := i.q2w ++
          [⟨a.ctl, a.addr, v, if a.ctl.getLsbD 5 then (s.takeSeq g (win a.ctl)).1 else 0⟩] })))

/-- 04 R115 to R117: a scalar load whose address is aligned, mapped readable and not poisoned delivers the bytes at its effective
address, little-endian, extended as its entry in Table 4.4 says, and retires. -/
def Obligations.ScalarLoads : Prop :=
  ∀ (i : Instr) (s t : State) (d a : SReg) (imm : BitVec 14) (n : Nat) (signed : Bool) (pa : Nat),
    loadRule i = some (d, a, imm, n, signed) → s.scuReady [a] (some d) →
    let g := s.cur.core
    let s0 := s.pushLink g
    let ea := effective (s.readS g a) imm
    s0.mapped g ea n .read pa →
    s.scuDone (s0.noteAccess true g ea.toNat pa n 2 false) [a] (some d) (extended signed n (leNat (s0.mem.read pa n))) = .ok t →
    exec i s = .next t

/-- 04 R115 to R117: a scalar store whose address is aligned and mapped writable stores the low bytes of its data register,
little-endian, at its effective address, and retires. -/
def Obligations.ScalarStores : Prop :=
  ∀ (i : Instr) (s t : State) (d a : SReg) (imm : BitVec 14) (n : Nat) (pa : Nat),
    storeRule i = some (d, a, imm, n) → s.scuReady [a, d] none →
    let g := s.cur.core
    let s0 := s.pushLink g
    let ea := effective (s.readS g a) imm
    s0.mapped g ea n .write pa → (∃ p, s.mapped g ea n .write p) →
    s.scuDone (((s0.physWriteIn true pa (leBytes n (s.readS g d).toNat)).noteAccess true g ea.toNat pa n 2 true).sink g) [a, d] none 0
      = .ok t →
    exec i s = .next t

/-- 04 R116: a scalar load or store at an address that is no multiple of its size traps MISALIGN, one whose address does not
translate traps with the cause of 16 R412 and R415, and a load of a poisoned byte traps POISON, each with TVAL the effective
address. -/
def Obligations.ScalarAccessTraps : Prop :=
  ∀ (i : Instr) (s : State) (d a : SReg) (imm : BitVec 14) (n : Nat) (need : Need),
    (∃ signed, loadRule i = some (d, a, imm, n, signed)) ∧ need = .read ∧ s.scuReady [a] (some d) ∨
      storeRule i = some (d, a, imm, n) ∧ need = .write ∧ s.scuReady [a, d] none →
    let g := s.cur.core
    let s0 := s.pushLink g
    let ea := effective (s.readS g a) imm
    (ea.toNat % n ≠ 0 → exec i s = .next (s.raise .misalign ea)) ∧
    (∀ c, ea.toNat % n = 0 → s.translate (some g) (s.ctxOf g) ea.toNat need = .error c →
      s0.translate (some g) (s0.ctxOf g) ea.toNat need = .error c → exec i s = .next (s.raise c ea)) ∧
    (∀ pa, need = .read → ea.toNat % n = 0 → s0.translate (some g) (s0.ctxOf g) ea.toNat need = .ok pa →
      s0.poisoned pa n = true → exec i s = .next (s.raise .poison ea))

/-- 04 R118, R119, Table 4.5: a branch or jump outside a slot, with an aligned target inside the instruction memory where it is
taken, reads its operands, pops its queue sources and issues its slot next; whether it is taken, its target and its link wait
for the slot. 04 R120: a word that may not stand in a delay slot traps DS_ILLEGAL there, with TVAL the word (02 R65). -/
def Obligations.BranchIssues : Prop :=
  (∀ (i : Instr) (s : State) (srcs : List SReg) (dst : Option SReg) (target : Nat → Word → Int) (cond : Word → Word → Bool),
     branchRule i = some (srcs, dst, target, cond) → (s.inst s.cur.core).slot = none →
     let g := s.cur.core
     let vs := srcs.map (s.readS g)
     let x := target s.cur.pc (vs.getD 0 0)
     let taken := cond (vs.getD 0 0) (vs.getD 1 0)
     let link : Word := BitVec.ofNat 64 (s.cur.pc + 8)
     operandChecks g srcs dst = .ok () → s.sourcesReady g srcs = .ok () → dst.all (s.hasRoom g) = true →
     x % 4 = 0 → (taken = true → 0 ≤ x ∧ x < 65536) → (∃ u, s.writeOpt g (srcs.any isQueue) dst link = .ok u) →
     exec i s = .next ((s.popAll g srcs).modInst g fun j =>
       { j with slot := some ⟨s.cur.pc, s.cur.word, if taken then x.toNat else s.cur.pc + 8, taken, dst.map fun d => (d, link),
                  s.popped g srcs⟩,
                scu := { j.scu with pc := s.cur.pc + 4, held := j.handler && j.scu.held } })) ∧
  (∀ (i : Instr) (s : State), (s.inst s.cur.core).slot.isSome = true → s.len = 4 → slotWord i = true →
     exec i s = .next (s.raise .dsIllegal (BitVec.ofNat 64 s.cur.word.toNat)))

/-- 04 R118, R125: when the slot of a branch retires outside the handler, control stands at the target if the transfer is taken, and
at the word behind the slot when it is not taken and no loop ends there; a link into a plain register is then written. -/
def Obligations.SlotRetires : Prop :=
  ∀ (i : Inst) (cur : Cur) (len : Nat) (b : Branch), i.slot = some b → i.handler = false →
    let t := i.retireScu cur len
    t.slot = none ∧ (b.taken = true → t.scu.pc = b.target) ∧
    (b.taken = false → (∀ f ∈ i.scu.loops, f.last ≠ cur.pc) → t.scu.pc = b.pc + 8) ∧
    (∀ r v, b.link = some (r, v) → ∀ k : Fin 48, 0 < k.val → t.s[k] = if k.val = r.val then v else i.s[k]) ∧
    (b.link = none → t.s = i.s)

/-- 04 R127: csrr of a register of Table 2.11 delivers its value and retires; of another number it traps ILLEGAL with TVAL the
number. 02 R62, 04 R127, R128: csrw of a register that the instance may write, with a value that the register accepts, writes
it and retires; a value it does not accept traps ILLEGAL with TVAL the value; a register that only firmware may write traps
PRIV and any other number traps ILLEGAL, with TVAL the number. In the firmware context csrw writes those registers too, RUNG apart
(Obligations.RegisterWrites); a value or a number that is refused goes to firmware's own trap state, and the instance stays as it is. -/
def Obligations.SystemRegisters : Prop :=
  (∀ (d : SReg) (n : Fin 16384) (s t : State), s.scuReady [] (some d) →
     (∀ v, s.csr s.cur.core n.val = some v → s.scuDone (s.pushLink s.cur.core) [] (some d) v = .ok t →
       exec (.csrr d n) s = .next t) ∧
     (s.csr s.cur.core n.val = none → exec (.csrr d n) s = .next (s.raise .illegal (BitVec.ofNat 64 n.val)))) ∧
  (∀ (a : SReg) (n : Fin 16384) (s t : State), s.scuReady [a] none → s.cur.fw = false →
     let g := s.cur.core
     let v := s.readS g a
     (userWritable.contains n.val = true → valueOk n.val v = true →
       s.scuDone ((s.pushLink g).modInst g fun j => j.modSys fun y => y.write n.val v) [a] none 0 = .ok t →
       exec (.csrw a n) s = .next t) ∧
     (userWritable.contains n.val = true → valueOk n.val v = false → exec (.csrw a n) s = .next (s.raise .illegal v)) ∧
     (firmwareWritable.contains n.val = true → exec (.csrw a n) s = .next (s.raise .priv (BitVec.ofNat 64 n.val))) ∧
     (userWritable.contains n.val = false → firmwareWritable.contains n.val = false →
       exec (.csrw a n) s = .next (s.raise .illegal (BitVec.ofNat 64 n.val)))) ∧
  (∀ (a : SReg) (n : Fin 16384) (s t : State), s.scuReady [a] none → s.cur.fw = true → n ≠ 0x001 →
     let g := s.cur.core
     let v := s.readS g a
     (n.val ∈ userWritable ++ firmwareWritable → fwValueOk n.val v = true →
       s.scuDone ((s.pushLink g).modInst g fun j => j.modSys fun y => y.fwWrite n.val v) [a] none 0 = .ok t →
       exec (.csrw a n) s = .next t) ∧
     (n.val ∈ userWritable ++ firmwareWritable → fwValueOk n.val v = false → exec (.csrw a n) s = .next (s.fwTrap g 0x01 v)) ∧
     (n.val ∉ userWritable ++ firmwareWritable → exec (.csrw a n) s = .next (s.fwTrap g 0x01 (BitVec.ofNat 64 n.val))))

/-- 04 R130, R131, Table 4.6: a wmon outside a slot whose first read satisfies its condition delivers that value and retires; one
whose read does not satisfy it has popped its sources and waits; the SCU issues nothing while a wmon waits, whatever else pends. -/
def Obligations.MonitorWaits : Prop :=
  ∀ (d a b : SReg) (w : Bool) (c : WCond) (s t : State) (raw : Nat), (s.inst s.cur.core).slot = none →
    let g := s.cur.core
    let n := if w then 4 else 8
    operandChecks g [a, b] (some d) = .ok () → s.sourcesReady g [a, b] = .ok () → s.hasRoom g d = true →
    s.scalarLoad g (s.readS g a) n = .ok (t, raw) →
    (monitorHolds c w raw (s.readS g b).toNat = true →
      ∀ u, (t.popAll g [a, b]).writeDst g true d (monitorValue c w raw) = .ok u →
        exec (.wmon d a b w c) s = .next (u.modInst g fun j => j.retireTo s.cur (s.cur.pc + 4) j.scu.loops)) ∧
    (monitorHolds c w raw (s.readS g b).toNat = false →
      exec (.wmon d a b w c) s = .next ((t.popAll g [a, b]).modInst g fun j =>
        { j with wmon := some ⟨d, s.readS g a, s.readS g b, w, c, s.cur.pc, s.cur.word, s.popped g [a, b], s.cur.stamp⟩,
                 scu := { j.scu with held := j.handler && j.scu.held } })) ∧
    ∀ (i : Inst) (asked : Bool), i.wmon.isSome = true → i.mayIssue asked .scu = false

/-- 14 R379, R380, Table 14.5: an amo at an aligned, readable and writable address that is not poisoned writes New(old, operand) there
and delivers the old value, extended as the table says. 14 R391: when a window applies, every doubleword takes the updates whose
aligned targets lie in it, in the order of their issuer keys, a poisoned one none, every other byte stays, and the window is Idle. -/
def Obligations.AtomicOperation : Prop :=
  (∀ (d a b : SReg) (o : AmoOrder) (w : Bool) (c : AmoOp) (s t : State) (pa : Nat), s.scuReady [a, b] (some d) →
     let g := s.cur.core
     let s0 := s.pushLink g
     let n := if w then 4 else 8
     let ea := s.readS g a
     let old := leNat (s0.mem.read pa n)
     s0.mapped g ea n .both pa → (∃ p, s.mapped g ea n .both p) →
     s.scuDone (((s0.physWrite pa (leBytes n (atomicNew c n old (s.readS g b).toNat))).noteAccess false g ea.toNat pa n 2 true).sink g)
       [a, b] (some d) (atomicOld c n old) = .ok t →
     exec (.amo d a b o w c) s = .next t) ∧
  (∀ (s : State) (task : Nat) (win : Fin 64) (t : Task) (w : Window), s.task task = some t → t.window win.val = some w →
     s.applying task w = true → (∀ u ∈ w.updates, u.pa % (if u.w32 then 4 else 8) = 0) →
     ∃ t', exec (.windowApply task win) s = .next t' ∧ (∀ x ∈ t'.tasks, x.id = task → ∀ y ∈ x.windows, y.num ≠ win) ∧
       ∀ a, a % 8 = 0 → leNat (t'.mem.read a 8) =
         if s.poisoned a 8 then leNat (s.mem.read a 8)
         else ((sortUpdates w.okey w.updates).filter fun u => u.pa / 8 * 8 == a).foldl chained (leNat (s.mem.read a 8)))

/-- 14 R381: a cas whose d names a register writes b where memory holds the expected value and only loads elsewhere; either way d
receives the old value. A d that names a queue traps QUEUE_PROTOCOL with TVAL its number. -/
def Obligations.CompareAndSwap : Prop :=
  ∀ (d a b : SReg) (o : AmoOrder) (w : Bool) (s t : State) (pa : Nat),
    let g := s.cur.core
    let s0 := s.pushLink g
    let n := if w then 4 else 8
    let ea := s.readS g a
    let old := leNat (s0.mem.read pa n)
    let swapped := ((s0.physWrite pa (leBytes n (s.readS g b).toNat)).noteAccess false g ea.toNat pa n 2 true).sink g
    let u := if old = (s.readS g d).toNat % 2 ^ (8 * n) then swapped else s0.noteAccess false g ea.toNat pa n 2 false
    (d.val < 48 → s.scuReady [a, b, d] (some d) → s0.mapped g ea n .both pa → (∃ p, s.mapped g ea n .both p) →
      s.scuDone u [a, b, d] (some d) (extended (n == 4) n old) = .ok t → exec (.cas d a b o w) s = .next t) ∧
    (48 ≤ d.val → operandChecks g [a, b, d] (some d) = .ok () →
      exec (.cas d a b o w) s = .next (s.raise .queueProtocol (BitVec.ofNat 64 d.val)))

/-- 14 R377, R378, 05 R142, R144: a fence retires, unless it is fence.all.pod with a remote command not yet acknowledged, of its own
instance or of another one whose issue may happen before it, which waits (R378 names the commands that happen before the fence; that
every remote command under way is one of them is the model's: LOG 46); tkw retires when its FIFO holds a token, which it pops; tks
retires when its FIFO holds fewer than eight, and pushes one. -/
def Obligations.FenceAndTokens : Prop :=
  ∀ (s : State),
    let g := s.cur.core
    let s0 := s.pushLink g
    let tokens := (s.inst g).tokens
    let done := fun t : State => t.modInst g fun j => j.retireScu s.cur s.len
    let remote := (s.inst g).remotePending || s.othersRemote g
    (∀ sc k, ¬(sc = .pod ∧ k = .all ∧ remote = true) → exec (.fence sc k) s = .next (done s0)) ∧
    (remote = true → exec (.fence .pod .all) s = .next s) ∧
    (∀ f, 0 < tokens[fifo f .scu] → exec (.scuTkw f) s = .next (done (s0.modInst g fun j =>
      { j with tokens := j.tokens.set (fifo f .scu) (j.tokens[fifo f .scu] - 1) }))) ∧
    (∀ f, tokens[fifo f .scu] = 0 → exec (.scuTkw f) s = .next s) ∧
    (∀ f, tokens[fifo .scu f] < 8 → exec (.scuTks f) s = .next (done ((s0.modInst g fun j =>
      { j with tokens := j.tokens.set (fifo .scu f) (j.tokens[fifo .scu f] + 1) }).sink g))) ∧
    (∀ f, 8 ≤ tokens[fifo .scu f] → exec (.scuTks f) s = .next s)

/-- 04 R132: a spawn whose packet reads whole, whose ring is granted to the instance's context and whose ring has room copies the
packet to the ring at WIDX, the first eight bytes last and with the sequence word WIDX / 64, advances WIDX and delivers its old
value; without room it writes nothing and delivers all ones. 13 R357: the packet image is read, and the ring written, through the
L1D. -/
def Obligations.SpawnPublishes : Prop :=
  ∀ (d a b : SReg) (s u : State) (bs : List Byte) (widx ridx : Nat), s.scuReady [a, b] (some d) →
    (s.inst s.cur.core).slot = none →
    let g := s.cur.core
    let src := s.readS g a
    let ring := s.readS g b
    let r : Fin 256 := Fin.ofNat 256 ring.toNat
    let s0 := s.noteSpan true g src.toNat bs.length 2 false
    let x := s0.rings[r]
    src.toNat % 64 = 0 → s.packetImage g src.toNat = .ok bs → ring.toNat < 256 → headerValid r bs = true →
    x.grant = s0.spawner g →
    (s0.readV (some g) x.ctx x.stateAddr.toNat 8).map leNat = .ok widx →
    (s0.readV (some g) x.ctx (x.stateAddr.toNat + 8) 8).map leNat = .ok ridx →
    (x.size < widx + bs.length - ridx → s.scuDone s0 [a, b] (some d) (BitVec.allOnes 64) = .ok u →
      exec (.spawn d a b) s = .next u) ∧
    (widx + bs.length - ridx ≤ x.size → ∀ s1 s2 s3, s0.ringWrite g x (widx + 8) (bs.drop 8) = .ok s1 →
      s1.ringWrite g x widx (leBytes 4 (leNat (bs.take 4)) ++ leBytes 4 (widx / 64)) = .ok s2 →
      s2.writeV (some g) x.ctx x.stateAddr.toNat (leBytes 8 (widx + bs.length)) = .ok s3 →
      s.scuDone ((s3.noteSpan false g x.stateAddr.toNat 8 2 true).sink g) [a, b] (some d) (BitVec.ofNat 64 widx) = .ok u → exec (.spawn d a b) s = .next u)

/-- 04 R123, R124, R134, 16 R428, R430, R434, R436: outside a slot, loop enters its body or skips it, safe retires and its stream stands
just past it, where it issues nothing while a request is pending, seg opens a segment, and end ends the stream and closes its segment;
a seg or an end that closes a segment whose count or signature differs raises SEG_MISMATCH. In the handler safe holds nothing and seg
opens nothing. 14 R383: an end with a command of q2 in part pushed traps QUEUE_PROTOCOL with TVAL q2's number. -/
def Obligations.ScalarStreamControl : Prop :=
  ∀ (s : State),
    let g := s.cur.core
    let i := s.inst g
    i.slot = none →
    (∀ a l, operandChecks g [a] none = .ok () → s.sourcesReady g [a] = .ok () → loopOk .scu i.scu s.cur.pc l.val = true →
      i.inHandler s.cur = false →
      exec (.scuLoop a l) s = .next ((s.popAll g [a]).modInst g fun j =>
        if s.readS g a = 0 then j.retireTo s.cur (s.cur.pc + 4 + 4 * l.val) i.scu.loops
        else j.retireTo s.cur (s.cur.pc + 4) (⟨s.cur.pc + 4, s.cur.pc + 4 * l.val, s.readS g a⟩ :: i.scu.loops))) ∧
    exec .scuSafe s = .next (let t := s.modInst g fun j => j.retireScu s.cur s.len
      if i.handler then t else t.modInst g fun j => { j with scu := { j.scu with held := true } }) ∧
    (i.scu.held = true → i.handler = false → i.mayIssue true .scu = false) ∧
    (∀ cnt crc, i.handler = false → i.scu.mismatch = false → exec (.scuSeg cnt crc) s = .next (s.modInst g fun j =>
      { j with scu := { j.scu with pc := s.cur.pc + 8, held := false, seg := some ⟨cnt, crc, 0, 0xFFFF⟩ } })) ∧
    (∀ cnt crc, i.handler = true → exec (.scuSeg cnt crc) s = .next (s.modInst g fun j =>
      { j with scu := { j.scu with pc := s.cur.pc + 8 } })) ∧
    (∀ cnt crc, i.handler = false → i.scu.mismatch = true → exec (.scuSeg cnt crc) s = .next (s.raiseSegment i.scu)) ∧
    (i.asm.pos = 0 → i.handler = false → (i.scu.count s.cur.word).mismatch = false → exec .scuEnd s = .next ((s.modInst g fun j =>
      { j with scu := { i.scu.count s.cur.word with ended := true, seg := none } }).sink g)) ∧
    (i.asm.pos = 0 → i.handler = false → (i.scu.count s.cur.word).mismatch = true →
      exec .scuEnd s = .next (s.raiseSegment (i.scu.count s.cur.word))) ∧
    (i.asm.pos ≠ 0 → exec .scuEnd s = .next (s.raise .queueProtocol 50))

/-- 04 R135, 16 R420, R424: a trap of the SCU outside a slot, with a user cause, no trap pending, no Hollyhock instruction in
flight, no word of the VE or the ME in part performed and TVEC enabled outside the handler, is delivered: TCAUSE, TPC and TVAL are
written, TSTAT holds HM alone above its SPC, the q2 assembly is put aside and the PC is TVEC's address; no register and no byte of memory changes. A trap word is such
a trap, with cause USER, TVAL its immediate and TPC the next word. A trap that the VE, the ME or the CE stream raises at a
boundary records its engine (Table 16.7), and in TSTAT.SPC, SH and SE where the SCU stream stood: at its next word, at its
waiting wmon, held for a request, or ended. -/
def Obligations.TrapEntry : Prop :=
  (∀ (s : State) (c : Cause) (v : Word),
     let g := s.cur.core
     let i := s.inst g
     let t := (s.raise c v).inst g
     s.cur.fw = false → s.cur.src = .scu → i.boundary = true → i.pending = none → i.handler = false →
     i.sys.tvec.getLsbD 0 = true → c.route = .user →
     t.sys.tcause = BitVec.ofNat 64 c.code ∧ t.sys.tval = v ∧
     t.sys.tpc = BitVec.ofNat 64 ((if c = .user then s.cur.pc + 4 else s.cur.pc) % 65536) ∧ t.sys.tstat.toNat % 65536 = 128 ∧
     t.scu.pc = bits i.sys.tvec.toNat 15 2 * 4 ∧ t.asmAside = some i.asm ∧ t.asm.pos = 0 ∧ t.s = i.s ∧ t.v = i.v ∧
     (s.raise c v).mem = s.mem ∧ ∀ n : BitVec 20, exec (.trap n) s = .next (s.raise .user (n.zeroExtend 64))) ∧
  (∀ (s : State) (c : Cause) (v : Word),
     let g := s.cur.core
     let i := s.inst g
     let t := (s.raise c v).inst g
     s.cur.fw = false → (s.cur.src = .ve ∨ s.cur.src = .me ∨ s.cur.src = .ce) →
     i.boundary = true → i.pending = none → i.handler = false → i.sys.tvec.getLsbD 0 = true → c.route = .user →
     t.sys.tcause = BitVec.ofNat 64 c.code ∧ t.sys.tval = v ∧ t.sys.tpc = BitVec.ofNat 64 (s.cur.pc % 65536) ∧
     tstatEng t.sys.tstat = s.cur.src.engine.code ∧ t.handler = true ∧
     bits t.sys.tstat.toNat 31 16 = ((i.wmon.map (·.pc)).getD i.scu.pc) % 65536 ∧
     t.sys.tstat.getLsbD 2 = (i.scu.held && s.asked g) ∧ t.sys.tstat.getLsbD 1 = i.scu.ended ∧ t.scu.ended = false ∧
     t.wmon = none ∧ t.scu.pc = bits i.sys.tvec.toNat 15 2 * 4)

/-- 16 R422, R426: a user-cause trap at a boundary kills its task with the cause as the detail when TVEC is not enabled, and one in the
handler kills it at once; so does the delivery of a cause that firmware took first, after its service. -/
def Obligations.UnhandledTrapKills : Prop :=
  ∀ (s : State) (c : Cause) (v : Word) (o : Occupant),
    let g := s.cur.core
    let i := s.inst g
    let killed := fun (t : State) (k : Cause) =>
      t.cores[g].occupant = none ∧ ∀ x ∈ t.tasks, x.id = o.task → x.phase = .done 1 k.code ∧ x.windows = []
    s.cores[g].occupant = some o →
    (s.cur.fw = false → s.cur.src = .scu → i.slot = none → c.route = .user →
      (i.handler = true ∨ i.boundary = true ∧ i.pending = none ∧ i.sys.tvec.getLsbD 0 = false) → killed (s.raise c v) c) ∧
    ∀ p : Pending, (i.handler = true ∨ i.sys.tvec.getLsbD 0 = false) → killed (s.deliver g p) p.cause

/-- 04 R135, 16 R425: eret in the handler, outside a slot and with a TPC that the resuming engine can fetch from, leaves the handler:
HM, SKIP, SE and SH are 0; a trap of the SCU resumes at TPC, or behind it with SKIP (not for USER and not from a slot); a trap of
another engine resumes the SCU at SPC, ended as SE says and held as it stood. Outside the handler eret traps ILLEGAL with TVAL the word. -/
def Obligations.ReturnFromTrap : Prop :=
  ∀ (s : State),
    let g := s.cur.core
    let i := s.inst g
    let tpc := bits i.sys.tpc.toNat 15 0
    let ds := i.sys.tstat.getLsbD 0
    let skip := i.sys.tstat.getLsbD 8
    i.slot = none →
    (i.handler = true → (∀ x e, i.eretTarget = some (x, e) → x % 4 = 0 ∧ x < imemSize e) →
      ∃ t, exec .eret s = .next t ∧ (t.inst g).handler = false ∧ (t.inst g).sys.tstat.getLsbD 8 = false ∧
        (t.inst g).sys.tstat.getLsbD 1 = false ∧ (t.inst g).sys.tstat.getLsbD 2 = false ∧ (t.inst g).s = i.s ∧ t.mem = s.mem ∧
        (tstatEng i.sys.tstat = 0 → (skip = false ∨ ds = true ∨ i.sys.tcause = 0x13) → (t.inst g).scu.pc = tpc) ∧
        (tstatEng i.sys.tstat = 0 → skip = true → ds = false → i.sys.tcause.toNat ≠ 0x13 → i.scu.loops = [] →
          (t.inst g).scu.pc = tpc + lenAt .scu i.scu tpc) ∧
        (tstatEng i.sys.tstat ≠ 0 → (t.inst g).scu.pc = bits i.sys.tstat.toNat 31 16 ∧
          (t.inst g).scu.ended = i.sys.tstat.getLsbD 1 ∧ (t.inst g).scu.held = i.scu.held)) ∧
    (i.handler = false → exec .eret s = .next (s.raise .illegal (s.cur.word.zeroExtend 64)))

-- The vector engine.

/-- 06 R161 to R164, R169 to R173: an element-by-element VE word writes its result to every active element of its destination and
leaves the inactive ones (zero in a queue entry), raises its exceptions in the lanes where they arise, pops its queue sources
and retires, when no exception that it raises has its trap enabled. 01 R32: an element-by-element VE word that raises an
exception whose trap is enabled traps FPX, and writes no result: TVAL holds the enabled exceptions, and once the trap is
delivered the trap lane mask holds the lanes where one arose and the lanes' flags stand as if the word had completed. -/
def Obligations.ElementResults : Prop :=
  (∀ (i : Instr) (s : State) (r : ElemRule), elemRule i = some r → s.vecReady r.tk r.srcs (some r.d) →
     let j := s.inst s.cur.core
     let on := active r.from' (j.mask r.k)
     let res := fun n => r.op j.sys.fmode (r.srcs.map fun v => elemAt r.from' (j.readV v) n)
     let fl := if r.fp then some fun l => if on l then (res l).2 else 0 else none
     (∀ f, fl = some f → j.quiet f) →
     exec i s = .next (s.wordDone (s.vecCommit r.srcs (some r.d) ⟨setElems r.into (j.oldV r.d) on fun n => (res n).1, fl, id⟩) r.tk)) ∧
  (∀ (i : Instr) (s : State) (r : ElemRule), elemRule i = some r → s.vecReady r.tk r.srcs (some r.d) → r.fp = true →
     let j := s.inst s.cur.core
     let on := active r.from' (j.mask r.k)
     let fl : Nat → Flags := fun l =>
       if on l then (r.op j.sys.fmode (r.srcs.map fun v => elemAt r.from' (j.readV v) l)).2 else 0
     ¬j.quiet fl →
     ∃ (m : Mask) (v : Flags), (∀ l < 512, m.getLsbD l = (fl l &&& enabled j.sys.fmode != 0)) ∧
       (∀ b < 5, v.getLsbD b = true ↔ ∃ l < 512, (fl l &&& enabled j.sys.fmode).getLsbD b = true) ∧
       let t := s.raiseAs .fpx (v.zeroExtend 64) false none (some ⟨Vector.ofFn fun l : Fin 512 => fl l.val, m⟩)
       exec i s = .next t ∧
         (s.cur.fw = false → j.boundary = true → j.pending = none → j.handler = false → j.sys.tvec.getLsbD 0 = true →
           let x := t.inst s.cur.core
           (∀ l : Fin 512, x.flags[l] = j.flags[l] ||| fl l.val) ∧ x.trapMask = m ∧ x.v = j.v ∧ x.k = j.k ∧ x.vq = j.vq))

/-- 06 R161, R162, R164: after a write of some elements of a placement, an element that was written reads as its new value in the
element's width (for 16-bit elements the upper half of the lane too), and every other lane is as it was. -/
def Obligations.ElementPlacement : Prop :=
  ∀ (w : Elem) (old : Lanes) (on : Nat → Bool) (val : Nat → Nat) (n : Nat), n < w.count →
    (on n = true → (w = .e16 → val n < 65536) →
      elemAt w (setElems w old on val) n = val n % 2 ^ w.bits ∧ (w = .e16 → laneAt (setElems w old on val) n = val n)) ∧
    (on n = false → elemAt w (setElems w old on val) n = elemAt w old n ∧
      (w ≠ .e64 → laneAt (setElems w old on val) n = laneAt old n))

/-- 06 R175, R183, R184, R194: a VE word that moves, numbers or counts writes element n as its entry says to every active element of its
destination, leaves the others, raises no exception and retires. -/
def Obligations.MoveResults : Prop :=
  ∀ (i : Instr) (s : State) (tk : Tok) (srcs : List VReg) (d : VReg) (k : KReg) (w : Elem) (val : Inst → List Lanes → Nat → Nat),
    moveRule i = some (tk, srcs, d, k, w, val) → s.vecReady tk srcs (some d) →
    let j := s.inst s.cur.core
    exec i s = .next (s.wordDone (s.vecCommit srcs (some d)
      ⟨setElems w (j.oldV d) (active w (j.mask k)) (val j (srcs.map j.readV)), none, id⟩) tk)

/-- 06 R174, R175, R166, R194: a VE word that writes a mask register writes the bits of its active elements as its entry says and
leaves the others, and retires, when no exception that it raises has its trap enabled. -/
def Obligations.MaskResults : Prop :=
  ∀ (i : Instr) (s : State) (tk : Tok) (srcs : List VReg) (d k : KReg) (w : Elem) (fp : Bool)
    (op : Inst → List Lanes → Nat → Bool × Flags),
    maskRule i = some (tk, srcs, d, k, w, fp, op) → s.vecReady tk srcs none →
    let j := s.inst s.cur.core
    let on := active w (j.mask k)
    let res := op j (srcs.map j.readV)
    let fl := if fp then some fun l => if on l then (res l).2 else 0 else none
    (∀ f, fl = some f → j.quiet f) →
    exec i s = .next (s.wordDone (s.vecCommit srcs none ⟨zeroLanes, fl, fun t => t.modInst s.cur.core fun x =>
      { x with k := x.k.set d (BitVec.ofFnLE fun l : Fin 512 => if on l.val then (res l.val).1 else x.k[d].getLsbD l.val) }⟩) tk)

/-- 01 R42, 06 R185, R186: a reduction writes its result on its active elements to every element of its destination and its flags to
lane 0, and retires, when none of those flags has its trap enabled. -/
def Obligations.ReductionResults : Prop :=
  ∀ (i : Instr) (s : State) (tk : Tok) (d a : VReg) (k : KReg) (w : Elem) (fp : Bool)
    (red : Word → List (Option Nat) → Nat × Flags),
    reduceRule i = some (tk, d, a, k, w, fp, red) → s.vecReady tk [a] (some d) →
    let j := s.inst s.cur.core
    let r := red j.sys.fmode ((List.range w.count).map fun n =>
      if (j.mask k).getLsbD n then some (elemAt w (j.readV a) n) else none)
    let fl := if fp then some fun l => if l = 0 then r.2 else 0 else none
    (∀ f, fl = some f → j.quiet f) →
    exec i s = .next (s.wordDone (s.vecCommit [a] (some d)
      ⟨setElems w (j.oldV d) (fun n => decide (n < w.count)) fun _ => r.1, fl, id⟩) tk)

/-- 06 R176 to R182: vcvt converts each active element between its formats, taking or writing the half that H names when one format is
of 64 bits; vqnt writes the whole image of quantised blocks and their scales; vxacc adds each active element to its accumulator
on the grid of vB and leaves it where the element is no number; vxrnd rounds each active accumulator. Each retires when no
exception that it raises has its trap enabled. -/
def Obligations.ConversionResults : Prop :=
  ∀ (s : State) (tk : Tok) (d a b : VReg) (r : Rounding) (k : KReg),
    let c := s.cur.core
    let j := s.inst c
    let m := j.mask k
    let va := j.readV a
    let vb := j.readV b
    let md := modeOf r j.sys.fmode
    (∀ (h : Bool) (g f : VFmt), s.vecReady tk [a] (some d) →
      let n64 := g.is64 || f.is64
      let on := active (if n64 then .e64 else .e32) m
      let half := if h then 256 else 0
      let from' := if f.is64 && !g.is64 then half else 0
      let into := if g.is64 && !f.is64 then half else 0
      let res := fun n => convertElem g f md (elemAt (elemV g) va (from' + n))
      let fl : Nat → Flags := fun l => if on l then (res l).2 else 0
      j.quiet fl →
      exec (.vcvt tk d a h g r f k) s = .next (s.wordDone (s.vecCommit [a] (some d)
        ⟨setElems (elemV f) (j.oldV d) (fun n => decide (into ≤ n) && on (n - into)) fun n => (res (n - into)).1, some fl, id⟩) tk)) ∧
    (∀ t : QntType, s.vecReady tk [a] (some d) →
      let blocks := (List.range 16).map fun q => quantBlock t md ((List.range 32).map fun n =>
        (laneAt va (32 * q + n), m.getLsbD (32 * q + n)))
      let elems := blocks.flatMap (·.1)
      let image := packQnt t (elems.map (·.1))
      let fl : Nat → Flags := fun l => ((elems[l]?).map (·.2)).getD 0
      j.quiet fl →
      exec (.vqnt tk d a r t k) s = .next (s.wordDone (s.vecCommit [a] (some d)
        ⟨lanesOf (image ++ List.replicate (1024 - image.length) 0 ++ blocks.map fun x => BitVec.ofNat 8 x.2), some fl, id⟩) tk)) ∧
    (∀ f : FixFmt, s.vecReady tk [a, b] none →
      let on := active (elemX f) m
      let res := fun n => accStep (j.quad d.val n) (fixNum f (elemAt (elemX f) va n)) (BitVec.ofNat 32 (laneAt vb n)).toInt
      let fl : Nat → Flags := fun l => if on l then (res l).2 else 0
      j.quiet fl →
      exec (.vxacc tk d a b f k) s = .next (s.wordDone (s.vecCommit [a, b] none
        ⟨zeroLanes, some fl, fun t => t.modInst c fun x =>
          x.setQuad d.val (fun n => on n && (res n).1.isSome) fun n => ((res n).1).getD 0⟩) tk)) ∧
    (∀ f : HFmt, s.vecReady tk [b] (some d) →
      let on := active (elemH f) m
      let res := fun n => accRound (HFmt.fmt f) md (j.quad a.val n) (BitVec.ofNat 32 (laneAt vb n)).toInt
      let fl : Nat → Flags := fun l => if on l then (res l).2 else 0
      j.quiet fl →
      exec (.vxrnd tk d a b r f k) s = .next (s.wordDone (s.vecCommit [b] (some d)
        ⟨setElems (elemH f) (j.oldV d) on fun n => (res n).1, some fl, id⟩) tk))

/-- 06 R187 to R190, Table 6.9: a vector load or store whose active elements all have an aligned address that may be accessed reads or
stores them in ascending order, and retires; an inactive element accesses nothing. An element that the word has loaded ahead of the
others keeps the value that it had then, and of a store whose first elements have been stored ahead the others follow (R189; LOG 96). -/
def Obligations.VectorMemory : Prop :=
  ∀ (i : Instr) (s : State) (st : Bool) (tk : Tok) (d : VReg) (srcs : List VReg) (c : Fin 8) (f : VFmt) (k : KReg)
    (addr : List Lanes → Nat → Word) (pa : Nat → Nat),
    vecMemRule i = some (st, tk, d, srcs, c, f, k, addr) →
    let g := s.cur.core
    let j := s.inst g
    let n := elemBytes f
    let w := elemV f
    let vs := srcs.map j.readV
    let es := (List.range w.count).filter fun e => (j.mask k).getLsbD e
    let all := es.map fun e => ((addr vs e).toNat, pa e)
    (st = false → s.vecReady tk srcs (some d) → (∀ e ∈ es, s.mapped g (addr vs e) n .read (pa e)) →
      exec i s = .next (s.wordDone (s.vecCommit srcs (some d)
        ⟨setElems w (j.oldV d) (active w (j.mask k)) fun e => (j.doneVe.reads.lookup e).getD (leNat (s.mem.read (pa e) n)), none,
          fun t => t.noteElems g c false n all []⟩) tk)) ∧
    (st = true → s.vecReady tk (srcs ++ [d]) none → j.doneVe.writes = none → (∀ e ∈ es, s.mapped g (addr vs e) n .write (pa e)) →
      exec i s = .next (s.wordDone (s.vecCommit (srcs ++ [d]) none
        ⟨zeroLanes, none, fun t =>
          ((es.foldl (fun u e => u.physWriteIn true (pa e) (leBytes n (elemAt w (j.readV d) e))) t).noteElems g c true n all []).sink g⟩)
        tk)) ∧
    (st = true → s.vecReady tk (srcs ++ [d]) none → ∀ l, j.doneVe.writes = some l →
      exec i s = .next (s.wordDone (s.vecCommit (srcs ++ [d]) none
        ⟨zeroLanes, none, fun t =>
          ((l.foldl (fun u e => u.putElem g e) t).noteElems g c true n (storeAddrs l) []).sink g⟩) tk))

/-- 06 R191, R192: vtrd reads, and vtwr writes, eight lines of 32-bit elements or four of 64-bit elements of an allocated tile of
that form, from its line on, for the active elements, and retires; an element that vtrd has read ahead keeps the value that it had
then, and of a vtwr performed in part the other elements follow (R193; LOG 96). A tile that is not allocated traps BUFFER_RANGE with
TVAL its number, with TW once the token and the operands are there (LOG 100). 02 Table 2.8, 06 R191: the lines of a tile in each direction partition its elements: element e of line n is the
element at which `lineOf` finds line n and place e, and every element is on one line of each direction. -/
def Obligations.TileLineAccess : Prop :=
  (∀ (s : State) (tk : Tok) (v : VReg) (t : TReg) (e : Dir) (n : Fin 64) (f : TileFmt) (k : KReg),
     let g := s.cur.core
     let j := s.inst g
     (∀ x, j.tiles[t] = some x → lineOk x f e n.val = true → s.vecReady tk [] (some v) →
       exec (.vtrd tk v t e n f k) s = .next (s.wordDone (s.vecCommit [] (some v)
         ⟨setElems x.entryElem (j.oldV v) (active x.entryElem (j.mask k)) fun m => (j.doneVe.reads.lookup m).getD (x.lineEntry e n.val m), none, id⟩) tk)) ∧
     (∀ x, j.tiles[t] = some x → lineOk x f e n.val = true → j.doneVe.writes = none → s.vecReady tk [v] none →
       exec (.vtwr tk v t e n f k) s = .next (s.wordDone (s.vecCommit [v] none ⟨zeroLanes, none, fun u => u.modInst g fun y =>
         { y with tiles := y.tiles.set t (some (x.putLines e n.val (active x.entryElem (j.mask k))
           (elemAt x.entryElem (j.readV v)))) }⟩) tk)) ∧
     (∀ l, j.doneVe.writes = some l → s.vecReady tk [v] none → exec (.vtwr tk v t e n f k) s =
       .next (s.wordDone (s.vecCommit [v] none ⟨zeroLanes, none, fun u => l.foldl (fun u x => u.putElem g x) u⟩) tk)) ∧
     (j.tiles[t] = none → (tk.tw = false ∧ vOperandChecks [] (some v) = .ok () ∨ s.vecReady tk [] (some v)) →
       exec (.vtrd tk v t e n f k) s = .next (s.raise .bufferRange (BitVec.ofNat 64 t.val))) ∧
     (j.tiles[t] = none → j.doneVe.writes = none → (tk.tw = false ∧ vOperandChecks [v] none = .ok () ∨ s.vecReady tk [v] none) →
       exec (.vtwr tk v t e n f k) s = .next (s.raise .bufferRange (BitVec.ofNat 64 t.val)))) ∧
  (∀ (dir : Dir) (n e : Nat), n < 64 → e < 64 →
     let p := lineElem dir n e
     p.1 < 64 ∧ p.2 < 64 ∧ lineOf dir p.1 p.2 = (n, e) ∧ lineElem dir (lineOf dir n e).1 (lineOf dir n e).2 = (n, e))

/-- 06 R194, R195: vflg.clr clears the flags of its mask in the active lanes, vflg.wr writes the active lanes' flags from vA, vflg.tm
copies the trap lane mask and vflg.ctm clears it; each retires. -/
def Obligations.FlagWords : Prop :=
  ∀ (s : State) (tk : Tok) (a : VReg) (f : BitVec 5) (d k : KReg),
    let g := s.cur.core
    let j := s.inst g
    let on := fun (x : Inst) => active .e32 (x.mask k)
    let done := fun (srcs : List VReg) (h : Inst → Inst) =>
      Outcome.next (s.wordDone (s.vecCommit srcs none ⟨zeroLanes, none, fun t => t.modInst g h⟩) tk)
    (s.vecReady tk [] none → exec (.vflgClr tk f k) s = done [] fun x =>
      { x with flags := Vector.ofFn fun l : Fin 512 => if on x l.val then x.flags[l] &&& ~~~f else x.flags[l] }) ∧
    (s.vecReady tk [a] none → exec (.vflgWr tk a k) s = done [a] fun x =>
      { x with flags := Vector.ofFn fun l : Fin 512 => if on x l.val then BitVec.ofNat 5 (laneAt (j.readV a) l.val) else x.flags[l] }) ∧
    (s.vecReady tk [] none → exec (.vflgTm tk d) s = done [] fun x => { x with k := x.k.set d x.trapMask }) ∧
    (s.vecReady tk [] none → exec (.vflgCtm tk) s = done [] fun x => { x with trapMask := 0 })

/-- 06 R196 to R198: vpush appends the active elements of vA in ascending order to its stream when they fit; vpop.pack pops the oldest
records, up to one for each element, into the elements from 0 and marks in its mask register which it filled; vpop.exp pops one
record for each active element into it. Each retires. A field that names no conditional stream, a push that does not fit, a pop of
more records than there are and one of records of another width trap QUEUE_PROTOCOL with TVAL the field's number. -/
def Obligations.ConditionalStreams : Prop :=
  ∀ (s : State) (tk : Tok) (d q a : VReg) (b k : KReg) (x : LaneW),
    let g := s.cur.core
    let j := s.inst g
    let w := elemW x
    let old := j.cond q
    let es := (List.range w.count).filter fun n => (j.mask k).getLsbD n
    let rec64 := x == LaneW.b64
    let named := q = 28 ∨ q = 29
    let stop := Outcome.next (s.raise .queueProtocol (BitVec.ofNat 64 q.val))
    let n := Nat.min old.length w.count
    let fits := slots old + es.length * (if rec64 then 2 else 1) ≤ 2048
    (named → fits → s.vecReady tk [a] none →
      exec (.vpush tk q a x k) s = .next (s.wordDone (s.vecCommit [a] none ⟨zeroLanes, none, fun t =>
        let u := t.modInst g fun y => y.setCond q (y.cond q ++ es.map fun e => ⟨rec64, BitVec.ofNat 64 (elemAt w (j.readV a) e)⟩)
        if es.isEmpty then u else u.sink g⟩) tk)) ∧
    (named → (∀ r ∈ old.take n, r.wide = rec64) → s.vecReady tk [] (some d) →
      exec (.vpopPack tk d q b x) s = .next (s.wordDone (s.vecCommit [] (some d)
        ⟨setElems w (j.oldV d) (fun e => decide (e < n)) fun e => ((old[e]?).map (·.value.toNat)).getD 0, none, fun t =>
          let u := t.modInst g fun y => (y.setCond q (old.drop n)).setMask b (fun l => decide (l < w.count)) fun l => decide (l < n)
          if n = 0 then u else u.sink g⟩) tk)) ∧
    (named → es.length ≤ old.length → (∀ r ∈ old.take es.length, r.wide = rec64) → s.vecReady tk [] (some d) →
      exec (.vpopExp tk d q x k) s = .next (s.wordDone (s.vecCommit [] (some d)
        ⟨setElems w (j.oldV d) (fun e => es.contains e) fun e => ((old[es.idxOf e]?).map (·.value.toNat)).getD 0, none, fun t =>
          let u := t.modInst g fun y => y.setCond q (old.drop es.length)
          if es.isEmpty then u else u.sink g⟩) tk)) ∧
    (¬named ∨ ¬fits → vOperandChecks [a] none = .ok () → exec (.vpush tk q a x k) s = stop) ∧
    (¬named ∨ (∃ r ∈ old.take n, r.wide ≠ rec64) → vOperandChecks [] (some d) = .ok () →
      exec (.vpopPack tk d q b x) s = stop) ∧
    (¬named ∨ old.length < es.length ∨ (∃ r ∈ old.take es.length, r.wide ≠ rec64) → vOperandChecks [] (some d) = .ok () →
      exec (.vpopExp tk d q x k) s = stop)

/-- 07 R202, R204, R224: a Hollyhock word whose conditional stream A is empty and whose operands and token are there takes its token and
its sources, and is in flight with the registers, the mask and the FMODE it read. -/
def Obligations.HollyhockIssues : Prop :=
  ∀ (i : Instr) (s : State) (tk : Tok) (d : VReg) (k : KReg) (read pops : List VReg), hollyRule i = some (tk, d, k, read, pops) →
    let g := s.cur.core
    let j := s.inst g
    s.vecReady tk pops (some d) → j.condA = [] →
    let popped := (pops.eraseDups.filter isVq).map fun r => (r, j.readV r)
    let t := s.modInst g fun x =>
      { (x.moveTokens (if tk.tw then [defaultIn .ve] else []) []).popVs pops with
        hollyhock := some ⟨i, s.cur.pc, s.cur.word, s.cur.stamp, read.map j.readV, j.mask k, j.sys.fmode, popped⟩ }
    exec i s = .next (if popped = [] then t else t.sink g)

/-- 07 R206, R211, R215, R223: when an instruction in flight settles with no enabled exception, its results are written to the active
elements of its destination, its flags raised, its token pushed and the word retired; with one it traps FPX, gives back what it took,
and TVAL holds the enabled exceptions that arose and the trap lane mask their lanes; a predicate that is not quiet traps whatever
FMODE holds. R214, Table 7.4: the special operands of vexp, vlog and verf give the results and the flags that the table lists, in every
mode, and a NaN the canonical NaN, with NV where it signals. R218 to R223: a predicate gives an instance with an infinity or a NaN its
mark, with NV; it gives a finite one the sign of its determinant on the exact coordinates, or the class of the segments, with no flag;
with ties the determinants are those of the coordinates perturbed by powers of ε, for every ε = 1/N from some N on, with 1.0 the unit of
the coordinates. The correctly rounded values of R213 are those of InFlight.settled. -/
def Obligations.HollyhockSettles : Prop :=
  ∀ (s : State) (g : CoreNo) (x : InFlight) (y : Settled), (s.inst g).hollyhock = some x → x.settled = some y →
    let t := { s with cur := ⟨g, .ve, x.pc, x.word, 0, x.stamp, false⟩ }
    let on := active y.w x.mask
    let fl : Nat → Flags := fun l => if on l then (y.res l).2 else 0
    let en := enabled (if y.force then x.fmode ||| 0x100 else x.fmode)
    ((∀ l < 512, fl l &&& en = 0) →
      let u := t.modInst g fun i =>
        ({ i with hollyhock := none }.raiseFlags fl).writeV y.d (setElems y.w (i.oldV y.d) on fun e => (y.res e).1)
      exec (.hollyhockSettle g) s = .next ((if isVq y.d then u.sink g else u).retireWord [] (if y.tk.ts then [defaultOut .ve] else []))) ∧
    ((∃ l < 512, fl l &&& en ≠ 0) → ∃ (m : Mask) (v : Flags), (∀ l < 512, m.getLsbD l = (fl l &&& en != 0)) ∧
      (∀ b < 5, v.getLsbD b = true ↔ ∃ l < 512, (fl l &&& en).getLsbD b = true) ∧
      exec (.hollyhockSettle g) s = .next ((t.modInst g fun i => i.dropHolly x y.tk.tw).raiseAs .fpx (v.zeroExtend 64) false none
        (some ⟨Vector.ofFn fun l : Fin 512 => fl l.val, m⟩))) ∧
    (∀ f e r, (∃ tk d a md k, x.instr = .vexp tk d a md f k ∨ x.instr = .vlog tk d a md f k ∨ x.instr = .verf tk d a md f k) →
      specialRule x.instr f (elemAt (elemH f) (x.srcs.headD zeroLanes) e) = some r → y.res e = r) ∧
    (∀ t q f d np mark result, signRule x.instr = some (t, q, f, d, np, mark, result) →
      x.srcs.length = (if t then d + 1 else d) * np →
      let w := elemH f
      let coord := fun (e p k : Nat) => decodeF (HFmt.fmt f) (elemAt w (x.srcs.getD (d * p + k) zeroLanes) e)
      let finite := fun e => ∀ p < np, ∀ k < d, (coord e p k).isFin = true
      y.force = !q ∧ ∀ e, e < w.count →
        (¬finite e → y.res e = (mark, flagNV)) ∧
        (finite e → (y.res e).2 = 0 ∧ ∃ (one : Nat) (P : Nat → Nat → Int),
          (∀ p < np, ∀ k < d, (coord e p k).isAt (-(one : Int)) (P p k)) ∧
          (t = false → (y.res e).1 = (result P P % 2 ^ w.bits).toNat) ∧
          (t = true → ∃ N0, ∀ N, N0 ≤ N →
            let idx := fun p => elemAt w (x.srcs.getD (d * np + p) zeroLanes) e
            (y.res e).1 = (result (perturbedAt N (2 ^ one) d np idx P) P % 2 ^ w.bits).toNat)))

-- Stream control of the VE, the ME and the CE.

/-- 05 R142 to R144, 02 R47 to R49: tkw of an engine retires when the tokens it names and those of its token bits are there, and tks
when there is room for them; the tokens move at its retirement. With a token missing, or a FIFO full, it waits and changes nothing. -/
def Obligations.EngineTokens : Prop :=
  ∀ (i : Instr) (s : State) (tk : Tok) (push : Bool) (f : Engine), tokenRule i = some (tk, push, f) →
    let e := s.cur.src.engine
    let pops := (if tk.tw then [defaultIn e] else []) ++ (if push then [] else [fifo f e])
    let pushes := (if tk.ts then [defaultOut e] else []) ++ (if push then [fifo e f] else [])
    ((s.inst s.cur.core).tokensReady pops pushes = true → exec i s = .next (s.retireWord pops pushes)) ∧
    ((s.inst s.cur.core).tokensReady pops pushes = false → exec i s = .next s)

/-- 16 R428 to R430, R434 to R436, 06 R200, 09 R268, R272, 12 R345: with its token bits ready, seg of the VE, the ME or the CE retires and
opens a segment, safe retires and its stream stands just past it, end closes the segment and ends the stream at its own address, nop
only retires, and a loop with an immediate count, which is at least 1 (02 R56), enters its body, when no segment that it closes is
broken; a loop beyond its limits traps ILLEGAL. A loop whose count is popped takes it from doubleword 0 of vq2 in the VE, from q8 in
the ME and from q10 in the CE, when an entry is there, and skips its body where that is 0; with none there it waits. A stream that stands just past a safe issues nothing while a request is
pending. -/
def Obligations.EngineStreamControl : Prop :=
  (∀ (s : State) (tk : Tok), s.tokReady tk = true →
     let g := s.cur.core
     let e := s.cur.src.engine
     let st := (s.inst g).stream e
     let change := fun (t : State) (h : Stream → Stream) => t.modInst g fun x => x.modStream e h
     (∀ cnt crc, ∀ i ∈ [Instr.veSeg tk cnt crc, .meSeg tk cnt crc, .ceSeg tk cnt crc],
       (st.mismatch = false → exec i s = .next (change (s.wordDone s tk) fun x => { x with seg := some ⟨cnt, crc, 0, 0xFFFF⟩ })) ∧
       (st.mismatch = true → exec i s = .next (s.raiseSegment st))) ∧
     (∀ i ∈ [Instr.veSafe tk, .meSafe tk, .ceSafe tk], exec i s = .next (let t := s.wordDone s tk
       if (t.inst g).handler then t else change t fun x => { x with held := true })) ∧
     (∀ i ∈ [Instr.veEnd tk, .meEnd tk, .ceEnd tk],
       ((st.count s.cur.word).mismatch = false →
         exec i s = .next (change (change (s.wordDone (s.sink g) tk) fun x => { x with seg := none })
           fun x => { x with ended := true, pc := st.pc, loops := st.loops })) ∧
       ((st.count s.cur.word).mismatch = true → exec i s = .next (s.raiseSegment (st.count s.cur.word)))) ∧
     (∀ i ∈ [Instr.meNop tk, .ceNop tk], exec i s = .next (s.wordDone s tk)) ∧
     (∀ l (n : Fin 8192), 0 < n.val → ∀ i ∈ [Instr.veLoop tk l false n, .meLoop tk l false n, .ceLoop tk l false n],
       loopOk e st s.cur.pc l.val = true → exec i s = .next (change (s.wordDone s tk) fun x =>
         { x with pc := s.cur.pc + 4, loops := ⟨s.cur.pc + 4, s.cur.pc + 4 * l.val, BitVec.ofNat 64 n.val⟩ :: st.loops })) ∧
     (∀ l c n, ∀ i ∈ [Instr.veLoop tk l c n, .meLoop tk l c n, .ceLoop tk l c n], loopOk e st s.cur.pc l.val = false →
       exec i s = .next (s.raise .illegal (s.cur.word.zeroExtend 64)))) ∧
  (∀ (s : State) (tk : Tok) (l : Fin 1024) (n : Fin 8192),
     let g := s.cur.core
     let j := s.inst g
     let e := s.cur.src.engine
     let st := j.stream e
     let enter := fun (t : State) (v : Word) => Outcome.next ((s.wordDone (t.sink g) tk).modInst g fun x => x.modStream e fun y =>
       if v = 0 then { y with pc := s.cur.pc + 4 + 4 * l.val, loops := st.loops }
       else { y with pc := s.cur.pc + 4, loops := ⟨s.cur.pc + 4, s.cur.pc + 4 * l.val, v⟩ :: st.loops })
     loopOk e st s.cur.pc l.val = true → s.tokReady tk = true →
     (j.vq[2] ≠ [] → exec (.veLoop tk l true n) s = enter (s.modInst g fun x => { x with vq := x.vq.set 2 x.vq[2].tail })
       (BitVec.ofInt 64 (baseOf (j.vq[2].headD zeroLanes)))) ∧
     (j.vq[2] = [] → exec (.veLoop tk l true n) s = .next s) ∧
     (∀ v rest, j.qw[8] = v :: rest → exec (.meLoop tk l true n) s = enter (s.modInst g fun x => { x with qw := x.qw.set 8 rest }) v) ∧
     (j.qw[8] = [] → exec (.meLoop tk l true n) s = .next s) ∧
     (∀ v rest, j.qw[10] = v :: rest → exec (.ceLoop tk l true n) s = enter (s.modInst g fun x => { x with qw := x.qw.set 10 rest }) v) ∧
     (j.qw[10] = [] → exec (.ceLoop tk l true n) s = .next s)) ∧
  (∀ j : Inst, j.handler = false → (j.ve.held = true → j.mayIssue true .ve = false) ∧ (j.me.held = true → j.mayIssue true .me = false) ∧
     (j.ce.held = true → j.mayIssue true .ce = false))

-- The matrix engine.

/-- 01 R36 to R40, 09 R256 to R262: a multiply-accumulate of a class that the core has, on a tile of its form and with readable operands
(and landed metadata with ascending positions for mmas), writes every element of its tile with its rule's value, ORs the
exceptions into MFLG, consumes its streams (and the metadata entry) and retires. -/
def Obligations.MatrixProducts : Prop :=
  ∀ (i : Instr) (s : State) (r : MmaRule) (t : Tile) (xa xb : Array (Nat × Nat)) (kept : Array Nat), mmaRule i = some r →
    let g := s.cur.core
    let j := s.inst g
    (capvOf s.cores[g].rung).testBit r.cls = true → s.matrixReady r.tk r.se → j.tiles[r.d] = some t → t.form = r.form →
    streamsReady j r.a r.b r.fa r.fb r.ea r.eb xa xb →
    (r.sparse = true → ∃ e rest, j.mdq = e :: rest ∧ e.landed = true ∧ keptOf e.data = some kept) →
    (r.sparse = false → kept = #[]) →
    let x := tileOf t (r.elem j.sys.fmode j.z[r.a] j.z[r.b] t xa xb kept)
    exec i s = .next (s.matrixDone (s.modInst g fun y =>
      let y1 := ((({ y with tiles := y.tiles.set r.d (some x.1) }.orMflg x.2).consume r.ea r.a).consume r.eb r.b)
      if r.sparse then { y1 with mdq := y1.mdq.tail } else y1) r.tk r.se)

/-- 09 R256, 10 R280, 11 R305, 02 R491: a word of a capability class that the core no longer has, whose entry checks hold, is not executed:
it stands in the assist path, and nothing else changes; a check that fails traps at once. 11 R297, R313 to R318, Tables 11.3 and 11.5:
the slice method that serves such words (that its groups stand apart from the commit of the assist, which takes the native result, is
the model's: LOG 57) cuts an operand of p significand bits into n balanced digits of w bits, which stand for the
operand exactly, and gives every element the value and the flags of the native rule, whichever path each of its groups takes, on
every rung; so do its integer products. -/
def Obligations.LostClassAssists : Prop :=
  (∀ (i : Instr) (s : State) (c : Classed), classedOf i = some c →
     (capvOf s.cores[s.cur.core].rung).testBit c.cls = false → (s.inst s.cur.core).assist = none →
     ((∀ k v, c.res s ≠ .error (.trap k v)) →
       exec i s = .next (s.modInst s.cur.core fun j => { j with assist := some ⟨i, s.cur.pc, s.cur.word, s.cur.stamp, false, 0, false⟩ })) ∧
     (∀ k v, c.res s = .error (.trap k v) → exec i s = .next (s.raise k v))) ∧
  (∀ rung w, (rung, w) ∈ [(0, none), (1, some 8), (2, some 8), (3, some 4), (4, none)] → sliceWidth rung = w) ∧
  (∀ fmt w n b, (fmt, w, n, b) ∈ [(0, 8, 7, 1), (0, 4, 14, 1), (1, 8, 4, 6), (1, 4, 7, 2), (2, 8, 2, 6), (2, 4, 3, 2), (3, 8, 2, 3),
     (3, 4, 4, 3), (4, 4, 2, 2), (5, 4, 2, 3)] → sliceCount w (sigBits fmt) = n ∧ sliceBudget w (sigBits fmt) = b) ∧
  sliceCount 4 (sigBits 7) = 3 ∧
  (∀ (w n : Nat) (m : Int), 2 ≤ w → m.natAbs < 2 ^ (w * n - 2) →
     (balanced w n m).length = n ∧ (∀ d ∈ balanced w n m, -2 ^ (w - 1) ≤ d ∧ d < 2 ^ (w - 1)) ∧
       ((balanced w n m).zipIdx.map fun e => e.1 * 2 ^ (w * e.2)).sum = m) ∧
  (∀ (rung fa fb : Nat) (f : Fmt) (md : Rounding) (g n : Nat) (ps : List (Machine.Num × Machine.Num)) (x : Option Nat) (fl : Flags),
     primroseChain rung fa fb f md g n ps x fl = groupChain f md g n (ps.map fun p => product p.1 p.2) x fl) ∧
  (∀ (rung : Nat) (ps : List (Int × Int)) (x : Int), (∀ p ∈ ps, p.1.natAbs < 256 ∧ p.2.natAbs < 256) → -2 ^ 31 ≤ x → x < 2 ^ 31 →
     primroseInt rung ps x = intChain (ps.map fun p => p.1 * p.2) x false)

/-- 10 R281 to R285, R287, R289, R290: on tiles of the right forms and a core with class 1, lrset loads the columns of a tile in
factor state from its streams; lrmul, and lradd of two factor pairs, write the product or the sum when its rank fits; lradd
into a tile of 64 rows with an operand in dense state writes the dense sum; lrden writes the dense matrix, added to the old
one with acc; lrcmp writes the recompressed factors when its workspace fits. Each ORs its flags into MFLG and retires. Under
MRMODE 0 a product whose rank exceeds the cap of td traps RANKOVF, with td, the required rank (at most 255) and the cap in
TVAL, and writes nothing; so does a rank that lrrank.set takes and td cannot hold. -/
def Obligations.LowRankResults : Prop :=
  (∀ (s : State) (tk : Tok) (d a b : TReg) (n : Bool) (x y t : Tile),
     let g := s.cur.core
     let j := s.inst g
     let wrote := fun (v : Tile) (f : Flags) =>
       Outcome.next (s.matrixDone (s.modInst g fun z => { z with tiles := z.tiles.set d (some v) }.orMflg (f.zeroExtend 64)) tk false)
     let sum : Factors :=
       (x.factors.1 ++ (if n then y.factors.1.map (·.map negBit) else y.factors.1), x.factors.2 ++ y.factors.2)
     (capvOf s.cores[g].rung).testBit 1 = true → s.matrixReady tk false →
     j.tiles[d] = some t → j.tiles[a] = some x → j.tiles[b] = some y →
     (t.form = .lr → x.form ≠ .d64 → y.form ≠ .d64 → (x.factor = true ∨ y.factor = true) →
       (lrProduct x y).1.1.length ≤ t.cap → exec (.lrmul tk d a b) s = wrote (t.ofFactors (lrProduct x y).1) (lrProduct x y).2) ∧
     (t.form = .lr → x.factor = true → y.factor = true → sum.1.length ≤ t.cap →
       exec (.lradd tk d a b n) s = wrote (t.ofFactors sum) 0) ∧
     (t.form = .lr → t.rows.length = 64 → x.form ≠ .d64 → y.form ≠ .d64 → (x.factor && y.factor) = false →
       exec (.lradd tk d a b n) s = wrote (t.ofDense (lrDenseSum x y n).1) (lrDenseSum x y n).2) ∧
     (∀ c, x.form = .lr → (t.form = .d32 ∨ t.form = .lr ∧ t.rows.length = 64) → (d ≠ a ∨ x.factor = false ∧ c = true) →
       exec (.lrden tk d a c) s = wrote (t.ofDense (lrDensified x t c).1) (lrDensified x t c).2) ∧
     (t.form = .lr → x.form = .lr → (x.rank = 0 ∨ j.rowsUsed + 2 * x.rank ≤ j.budget) →
       exec (.lrcmp tk d a) s = wrote (t.ofFactors (lrRecompressed j x t).1) (lrRecompressed j x t).2) ∧
     (∀ (p q : Sys2Proof.ZReg) (e : Bool) (xa xb : Array (Nat × Nat)), t.form = .lr → s.matrixReady tk e →
       streamsReady j p q 1 1 (64 * t.cap) (64 * t.cap) xa xb →
       let rows := rowsOf t.rows.length fun r c =>
         if r < t.cap then (xa[64 * r + c]?).elim 0 (·.1) else (xb[64 * (r - t.cap) + c]?).elim 0 (·.1)
       let x := { t with rank := t.cap, rows := rows }
       exec (.lrset tk d p q e) s = .next (s.matrixDone (s.modInst g fun z =>
         ({ z with tiles := z.tiles.set d (some x) }.consume (64 * t.cap) p).consume (64 * t.cap) q) tk e))) ∧
  (∀ (s : State) (tk : Tok) (d a b : TReg) (x y t : Tile),
     let g := s.cur.core
     let j := s.inst g
     let tval := fun (req : Nat) => BitVec.ofNat 64 (d.val + min req 255 * 2 ^ 8 + t.cap * 2 ^ 16)
     j.tiles[d] = some t → t.form = .lr →
     ((capvOf s.cores[g].rung).testBit 1 = true → j.rankMode = 0 → j.tiles[a] = some x → j.tiles[b] = some y →
       x.form ≠ .d64 → y.form ≠ .d64 → (x.factor = true ∨ y.factor = true) → t.cap < (lrProduct x y).1.1.length →
       exec (.lrmul tk d a b) s = .next (s.raise .rankovf (tval (lrProduct x y).1.1.length))) ∧
     (∀ v rest, j.qw[8] = v :: rest → t.cap < v.toNat → ¬(v.toNat = 64 ∧ t.rows.length = 64) → s.tokReady tk = true →
       exec (.lrrankSet tk d) s = .next (s.raise .rankovf (tval v.toNat))))

/-- 09 R252 to R254, 10 R286: talloc of a free register within the budget makes a tile of zeros, tfree frees a tile, tclr clears one,
tmov copies between tiles of one form and size, lrrank sends a rank to q9 and lrrank.set takes one from q8; each retires. A talloc
beyond the budget traps SLOTEXH. A tile that is not allocated traps BUFFER_RANGE with TVAL its number, the source of tmov before its
destination; a tile of the wrong form or size traps it with TVAL 0x100 more. -/
def Obligations.TilePool : Prop :=
  ∀ (s : State) (tk : Tok) (d a : TReg) (n : Fin 2048) (f : TileForm),
    let g := s.cur.core
    let j := s.inst g
    let done := fun (h : Inst → Inst) => Outcome.next (s.wordDone (s.modInst g h) tk)
    let put := fun (x : Option Tile) (y : Inst) => { y with tiles := y.tiles.set d x }
    s.tokReady tk = true →
    (j.tiles[d] = none → j.rowsUsed + n.val ≤ j.budget →
      exec (.talloc tk d n f) s = done (put (some ⟨f, List.replicate n.val zeroRow, 0⟩))) ∧
    (j.tiles[d] = none → j.budget < j.rowsUsed + n.val →
      exec (.talloc tk d n f) s = .next (s.raise .slotexh (BitVec.ofNat 64 (d.val * 2 ^ 16 + n.val)))) ∧
    (∀ x, j.tiles[d] = some x → exec (.tfree tk d) s = done (put none)) ∧
    (∀ x, j.tiles[d] = some x → exec (.tclr tk d) s = done (put (some
      (if x.form = .lr then { x with rank := 0 } else { x with rows := x.rows.map fun _ => zeroRow })))) ∧
    (∀ x y, j.tiles[d] = some x → j.tiles[a] = some y → x.form = y.form → x.rows.length = y.rows.length →
      exec (.tmov tk d a) s = done (put (some y))) ∧
    (∀ x, j.tiles[a] = some x → x.form = .lr → j.qr[9].length < 8 →
      exec (.lrrank tk a) s = .next (s.wordDone ((s.modInst g fun y =>
        { y with qr := y.qr.set 9 (y.qr[9] ++ [BitVec.ofNat 64 x.rank]) }).sink g) tk)) ∧
    (∀ x v rest, j.tiles[d] = some x → x.form = .lr → j.qw[8] = v :: rest →
      (v.toNat ≤ x.cap ∨ v.toNat = 64 ∧ x.rows.length = 64) →
      exec (.lrrankSet tk d) s = .next (s.wordDone ((s.modInst g fun y =>
        { put (some { x with rank := v.toNat }) y with qw := y.qw.set 8 rest }).sink g) tk)) ∧
    (let stop := fun n : Nat => Outcome.next (s.raise .bufferRange (BitVec.ofNat 64 n));
      (j.tiles[d] = none → ∀ i ∈ [Instr.tfree tk d, .tclr tk d, .lrrankSet tk d], exec i s = stop d.val) ∧
      (j.tiles[a] = none → ∀ i ∈ [Instr.tmov tk d a, .lrrank tk a], exec i s = stop a.val) ∧
      (∀ y, j.tiles[a] = some y → j.tiles[d] = none → exec (.tmov tk d a) s = stop d.val) ∧
      (∀ x y, j.tiles[d] = some x → j.tiles[a] = some y → x.form ≠ y.form ∨ x.rows.length ≠ y.rows.length →
        exec (.tmov tk d a) s = stop (0x100 + d.val)) ∧
      (∀ y, j.tiles[a] = some y → y.form ≠ .lr → exec (.lrrank tk a) s = stop (0x100 + a.val)) ∧
      ∀ x, j.tiles[d] = some x → x.form ≠ .lr → exec (.lrrankSet tk d) s = stop (0x100 + d.val))

/-- 09 R266, R267: mrd sends the lines of a tile to the VE through vq0 and mwr writes them from vq1, when a place or an entry is there;
mldc loads a whole tile from a frame of C and mstc stores it there, line n first, when the frame is claimed. Each retires. -/
def Obligations.TileMoves : Prop :=
  ∀ (s : State) (tk : Tok) (t : TReg) (e : Dir) (n : Fin 64) (f : Fin 32) (h : Bool) (x : Tile),
    let g := s.cur.core
    let j := s.inst g
    let frame := 16384 * (f.val + 32 * h.toNat)
    let w := if x.form = .d64 then 8 else 4
    let len := if x.form = .lr then 256 * x.rows.length else 4096 * w
    s.tokReady tk = true → j.tiles[t] = some x →
    (x.form = .lr → e = .row ∧ n.val < x.rows.length) →
    (j.vq[0].length < 4 → exec (.mrd tk t e n) s = .next (s.wordDone ((s.modInst g fun y => { y with vq := y.vq.set 0 (y.vq[0] ++
      [setElems x.entryElem zeroLanes (fun k => decide (k < x.entryElem.count)) (x.lineEntry e n.val)]) }).sink g) tk)) ∧
    (j.vq[0].length = 4 → exec (.mrd tk t e n) s = .next s) ∧
    (∀ v rest, j.vq[1] = v :: rest → exec (.mwr tk t e n) s = .next (s.wordDone ((s.modInst g fun y =>
      { y with tiles := y.tiles.set t (some (x.putLines e n.val (fun _ => true) (elemAt x.entryElem v))),
               vq := y.vq.set 1 rest }).sink g) tk)) ∧
    ((x.form = .lr → n.val = 0) → claimCheck j .c frame len = .ok () →
      let loaded := x.ofElems fun r c => leNat ((List.range w).map fun b =>
        if frameByte x e n.val r c + b < len then j.bufC.get (frame + (frameByte x e n.val r c + b)) else 0)
      let stored := (List.range (len / w)).flatMap fun k =>
        let p := if x.form = .lr then (k / 64, k % 64) else lineElem e ((n.val + k / 64) % 64) (k % 64)
        leBytes w (x.elem p.1 p.2)
      exec (.mldc tk t e n f h) s =
        .next (s.wordDone (s.modInst g fun y => { y with tiles := y.tiles.set t (some loaded) }) tk) ∧
      exec (.mstc tk t e n f h) s = .next (s.wordDone ((s.modInst g fun y => { y with bufC := y.bufC.put frame stored }).sink g) tk))

/-- 09 R269, R270: after an mloop within its limits with an immediate count, which is at least 1, the sequencer stands at the first
slot that issues; a count to be popped comes from q8, and 0 there skips the body. The slots of a step are those of its slot words, each with the
stages of the body from the last to the first, and a slot issues exactly when its stage has an iteration: iteration c - st
with 0 ≤ c - st < n. -/
def Obligations.PipelinedLoop : Prop :=
  (∀ (s : State) (tk : Tok) (l : Fin 1024) (ii : Fin 64) (n : Fin 128),
     let g := s.cur.core
     let st := (s.inst g).me
     let enter := fun (t : State) (v : Word) => Outcome.next ((s.wordDone t tk).modInst g fun y =>
       if v = 0 then { y with me := { y.me with pc := s.cur.pc + 4 + 4 * l.val, loops := st.loops, held := false } }
       else { y with mloop := some ⟨s.cur.pc, l.val, ii.val, v, 0, 0, l.val / ii.val - 1⟩ }.settleMloop)
     mloopOk st s.cur.pc l.val ii.val = true → s.tokReady tk = true →
     (0 < n.val → exec (.mloop tk l ii false n) s = enter s (BitVec.ofNat 64 n.val)) ∧
     ∀ v rest, (s.inst g).qw[8] = v :: rest →
       exec (.mloop tk l ii true n) s = enter ((s.modInst g fun y => { y with qw := y.qw.set 8 rest }).sink g) v) ∧
  (∀ m : MLoop, (m.squashed = false ↔ m.st ≤ m.c ∧ m.c - m.st < m.n.toNat) ∧
     (0 < m.st → m.nextSlot = { m with st := m.st - 1 }) ∧
     (m.st = 0 → m.w + 1 < m.ii → m.nextSlot = { m with w := m.w + 1, st := m.len / m.ii - 1 }) ∧
     (m.st = 0 → m.ii ≤ m.w + 1 → m.nextSlot = { m with w := 0, c := m.c + 1, st := m.len / m.ii - 1 }))

-- The copy engine.

/-- 12 R323, R326 to R335, R352, 13 R365, R368, 14 R385, R388, 18 R467 to R472: a word that issues a copy, whose checks hold and whose
token bits are ready, puts its copy in flight with the registers it read, when fewer than 64 are in flight and its reservations
find room, and retires; one of length 0 is complete at issue. A command of q3 issues the collective whose descriptor its entry
names, and its place in the order of results. -/
def Obligations.CopyIssues : Prop :=
  ∀ (i : Instr) (s : State) (r : CopyRule), copyRule s i = some r → s.tokReady r.tk = true →
    let g := s.cur.core
    let j := s.inst g
    (s.cur.src ≠ .q3 → r.ok = true → r.spec.len ≠ 0 → r.room = true → j.copies.length < 64 →
      exec i s = .next (s.wordDone (r.after ((r.before (r.always s)).issued i r.spec)) r.tk)) ∧
    (s.cur.src ≠ .q3 → r.ok = true → r.spec.len = 0 → exec i s = .next (s.recorded (s.wordDone (r.always s) r.tk))) ∧
    (∀ v rest, s.cur.src = .q3 → isColl i = true → j.qw[3] = v :: rest → j.copies.length < 64 →
      exec i s = .next (s.wordDone ((s.issued i { r.spec with p := v &&& ~~~(0x3F : Word) }).modInst g fun y =>
        { y with q3Order := y.q3Order ++ [(j.nextId, none)] }) r.tk))

/-- 12 R334, R338, R339, R342 to R344, R350, R351, 13 R365, R366, 14 R388: a word of the CE that leaves no copy, whose checks hold, whose
waits are over and whose token bits are ready, has its whole effect at issue and retires; from q0 it pushes its record at once. An
overrun arrival counter traps ARRIVAL_OVERRUN at acwait, with TVAL its value and number. -/
def Obligations.CopyControl : Prop :=
  ∀ (i : Instr) (s t : State) (tk : Tok), ceNowRule s i = some (tk, true, t) → s.tokReady tk = true →
    exec i s = .next (s.recorded (s.wordDone t tk)) ∧
    ∀ a, ((s.inst s.cur.core).a[a]).overrun = true → exec (.acwait tk a) s =
      .next (s.raise .arrivalOverrun (BitVec.ofNat 64 ((s.inst s.cur.core).a[a].value.toNat * 2 ^ 32 + a.val)))

-- The command processor, firmware and the rest of the module.

/-- 17 R442, R445, R446, R450, R452, R455, R456: a packet whose steps and whose write of RIDX meet no fault takes its effect and completes:
SIGNAL, WRITE, WRITE_SIGNAL and MARK store, a WAIT whose read satisfies its condition only completes, INVAL from a firmware ring drops
translations, once no core of the context has an access in part performed (LOG 96), NODE arms a node while fewer than 4,096 are armed, LAUNCH completes when every record is accepted, a TRANSFORM when
its task is tracked. A WAIT that is not satisfied waits, one whose page is not resident parks its ring, and an INVAL from any other
ring stops its ring with fault 0x06. -/
def Obligations.Packets : Prop :=
  ∀ (h : Pkt) (s t u : State) (a v : Word),
    let x := s.rings[h.ring]
    (∀ w, s.writeV none x.ctx a.toNat (leBytes (if w then 4 else 8) v.toNat) = .ok t → t.packetDone h = .ok u →
      exec (.signal h a v w) s = .next u) ∧
    (∀ ws, s.storeWords x.ctx a.toNat ws = .ok t → t.packetDone h = .ok u → exec (.write h a ws) s = .next u) ∧
    (∀ ws sa r, s.storeWords x.ctx a.toNat ws = .ok r → r.writeV none x.ctx sa.toNat (leBytes 8 v.toNat) = .ok t →
      t.packetDone h = .ok u → exec (.writeSignal h a ws sa v) s = .next u) ∧
    (a ≠ 0 → s.writeV none x.ctx a.toNat (leBytes 4 (x.ridx.toNat / 64)) = .ok t → t.packetDone h = .ok u →
      exec (.mark h a) s = .next u) ∧
    (s.packetDone h = .ok u → exec (.mark h 0) s = .next u) ∧
    (∀ c w bs, s.readV none x.ctx a.toNat (if w then 4 else 8) = .ok bs →
      (monitorHolds c w (leNat bs) v.toNat = true → s.packetDone h = .ok u → exec (.wait h a v c w) s = .next u) ∧
      (monitorHolds c w (leNat bs) v.toNat = false →
        exec (.wait h a v c w) s = .next (s.modCmdRing h.ring fun y => { y with waiting := true }))) ∧
    (∀ c w va, s.readV none x.ctx a.toNat (if w then 4 else 8) = .error (.pageR, va) →
      exec (.wait h a v c w) s = .next (s.modCmdRing h.ring fun y => { y with st := .parked, waiting := false })) ∧
    (∀ ctx, x.grant = .firmware →
      ((∀ g, s.ctxOf g = ctx → (s.inst g).midAccess = false) → (s.invalidated ctx a.toNat v.toNat).packetDone h = .ok u →
        exec (.inval h ctx a v) s = .next u) ∧
      ((∃ g, s.ctxOf g = ctx ∧ (s.inst g).midAccess = true) → exec (.inval h ctx a v) s = .next s)) ∧
    (∀ ctx, x.grant ≠ .firmware → exec (.inval h ctx a v) s = .next (s.ringFault h.ring 0x06)) ∧
    (∀ succ, (s.nodes.filter fun n => n.stage == .armed).length < 4096 →
      let id := (s.nodes.map (·.id)).foldl Nat.max 0 + 1
      ({ s with nodes := s.nodes ++ [⟨id, h.ring, x.ctx, a, v, succ, .armed⟩] } : State).packetDone h = .ok u →
      exec (.node h a v succ) s = .next u) ∧
    (∀ n, acceptRecords h.ring x.ctx a.toNat (n - x.accepted) x.accepted s = (t, true) → t.packetDone h = .ok u →
      exec (.launch h a n) s = .next u) ∧
    (∀ i y, transformOf i = some h → s.tasks.length < 1024 → s.acceptTransform (some h.ring) none x.ctx i = some y →
      y.packetDone h = .ok u → exec i s = .next u)

/-- 17 R459, Table 17.10: with a free place in q5's read side, a mailbox request leaves q5 and is answered with status and value: ECHO its
argument, MODULE_TIME nanoseconds since reset, IN_SERVICE_CORE_COUNT that count, an unknown code status 1; YIELD and CHECKPOINT ask
for pre-emption of the instances that leave together, and are refused with status 2 where their save does not fit. CHECKPOINT's reply
is owed. The pop and the push of q5 are sink events (05 R157). Whether firmware refuses a YIELD that fits is its policy (LOG 23). -/
def Obligations.Mailbox : Prop :=
  ∀ (g : CoreNo) (arg : BitVec 56) (s : State), (s.inst g).qr[5].length < 4 →
    let taken := fun i : Inst => { i with qw := i.qw.set 5 i.qw[5].tail }
    let answered := fun (t : State) (status v : Nat) => Outcome.next ((t.modInst g fun i =>
      { taken i with qr := i.qr.set 5 (i.qr[5] ++ [BitVec.ofNat 64 (status * 2 ^ 56 + v % 2 ^ 56)]) }).sink g)
    let fits := s.together g ≠ [] ∧ s.saveFits g = true
    exec (.echo g arg) s = answered s 0 arg.toNat ∧
    exec (.moduleTime g arg) s = answered s 0 (Config.nanoseconds s.tick) ∧
    exec (.inServiceCoreCount g arg) s = answered s 0 ((List.finRange 192).filter fun h => s.cores[h].inService).length ∧
    (∀ code, exec (.unknownService g code arg) s = answered s 1 0) ∧
    (¬fits → exec (.checkpoint g arg) s = answered s 2 0 ∧ exec (.yield g arg) s = answered s 2 0) ∧
    (fits → exec (.checkpoint g arg) s =
        .next ((((s.modCore g fun c => { c with replyOwed := true }).modInst g taken).sink g).ask (s.together g) .checkpoint) ∧
      exec (.yield g arg) s =
        if Config.policy s.tick 32 then answered s 2 0 else answered (s.ask (s.together g) .yield) 0 0)

/-- 01 R22, R35, 10 R277, R278, 03 R107, 05 R158, 11 R298, R302, 04 R140: a firmware write between two user instructions writes FMODE,
MFLG, MTOL or MRMODE with a value that the register accepts, RUNG only downwards and to at most 4, once no assist is in progress that is not abandoned (LOG 93)
and no matrix word has begun to read its tiles (LOG 96),
FSHARE with 0 taken as 1 and at most 64, WDOG with at least 293; any other value is ILLEGAL in firmware's own trap state, with TVAL
the value offered, and writes nothing. A write of the instance is its csrw. 03 R106, 04 R139, R140 and LOG 82: a word of the firmware
context runs on firmware's own registers, loops and PC with the queues and the system registers of the instance, s48 to s63 reading
zero and discarding writes outside an assist, and leaves the instance's PC, registers, slot and waiting wmon as they are; a word that
does not decode is ILLEGAL in firmware's trap state. -/
def Obligations.RegisterWrites : Prop :=
  (∀ (g : CoreNo) (v : Word) (s : State), (s.inst g).slot = none →
    let put := fun f : SysRegs → SysRegs => Outcome.next (s.modInst g fun i => { i with sys := f i.sys })
    let illegal := Outcome.next (s.fwTrap g 0x01 v)
    let rung := s.cores[g].rung.val
    exec (.fmodeWrite g true v) s = (if valueOk 0x043 v then put fun y => { y with fmode := v } else illegal) ∧
    exec (.mflgWrite g true v) s = (if v.toNat < 64 then put fun y => { y with mflg := v } else illegal) ∧
    exec (.mtolWrite g true v) s = (if valueOk 0x040 v then put fun y => { y with mtol := v } else illegal) ∧
    exec (.mrmodeWrite g true v) s = (if v.toNat ≤ 2 then put fun y => { y with mrmode := v } else illegal) ∧
    (∀ r : Fin 5, v.toNat = r.val → rung < r.val →
      (s.assisting g = false → exec (.rungWrite g v) s = .next ((s.modCore g fun c => { c with rung := r }).writeRecord 0)) ∧
      (s.assisting g = true → exec (.rungWrite g v) s = .next s)) ∧
    (v.toNat ≤ rung ∨ 5 ≤ v.toNat → exec (.rungWrite g v) s = illegal) ∧
    exec (.fshareWrite g v) s =
      (if v.toNat < 128 then put fun y => { y with fshare := BitVec.ofNat 64 (max 1 (min 64 v.toNat)) } else illegal) ∧
    exec (.wdogWrite g v) s =
      (if v.toNat < 2 ^ 32 then put fun y => { y with wdog := BitVec.ofNat 64 (max 293 v.toNat) } else illegal) ∧
    ∀ (i : Instr) (n : Fin 16384) (a : SReg),
      (i, n) ∈ [(.fmodeWrite g false v, 0x043), (.mflgWrite g false v, 0x042), (.mtolWrite g false v, 0x040),
        (.mrmodeWrite g false v, 0x041)] →
      let st := (s.inst g).scu
      let w := st.wordAt st.pc
      decode .scu w.toNat 0 = .ok (.csrw a n) → s.readable g a = true → s.readS g a = v → s.cores[g].occupant.isSome = true →
      st.ended = false → (s.inst g).freezing = false → (st.held && s.asked g && !(s.inst g).handler) = false →
      exec i s = exec (.csrw a n) { s with cur := ⟨g, .scu, st.pc, w, 0, s.tick, false⟩ }) ∧
  (∀ (g : CoreNo) (w w1 : Word32) (s : State), s.power = .d0 → (s.inst g).slot = none → fwWord w.toNat = true →
    let c := s.cores[g]
    let assisting := c.inst.assist.any (·.frozen)
    let seen := if assisting then w.toNat else noQueues w.toNat
    let begun : State := { s with cur := ⟨g, .scu, c.fw.pc, w, w1, s.tick, true⟩ }
    let left := fun t : State => Outcome.next { t with cur := { t.cur with fw := false } }
    (∀ i i' t, decode .scu w.toNat w1.toNat = .ok i' → decode .scu seen w1.toNat = .ok i →
      exec i (begun.modCore g fun x => { x with inst :=
        { x.inst with scu := ⟨x.fw.pc, [], x.fw.loops, false, false, none⟩, s := x.fw.s, slot := x.fw.slot, wmon := none } }) = .next t →
      (t.inst g).wmon = none →
      execFirmware g w w1 s = left (t.modCore g fun x =>
        { x with fw := { x.fw with pc := x.inst.scu.pc, s := x.inst.s, loops := x.inst.scu.loops, slot := x.inst.slot },
                 inst := { x.inst with scu := c.inst.scu, s := c.inst.s, slot := c.inst.slot, wmon := c.inst.wmon } })) ∧
    (∀ r, decode .scu w.toNat w1.toNat = .error r → (∀ n, r ≠ .absentClass n) →
      execFirmware g w w1 s = left (begun.fwTrap g 0x01 (BitVec.ofNat 64 (w.toNat + if isSegWord .scu w.toNat then w1.toNat * 2 ^ 32 else 0))))) ∧
  (∀ r : SReg, 48 ≤ r.val →
    decode .scu (noQueues ((encode (.addi 5 r 1)).headD 0).toNat) 0 = .ok (.addi 5 0 1) ∧
    decode .scu (noQueues ((encode (.addi r 5 1)).headD 0).toNat) 0 = .ok (.addi 0 5 1))

/-- 05 R150, 12 R337, R340, R341, R346 to R348, R355, 04 R131, 14 R382, R384, 18 R469, R471: the steps that the queues, the helper, Larkspur and
the copies make of their own: conversion stages move an entry and fill every doubleword of a vq2 entry with the value; an idle helper
takes a program; Larkspur reads its source elements in output order, zero for padding; a unit of a copy that may land lands (which
bytes it writes is ArrivalCounting's), one begun word by word is finished first, or the earliest fault stands; a landed copy leaves flight
with its record; a waiting wmon completes with a satisfying read, but not while its stream freezes or a request is pending; the atomic
unit applies q2's oldest command where its address then translates and returns the old value, or what the pop of the result is to trap
with; an answered remote unit is counted, and a refused one faults at its address. The model's, not the spec's: that q2's address is
translated again when the command is applied and its fault met at the pop (LOG 75), the TVAL of a remote fault (LOG 60), that a
stage's move clears no watchdog (LOG 92), and units that land word by word (LOG 38, LOG 96). -/
def Obligations.QueueSteps : Prop :=
  ∀ (g : CoreNo) (s : State),
    let i := s.inst g
    let change := fun f : Inst → Inst => Outcome.next (s.modInst g f)
    (∀ v rest, i.qw[6] = v :: rest → i.vq[2].length < 4 → exec (.q6ToVq2Transfer g) s = change fun j =>
      { j with qw := j.qw.set 6 rest
               vq := j.vq.set 2 (j.vq[2] ++ [Vector.ofFn fun l : Fin 512 => BitVec.ofNat 32 (v.toNat / 2 ^ (32 * (l.val % 2)))]) }) ∧
    (∀ l rest, i.vq[3] = l :: rest → i.qr[7].length < 8 → exec (.vq3ToQ7Transfer g) s = change fun j =>
      { j with vq := j.vq.set 3 rest, qr := j.qr.set 7 (j.qr[7] ++ [BitVec.ofInt 64 (baseOf l)]) }) ∧
    (∀ v rest, i.helper = none → i.qw[4] = v :: rest → i.ceFaulted = false → i.pending = none → i.handler = false →
      i.assist.any (·.frozen) = false → exec (.helperStart g) s = .next ((s.modInst g fun j =>
        { j with qw := j.qw.set 4 rest, helper := some ⟨v.toNat % 2 ^ 14, BitVec.ofNat 16 (v.toNat / 2 ^ 16)⟩ }).sink g)) ∧
    (∀ c t0 vs, i.larkspur = some c → c.started = false → c.fault = none → i.heldBack c = false →
      let n := outCount c.zq.counts c.m
      s.readParts g c (i.placeOf c.zq none) c.zq.dist
        (((List.range n).filterMap (sourceElem c.zq.counts c.m)).map fun e => (c.zq.bitOf e, c.zq.w)) = .ok (t0, vs) →
      ∃ xs : List Word, exec (.larkspurStart g) s = .next (t0.modInst g fun j => j.modCopy c.id fun x =>
          { x with started := true, input := xs }) ∧
        xs.length = n ∧ ∀ t < n, (sourceElem c.zq.counts c.m t = none → xs.getD t 0 = 0) ∧
          (sourceElem c.zq.counts c.m t ≠ none → xs.getD t 0 =
            BitVec.ofNat 64 (vs.getD ((List.range t).filterMap (sourceElem c.zq.counts c.m)).length 0))) ∧
    (∀ c u l, i.copy c.id = some c → c.begun = some (u, l) → exec (.copyUnitLand g c.id u) s =
      .next ((l.foldl (fun t w => t.putWord g c w) s).unitDone g c u (i.unitCount c u))) ∧
    (∀ c u, i.copy c.id = some c → c.begun = none → c.fault = none → c.open' u = true → i.heldBack c = false →
      (∀ t, s.landUnit g c u = .ok t → exec (.copyUnitLand g c.id u) s = .next t) ∧
      (s.landUnit g c u = .error .stall → exec (.copyUnitLand g c.id u) s = change fun j =>
        j.modCopy c.id fun x => { x with stalled := true }) ∧
      (∀ ca v, s.landUnit g c u = .error (.fault ca v) → (∀ w < u, c.open' w = true → ∀ x y, s.landUnit g c w ≠ .error (.fault x y)) →
        exec (.copyUnitLand g c.id u) s =
          .next ((if isRemote c.instr ∧ ca = .prot then s else s.noteFailed g (s.ctxOf g) ca v.toNat).modInst g fun j =>
            j.modCopy c.id fun x => x.withFault u ca v))) ∧
    (∀ c, i.copy c.id = some c → c.landed = true → isColl c.instr = false →
      let pushes := c.src = .q0 ∨ c.src = .q1
      ((∀ tk p a, c.instr ≠ .datmClose tk p a true) → exec (.copyComplete g c.id) s =
        .next (let t := s.modInst g fun j => j.completeCopy c
          if pushes then t.sink g else t)) ∧
      (∀ tk p a, c.instr = .datmClose tk p a true → i.qr[11].length < 8 → exec (.copyComplete g c.id) s =
        .next ((s.modInst g fun j => { j with qr := j.qr.set 11 (j.qr[11] ++ [c.input.headD 0]) }.completeCopy c).sink g))) ∧
    (∀ w, i.wmon = some w → s.wmonRuns g = false → exec (.wmonSatisfy g) s = .next s) ∧
    (∀ w t raw u, i.wmon = some w → s.wmonRuns g = true →
      let cur : Cur := ⟨g, .scu, w.pc, w.word, 0, w.stamp, false⟩
      ({ s with cur := cur } : State).scalarLoad g w.addr (if w.w32 then 4 else 8) = .ok (t, raw) →
      (monitorHolds w.cond w.w32 raw w.b.toNat = true →
        (t.modInst g fun j => { j with wmon := none }).writeDst g true w.d (monitorValue w.cond w.w32 raw) = .ok u →
        exec (.wmonSatisfy g) s = .next (u.modInst g fun j => j.retireTo cur (w.pc + 4) j.scu.loops)) ∧
      (monitorHolds w.cond w.w32 raw w.b.toNat = false → exec (.wmonSatisfy g) s = .next t)) ∧
    (∀ x rest op, i.q2w = x :: rest → i.q2r.length < 16 → AmoOp.ofCode (x.ctl.toNat % 16) = some op →
      let w32 := x.ctl.getLsbD 4
      let n := if w32 then 4 else 8
      let done := fun (t : State) (r : AtomicResult) =>
        Outcome.next ((t.modInst g fun j => { j with q2w := rest, q2r := j.q2r ++ [r] }).sink g)
      (∀ c, s.translate (some g) (s.ctxOf g) x.addr.toNat .both = .error c → exec (.q2AtomicApply g) s = done s ⟨0, some (c, x.addr)⟩) ∧
      ∀ pa, s.translate (some g) (s.ctxOf g) x.addr.toNat .both = .ok pa →
        let old := leNat (s.mem.read pa n)
        (s.poisoned pa n = true → exec (.q2AtomicApply g) s = done s ⟨0, some (.poison, x.addr)⟩) ∧
        (s.poisoned pa n = false → x.ctl.getLsbD 5 = false → exec (.q2AtomicApply g) s =
          done (((s.physWrite pa (leBytes n (atomicNew op n old x.operand.toNat))).noteAccess false g x.addr.toNat pa n s.openDist true).sink g)
            ⟨atomicOld op n old, none⟩) ∧
        (s.poisoned pa n = false → x.ctl.getLsbD 5 = true → ∀ t,
          s.accept g (x.ctl.toNat / 2 ^ 6 % 2 ^ 6) pa op w32 x.operand 0 x.seq = some t → exec (.q2AtomicApply g) s = done t ⟨0, none⟩)) ∧
    (∀ c u, i.copy c.id = some c → u ∈ c.sent → isRemote c.instr = true →
      (exec (.remoteUnitAck g c.id u .landed) s =
        .next ((s.modInst g fun j => j.unitLanded (c.answered u) u (min 256 (c.len - 256 * u))).sink g)) ∧
      ∀ off : Fin 256, off.val < min 256 (c.len - 256 * u) → ∀ ans ca,
        (ans, ca) ∈ [(RemoteAnswer.pageW off, Cause.pageW), (.prot off, .prot)] ∨ (ans, ca) = (.poison off, .poison) ∧ isSigAdd c.instr = true →
        exec (.remoteUnitAck g c.id u ans) s = change fun j => j.modCopy c.id fun x =>
          if x.sent.contains u then (x.answered u).withFault u ca (x.p + BitVec.ofNat 64 (256 * u + off.val)) else x)

/-- 12 R328 to R333, R337, R338, R341, R352 to R354, 13 R368, 15 R408, R409, 14 R373: which bytes a unit of a copy writes, and what it
counts. A copy reads its source as it stands (as it read it ahead, or as it stood before the copy itself wrote there); unit u of a cp
puts those bytes into the u-th 256-byte block of memory or of the buffer that its destination touches, but for the bytes of its
destination that its source range overlaps, which are open (LOG 2); a unit of a spill puts them into the spill area, one of a fill the
spill area's bytes into a buffer; a cpx into a buffer the plain or expanded tile, or for the feeder the stored tile, which is tagged; a
cpn or lyt each of the unit's parts, bits that no part reaches unchanged, in memory by whole bytes or by the change of a 64-byte
sector. A unit of n bytes that lands decrements the counter of its copy by n modulo 2^32, in pieces of at most 256, and one of them that
ends below zero sets its overrun; no other counter, register, tile or buffer changes. A collective of q3 counts into none. (That units
are 256-byte blocks of the destination is LOG 38; a cpx into memory is left out here.) -/
def Obligations.ArrivalCounting : Prop :=
  (∀ (i : Inst) (c : Copy) (u n : Nat),
    let t := i.unitLanded c u n
    (∀ a, c.src ≠ .q3 → counterOf c.instr = some a →
      t.a[a].value = BitVec.ofInt 32 (i.a[a].value.toInt - n) ∧
      t.a[a].overrun = (i.a[a].overrun || (List.range ((n + 255) / 256)).any fun k =>
        decide ((BitVec.ofInt 32 (i.a[a].value.toInt - min n (256 * (k + 1)))).toInt < 0))) ∧
    (∀ a, c.src = .q3 ∨ counterOf c.instr ≠ some a → t.a[a] = i.a[a]) ∧
    t.s = i.s ∧ t.c = i.c ∧ t.z = i.z ∧ t.v = i.v ∧ t.tiles = i.tiles ∧ t.bufW = i.bufW ∧ t.bufA = i.bufA ∧ t.bufC = i.bufC) ∧
  ∀ (g : CoreNo) (s : State) (c : Copy) (u : Nat),
    let i := s.inst g
    let ctx := s.ctxOf g
    let first := fun base : Nat => max base (256 * (base / 256 + u))
    let size := fun base : Nat => min (base + c.len) (256 * (base / 256 + u + 1)) - first base
    let base := match c.slot with
      | some r => i.slotBase r
      | none => c.p.toNat
    let lo := first base
    let n := size base
    let dst := i.placeOf c.zp c.slot
    let src := i.placeOf c.zq none
    let parts := unitParts dst.origin c.parts u;
    (c.ahead = [] → c.kept = [] → i.copy c.id = some c →
      (∀ a n d r, s.readV (some g) ctx a n = .ok r → ∃ t1, s.sourceBytes g c 0 a n d = .ok (t1, r) ∧ t1.mem = s.mem) ∧
      (∀ b a n d r, i.bufRead b a n = .ok r → i.tags b = [] ∨ a % 4 = 0 ∧ n % 4 = 0 →
        ∃ t1, s.sourceBytes g c (bufCode b) a n d = .ok (t1, r) ∧ t1.mem = s.mem) ∧
      ∀ b d (l : List (Int × Nat)), src.buf = some b → i.tags b = [] → (∀ e ∈ l, 0 ≤ 8 * (src.origin : Int) + e.1) →
        ∃ t1 vs, s.readParts g c src d l = .ok (t1, vs) ∧ vs.length = l.length ∧ ∀ k e, l[k]? = some e → ∀ j,
          (vs.getD k 0).testBit j = (decide (j < e.2) && bitOf (i.buf b) ((8 * (src.origin : Int) + e.1).toNat + j))) ∧
    (∀ tk p q a x y o z, c.instr = .cp tk p q a x y o z → x ≠ .ve → x ≠ .mdq →
      (∀ sp ad, c.cpFrom y (lo - base) = some (sp, ad) → s.cpBytes g c y z u (lo - base) n = s.sourceBytes g c sp ad n z) ∧
      ∀ t1 r, s.cpBytes g c y z u (lo - base) n = .ok (t1, r) → ∃ bs : List Byte, bs.length = r.length ∧
        (∀ k < r.length, (c.readSpace = c.cpSpace x → ¬ (c.q.toNat ≤ lo + k ∧ lo + k < c.q.toNat + c.len)) →
          bs.getD k 0 = r.getD k 0) ∧
        (∀ v, x = .mem → c.slot = none → t1.writeV (some g) ctx (lo % 2 ^ 64) bs = .ok v →
          ∃ t, s.landUnit g c u = .ok t ∧ t.mem = v.mem ∧ ∀ b, (t.inst g).buf b = i.buf b) ∧
        ∀ b, x ≠ .mem → (x = .ring ↔ c.slot.isSome = true) → i.copyDst c = some b → i.tags b = [] →
          ∃ t, s.landUnit g c u = .ok t ∧ (t.inst g).buf b = (i.buf b).put lo bs ∧ s.onlyBuf t g b) ∧
    (∀ tk p q a b o t1 r, c.instr = .spill tk p q a b o →
      let lo := first c.p.toNat
      s.sourceBytes g c (bufCode b) (c.q.toNat + (lo - c.p.toNat)) (size c.p.toNat) 0 = .ok (t1, r) →
      ∃ t, s.landUnit g c u = .ok t ∧ (t.inst g).spill = i.spill.put lo r ∧ t.mem = s.mem ∧ ∀ x, (t.inst g).buf x = i.buf x) ∧
    (∀ tk p q a b o, c.instr = .fill tk p q a b o → i.tags b = [] →
      let lo := first c.q.toNat
      let from' := c.p.toNat + (lo - c.q.toNat)
      (∀ k < size c.q.toNat, (from' + k) / 256 ∉ i.spillBad) →
      ∃ t, s.landUnit g c u = .ok t ∧ (t.inst g).buf b = (i.buf b).put lo (i.spill.read from' (size c.q.toNat)) ∧ s.onlyBuf t g b) ∧
    (∀ tk p q a x o z b t1 h form, c.instr = .cpx tk p q a x o z → i.copyDst c = some b → i.tags b = [] → base % 256 = 0 →
      s.readTile g c c.q.toNat c.len u z = .ok (t1, h, form) →
      (∀ bs, form = .plain bs → ∃ t, s.landUnit g c u = .ok t ∧ (t.inst g).buf b = (i.buf b).put lo bs ∧ s.onlyBuf t g b) ∧
      ∀ bs e, form = .stored bs e →
        (h.exp = 3 → b ≠ .c → ∃ t, s.landUnit g c u = .ok t ∧ s.onlyBuf t g b ∧ (t.inst g).tags b = [(lo / 256, bs.length)] ∧
          (t.inst g).buf b = (i.buf b).put lo (bs ++ List.replicate (256 - bs.length) 0)) ∧
        (h.exp ≠ 3 ∨ b = .c →
          (∀ full, expandTile bs = some full → ∃ t, s.landUnit g c u = .ok t ∧ (t.inst g).buf b = (i.buf b).put lo full ∧ s.onlyBuf t g b) ∧
          (expandTile bs = none → s.landUnit g c u = .error (.fault .decode (BitVec.ofNat 64 e))))) ∧
    (∀ (vs : List Nat) (t1 : State) (c1 : Copy),
      let puts := (parts.zip vs).map fun e => (e.1.2.1, e.1.2.2, e.2);
      ((∃ tk p q a o, c.instr = .cpn tk p q a o) ∧ s.readParts g c src c.zq.dist (parts.map fun e => (e.1, e.2.2)) = .ok (t1, vs) ∧
          c1 = t1.mine g c ∨
        (∃ tk p q a m o, c.instr = .lyt tk p q a m o) ∧ c.started = true ∧ t1 = s ∧ c1 = c ∧
          vs = parts.map fun e => (c.input.getD (e.1.toNat / 64) 0).toNat / 2 ^ (e.1.toNat % 64) % 2 ^ e.2.2) →
      (∀ b, dst.buf = some b → i.tags b = [] → (∀ e ∈ puts, 0 ≤ 8 * (dst.origin : Int) + e.1) →
        ∃ t, s.landUnit g c u = .ok t ∧ partsStand (i.buf b) ((t.inst g).buf b) dst.origin puts ∧ s.onlyBuf t g b) ∧
      (dst.buf = none → ∀ t2, t1.writeParts g c1 dst c.zp.dist puts = .ok t2 →
        ∃ t, s.landUnit g c u = .ok t ∧ t.mem = t2.mem)) ∧
    (∀ d bit w v, dst.buf = none →
      let r := (bit % 8).toNat
      let va := (BitVec.ofInt 64 ((dst.origin : Int) + bit / 8)).toNat
      let sector := va / 64 * 64
      (r = 0 → w % 8 = 0 → ∀ x, s.writeV (some g) ctx va (leBytes (w / 8) (v % 2 ^ w)) = .ok x →
        ∃ t, s.placePut g c dst d bit w v = .ok t ∧ t.mem = x.mem) ∧
      (r ≠ 0 ∨ (r + w) % 8 ≠ 0 → ∀ pa, s.translate (some g) ctx sector .write = .ok pa → s.poisoned pa 64 = false →
        ∃ t, s.placePut g c dst d bit w v = .ok t ∧ t.mem = s.mem.put pa
          (putBits (((s.mine g c).sectors.lookup sector).getD (s.mem.read pa 64)) (8 * (va - sector) + r) w v)))

/-- 09 R273, 11 R301, R306 to R311, 12 R341, 15 R402, 16 R421 to R424, R436, R437: a trap that waits is delivered at the streams'
boundaries, a segment mismatch is taken there with SEGCNT and SEGSIG written, and a fault of the copy engine is taken when no copy makes
progress; firmware serves a page, after which the instance resumes or, with TVEC.PF or a page that cannot be mapped, takes the trap,
and reports poison before the trap; after a segment mismatch Foxglove runs on the freed core, and the instance goes back to its
checkpoint there when it passed and the core stays in service, and elsewhere otherwise, or its task is killed where replay or
checkpoint is missing; the feeder's bad unit traps DECODE; an assist freezes the streams once its instruction's waits are over, and
commits as at native retirement, ASSIST_DONE in firmware's own trap state. The model's, not the spec's: that a record of poison that is
read is charged to no one (LOG 62), when a fault of the copy engine is taken (LOG 67), and that Foxglove tests the ME there, at the kill
too, a pending request going with the instance (LOG 85). -/
def Obligations.TrapSteps : Prop :=
  ∀ (g : CoreNo) (s : State),
    let i := s.inst g
    let change := fun f : Inst → Inst => Outcome.next (s.modInst g f)
    (s.cores[g].occupant.isSome = true → i.handler = false → i.boundary = true → i.assist.any (·.frozen) = false →
      (∀ p, i.pending = some p → p.route ≠ .segment → (p.route = .user ∨ p.served = true) →
        exec (.trapTake g) s = .next (s.deliver g p)) ∧
      (∀ p v, i.pending = some p → p.route = .segment → p.served = false → p.seg = some v →
        exec (.trapTake g) s = change fun j => { j with
          pending := some { p with served := true, seg := none }, sys := { j.sys with segcnt := v.1, segsig := v.2 } }) ∧
      (∀ p, i.pending = none → i.ceFaulted = true → i.ceSettled = true → s.ceTrap g = some p →
        exec (.trapTake g) s = .next (s.raiseOn g p))) ∧
    (∀ p, s.cores[g].occupant.isSome = true → i.pending = some p → p.route = .firmware → p.served = false → i.boundary = true →
      (p.cause ≠ .poison → exec (.firmwareFirstService g .unmappable) s = .next (s.deliver g { p with served := true })) ∧
      (∀ ws, p.cause ≠ .poison → exec (.firmwareFirstService g (.served ws)) s =
        .next (if i.sys.tvec.getLsbD 1 then (s.writeWords ws).deliver g { p with served := true }
          else (s.writeWords ws).modInst g fun j => j.serviced p.eng)) ∧
      (∀ ans e, p.cause = .poison → p.copy = none → s.lookup (some g) (s.ctxOf g) p.tval.toNat = some e →
        let pa := e.pa + (p.tval.toNat - e.va)
        exec (.firmwareFirstService g ans) s =
          .next (({ s with notices := s.notices ++ [.error .unattributed (.hbm (s.channelOf (pa / 256))) (pa / 32 * 32) 1 0xFFFF] } : State).deliver
            g { p with served := true }))) ∧
    (∀ p o t b h, s.cores[g].occupant = some o → i.pending = some p → p.route = .segment → p.served = true → i.boundary = true →
      s.taskOn g = some t →
      let mine := s.checkpoints.find? fun x => x.task == o.task && x.ordinal == o.ordinal
      let back := fun x : Saved => { x with inst := { x.inst with spill := i.spill, spillBad := i.spillBad } }
      (t.replay = false ∨ mine = none →
        exec (.segMismatchReplay g b h) s = .next ((s.killTask o.task 0x10).foxTest (.me g) (!b))) ∧
      (∀ x, t.replay = true → mine = some x →
        (s.cores[g].leaving = false → exec (.segMismatchReplay g true h) s =
          .next (s.carry (((s.vacate g).foxTest (.me g) false).restoreOn (back x) g) g g)) ∧
        ∀ im, t.image = some im → s.cores[h].free = true → b = false ∨ s.cores[g].leaving = true →
          let u := (s.vacate g).foxTest (.me g) (!b)
          s.chooseCores im (fun _ => x.inst.sys.capreq.setWidth 16) [[o.ordinal]] h (u.unitDie t.id im) = some [(o.ordinal, h)] →
          exec (.segMismatchReplay g b h) s = .next (s.carry (u.restoreOn (back x) h) g h))) ∧
    (∀ cur instr c v, s.fetch g .me = .run cur instr → classedOf instr = some c →
      let t : State := { s with cur := cur }
      c.res t = .error (.late .decode v) → (capvOf s.cores[g].rung).testBit c.cls = true → t.matrixReady c.tk c.se →
      exec (.meFeederDecode g) s = .next (t.raise .decode v)) ∧
    (∀ a c, i.assist = some a → classedOf a.instr = some c → a.frozen = false → i.pending = none → i.handler = false →
      i.boundary = true → (s.atAssist g a).tokReady c.tk = true → (∀ z ∈ c.streams, i.slotReady z = true) →
      (c.sparse = true → ∃ e rest, i.mdq = e :: rest ∧ e.landed = true) →
      exec (.assistEnter g) s = change fun j => { j with assist := some { a with frozen := true, since := Config.clock s.tick } }) ∧
    (∀ a c u, i.assist = some a → classedOf a.instr = some c → a.frozen = true → a.abandoned = false →
      let t := (s.atAssist g a).modCore g fun x =>
        { x with inst := { x.inst with assist := none }, aux := .used s.tick, fw := { x.fw with cause := 0x14 },
                 watchdog := x.watchdog + (Config.clock s.tick - max a.since x.watchdog) }
      t.matrixReady c.tk c.se → c.res t = .ok u → exec (.assistDone g) s = .next (t.matrixDone u c.tk c.se))

/-- 03 R89, R90, R97 to R105, 05 R157, R159, 16 R430 to R433, 17 R454: with its four streams ended and nothing outstanding an instance
starts its next pass or retires; the next instance of a dispatched task is placed on a free core that holds its claims and classes,
its spill lines locked; a shadow bank swaps in when the core is free, and a withdrawn instance returns to its task's order; a kill ends
every instance of the task; a request is raised where its save fits, served when every core concerned can be saved, and a saved context
is restored on a free core; an interval without a sink event is reported; a core goes out of service when it is free, or is left when
its instance is saved or its piece of a transform is done, and an instance that cannot be saved is killed. The model's, not the spec's:
that the registers stand as they were on a core that an instance has retired from (LOG 99), the words of the hang report's stalls and how
it counts queues (LOG 48), the kill for want of room (LOG 84), and which state lets a request be served (Core.saveable, LOG 86). -/
def Obligations.InstanceSteps : Prop :=
  ∀ (g : CoreNo) (s : State),
    let c := s.cores[g]
    let i := c.inst
    (∀ o im, c.occupant = some o → (s.taskOn g).bind Task.image = some im → i.allEnded = true → i.outstanding = false →
      i.pending = none → i.handler = false → i.assist = none → i.hollyhock = none →
      let p := passOf im i.sys.idl + 1
      let go := fun st : Stream => { st with pc := 0, loops := [], ended := false, held := c.request.isSome }
      (p < im.passes → exec (.passEnd g) s = .next (s.modInst g fun x =>
        { x with scu := go x.scu, ve := go x.ve, me := go x.me, ce := go x.ce,
                 sys := { x.sys with idl := Vector.ofFn fun n : Fin 6 => BitVec.ofNat 64 ((im.coords o.ordinal p).getD n.val 0) } })) ∧
      (im.passes ≤ p → exec (.passEnd g) s = .next (s.retire g o im) ∧ (s.retire g o im).cores[g].occupant = none ∧
        (s.retire g o im).inst g = { Inst.reset with
          s := i.s, v := i.v, k := i.k, flags := i.flags, trapMask := i.trapMask, c := i.c, z := i.z, a := i.a, sys := i.sys })) ∧
    (∀ t im ks, s.task t.id = some t → t.image = some im → t.phase = .dispatched → im.coResident = false → im.hasD = false →
      t.returned = [] → (∀ x ∈ s.saved, x.task ≠ t.id) → t.next < im.instances → s.newLocks t im [t.next] = some ks →
      s.reserve + im.contextMax ≤ s.storeFree → s.noPlacement = false → c.free = true → c.holds im = true →
      c.covers im.capreq = true →
      exec (.instancePlace t.id g) s =
        .next (((s.lockWays ks).place ⟨t.id, t.next⟩ g).modTask t.id fun x => { x with next := x.next + 1 })) ∧
    (∀ o, c.shadow = some o →
      (c.occupant = none →
        let t := (s.modCore g fun x => { x with shadow := none }).occupy g o
        ((∀ h ∈ t.together g, t.cores[h].request = none) → exec (.shadowSwap g) s = .next t) ∧
        ∃ u, exec (.shadowSwap g) s = .next u ∧ u.cores[g].occupant = t.cores[g].occupant ∧ u.inst g = t.inst g) ∧
      exec (.shadowWithdraw g) s = .next ((s.modCore g fun x => { x with shadow := none }).modTask o.task fun t =>
        { t with returned := t.returned ++ [o.ordinal] })) ∧
    (∀ t (d : BitVec 8), s.task t.id = some t → (∀ r e, t.phase ≠ .done r e) →
      exec (.taskKill t.id d) s = .next (s.killTask t.id d.toNat) ∧
      (∀ x ∈ (s.killTask t.id d.toNat).tasks, x.id = t.id → x.phase = .done 1 d.toNat) ∧
      ∀ h : CoreNo, ∀ o, (s.killTask t.id d.toNat).cores[h].occupant = some o → o.task ≠ t.id) ∧
    (s.together g ≠ [] → s.saveFits g = true → exec (.preemptRequest g) s = .next (s.ask (s.together g) .slice)) ∧
    (s.together g ≠ [] → (∀ h ∈ s.together g, s.cores[h].saveable = true) →
      (s.saveFits g = true ∨ ∃ h ∈ s.together g, s.cores[h].saveForced = true) →
      exec (.contextSave g) s = .next ((s.together g).foldl State.saveCore
        ((s.companions g fun x => x.shadow).foldl State.withdraw s))) ∧
    (∀ n x t im ks, s.saved[n]? = some x → s.task x.task = some t → t.image = some im → im.coResident = false → im.hasD = false →
      s.comeback t im = [x.ordinal] → (s.saved.find? fun y => y.task == x.task && y.ordinal == x.ordinal) = some x →
      s.noPlacement = false → c.free = true → c.holds im = true → c.covers (x.inst.sys.capreq.setWidth 16) = true →
      s.newLocks t im [x.ordinal] = some ks →
      let s1 := (s.lockWays ks).restoreOn x g
      let u : State := { s1 with
        saved := s1.saved.filter fun y => !(y.task == x.task && y.ordinal == x.ordinal)
        checkpoints := if x.kept then s1.checkpoints ++ [x] else s1.checkpoints }
      u.reserve ≤ u.storeFree → exec (.contextRestore n g) s = .next u) ∧
    (∀ o, c.occupant = some o → i.assist.any (·.frozen) = false → c.watchdog + i.sys.wdog.toNat * 1024 ≤ Config.clock s.tick →
      exec (.watchdogExpiry g) s = .next (({ s with notices := s.notices ++ [.hang o.task o.ordinal (g.val / 24)
        (g.val % 24) [i.scu.pc, i.ve.pc, i.me.pc, i.ce.pc] ([Engine.scu, .ve, .me, .ce].map fun e => s.stall g e)
        i.tkstat (s.occupancy g)] } : State).modCore g fun x => { x with watchdog := Config.clock s.tick })) ∧
    (c.occupant = none → c.shadow = none →
      (c.piece = none → exec (.coreOutOfService g) s = .next (s.modCore g fun x => { x with inService := false, leaving := false })) ∧
      (c.piece ≠ none → exec (.coreOutOfService g) s = .next (s.modCore g fun x => { x with leaving := true }))) ∧
    (c.occupant ≠ none → c.shadow = none →
      let s1 := s.modCore g fun x => { x with leaving := true }
      (s1.saveFits g = true → exec (.coreOutOfService g) s = .next (s1.ask (s1.together g) .service)) ∧
      (s1.saveFits g = false → ∃ d, exec (.coreOutOfService g) s = .next (s1.killOn g d))) ∧
    (c.leaving = true → (s.vacate g).cores[g].inService = false)

/-- 11 R298, R300 to R303, R311, 15 R395, R397 to R399, R401, R402: a margin test or Foxglove on a unit that holds no instance (for a
channel's margin test, on a quiesced module whose caches are written back) steps the unit down by one rung when it fails, a margin
test by two when the step fails too, never beyond the last rung, and changes no instance; a Foxglove that passes is recorded as a soft
error; on a core that holds an instance the instance is asked to leave first, but for the ME of an assist that is abandoned, which is
tested there and then restarts (LOG 93). A channel at rung 1 posts its
capacity reduction, and is retired on a quiesced module: the bytes of the range that stays keep their values, the top 2 GiB moving down
with the end, but for the page-table entries that point into it. Each class of error is recorded with its unit, and poisons the
granules that Table 15.2 names; a tag whose parity fails reads 0xFFFF in its own line. The model's, not the spec's: that the region and
its entries move down (LOG 31), that a rung and its test are one step (LOG 63), and the units and addresses of records (LOG 76). -/
def Obligations.AgeingSteps : Prop :=
  ∀ (s : State) (fails again : Bool), s.power = .d0 →
    let steps := fun (t : State) (u : AgedUnit) (k : Nat) => (List.range k).foldl (fun t _ => t.stepUnit u) t
    let n := if fails then (if again then 2 else 1) else 0
    let fox := fun u : AgedUnit => if fails then s.stepUnit u else { s with notices := s.notices ++ [.soft u] }
    (∀ g u, unitCore u = some g → s.cores[g].empty = true → exec (.marginTest u fails again) s = .next (steps s u n) ∧
      exec (.foxglove u fails) s = .next (fox u)) ∧
    (∀ g u, unitCore u = some g → s.cores[g].empty = false →
      let s1 := s.withdraw g
      exec (.marginTest u fails again) s = .next (if s1.saveFits g then s1.ask (s1.together g) .service else s) ∧
      (u ≠ .me g ∨ (s.inst g).assist.any (·.abandoned) = false →
        exec (.foxglove u fails) s = .next (s1.ask (s1.together g) .test))) ∧
    (∀ g a, s.cores[g].empty = false → (s.inst g).assist = some a → a.abandoned = true →
      ∃ t, exec (.foxglove (.me g) fails) s = .next t ∧ t.cores[g].rung = (fox (.me g)).cores[g].rung ∧
        t.notices = (fox (.me g)).notices ∧ t.inst g = { s.inst g with assist := some { a with frozen := false, abandoned := false } }) ∧
    (∀ c, exec (.marginTest (.channel c) fails again) s = .next (if s.quiet then steps s.flushAll (.channel c) n else s.quiesce) ∧
      exec (.foxglove (.channel c) fails) s = .next (fox (.channel c))) ∧
    (∀ (k : Nat) (g : CoreNo), ((steps s (.me g) k).cores[g].rung.val = min 4 (s.cores[g].rung.val + k)) ∧
      ((steps s (.me g) k).inst g = s.inst g) ∧ (steps s (.me g) k).mem = s.mem) ∧
    (∀ (k : Nat) (g : CoreNo) (b : Buf) (m : Fin 16), (((steps s (.bank g b m) k).cores[g].banks b)[m].val =
      min 2 ((s.cores[g].banks b)[m].val + k)) ∧ (steps s (.bank g b m) k).mem = s.mem) ∧
    (∀ c, s.channels[c] = 0 → (s.stepUnit (.channel c)).channels = s.channels.set c 1) ∧
    (∀ c, s.channels[c] = 1 → s.reduction = none → exec (.capacityReduction c) s = .next { s with
      reduction := some c
      notices := s.notices ++ [.capacity ((s.liveChannels - 1) * (888 * 2 ^ 20) - 2 ^ 31) (s.liveChannels * (888 * 2 ^ 20) - 2 ^ 31)] }) ∧
    (∀ (c : Fin 1024) (bad : List Nat), s.reduction = some c → s.quiet = true → 4 ≤ s.liveChannels →
      let size := 888 * 2 ^ 20
      let top := s.liveChannels * size - 2 ^ 31
      let entry := fun a : Nat => ∃ e ∈ s.roots, ∃ w ∈ s.movedEntries s.liveChannels pageLevels e.2, w.1 ≤ a ∧ a < w.1 + 8
      ∃ t, exec (.channelRetire c bad) s = .next t ∧ t.channels = s.channels.set c 2 ∧ t.reduction = none ∧ t.l1 = [] ∧ t.l2 = [] ∧
        ∀ a, ¬entry a → (a < top - size → t.mem.get a = s.mem.get a) ∧ (top ≤ a → t.mem.get (a - size) = s.mem.get a)) ∧
    (∀ gr, 32 * gr < s.paTop →
      let w := s.lastWriter gr
      let hbm := s.hbmUnit gr
      let copied := fun x : CacheSite => ∃ d v, s.cacheCopy gr x = some (d, v)
      let known := fun v : Nat => v ≠ 0xFFFF ∧ (v = 0 ∨ (s.roots.lookup v).isSome = true)
      let rec' := fun (t : State) (c : ErrorClass) (u : ErrorUnit) (k n w : Nat) =>
        { t with notices := t.notices ++ [Notice.error c u (32 * k) n w] }
      let both := (s.poisonGranule (gr / 2 * 2)).poisonGranule (gr / 2 * 2 + 1)
      (∀ x : Option CacheSite, (∀ y, x = some y → copied y) →
        exec (.errorDetected (.corrected x) gr) s = .next (rec' s .corrected (s.unitAt gr x) gr 1 0xFFFF) ∧
        ∀ bs : List Byte, bs.length = 32 → s.poisoned (32 * gr) 32 = false → exec (.errorDetected (.miscorrected x bs) gr) s =
          .next (rec' { s with mem := s.mem.put (32 * gr) bs } .corrected (s.unitAt gr x) gr 1 0xFFFF)) ∧
      (s.unitAt gr none = hbm ∧ (∀ g : CoreNo, s.unitAt gr (some (.l1d g)) = .l1d g.val) ∧
        ∀ e, s.l2Sector gr = some e → s.unitAt gr (some .l2) = .l2 e.slice.val) ∧
      (s.cachedLine gr = false → exec (.errorDetected .hbmRead gr) s = .next (rec' both .unattributed hbm (gr / 2 * 2) 2 0xFFFF)) ∧
      (s.partWrite gr = true →
        exec (.errorDetected .partialData gr) s = .next (rec' (s.poisonGranule gr) .deferred hbm gr 1 w) ∧
        ∃ (t : State) (gs : List Nat) (k : Nat), exec (.errorDetected .partialMetadata gr) s = .next t ∧ t.poisoned (32 * gr) 32 = true ∧
          (∀ x ∈ gs, t.poisoned (32 * x) 32 = true) ∧ gs.length ≤ 111 ∧
          t.notices = s.notices ++ [.error .deferred hbm (32 * gr) 1 w, .error .unattributed hbm k gs.length 0xFFFF]) ∧
      (s.dirtyLine gr = true → (s.poison.any fun e => e.granule == gr && (e.l2 ||| e.l1) != 0) = true →
        exec (.errorDetected .writeBackPoisoned gr) s = .next (rec' (s.poisonGranule gr) .deferred hbm gr 1 w)) ∧
      (∀ x v, s.cacheCopy gr x = some (true, v) →
        (known v → exec (.errorDetected (.dirtyCached x) gr) s = .next (rec' (s.poisonGranule gr) .deferred (s.unitAt gr x) gr 1 v)) ∧
        (¬known v → exec (.errorDetected (.dirtyCachedUntagged x) gr) s =
          .next (rec' both .unattributed (s.unitAt gr x) (gr / 2 * 2) 2 0xFFFF))) ∧
      (∀ x v, s.cacheCopy gr x = some (false, v) → ∃ t, exec (.errorDetected (.cleanCached x) gr) s = .next t ∧ t.mem = s.mem ∧
        t.cacheCopy gr x = none ∧
        ∃ rs, t.notices = s.notices ++ rs ++ [.error .corrected (s.unitAt gr x) (32 * gr) 1 0xFFFF]) ∧
      (∀ g : CoreNo, exec (.errorDetected (.tagParity (.l1d g)) gr) s = .next { s with
        l1 := s.l1.map fun e : L1Line => if e.core = g ∧ e.line = gr / 8 then { e with writer := 0xFFFF } else e }) ∧
      (exec (.errorDetected (.tagParity .l2) gr) s = .next { s with
        l2 := s.l2.map fun e : L2Line => if e.line = gr / 8 then { e with writer := 0xFFFF } else e }) ∧
      (∀ (g : CoreNo) a, (s.inst g).assist = some a → a.frozen = true → a.abandoned = false →
        exec (.errorDetected (.assistResource g) gr) s =
          .next (s.modInst g fun i => { i with assist := some { a with abandoned := true } })) ∧
      (∀ g : CoreNo, s.cores[g].occupant.isSome = true → 32 * gr < (s.inst g).spillLen → exec (.errorDetected (.spillLine g) gr) s =
        .next (rec' (s.modInst g fun i => { i with spillBad := gr / 8 :: i.spillBad }) .deferred (.spill g.val) (gr / 8 * 8) 8 (s.ctxOf g))))

/-- 18 R460, 19 R475 to R483: power on derives the keys, boots the accepted image slot of the higher version (its digest that of its body,
signed, not below the rollback floor), trains the host port at x4 or more and ends in D0 after step 7 with a ready report, or holds the
module in reset at the step that failed, which it posts; a trip, which asserts the fault signal, D3cold and power on lose every byte of
device memory and every instance, keep flash, and load the rungs from their records; D3hot is entered when no work is pending (no
instance placed, no task tracked, every ring idle or parked), the caches written back, and left into D0; a cap is set within its bounds;
a quote reports CAPV of every core, the cores in service and the capacity; an update writes the slot not running. The model's, not the
spec's: what survives the loss of power (LOG 66), that memory then reads zero (LOG 3), and that steps 3, 4, 5 and 7 may fail (LOG 32). -/
def Obligations.PowerSteps : Prop :=
  ∀ (s : State),
    let f := s.flash
    let lost := fun t : State => t.mem = [] ∧ t.flash.slots = f.slots ∧ t.flash.records = f.records ∧
      (∀ n : Fin 1024, t.channels[n].val = min 2 (max s.channels[n].val (f.at' 2 n.val))) ∧
      ∀ g : CoreNo, t.cores[g].occupant = none ∧ t.cores[g].rung.val = min 4 (max s.cores[g].rung.val (f.at' 0 g.val))
    let good := fun k : Fin 2 => Config.sha256 f.slots[k].code.body = f.slots[k].code.digest ∧
      Config.quaminSigned f.slots[k].code.digest f.slots[k].code.signature = true ∧ f.floor ≤ f.slots[k].version
    let rooted := ∃ h, f.helper = some h ∧ (Config.rootKeys h).identity = f.certificate
    (s.power ≠ .d0 → s.power ≠ .d3hot → ∃ t, exec .powerOn s = .next t ∧ lost t ∧ t.faultSignal = false ∧
      ((t.power = .d0 ∧ t.bringUp = 7 ∧ rooted ∧ good t.flash.running ∧
          (∀ k : Fin 2, good k → f.slots[k].version ≤ f.slots[t.flash.running].version) ∧
          t.port = trainPort s.hostEnd ∧ t.port ≠ none ∧ t.notices = s.notices ++ [.ready]) ∨
        (t.power = .held ∧ t.bringUp < 7 ∧ t.notices = s.notices ++ [.bringUp (t.bringUp + 1)])) ∧
      (¬rooted → t.power = .held ∧ t.bringUp = 0) ∧ (rooted → (∀ k, ¬good k) → t.power = .held ∧ t.bringUp = 1) ∧
      (trainPort s.hostEnd = none → t.power = .held ∧ t.bringUp ≤ 5)) ∧
    (s.power ≠ .d3cold → ∃ t, exec .thermalTrip s = .next t ∧ lost t ∧ t.power = .tripped ∧ t.faultSignal = true) ∧
    (∃ t, exec .d3coldEntry s = .next t ∧ lost t ∧ t.power = .d3cold) ∧
    (∀ w, exec (.powerCapSet w) s = .next (if 1500 ≤ w ∧ w ≤ 3400 then { s with capWatts := w } else s)) ∧
    (s.power = .d0 → s.bringUp = 7 →
      (s.idle = true → (∀ g : CoreNo, s.cores[g].occupant = none ∧ s.cores[g].shadow = none) ∧ s.tasks = [] ∧
        (∀ r : Fin 256, s.rings[r].st = .idle ∨ s.rings[r].st = .parked) ∧
        ∃ t, exec .d3hotEntry s = .next t ∧ t.power = .d3hot ∧ t.mem = s.mem ∧ t.l1 = [] ∧ t.l2 = []) ∧
      (s.idle = false → exec .d3hotEntry s = .next s)) ∧
    (s.power = .d3hot → exec .d3hotExit s = .next { s with power := .d0 }) ∧
    (s.power = .d0 ∨ s.power = .d3hot →
      (∀ nonce, ∃ banks channels links records fw prim sig, exec (.quoteRequest nonce) s = .next { s with notices := s.notices ++
        [.quote nonce (s.cores.toList.map fun c => BitVec.ofNat 16 (capvOf c.rung)) banks channels links records
          ((List.finRange 192).filter fun g => s.cores[g].inService).length (s.liveChannels * 888 - 2048) fw prim sig] }) ∧
      ∀ v code, exec (.firmwareUpdate v code) s =
        .next { s with flash := { s.flash with slots := s.flash.slots.set ((if s.flash.running = 0 then 1 else 0 : Fin 2)) ⟨v, code⟩ } })

/-- 15 R399, 16 R412, 17 R439, R445 to R449, R451, R452, R455, R457: firmware writes a ring's grant and descriptor, and the root of a
context's page tables; an idle ring whose WIDX differs from RIDX becomes ready, and a ready ring takes one of 64 slots; a slice ends
between packets; a waiting ring parks, becomes ready again, and its WAIT reads again; a stopped ring restarts at an index. On a module
that is quiesced no ring takes a slot, none is re-armed, and nothing is dispatched. A task without dependences gets its data section
and is dispatched; the pieces of a transform run on free cores, part after part. A finished task leaves the tracked ones and stores its
status word, then its signal; with the last task of a node its decrements are made, each once, waiting where a page is to be served. An
armed node whose counter reads at most 0 is disarmed and dispatches its payload, record after record as the tracked tasks allow, or
reports it malformed and makes its decrements. The model's, not the spec's: that a granted ring begins IDLE at its RIDX (LOG 94), that
data are copied at dispatch (LOG 43), how a transform is cut into parts (LOG 70), the stores that are left out (LOG 22), what a payload
waits for (LOG 44), and that completion waits for a window that applies (LOG 87). -/
def Obligations.RingAndTaskSteps : Prop :=
  ∀ (s : State) (r : Fin 256),
    let x := s.rings[r]
    let change := fun f : CmdRing → CmdRing => Outcome.next (s.modCmdRing r f)
    let armed := s.modCmdRing r fun y => { y with st := .ready }
    (∀ grant base logSize stateAddr slice bs, x.st ≠ .active → (r.val < 8 → grant = .firmware) → 12 ≤ logSize → logSize ≤ 24 →
      (base : Word).toNat % 2 ^ logSize = 0 → (stateAddr : Word).toNat % 64 = 0 → s.bringUp = 7 →
      let ring : CmdRing := ⟨grant, base, logSize, stateAddr, slice, .idle, BitVec.ofNat 64 (leNat bs), 0, false, false⟩
      s.readV none ring.ctx (stateAddr.toNat + 8) 8 = .ok bs →
      s.setRing r grant base logSize stateAddr slice = { s with rings := s.rings.set r ring }) ∧
    (∀ ctx root, ctx ≤ 0xFFFE → root % 4096 = 0 → root < s.paTop →
      s.setRoot ctx (some root) = { s with roots := (ctx, root) :: s.roots.filter fun e => e.1 != ctx }) ∧
    (∀ w, x.st = .idle → x.grant ≠ .none → s.power = .d0 → s.bringUp = 7 → s.quiescing = false → s.blockWord x 0 = .ok w → w ≠ x.ridx →
      s.ringReady r = armed) ∧
    (x.st = .ready → s.power = .d0 → s.bringUp = 7 → (s.rings.toList.filter fun y => y.st == .active).length < 64 →
      exec (.slotGrant r) s = if s.quiescing then .next s else change fun y => { y with st := .active }) ∧
    (x.st = .active → x.accepted = 0 → x.begun = false →
      exec (.ringSliceExpiry r) s = change fun y => { y with st := .ready, waiting := false }) ∧
    (x.st = .active → x.waiting = true → exec (.ringPark r) s = change fun y => { y with st := .parked, waiting := false }) ∧
    (∀ bs h a v c w, s.published r x = .ok (some bs) → decodePacket r bs = .ok (.wait h a v c w) →
      (x.st = .parked → s.quiescing = false → s.translate none x.ctx a.toNat .read ≠ .error .pageR →
        exec (.ringRearm r) s = .next armed) ∧
      (x.st = .parked → s.quiescing = false → s.translate none x.ctx a.toNat .read = .error .pageR →
        exec (.ringRearm r) s = .next (if Config.policy s.tick 30 then s.ringFault r 0x07 else s)) ∧
      (x.st = .active → x.waiting = true → ∀ data u,
        s.readV none s.rings[h.ring].ctx a.toNat (if w then 4 else 8) = .ok data →
        (monitorHolds c w (leNat data) v.toNat = true → s.packetDone h = .ok u → exec (.waitSatisfied r) s = .next u) ∧
        (monitorHolds c w (leNat data) v.toNat = false →
          exec (.waitSatisfied r) s = .next (s.modCmdRing h.ring fun y => { y with waiting := true })))) ∧
    (x.st = .parked → s.quiescing = true → exec (.ringRearm r) s = .next s) ∧
    (∀ (ridx : Word) t w, x.st = .stopped → s.writeV none x.ctx (x.stateAddr.toNat + 8) (leBytes 8 ridx.toNat) = .ok t →
      t.blockWord x 0 = .ok w → exec (.ringRestart r ridx) s = .next (t.modCmdRing r fun y =>
        { y with st := if w = ridx then .idle else .ready, ridx := ridx, accepted := 0, begun := false, waiting := false })) ∧
    (∀ t, s.task t.id = some t → t.phase = .waiting → t.deps = [] → s.noPlacement = false →
      (∀ i u, t.work = .image i → s.writeV none t.ctx t.data.toNat i.data = .ok u →
        exec (.taskDispatch t.id) s = .next (u.modTask t.id fun y => { y with phase := .dispatched })) ∧
      (∀ i, t.work = .transform i → exec (.taskDispatch t.id) s = .next (s.modTask t.id fun y =>
        { y with phase := if (s.transformSize t.ctx i).1 = 0 then .done 0 0 else .dispatched }))) ∧
    (∀ t i (g : CoreNo), s.task t.id = some t → t.work = .transform i →
      let parts := (s.transformSize t.ctx i).1
      let per := (s.transformSize t.ctx i).2
      (t.phase = .dispatched → t.next < (parts + per - 1) / per → s.cores[g].free = true → s.noPlacement = false →
        s.pieceStart t.id g = (s.modCore g fun y => { y with piece := some ⟨t.id, t.next, t.next * per⟩ }).modTask t.id fun y =>
          { y with next := y.next + 1 }) ∧
      ∀ p, s.cores[g].piece = some p → p.task = t.id →
        (p.part < min parts ((p.num + 1) * per) → ∀ u, s.pieceWork g p i = .ok u → s.pieceStep g = u) ∧
        (min parts ((p.num + 1) * per) ≤ p.part → (s.pieceStep g).cores[g].piece = none)) ∧
    (∀ t a b u v, s.task t.id = some t → t.phase = .done a b → (∀ w ∈ t.windows, s.applying t.id w = false) →
      let s1 : State := { s with
        tasks := (s.tasks.filter fun y : Task => y.id != t.id).map fun y : Task => { y with deps := y.deps.filter (· != t.id) }
        spillLocks := s.spillLocks.filter fun k => k.task != t.id }
      (if t.status ≠ 0 ∧ t.status.toNat % 8 = 0 then s1.writeV none t.ctx t.status.toNat (leBytes 8 (b % 256 * 256 + a)) else .ok s1) = .ok u →
      (if t.sigAddr ≠ 0 ∧ t.sigAddr.toNat % 8 = 0 then u.writeV none t.ctx t.sigAddr.toNat (leBytes 8 t.sigVal.toNat) else .ok u) = .ok v →
      exec (.taskComplete t.id) s = .next (match t.node with
        | some n => v.nodeDone n
        | none => v)) ∧
    (∀ n, (v : State) → v.nodes.find? (fun y => y.id == n.id && y.stage == .running) = some n →
      ((∃ t ∈ v.tasks, t.node = some n.id) → v.nodeDone n.id = v) ∧
      ((∀ t ∈ v.tasks, t.node ≠ some n.id) → v.nodeDone n.id =
        n.succ.foldl (fun t c => t.decrement n.ctx c) { v with nodes := v.nodes.filter fun y => y.id != n.id })) ∧
    (∀ ctx (c : Word),
      (∀ pa, s.translate none ctx c.toNat .both = .ok pa → c.toNat % 8 = 0 → s.poisoned pa 8 = false →
        (s.decrement ctx c).mem = s.mem.put pa (leBytes 8 (s.mem.word pa - 1).toNat)) ∧
      (∀ e, s.translate none ctx c.toNat .both = .error e → e = .pageR ∨ e = .pageW → Config.policy s.tick 7 = false →
        s.decrement ctx c = { s with owed := s.owed ++ [(ctx, c)] }) ∧
      ∀ rest, s.owed = (ctx, c) :: rest → s.settleDecrement = ({ s with owed := rest } : State).decrement ctx c) ∧
    (∀ n, (s.nodes.find? fun y => y.id == n.id) = some n →
      (n.stage = .running → exec (.nodeFire n.id) s = .next s) ∧
      (∀ bs, n.stage = .armed → s.readV none n.ctx n.counter.toNat 8 = .ok bs → 0 < (BitVec.ofNat 64 (leNat bs) : Word).toInt →
        exec (.nodeFire n.id) s = .next s) ∧
      ∀ k, n.stage = .fired k ∨ k = 0 ∧ n.stage = .armed ∧ (∃ bs, s.readV none n.ctx n.counter.toNat 8 = .ok bs ∧
          (BitVec.ofNat 64 (leNat bs) : Word).toInt ≤ 0) →
        let stage := fun (t : State) (x : NodeStage) =>
          { t with nodes := t.nodes.map fun y => if y.id == n.id then { y with stage := x } else y }
        let runs := fun t : State => (stage t .running).nodeDone n.id
        (∀ h first count, s.payload n = .ok (some (.launch h first count)) →
          exec (.nodeFire n.id) s = .next (s.nodeRecords n first.toNat (count - k) k) ∧
          (count ≤ k → s.nodeRecords n first.toNat (count - k) k = runs s) ∧
          (k < count → 1024 ≤ s.tasks.length → s.nodeRecords n first.toNat (count - k) k = stage s (.fired k)) ∧
          (k < count → s.tasks.length < 1024 → ∀ bs t, s.readV none n.ctx (first.toNat + 64 * k) 64 = .ok bs →
            s.acceptRecord none (some n.id) n.ctx (opRecordOf bs) = some t →
            s.nodeRecords n first.toNat (count - k) k = t.nodeRecords n first.toNat (count - (k + 1)) (k + 1))) ∧
        (∀ i h, s.payload n = .ok (some i) → transformOf i = some h →
          (1024 ≤ s.tasks.length → exec (.nodeFire n.id) s = .next (stage s (.fired k))) ∧
          (s.tasks.length < 1024 → ∀ t, s.acceptTransform none (some n.id) n.ctx i = some t → exec (.nodeFire n.id) s = .next (runs t))) ∧
        (s.payload n = .ok none → exec (.nodeFire n.id) s =
          .next (n.succ.foldl (fun t c => t.decrement n.ctx c)
            { s with nodes := s.nodes.filter (fun y => y.id != n.id), notices := s.notices ++ [.payload n.counter 0x05] })))

/-- 18 R461 to R466, R468, R469, R471, R474: a good flit with the SEQ expected is accepted, any other is discarded; the messages received on a
link reach their places in order: a unit lands whole or is refused, and is answered, an answer reaches its copy, and what another
module is to have is sent on; messages are packed contiguously. A NAK, and 2 us without an ACK, resend; the ACK timer returns an ACK; a
retrained link resumes, a third failure or the loss of a lane in use steps its rung down to intact lanes; a retired link's flits go
another way to its neighbour, or their messages fail. A collective that has committed completes as it committed. A module that is
unreachable, has failed or sends no heartbeat for the pod timeout leaves LIVE for good, and EPOCH counts it. Of the host, after
bring-up and within BAR1's window of 64 GiB, a store to device memory lands whole, an AtomicOp writes the new value of Table 18.1, and
an access beyond the end of device memory is the model's fault, not the spec's, which names no such byte (LOG 68). The model's too: that
replays are counted in rounds (LOG 59), the bytes of a message (LOG 28), and how a group's state comes to be (LOG 102). -/
def Obligations.LinkAndHostSteps : Prop :=
  ∀ (s : State) (l : Fin 16), s.power = .d0 →
    let x := s.links[l]
    let now := Config.nanoseconds s.tick
    let change := fun f : Link → Link => Outcome.next (s.modLink l f)
    (∀ f : Flit, x.up = true →
      (f.good = true → f.seq = x.recvSeq → exec (.flitReceive l f) s = (change fun y => y.accept f now) ∧
        (x.accept f now).recvSeq = x.recvSeq + 1 ∧ (x.accept f now).inbox = x.inbox ++ f.msgs) ∧
      (f.good = false ∨ f.seq ≠ x.recvSeq → exec (.flitReceive l f) s = change fun y => y.discard now)) ∧
    (∀ a, x.up = true → exec (.nakReceive l a) s = change fun y => (y.acked a now).resend now) ∧
    (x.up = true → x.unacked ≠ 0 → exec (.ackTimer l) s = change fun y => { y with unacked := 0, ackOut := y.recvSeq - 1 }) ∧
    (x.up = true → exec (.replayTimeout l) s = if x.ackAt + 2000 ≤ now then change fun y => y.resend now else .next s) ∧
    (x.retraining = true →
      exec (.retrainComplete l true) s = (change fun y => { y with
        retraining := false, fails := 0, ackAt := now, replay := y.replay.map fun f => { f with sends := f.sends + 1 } }) ∧
      exec (.retrainComplete l false) s =
        if x.fails < 2 then change fun y => { y with fails := y.fails + 1 } else .next (s.stepLink l)) ∧
    (∀ lane : Fin 16, x.rung ≠ 3 → x.lanes &&& ~~~x.intact = 0 → ∃ t, exec (.laneFailure l lane) s = .next t ∧
      t.links[l].intact = x.intact &&& ~~~((1 : BitVec 16) <<< lane.val) ∧ t.links[l].lanes &&& ~~~t.links[l].intact = 0 ∧
      (x.lanes.getLsbD lane.val = true → x.rung < t.links[l].rung) ∧ (x.lanes.getLsbD lane.val = false → t.links[l].rung = x.rung)) ∧
    (x.rung = 3 →
      let way := match x.far with
        | some m => s.route m
        | none => none
      let r := rerouteFlits way x.pending (s.modLink l fun y => { y with part := ⟨0, []⟩ })
      exec (.linkRetireReroute l) s = .next (r.1.modLink l fun y => { y with replay := r.2 })) ∧
    (∀ fs (t : State), rerouteFlits none fs t = (fs.foldl (fun t f => f.msgs.foldl State.failMessage t) t, [])) ∧
    (∀ (o : OpenFlit) n e, o.used < 240 → 240 * (pack o n e).1.length + (pack o n e).2.used = o.used + n ∧ (pack o n e).2.used < 240) ∧
    (∀ e rest, x.inbox = e :: rest →
      let taken := fun t : State => t.modLink l fun y => { y with inbox := rest }
      let answer := fun (t : State) (a : RemoteAnswer) => { t with outbox := t.outbox ++ [⟨s.pod, e.src, e.tag, .answer a⟩] }
      (∀ a, e.dest = s.pod → e.msg = .answer a → s.landOldest l = taken (s.remoteAnswer e.tag.1 e.tag.2.1 e.tag.2.2 a)) ∧
      (∀ ctx addr data, e.dest = s.pod → e.msg = .unit ctx addr data →
        (∀ t, s.writeV none ctx addr.toNat data = .ok t → s.landOldest l = taken (answer t .landed)) ∧
        ∀ c a, s.writeV none ctx addr.toNat data = .error (c, a) → (c = .pageR ∨ c = .pageW → Config.policy s.tick 50 = true) →
          s.landOldest l = taken (answer s (if c = .prot then .prot (Fin.ofNat 256 (a - addr.toNat))
            else if c = .poison then .poison (Fin.ofNat 256 (a - addr.toNat)) else .pageW (Fin.ofNat 256 (a - addr.toNat))))) ∧
      (e.dest ≠ s.pod → (∀ k t, s.route e.dest = some k → s.send k e = some t → s.landOldest l = taken t) ∧
        (s.route e.dest = none → s.landOldest l = taken (s.failMessage e)))) ∧
    (∀ (g : CoreNo) c others agree, (s.inst g).copy c.id = some c → isColl c.instr = true → c.fault = none →
      (s.inst g).heldBack c = false →
      (∀ m v, c.committed = some m → s.finishColl g c m = .ok v → exec (.collectiveCommit g c.id others agree) s = .next v) ∧
      (∀ t m, c.committed = none → s.commitColl g c others agree = .ok (t, m) →
        let u := t.modInst g fun i => i.modCopy c.id fun y => { y with committed := some m }
        ∀ v, u.finishColl g { c with committed := some m } m = .ok v →
          exec (.collectiveCommit g c.id others agree) s = .next u ∨ exec (.collectiveCommit g c.id others agree) s = .next v) ∧
      (∀ ca v, c.committed = none → s.commitColl g c others agree = .error (.fault ca v) → exec (.collectiveCommit g c.id others agree) s =
        .next (s.modInst g fun i => i.modCopy c.id fun y => y.withFault 0 ca v))) ∧
    (∀ m, s.lostModule m = true ↔ m ∈ s.failed ∨ m ≠ s.pod ∧ (s.route m = none ∨ (s.heard.lookup m).getD 0 + s.podTimeout ≤ now)) ∧
    (∀ (k m : Fin 64), s.lostModule ((s.groups[k].modules.drop m.val).headD s.pod) = false → exec (.memberRemove k m) s = .next s) ∧
    (∀ (k m : Fin 64), m.val < s.groups[k].size → s.groups[k].live.getLsbD m.val = true →
      s.lostModule ((s.groups[k].modules.drop m.val).headD s.pod) = true → exec (.memberRemove k m) s = .next { s with groups := s.groups.set k { s.groups[k] with
        live := s.groups[k].live &&& ~~~((1 : BitVec 64) <<< m.val), epoch := s.groups[k].epoch + 1 } }) ∧
    (s.bringUp = 7 → s.quiescing = false → ∀ pa, s.bar1 ≤ pa →
      (∀ data, pa + data.length ≤ s.bar1 + 2 ^ 36 →
        (pa + data.length ≤ s.paTop → exec (.hostBar1Write pa data) s = .next (s.agentWrite 0xFFFF pa data) ∧
          (s.agentWrite 0xFFFF pa data).mem = s.mem.put pa data) ∧
        (s.paTop < pa + data.length → exec (.hostBar1Write pa data) s = .fault (.outsideMemory pa))) ∧
      ∀ op w32 v cmp,
        let n := if w32 then 4 else 8
        let old := leNat (s.mem.read pa n)
        let new := match op with
          | .fetchAdd => old + v.toNat
          | .swap => v.toNat
          | .cas => if old = cmp.toNat % 2 ^ (8 * n) then v.toNat else old
        pa + n ≤ s.bar1 + 2 ^ 36 →
        (pa + n ≤ s.paTop → pa % n = 0 → s.poisoned pa n = false →
          exec (.hostAtomicop op w32 pa v cmp) s = .next (s.agentWrite 0xFFFF pa (leBytes n new))) ∧
        (s.paTop < pa + n → exec (.hostAtomicop op w32 pa v cmp) s = .fault (.outsideMemory pa)))

-- Frames.

/-- 04 R108, R109, R115, R118, 05 R151, R152, R155: an SCU word of this form that does not trap leaves every plain register but its
destination and the link of a branch that it completes, every queue that it does not name, the token FIFOs, the vector, mask, tile,
stream and CE registers, the flags and the buffers as they were, and of the system registers csrw writes its own alone; the instance
on another core changes only where a mesh port leads to it; and every byte reads as before but those that a store, amo or cas
stores at its effective address. -/
def Obligations.ScalarFrame : Prop :=
  ∀ (i : Instr) (s t : State) (srcs : List SReg) (dst : Option SReg), scuForm i = some (srcs, dst) →
    exec i s = .next t → ¬s.trapped t →
    let g := s.cur.core
    let x := s.inst g
    let y := t.inst g
    let ws := s.scuWrites dst
    (∀ r : SReg, r.val < 48 → r ∉ ws → t.readS g r = s.readS g r) ∧
    (∀ q : Fin 16, (∀ r ∈ srcs, queueNo r ≠ some q) → y.qr[q] = x.qr[q]) ∧
    (∀ q : Fin 16, (∀ r ∈ ws, queueNo r ≠ some q) → y.qw[q] = x.qw[q]) ∧
    y.tokens = x.tokens ∧ y.v = x.v ∧ y.k = x.k ∧ y.flags = x.flags ∧ y.trapMask = x.trapMask ∧ y.vq = x.vq ∧
    y.tiles = x.tiles ∧ y.mdq = x.mdq ∧ y.z = x.z ∧ y.rest = x.rest ∧
    (y.sys = x.sys ∨ ∃ a n, i = .csrw a n ∧
      y.sys = if s.cur.fw then x.sys.fwWrite n.val (s.readS g a) else x.sys.write n.val (s.readS g a)) ∧
    (∀ h : CoreNo, h ≠ g → (∀ r ∈ ws, ∀ q, queueNo r = some q → neighbour g q ≠ some h) → t.inst h = s.inst h) ∧
    (∀ b, (∀ ea n need pa, scuStoreAt s i = some (ea, n, need) →
        (s.pushLink g).translate (some g) ((s.pushLink g).ctxOf g) ea.toNat need = .ok pa → b < pa ∨ pa + n ≤ b) →
      t.mem.get b = s.mem.get b)

/-- 06 R164 to R166, R169 to R198, 07 R204, 05 R149 to R152: a VE word of this form (a Hollyhock word at its issue among them) that does not
trap leaves every vector and mask register but its own, every vector queue that it does not name, the flags where it changes none, the
trap lane mask but for vflg.ctm, the other token FIFOs, the scalar and system registers, the scalar queues, the tiles but the one that
vtwr writes, the conditional streams but the one that vpush or vpop names, the stream and CE registers and the buffers as they were,
and the instances on the other cores; every byte reads as before but those of the active elements of a vector store. (Element writes
that an earlier part of the word has left, LOG 96, are made too.) -/
def Obligations.VectorFrame : Prop :=
  ∀ (i : Instr) (s t : State) (srcs ds : List VReg) (km : Option KReg) (fp : Bool), vecForm i = some (srcs, ds, km, fp) →
    s.cur.src = .ve → exec i s = .next t → ¬s.trapped t →
    let g := s.cur.core
    let x := s.inst g
    let y := t.inst g
    (∀ r : Fin 24, (∀ d ∈ ds, d.val ≠ r.val) → y.v[r] = x.v[r]) ∧ (∀ k : Fin 8, some k ≠ km → y.k[k] = x.k[k]) ∧
    (∀ q : Fin 8, (∀ r ∈ srcs ++ ds, vqNo r ≠ some q) → y.vq[q] = x.vq[q]) ∧
    (fp = false → y.flags = x.flags) ∧ ((∀ tk, i ≠ .vflgCtm tk) → y.trapMask = x.trapMask) ∧
    (∀ f : Fin 16, f ≠ defaultIn .ve → f ≠ defaultOut .ve → y.tokens[f] = x.tokens[f]) ∧
    (∀ r : TReg, vecTile i ≠ some r → (∀ ws, ElemStore.tile r ws ∉ x.leftWrites) → y.tiles[r] = x.tiles[r]) ∧
    y.s = x.s ∧ y.sys = x.sys ∧ y.qw = x.qw ∧ y.qr = x.qr ∧ y.mdq = x.mdq ∧ y.z = x.z ∧
    y.rest = { x.rest with condA := y.condA, condB := y.condB } ∧
    (vecCond i ≠ some 28 → y.condA = x.condA) ∧ (vecCond i ≠ some 29 → y.condB = x.condB) ∧
    (∀ h : CoreNo, h ≠ g → t.inst h = s.inst h) ∧
    ∀ b, ¬s.vecStored i b → (∀ va pa bs, ElemStore.mem va pa bs ∈ x.leftWrites → b < pa ∨ pa + bs.length ≤ b) → t.mem.get b = s.mem.get b

/-- 09 R252 to R267, 10 R281 to R289, 01 R34: an ME word of this form that does not trap leaves every tile but its own, every stream
register but those of its streams, the other token FIFOs, the scalar, vector and mask registers, the flags, every queue but the one that
it pushes (vq0 of mrd, q9 of lrrank) or pops (vq1 of mwr, q8 of lrrank.set), every system register but MFLG (and MFLG where it raises
none), the buffers but the bytes of C that mstc stores to, the CE registers, every byte of memory and the instances on the other cores
as they were.
12 R328 to R351, 13 R365 to R368, 14 R385, R388, 18 R468, R472, 05 R144, R151: a word of the copy engine that does not trap leaves memory,
the scalar, vector, mask and system registers, the flags, the tiles, the vector queues, the buffers but the four bytes of A that hflag
writes, the spill area, every c register, counter, stream and KEEP register but the one that it writes, every queue but those that it
pushes, pops or comes from, the token FIFOs that it does not name and the instances on the other cores as they were, and adds at most
one copy. -/
def Obligations.MatrixFrame : Prop :=
  (∀ (i : Instr) (s t : State) (d : Option TReg) (zs : List Sys2Proof.ZReg) (fp : Bool), matForm i = some (d, zs, fp) →
    s.cur.src = .me → exec i s = .next t → ¬s.trapped t →
    let g := s.cur.core
    let x := s.inst g
    let y := t.inst g
    (∀ r : TReg, some r ≠ d → y.tiles[r] = x.tiles[r]) ∧ (∀ z : Sys2Proof.ZReg, z ∉ zs → y.z[z] = x.z[z]) ∧
    (∀ f : Fin 16, f ≠ defaultIn .me → f ≠ defaultOut .me → y.tokens[f] = x.tokens[f]) ∧
    (∀ q : Fin 8, q ≠ 0 ∨ (∀ tk r e n, i ≠ .mrd tk r e n) → q ≠ 1 ∨ (∀ tk r e n, i ≠ .mwr tk r e n) → y.vq[q] = x.vq[q]) ∧
    (∀ q : Fin 16, q ≠ 9 ∨ (∀ tk r, i ≠ .lrrank tk r) → y.qr[q] = x.qr[q]) ∧
    (∀ q : Fin 16, q ≠ 8 ∨ (∀ tk r, i ≠ .lrrankSet tk r) → y.qw[q] = x.qw[q]) ∧
    y.s = x.s ∧ y.v = x.v ∧ y.k = x.k ∧ y.flags = x.flags ∧ y.trapMask = x.trapMask ∧
    y.sys = { x.sys with mflg := y.sys.mflg } ∧ (fp = false → y.sys = x.sys) ∧
    y.rest = { x.rest with bufC := y.bufC } ∧
    (∀ b, (∀ lo n, matStored x i = some (lo, n) → b < lo ∨ lo + n ≤ b) → y.bufC.get b = x.bufC.get b) ∧
    (∀ b, t.mem.get b = s.mem.get b) ∧ ∀ h : CoreNo, h ≠ g → t.inst h = s.inst h) ∧
  ∀ (i : Instr) (s t : State) (r : CeTouch), ceForm i = some r →
    s.cur.src.engine = .ce → exec i s = .next t → ¬s.trapped t →
    let g := s.cur.core
    let src := s.cur.src
    let x := s.inst g
    let y := t.inst g
    (∀ n : CReg, r.c ≠ some n → y.c[n] = x.c[n]) ∧ (∀ n : AReg, r.a ≠ some n → y.a[n] = x.a[n]) ∧
    (∀ n : Sys2Proof.ZReg, r.z ≠ some n → y.z[n] = x.z[n]) ∧ (∀ n : Fin 8, r.keep ≠ some n → y.keep[n] = x.keep[n]) ∧
    (∀ q : Fin 16, r.push ≠ some q → q ≠ 0 ∨ src ≠ .q0 → y.qr[q] = x.qr[q]) ∧
    (∀ q : Fin 16, r.pop ≠ some q → q ≠ 0 ∨ src ≠ .q0 → q ≠ 1 ∨ src ≠ .q1 → q ≠ 3 ∨ src ≠ .q3 → y.qw[q] = x.qw[q]) ∧
    (∀ f : Fin 16, f ≠ defaultIn .ce → f ≠ defaultOut .ce → r.fifo ≠ some f → y.tokens[f] = x.tokens[f]) ∧
    y.s = x.s ∧ y.v = x.v ∧ y.k = x.k ∧ y.flags = x.flags ∧ y.trapMask = x.trapMask ∧ y.vq = x.vq ∧ y.tiles = x.tiles ∧
    y.sys = x.sys ∧ y.condA = x.condA ∧ y.condB = x.condB ∧ y.bufW = x.bufW ∧ y.bufC = x.bufC ∧ y.budget = x.budget ∧
    y.spill = x.spill ∧ ((∀ p q, i ≠ .hflag p q) → y.bufA = x.bufA) ∧
    (∀ p q b v, i = .hflag p q → b < x.c[p].toNat ∨ x.c[p].toNat + 4 ≤ b → x.bufRead .a b 1 = .ok v → y.bufRead .a b 1 = .ok v) ∧
    (∃ l, y.copies = x.copies ++ l ∧ l.length ≤ 1) ∧ (∀ b, t.mem.get b = s.mem.get b) ∧ ∀ h : CoreNo, h ≠ g → t.inst h = s.inst h

-- The machine as a whole.

/-- 02 R46, R56, R64, R65, 12 R341, R346 to R349, 18 R472, LOG 1: a step takes the next action of the agenda, or an action drawn freely. The
issue of a word, by a source that may issue, runs the instruction that its bytes decode to (what the VE or the ME has performed of it
ahead counts as performed, and is then past, LOG 96), as the word at the PC of its stream, of its mloop slot or of its helper, or as the entry of its queue; a word that its source may
not issue or that does not decode traps ILLEGAL with TVAL the word (both words of a seg), one of an absent class MXCAP with the class
above the word, a PC outside the memory ILLEGAL with TVAL the PC, and a seg in the last word ILLEGAL with TVAL the address of the word
it lacks (LOG 80); a packet, a mailbox request and a step of a unit run theirs. A word of firmware's runs in its context (LOG 82). -/
def Obligations.StepRunsDecoded : Prop :=
  ∀ (s : State) (rest : List Action),
    let s1 : State := { s with agenda := rest, tick := s.tick + 1, cur := { s.cur with fw := false } }
    (∀ g src, s.agenda = .issue g src :: rest → s.power = .d0 → s.cores[g].occupant.isSome = true →
      (s.inst g).mayIssue (s.asked g) src = true →
      let i := s.inst g
      let e := src.engine
      let pc := i.nextPc src
      let w := (i.stream e).wordAt pc
      let w1 := (i.stream e).wordAt (pc + 4)
      let run : State := { s1 with cur := ⟨g, src, pc, w, w1, s.tick + 1, false⟩ }
      let ran := fun (instr : Instr) =>
        if src = .ve ∧ i.doneVe ≠ .none then thenInst (exec instr run) g fun t j =>
          { j with doneVe := if s1.retired t g .ve then .none else { j.doneVe with reads := [] } }
        else if src = .me ∧ i.doneMe ≠ [] then thenInst (exec instr (run.modInst g Inst.withReads)) g fun _ => i.afterReads
        else exec instr run
      let queued := fun (v : Word) => ({ s1 with cur := ⟨g, src, 0, v.setWidth 32, 0, s.tick + 1, false⟩ } : State)
      let barred := (src = .ce ∧ helperOnly (majorOf e w.toNat) = true) ∨
        (src = .helper ∧ (helperMajor (majorOf e w.toNat) = false ∨ 2 ^ 30 ≤ w.toNat))
      (src = .scu ∨ src = .ve ∨ src = .me ∨ src = .ce ∨ src = .helper →
        (pc < imemSize e → (isSegWord e w.toNat = true → pc + 4 < imemSize e) →
          (∀ instr, ¬barred → decode e w.toNat w1.toNat = .ok instr → step s = ran instr) ∧
          (∀ n, ¬barred → decode e w.toNat w1.toNat = .error (.absentClass n) →
            step s = .next (run.raise .mxcap (BitVec.ofNat 64 (w.toNat + n * 2 ^ 32)))) ∧
          (barred ∨ (∃ r, decode e w.toNat w1.toNat = .error r ∧ ∀ n, r ≠ .absentClass n) →
            step s = .next (run.raise .illegal
              (BitVec.ofNat 64 (w.toNat + if isSegWord e w.toNat then w1.toNat * 2 ^ 32 else 0))))) ∧
        (pc < imemSize e → isSegWord e w.toNat = true → imemSize e ≤ pc + 4 → step s =
          .next (({ s1 with cur := ⟨g, src, pc, w, 0, s.tick + 1, false⟩ } : State).raise .illegal (BitVec.ofNat 64 (pc + 4)))) ∧
        (imemSize e ≤ pc → step s =
          .next (({ s1 with cur := ⟨g, src, pc, 0, 0, s.tick + 1, false⟩ } : State).raise .illegal (BitVec.ofNat 64 pc)))) ∧
      (∀ v l instr, (src = .q0 ∧ i.qw[0] = v :: l ∨ src = .q1 ∧ i.qw[1] = v :: l) →
        decode .ce (v.setWidth 32).toNat 0 = .ok instr → step s = exec instr (queued v)) ∧
      (∀ v l, src = .q3 → i.qw[3] = v :: l → step s = exec (q3Instr v) { s1 with cur := ⟨g, .q3, 0, 0, 0, s.tick + 1, false⟩ })) ∧
    (∀ g src, s.agenda = .issue g src :: rest →
      s.power ≠ .d0 ∨ s.cores[g].occupant = none ∨ (s.inst g).mayIssue (s.asked g) src = false → step s = .next s1) ∧
    (∀ r, s.agenda = .packet r :: rest →
      (∀ i, s1.turn r = .inr i → step s = exec i s1) ∧ ∀ t, s1.turn r = .inl t → step s = .next t) ∧
    (∀ g, s.agenda = .mailbox g :: rest →
      (∀ i, s1.mailTurn g = .inr i → step s = exec i s1) ∧ ∀ t, s1.mailTurn g = .inl t → step s = .next t) ∧
    (∀ i, s.agenda = .event i :: rest → step s = if ownStep i then exec i s1 else .next s1) ∧
    (∀ g w w1, s.agenda = .firmware g w w1 :: rest → step s = execFirmware g w w1 s1) ∧
    (∀ a, s.agenda = a :: rest → step s = act a s1) ∧
    (s.agenda = [] →
      step s = act (Config.nextAction s.tick) { s with tick := s.tick + 1, cur := { s.cur with fw := false } })

/-- 02 R51 to R57, R64: words whose bits the spec writes out decode to the instruction that it names, the word with rounding 5 is
rejected, and the ME word of class 11 is one of an absent class. -/
def Obligations.DecodedWords : Prop :=
  let no : Tok := ⟨false, false⟩
  decode .scu 0x40513FFD 0 = .ok (.addi 5 4 0x3FFD) ∧ decode .scu 0x9C303FFB 0 = .ok (.bne 3 0 0x3FFB) ∧
  decode .scu 0xC4020043 0 = .ok (.csrw 8 0x043) ∧ decode .scu 0xC8910505 0 = .ok (.wmon 9 4 5 false .geu) ∧
  decode .scu 0xCC510620 0 = .ok (.amo 5 4 6 .acq false .add) ∧ decode .scu 0x049EFB00 0 = .ok (.add 9 59 59) ∧
  decode .ve 0x81184402 0 = .ok (.vadd ⟨true, false⟩ 3 1 2 .rne .f32 2) ∧ decode .ve 0x17190A81 0 = .ok (.vcmp no 3 4 5 .lt .f32 1) ∧
  decode .ve 0x241E8000 0 = .ok (.vld no 3 26 0 .f32 0) ∧ decode .ve 0x2A219200 0 = .ok (.vtrd no 4 6 .col 8 .f32 0) ∧
  decode .ve 0x2F4A0000 0 = .ok (.vexp no 9 8 .rne .f32 0) ∧
  decode .me 0x42209010 0 = .ok (.mmaB16 ⟨false, true⟩ 4 1 2 .bf16 .rne true false false) ∧
  decode .me 0x42209014 0 = .ok (.mmas ⟨false, true⟩ 4 1 2 .bf16 .rne true false false) ∧
  decode .me 0x10220201 0 = .ok (.mstc no 4 .col 0 8 true) ∧ decode .me 0x4D004000 0 = .ok (.mrd ⟨false, true⟩ 0 .row 8) ∧
  decode .ce 0x01580908 0 = .ok (.cp no 5 8 2 .a .mem true 0) ∧ decode .ce 0x0F000400 0 = .ok (.acwait no 1) ∧
  decode .ce 0x0A681272 0 = .ok (.cpatm no 6 8 4 .fadd true true false .a) ∧ decode .ce 0x1B00000E 0 = .ok (.ceTks no .me) ∧
  decode .ve 0x01184542 0 = .error .field ∧ decode .me 0x23000000 0 = .error (.absentClass 11)

/-- 02 R51 to R61, R64: decoding the words of a well-formed instruction gives that instruction back, every operand at every value that its
encoding admits; so no bit of an encoding is dropped. -/
def Obligations.EncodingRoundTrip : Prop :=
  ∀ (i : Instr) (e : Engine), engineOf i = some e → wellFormed i = true →
    decode e ((encode i).headD 0).toNat (((encode i).drop 1).headD 0).toNat = .ok i

/-- 03 R92 to R94, Table 3.6, Table 3.8, 02 Table 2.11, 04 R108, 05 R142, 17 R439, R449, 19 R479: after reset, which is the module when
bring-up has reached its last step (LOG 8), no instance is placed; every system register of an instance holds the reset value of its
table; every scalar, vector and mask register reads 0 (LOG 9: Table 3.6 gives the values of an instance, the model has them before
the first too), every token FIFO and queue is empty, and rings 0 to 7 are firmware's, every ring idle. An instance that starts holds
the start state of Table 3.6: its streams at PC 0 with their sections, the registers, each stream register with its entry of the
stream table (of several entries for one register, which the spec does not speak of, the model takes the last: LOG 104), and the rings
of W and A as the ring table configures them, empty. -/
def Obligations.ResetAndStart : Prop :=
  let z := State.reset
  (z.power = .d0 ∧ z.bringUp = 7 ∧ Memory.wf z.mem = true ∧
    (∀ g : CoreNo, z.cores[g].occupant = none ∧ z.cores[g].shadow = none ∧ z.cores[g].request = none ∧
      (∀ n v, (n, v) ∈ [(0x002, 0), (0x010, 0), (0x011, 0), (0x012, 0), (0x013, 0), (0x014, 0), (0x020, 4), (0x030, 0), (0x031, 0),
        (0x032, 2930), (0x040, 0), (0x041, 0), (0x042, 0), (0x043, 0), (0x068, 0)] → z.csr g n = some (BitVec.ofNat 64 v)) ∧
      (∀ r : SReg, z.readS g r = 0) ∧ (∀ r : Fin 24, (z.inst g).v[r] = zeroLanes) ∧ (∀ k : Fin 8, (z.inst g).k[k] = 0) ∧
      (∀ f : Fin 16, (z.inst g).tokens[f] = 0) ∧ ∀ q : Fin 16, (z.inst g).qw[q] = [] ∧ (z.inst g).qr[q] = []) ∧
    ∀ r : Fin 256, z.rings[r].st = .idle ∧ (z.rings[r].grant = .firmware ↔ r.val < 8)) ∧
  ∀ (s : State) (g : CoreNo) (o : Occupant) (t : Task) (i : Image), s.task o.task = some t → t.image = some i →
    let x := (s.occupy g o).inst g
    (s.occupy g o).cores[g].occupant = some o ∧
    (∀ e, (x.stream e).pc = 0 ∧ (x.stream e).loops = [] ∧ (x.stream e).ended = false) ∧
    x.scu.imem = i.scalar ∧ x.ve.imem = i.vector ∧ x.me.imem = i.matrix ∧ x.ce.imem = i.copy ∧
    x.s[1] = t.data ∧ x.s[2] = BitVec.ofNat 64 o.ordinal ∧ x.s[3] = BitVec.ofNat 64 i.instances ∧
    (∀ n : Fin 48, 3 < n.val → x.s[n] = 0) ∧ x.c[0] = t.data ∧ (∀ n : Fin 16, 0 < n.val → x.c[n] = 0) ∧
    (∀ n : Fin 16, x.z[n] = match (i.streams.filter fun e => e.1 == n).getLast? with | some e => e.2 | none => .reset) ∧
    (∀ n : Fin 8,
      x.ringsW[n] = (i.rings.find? fun r => r.buf == 0 && r.index == n.val).map (fun r => ⟨r.base, r.slotBytes, r.slots, 0, 0, 0, []⟩) ∧
      x.ringsA[n] = (i.rings.find? fun r => r.buf == 1 && r.index == n.val).map (fun r => ⟨r.base, r.slotBytes, r.slots, 0, 0, 0, []⟩)) ∧
    (∀ r : Fin 24, x.v[r] = zeroLanes) ∧ (∀ k : Fin 8, x.k[k] = 0) ∧ (∀ l : Fin 512, x.flags[l] = 0) ∧ x.trapMask = 0 ∧
    (∀ r : TReg, x.tiles[r] = none) ∧ x.budget = i.tileRows ∧ (∀ a : AReg, x.a[a] = ⟨0, false⟩) ∧
    (∀ f : Fin 16, x.tokens[f] = 0) ∧ (∀ q : Fin 16, x.qw[q] = [] ∧ x.qr[q] = []) ∧ (∀ q : Fin 8, x.vq[q] = []) ∧
    (∀ n : Fin 6, x.sys.idl[n] = BitVec.ofNat 64 ((i.coords o.ordinal 0).getD n.val 0)) ∧
    x.sys.capreq = i.capreq.zeroExtend 64 ∧ x.sys.fmode = 0 ∧ x.sys.mflg = 0 ∧ x.sys.fshare = 4 ∧ x.sys.wdog = 2930

/-- LOG 3: every step keeps the canonical form of device memory: addresses strictly rising, and no listed byte 0. (The form is the
model's own; that it has one for each content makes equal memories equal data.) -/
def Obligations.StepKeepsMemory : Prop :=
  ∀ s t : State, Memory.wf s.mem = true → step s = .next t → Memory.wf t.mem = true

/-- 11 R298, R304, 15 R398: no step raises a unit's capability: the rung of every ME, of every bank and of every memory channel stays or
falls to a later one. -/
def Obligations.RungsOnlyStepDown : Prop :=
  ∀ s t : State, step s = .next t →
    (∀ g : CoreNo, s.cores[g].rung ≤ t.cores[g].rung ∧ ∀ (b : Buf) (m : Fin 16), (s.cores[g].banks b)[m] ≤ (t.cores[g].banks b)[m]) ∧
    ∀ c : Fin 1024, s.channels[c] ≤ t.channels[c]

/-- 18 R461, LOG 1, LOG 68: no step is refused, and a step ends in a fault only where the host accesses bytes beyond the end of device
memory, which the spec does not describe (LOG 68: the model's choice). -/
def Obligations.StepNeverRefuses : Prop :=
  ∀ s : State, (∀ r, step s ≠ .refused r) ∧ ∀ f, step s = .fault f →
    ∃ i pa, s.begin.1 = .event i ∧ f = .outsideMemory pa ∧
      ((∃ data, i = .hostBar1Write pa data ∧ s.paTop < pa + data.length) ∨
        ∃ op w x c, i = .hostAtomicop op w pa x c ∧ s.paTop < pa + if w then 4 else 8)
end

