-- ==== Sys2Proof/Laws/State.lean ====
section
/-! SUPPORT. One small lemma for each field under each of the updates that every meaning goes through: `modCore`, `modInst`,
`modTask`, `sink` and `physWrite`. -/

namespace Sys2Proof.Machine

section
variable (s : State) (g h : CoreNo) (f : Core → Core) (k : Inst → Inst) (id : Nat) (m : Task → Task) (pa : Nat) (bs : List Byte)

-- A change of one core.

@[simp] theorem modCore_core : (s.modCore g f).cores[g.val] = f s.cores[g.val] := by simp [State.modCore]
theorem modCore_other (hne : h ≠ g) : (s.modCore g f).cores[h.val] = s.cores[h.val] := by
  have : g.val ≠ h.val := fun e => hne (Fin.ext e.symm)
  simp [State.modCore, this]
@[simp] theorem modCore_agenda : (s.modCore g f).agenda = s.agenda := rfl
@[simp] theorem modCore_tick : (s.modCore g f).tick = s.tick := rfl
@[simp] theorem modCore_cur : (s.modCore g f).cur = s.cur := rfl
@[simp] theorem modCore_mem : (s.modCore g f).mem = s.mem := rfl
@[simp] theorem modCore_poison : (s.modCore g f).poison = s.poison := rfl
@[simp] theorem modCore_roots : (s.modCore g f).roots = s.roots := rfl
@[simp] theorem modCore_peers : (s.modCore g f).peers = s.peers := rfl
@[simp] theorem modCore_dieTlb : (s.modCore g f).dieTlb = s.dieTlb := rfl
@[simp] theorem modCore_l1 : (s.modCore g f).l1 = s.l1 := rfl
@[simp] theorem modCore_l2 : (s.modCore g f).l2 = s.l2 := rfl
@[simp] theorem modCore_forwards : (s.modCore g f).forwards = s.forwards := rfl
@[simp] theorem modCore_spillLocks : (s.modCore g f).spillLocks = s.spillLocks := rfl
@[simp] theorem modCore_channels : (s.modCore g f).channels = s.channels := rfl
@[simp] theorem modCore_reduction : (s.modCore g f).reduction = s.reduction := rfl
@[simp] theorem modCore_quiescing : (s.modCore g f).quiescing = s.quiescing := rfl
@[simp] theorem modCore_rings : (s.modCore g f).rings = s.rings := rfl
@[simp] theorem modCore_nodes : (s.modCore g f).nodes = s.nodes := rfl
@[simp] theorem modCore_tasks : (s.modCore g f).tasks = s.tasks := rfl
@[simp] theorem modCore_nextTask : (s.modCore g f).nextTask = s.nextTask := rfl
@[simp] theorem modCore_saved : (s.modCore g f).saved = s.saved := rfl
@[simp] theorem modCore_checkpoints : (s.modCore g f).checkpoints = s.checkpoints := rfl
@[simp] theorem modCore_links : (s.modCore g f).links = s.links := rfl
@[simp] theorem modCore_pod : (s.modCore g f).pod = s.pod := rfl
@[simp] theorem modCore_bar1 : (s.modCore g f).bar1 = s.bar1 := rfl
@[simp] theorem modCore_routes : (s.modCore g f).routes = s.routes := rfl
@[simp] theorem modCore_groups : (s.modCore g f).groups = s.groups := rfl
@[simp] theorem modCore_bringUp : (s.modCore g f).bringUp = s.bringUp := rfl
@[simp] theorem modCore_capWatts : (s.modCore g f).capWatts = s.capWatts := rfl
@[simp] theorem modCore_power : (s.modCore g f).power = s.power := rfl
@[simp] theorem modCore_flash : (s.modCore g f).flash = s.flash := rfl
@[simp] theorem modCore_notices : (s.modCore g f).notices = s.notices := rfl

-- A change of the instance on a core.

@[simp] theorem modInst_inst : (s.modInst g k).inst g = k (s.inst g) := by simp [State.modInst, State.inst]
theorem modInst_inst_other (hne : h ≠ g) : (s.modInst g k).inst h = s.inst h := by
  simp [State.modInst, State.inst, modCore_other _ _ _ _ hne]
@[simp] theorem modInst_rung : (s.modInst g k).cores[h.val].rung = s.cores[h.val].rung := by
  by_cases e : h = g
  · subst e; simp [State.modInst]
  · simp only [State.modInst, modCore_other _ _ _ _ e]
@[simp] theorem modInst_occupant : (s.modInst g k).cores[h.val].occupant = s.cores[h.val].occupant := by
  by_cases e : h = g
  · subst e; simp [State.modInst]
  · simp only [State.modInst, modCore_other _ _ _ _ e]
@[simp] theorem modInst_tlb : (s.modInst g k).cores[h.val].tlb = s.cores[h.val].tlb := by
  by_cases e : h = g
  · subst e; simp [State.modInst]
  · simp only [State.modInst, modCore_other _ _ _ _ e]
@[simp] theorem modInst_request : (s.modInst g k).cores[h.val].request = s.cores[h.val].request := by
  by_cases e : h = g
  · subst e; simp [State.modInst]
  · simp only [State.modInst, modCore_other _ _ _ _ e]
@[simp] theorem modInst_fw : (s.modInst g k).cores[h.val].fw = s.cores[h.val].fw := by
  by_cases e : h = g
  · subst e; simp [State.modInst]
  · simp only [State.modInst, modCore_other _ _ _ _ e]
@[simp] theorem modInst_aux : (s.modInst g k).cores[h.val].aux = s.cores[h.val].aux := by
  by_cases e : h = g
  · subst e; simp [State.modInst]
  · simp only [State.modInst, modCore_other _ _ _ _ e]
@[simp] theorem modInst_power : (s.modInst g k).power = s.power := rfl
@[simp] theorem modInst_tick : (s.modInst g k).tick = s.tick := rfl
@[simp] theorem modInst_cur : (s.modInst g k).cur = s.cur := rfl
@[simp] theorem modInst_mem : (s.modInst g k).mem = s.mem := rfl
@[simp] theorem modInst_poison : (s.modInst g k).poison = s.poison := rfl
@[simp] theorem modInst_tasks : (s.modInst g k).tasks = s.tasks := rfl
@[simp] theorem modInst_roots : (s.modInst g k).roots = s.roots := rfl
@[simp] theorem modInst_dieTlb : (s.modInst g k).dieTlb = s.dieTlb := rfl
@[simp] theorem modInst_channels : (s.modInst g k).channels = s.channels := rfl
theorem modInst_modInst (k' : Inst → Inst) : (s.modInst g k).modInst g k' = s.modInst g fun i => k' (k i) := by
  simp [State.modInst, State.modCore]

-- The watchdog of a core.

@[simp] theorem sink_inst : (s.sink g).inst h = s.inst h := by
  by_cases e : h = g
  · subst e; simp [State.sink, State.inst]
  · simp [State.sink, State.inst, modCore_other _ _ _ _ e]
@[simp] theorem sink_rung : (s.sink g).cores[h.val].rung = s.cores[h.val].rung := by
  by_cases e : h = g
  · subst e; simp [State.sink]
  · simp only [State.sink, modCore_other _ _ _ _ e]
@[simp] theorem sink_tick : (s.sink g).tick = s.tick := rfl
@[simp] theorem sink_cur : (s.sink g).cur = s.cur := rfl
@[simp] theorem sink_mem : (s.sink g).mem = s.mem := rfl
@[simp] theorem sink_poison : (s.sink g).poison = s.poison := rfl
@[simp] theorem sink_tasks : (s.sink g).tasks = s.tasks := rfl

-- A change of one task.

@[simp] theorem modTask_cores : (s.modTask id m).cores = s.cores := rfl
@[simp] theorem modTask_mem : (s.modTask id m).mem = s.mem := rfl
@[simp] theorem modTask_cur : (s.modTask id m).cur = s.cur := rfl
@[simp] theorem modTask_tick : (s.modTask id m).tick = s.tick := rfl
@[simp] theorem modTask_tasks : (s.modTask id m).tasks = s.tasks.map fun t => if t.id == id then m t else t := rfl

-- A write of device memory.

@[simp] theorem physWrite_mem : (s.physWrite pa bs).mem = s.mem.put pa bs := rfl
@[simp] theorem physWrite_cores : (s.physWrite pa bs).cores = s.cores := rfl
@[simp] theorem physWrite_inst : (s.physWrite pa bs).inst g = s.inst g := rfl
@[simp] theorem physWrite_cur : (s.physWrite pa bs).cur = s.cur := rfl
@[simp] theorem physWrite_tick : (s.physWrite pa bs).tick = s.tick := rfl
@[simp] theorem physWrite_tasks : (s.physWrite pa bs).tasks = s.tasks := rfl
@[simp] theorem physWrite_poison : (s.physWrite pa bs).poison = mergePoison false s.poison pa bs.length := rfl
@[simp] theorem physWrite_partials : (s.physWrite pa bs).partials = [] := rfl
@[simp] theorem physWriteIn_mem (l : Bool) : (s.physWriteIn l pa bs).mem = s.mem.put pa bs := rfl
@[simp] theorem physWriteIn_cores (l : Bool) : (s.physWriteIn l pa bs).cores = s.cores := rfl
@[simp] theorem physWriteIn_inst (l : Bool) : (s.physWriteIn l pa bs).inst g = s.inst g := rfl
@[simp] theorem physWriteIn_poison (l : Bool) : (s.physWriteIn l pa bs).poison = mergePoison l s.poison pa bs.length := rfl

-- A record written, and a change of one link.

@[simp] theorem writeRecord_cores (n : Fin 6) : (s.writeRecord n).cores = s.cores := rfl
@[simp] theorem writeRecord_mem (n : Fin 6) : (s.writeRecord n).mem = s.mem := rfl
@[simp] theorem writeRecord_channels (n : Fin 6) : (s.writeRecord n).channels = s.channels := rfl
@[simp] theorem writeRecord_links (n : Fin 6) : (s.writeRecord n).links = s.links := rfl
@[simp] theorem writeRecord_power (n : Fin 6) : (s.writeRecord n).power = s.power := rfl

end

end Sys2Proof.Machine
end

