-- ==== Sys2Proof/Laws/Caches.lean ====
section
/-! SUPPORT. What the caches can change: an access leaves every part of the state but the lines, the forwarding entries, poison, the
notices and the translation caches as it was. -/

namespace Sys2Proof.Machine

open Host

/-- The state without its cache lines, poison and notices. -/
def State.bareCaches (s : State) : State := { s with l1 := [], l2 := [], forwards := [], poison := [], notices := [] }

/-- A core without its TLB. -/
def Core.bareTlb (c : Core) : Core := { c with tlb := [] }

/-- The state without its caches and translation caches. -/
def State.bareTlb (s : State) : State := { s.bareCaches with cores := s.cores.map Core.bareTlb, dieTlb := Vector.replicate 8 [] }

/-- A fold of updates each of which keeps a view of the state keeps it. -/
theorem foldl_keep {α β γ : Type} (view : β → γ) (f : β → α → β) (h : ∀ b a, view (f b a) = view b) (l : List α) (b : β) :
    view (l.foldl f b) = view b := by
  induction l generalizing b with
  | nil => rfl
  | cons a t ih => rw [List.foldl_cons, ih, h]

section
variable (s : State) (g : CoreNo) (line : Nat)

@[simp] theorem writeBack_bare (w : Nat) (m : BitVec 4) : (s.writeBack line w m).bareCaches = s.bareCaches := rfl

@[simp] theorem insertL2_bare (l : L2Line) : (s.insertL2 l).bareCaches = s.bareCaches := by
  unfold State.insertL2
  dsimp only
  split
  · rfl
  · split <;> rfl

@[simp] theorem migrate_bare (l : L2Line) : (s.migrate l).bareCaches = s.bareCaches := by
  unfold State.migrate
  split
  · dsimp only
    split
    · rfl
    · rw [insertL2_bare]; rfl
  · rfl

variable (m : BitVec 4) (d : Fin 8) (w : Bool) (ctx : Nat) (pin : Option (CoreNo × Fin 8 × Nat)) (h : Option CoreNo)

@[simp] theorem touchL2_bare : (s.touchL2 h line m d w ctx pin).bareCaches = s.bareCaches := by
  unfold State.touchL2
  split
  · rw [migrate_bare]; rfl
  · rw [insertL2_bare]

@[simp] theorem drainL1_bare (out : BitVec 4) (wr : Nat) : (s.drainL1 g line out wr).bareCaches = s.bareCaches := by
  unfold State.drainL1
  rw [touchL2_bare]; rfl

@[simp] theorem recallL1_bare : (s.recallL1 h line).bareCaches = s.bareCaches := by
  unfold State.recallL1
  refine Eq.trans (b := ((s.l1.filter fun x => x.line == line && h != some x.core && x.dirty != 0).foldl
    (fun s x => s.drainL1 x.core line x.dirty x.writer) s).bareCaches) rfl ?_
  exact foldl_keep State.bareCaches _ (fun b a => by simp) _ s

@[simp] theorem accessL2_bare : (s.accessL2 h line m d w ctx pin).bareCaches = s.bareCaches := by
  unfold State.accessL2
  rw [touchL2_bare]
  split <;> simp

@[simp] theorem touchL1_bare : (s.touchL1 g line m d w ctx pin).bareCaches = s.bareCaches := by
  unfold State.touchL1
  have h0 : (if w then s.recallL1 (some g) line else s).bareCaches = s.bareCaches := by split <;> simp
  generalize (if w then s.recallL1 (some g) line else s) = t at h0 ⊢
  dsimp only
  rw [← h0]
  split
  · refine Eq.trans (b := (if m &&& ~~~_ = 0 then t else t.touchL2 (some g) line _ d false ctx pin).bareCaches) rfl ?_
    split <;> simp
  · split
    · simp
    · split
      · split
        · exact touchL2_bare t line m d false ctx pin (some g)
        · rw [drainL1_bare]; exact touchL2_bare t line m d false ctx pin (some g)
      · exact touchL2_bare t line m d false ctx pin (some g)

@[simp] theorem flushL1_bare : (s.flushL1 g).bareCaches = s.bareCaches := by
  unfold State.flushL1
  refine Eq.trans (foldl_keep State.bareCaches _ (fun b a => ?_) _ s) rfl
  split <;> simp

@[simp] theorem noteWalk_bare (va : Nat) : (s.noteWalk h ctx va).bareCaches = s.bareCaches := by
  unfold State.noteWalk
  repeat' split
  all_goals first
    | rfl
    | exact foldl_keep State.bareCaches _ (fun b a => by simp) _ s

end

/-- A view of the state that leaves the caches out is the same after a change of the caches alone. -/
theorem bareTlb_of_bareCaches {s t : State} (h : t.bareCaches = s.bareCaches) : t.bareTlb = s.bareTlb := by
  have hc : t.cores = s.cores := (congrArg (fun x : State => x.cores) h : t.bareCaches.cores = s.bareCaches.cores)
  unfold State.bareTlb
  rw [h, hc]

theorem fillTlb_bare (s : State) (g : CoreNo) (ctx va : Nat) : (s.fillTlb g ctx va).bareTlb = s.bareTlb := by
  unfold State.fillTlb
  split
  · rfl
  · refine Eq.trans ?_ (bareTlb_of_bareCaches (noteWalk_bare s ctx (some g) va))
    generalize s.noteWalk (some g) ctx va = t
    simp only [State.bareTlb, State.bareCaches, State.mk.injEq, and_true, true_and]
    ext1 k hk
    rw [Vector.getElem_map, Vector.getElem_map]
    by_cases e : g.val = k
    · subst e; simp only [Vector.getElem_set_self]; rfl
    · rw [Vector.getElem_set_ne _ _ e]

/-- An access changes the caches and translation caches alone. -/
theorem noteAccess_bare (s : State) (l1 : Bool) (g : CoreNo) (va pa n : Nat) (d : Fin 8) (w : Bool) :
    (s.noteAccess l1 g va pa n d w).bareTlb = s.bareTlb := by
  unfold State.noteAccess
  dsimp only
  rw [fillTlb_bare]
  split
  · rfl
  · refine bareTlb_of_bareCaches (foldl_keep State.bareCaches _ (fun b a => ?_) _ s)
    split <;> simp

/-- The accesses of a range change the caches and translation caches alone. -/
theorem noteSpan_bare (s : State) (l1 : Bool) (g : CoreNo) (va n : Nat) (d : Fin 8) (w : Bool) :
    (s.noteSpan l1 g va n d w).bareTlb = s.bareTlb := by
  unfold State.noteSpan
  refine foldl_keep State.bareTlb _ (fun b a => ?_) _ s
  split
  · exact noteAccess_bare ..
  · rfl

section
variable {s t : State} (h : t.bareTlb = s.bareTlb)
include h

theorem bare_mem : t.mem = s.mem := (congrArg (fun x : State => x.mem) h : t.bareTlb.mem = s.bareTlb.mem)
theorem bare_tasks : t.tasks = s.tasks := (congrArg (fun x : State => x.tasks) h : t.bareTlb.tasks = s.bareTlb.tasks)
theorem bare_cur : t.cur = s.cur := (congrArg (fun x : State => x.cur) h : t.bareTlb.cur = s.bareTlb.cur)
theorem bare_tick : t.tick = s.tick := (congrArg (fun x : State => x.tick) h : t.bareTlb.tick = s.bareTlb.tick)
theorem bare_channels : t.channels = s.channels := (congrArg (fun x : State => x.channels) h : t.bareTlb.channels = s.bareTlb.channels)
theorem bare_roots : t.roots = s.roots := (congrArg (fun x : State => x.roots) h : t.bareTlb.roots = s.bareTlb.roots)
theorem bare_core (g : CoreNo) : t.cores[g].bareTlb = s.cores[g].bareTlb := by
  have := congrArg (fun x : State => x.cores[g]) h
  simpa [State.bareTlb] using this
theorem bare_inst (g : CoreNo) : t.inst g = s.inst g :=
  (congrArg (fun c : Core => c.inst) (bare_core h g) : t.cores[g].bareTlb.inst = s.cores[g].bareTlb.inst)
theorem bare_rung (g : CoreNo) : t.cores[g].rung = s.cores[g].rung :=
  (congrArg (fun c : Core => c.rung) (bare_core h g) : t.cores[g].bareTlb.rung = s.cores[g].bareTlb.rung)
theorem bare_occupant (g : CoreNo) : t.cores[g].occupant = s.cores[g].occupant :=
  (congrArg (fun c : Core => c.occupant) (bare_core h g) : t.cores[g].bareTlb.occupant = s.cores[g].bareTlb.occupant)

end

end Sys2Proof.Machine
end

