-- ==== Sys2Proof/Laws/Exec.lean ====
section
/-! SUPPORT. `exec` on each constructor is the call of its meaning: 305 small lemmas, so that no proof unfolds the whole
dispatch. -/

namespace Sys2Proof.Machine

@[simp] theorem exec_add (d a b : SReg) (s : State) : exec (.add d a b) s = execAdd d a b s := rfl
@[simp] theorem exec_sub (d a b : SReg) (s : State) : exec (.sub d a b) s = execSub d a b s := rfl
@[simp] theorem exec_and (d a b : SReg) (s : State) : exec (.and d a b) s = execAnd d a b s := rfl
@[simp] theorem exec_or (d a b : SReg) (s : State) : exec (.or d a b) s = execOr d a b s := rfl
@[simp] theorem exec_xor (d a b : SReg) (s : State) : exec (.xor d a b) s = execXor d a b s := rfl
@[simp] theorem exec_shl (d a b : SReg) (s : State) : exec (.shl d a b) s = execShl d a b s := rfl
@[simp] theorem exec_shr (d a b : SReg) (s : State) : exec (.shr d a b) s = execShr d a b s := rfl
@[simp] theorem exec_sar (d a b : SReg) (s : State) : exec (.sar d a b) s = execSar d a b s := rfl
@[simp] theorem exec_slt (d a b : SReg) (s : State) : exec (.slt d a b) s = execSlt d a b s := rfl
@[simp] theorem exec_sltu (d a b : SReg) (s : State) : exec (.sltu d a b) s = execSltu d a b s := rfl
@[simp] theorem exec_mul (d a b : SReg) (s : State) : exec (.mul d a b) s = execMul d a b s := rfl
@[simp] theorem exec_mulh (d a b : SReg) (s : State) : exec (.mulh d a b) s = execMulh d a b s := rfl
@[simp] theorem exec_mulhu (d a b : SReg) (s : State) : exec (.mulhu d a b) s = execMulhu d a b s := rfl
@[simp] theorem exec_div (d a b : SReg) (s : State) : exec (.div d a b) s = execDiv d a b s := rfl
@[simp] theorem exec_divu (d a b : SReg) (s : State) : exec (.divu d a b) s = execDivu d a b s := rfl
@[simp] theorem exec_rem (d a b : SReg) (s : State) : exec (.rem d a b) s = execRem d a b s := rfl
@[simp] theorem exec_remu (d a b : SReg) (s : State) : exec (.remu d a b) s = execRemu d a b s := rfl
@[simp] theorem exec_min (d a b : SReg) (s : State) : exec (.min d a b) s = execMin d a b s := rfl
@[simp] theorem exec_minu (d a b : SReg) (s : State) : exec (.minu d a b) s = execMinu d a b s := rfl
@[simp] theorem exec_max (d a b : SReg) (s : State) : exec (.max d a b) s = execMax d a b s := rfl
@[simp] theorem exec_maxu (d a b : SReg) (s : State) : exec (.maxu d a b) s = execMaxu d a b s := rfl
@[simp] theorem exec_addi (d a : SReg) (i : BitVec 14) (s : State) : exec (.addi d a i) s = execAddi d a i s := rfl
@[simp] theorem exec_andi (d a : SReg) (i : BitVec 14) (s : State) : exec (.andi d a i) s = execAndi d a i s := rfl
@[simp] theorem exec_ori (d a : SReg) (i : BitVec 14) (s : State) : exec (.ori d a i) s = execOri d a i s := rfl
@[simp] theorem exec_xori (d a : SReg) (i : BitVec 14) (s : State) : exec (.xori d a i) s = execXori d a i s := rfl
@[simp] theorem exec_shli (d a : SReg) (i : Fin 64) (s : State) : exec (.shli d a i) s = execShli d a i s := rfl
@[simp] theorem exec_shri (d a : SReg) (i : Fin 64) (s : State) : exec (.shri d a i) s = execShri d a i s := rfl
@[simp] theorem exec_sari (d a : SReg) (i : Fin 64) (s : State) : exec (.sari d a i) s = execSari d a i s := rfl
@[simp] theorem exec_slti (d a : SReg) (i : BitVec 14) (s : State) : exec (.slti d a i) s = execSlti d a i s := rfl
@[simp] theorem exec_sltui (d a : SReg) (i : BitVec 14) (s : State) : exec (.sltui d a i) s = execSltui d a i s := rfl
@[simp] theorem exec_lui (d : SReg) (i : BitVec 20) (s : State) : exec (.lui d i) s = execLui d i s := rfl
@[simp] theorem exec_pcadd (d : SReg) (i : BitVec 20) (s : State) : exec (.pcadd d i) s = execPcadd d i s := rfl
@[simp] theorem exec_ldb (d a : SReg) (i : BitVec 14) (s : State) : exec (.ldb d a i) s = execLdb d a i s := rfl
@[simp] theorem exec_ldbu (d a : SReg) (i : BitVec 14) (s : State) : exec (.ldbu d a i) s = execLdbu d a i s := rfl
@[simp] theorem exec_ldh (d a : SReg) (i : BitVec 14) (s : State) : exec (.ldh d a i) s = execLdh d a i s := rfl
@[simp] theorem exec_ldhu (d a : SReg) (i : BitVec 14) (s : State) : exec (.ldhu d a i) s = execLdhu d a i s := rfl
@[simp] theorem exec_ldw (d a : SReg) (i : BitVec 14) (s : State) : exec (.ldw d a i) s = execLdw d a i s := rfl
@[simp] theorem exec_ldwu (d a : SReg) (i : BitVec 14) (s : State) : exec (.ldwu d a i) s = execLdwu d a i s := rfl
@[simp] theorem exec_ldd (d a : SReg) (i : BitVec 14) (s : State) : exec (.ldd d a i) s = execLdd d a i s := rfl
@[simp] theorem exec_stb (d a : SReg) (i : BitVec 14) (s : State) : exec (.stb d a i) s = execStb d a i s := rfl
@[simp] theorem exec_sth (d a : SReg) (i : BitVec 14) (s : State) : exec (.sth d a i) s = execSth d a i s := rfl
@[simp] theorem exec_stw (d a : SReg) (i : BitVec 14) (s : State) : exec (.stw d a i) s = execStw d a i s := rfl
@[simp] theorem exec_std (d a : SReg) (i : BitVec 14) (s : State) : exec (.std d a i) s = execStd d a i s := rfl
@[simp] theorem exec_beq (a b : SReg) (i : BitVec 14) (s : State) : exec (.beq a b i) s = execBeq a b i s := rfl
@[simp] theorem exec_bne (a b : SReg) (i : BitVec 14) (s : State) : exec (.bne a b i) s = execBne a b i s := rfl
@[simp] theorem exec_blt (a b : SReg) (i : BitVec 14) (s : State) : exec (.blt a b i) s = execBlt a b i s := rfl
@[simp] theorem exec_bge (a b : SReg) (i : BitVec 14) (s : State) : exec (.bge a b i) s = execBge a b i s := rfl
@[simp] theorem exec_bltu (a b : SReg) (i : BitVec 14) (s : State) : exec (.bltu a b i) s = execBltu a b i s := rfl
@[simp] theorem exec_bgeu (a b : SReg) (i : BitVec 14) (s : State) : exec (.bgeu a b i) s = execBgeu a b i s := rfl
@[simp] theorem exec_j (i : BitVec 26) (s : State) : exec (.j i) s = execJ i s := rfl
@[simp] theorem exec_jal (i : BitVec 26) (s : State) : exec (.jal i) s = execJal i s := rfl
@[simp] theorem exec_jalr (d a : SReg) (s : State) : exec (.jalr d a) s = execJalr d a s := rfl
@[simp] theorem exec_scuLoop (a : SReg) (l : Fin 16384) (s : State) : exec (.scuLoop a l) s = execScuLoop a l s := rfl
@[simp] theorem exec_csrr (d : SReg) (n : Fin 16384) (s : State) : exec (.csrr d n) s = execCsrr d n s := rfl
@[simp] theorem exec_csrw (a : SReg) (n : Fin 16384) (s : State) : exec (.csrw a n) s = execCsrw a n s := rfl
@[simp] theorem exec_wmon (d a b : SReg) (w : Bool) (c : WCond) (s : State) : exec (.wmon d a b w c) s = execWmon d a b w c s := rfl
@[simp] theorem exec_amo (d a b : SReg) (o : AmoOrder) (w : Bool) (c : AmoOp) (s : State) : exec (.amo d a b o w c) s = execAmo d a b o w c s := rfl
@[simp] theorem exec_cas (d a b : SReg) (o : AmoOrder) (w : Bool) (s : State) : exec (.cas d a b o w) s = execCas d a b o w s := rfl
@[simp] theorem exec_fence (st : FenceScope) (k : FenceKind) (s : State) : exec (.fence st k) s = execFence st k s := rfl
@[simp] theorem exec_scuTkw (f : Engine) (s : State) : exec (.scuTkw f) s = execScuTkw f s := rfl
@[simp] theorem exec_scuTks (f : Engine) (s : State) : exec (.scuTks f) s = execScuTks f s := rfl
@[simp] theorem exec_spawn (d a b : SReg) (s : State) : exec (.spawn d a b) s = execSpawn d a b s := rfl
@[simp] theorem exec_scuSafe (s : State) : exec (.scuSafe) s = execScuSafe s := rfl
@[simp] theorem exec_scuSeg (cnt : BitVec 24) (crc : BitVec 16) (s : State) : exec (.scuSeg cnt crc) s = execScuSeg cnt crc s := rfl
@[simp] theorem exec_scuEnd (s : State) : exec (.scuEnd) s = execScuEnd s := rfl
@[simp] theorem exec_trap (i : BitVec 20) (s : State) : exec (.trap i) s = execTrap i s := rfl
@[simp] theorem exec_eret (s : State) : exec (.eret) s = execEret s := rfl
@[simp] theorem exec_vadd (tk : Tok) (d a b : VReg) (r : Rounding) (f : FpFmt) (k : KReg) (s : State) : exec (.vadd tk d a b r f k) s = execVadd tk d a b r f k s := rfl
@[simp] theorem exec_vsub (tk : Tok) (d a b : VReg) (r : Rounding) (f : FpFmt) (k : KReg) (s : State) : exec (.vsub tk d a b r f k) s = execVsub tk d a b r f k s := rfl
@[simp] theorem exec_vmul (tk : Tok) (d a b : VReg) (r : Rounding) (f : FpFmt) (k : KReg) (s : State) : exec (.vmul tk d a b r f k) s = execVmul tk d a b r f k s := rfl
@[simp] theorem exec_vdiv (tk : Tok) (d a b : VReg) (r : Rounding) (f : FpFmt) (k : KReg) (s : State) : exec (.vdiv tk d a b r f k) s = execVdiv tk d a b r f k s := rfl
@[simp] theorem exec_vsqrt (tk : Tok) (d a : VReg) (r : Rounding) (f : FpFmt) (k : KReg) (s : State) : exec (.vsqrt tk d a r f k) s = execVsqrt tk d a r f k s := rfl
@[simp] theorem exec_vfma (tk : Tok) (d a b : VReg) (r : Rounding) (f : FpFmt) (k : KReg) (s : State) : exec (.vfma tk d a b r f k) s = execVfma tk d a b r f k s := rfl
@[simp] theorem exec_vfms (tk : Tok) (d a b : VReg) (r : Rounding) (f : FpFmt) (k : KReg) (s : State) : exec (.vfms tk d a b r f k) s = execVfms tk d a b r f k s := rfl
@[simp] theorem exec_vfnma (tk : Tok) (d a b : VReg) (r : Rounding) (f : FpFmt) (k : KReg) (s : State) : exec (.vfnma tk d a b r f k) s = execVfnma tk d a b r f k s := rfl
@[simp] theorem exec_vmin (tk : Tok) (d a b : VReg) (f : FpFmt) (k : KReg) (s : State) : exec (.vmin tk d a b f k) s = execVmin tk d a b f k s := rfl
@[simp] theorem exec_vmax (tk : Tok) (d a b : VReg) (f : FpFmt) (k : KReg) (s : State) : exec (.vmax tk d a b f k) s = execVmax tk d a b f k s := rfl
@[simp] theorem exec_vsgnNeg (tk : Tok) (d a : VReg) (f : FpFmt) (k : KReg) (s : State) : exec (.vsgnNeg tk d a f k) s = execVsgnNeg tk d a f k s := rfl
@[simp] theorem exec_vsgnAbs (tk : Tok) (d a : VReg) (f : FpFmt) (k : KReg) (s : State) : exec (.vsgnAbs tk d a f k) s = execVsgnAbs tk d a f k s := rfl
@[simp] theorem exec_vsgnCp (tk : Tok) (d a b : VReg) (f : FpFmt) (k : KReg) (s : State) : exec (.vsgnCp tk d a b f k) s = execVsgnCp tk d a b f k s := rfl
@[simp] theorem exec_vsgnXs (tk : Tok) (d a b : VReg) (f : FpFmt) (k : KReg) (s : State) : exec (.vsgnXs tk d a b f k) s = execVsgnXs tk d a b f k s := rfl
@[simp] theorem exec_vsgnExp (tk : Tok) (d a : VReg) (f : FpFmt) (k : KReg) (s : State) : exec (.vsgnExp tk d a f k) s = execVsgnExp tk d a f k s := rfl
@[simp] theorem exec_viadd (tk : Tok) (d a b : VReg) (f : IntFmt) (k : KReg) (s : State) : exec (.viadd tk d a b f k) s = execViadd tk d a b f k s := rfl
@[simp] theorem exec_visub (tk : Tok) (d a b : VReg) (f : IntFmt) (k : KReg) (s : State) : exec (.visub tk d a b f k) s = execVisub tk d a b f k s := rfl
@[simp] theorem exec_vimul (tk : Tok) (d a b : VReg) (f : IntFmt) (k : KReg) (s : State) : exec (.vimul tk d a b f k) s = execVimul tk d a b f k s := rfl
@[simp] theorem exec_vand (tk : Tok) (d a b : VReg) (f : IntFmt) (k : KReg) (s : State) : exec (.vand tk d a b f k) s = execVand tk d a b f k s := rfl
@[simp] theorem exec_vor (tk : Tok) (d a b : VReg) (f : IntFmt) (k : KReg) (s : State) : exec (.vor tk d a b f k) s = execVor tk d a b f k s := rfl
@[simp] theorem exec_vxor (tk : Tok) (d a b : VReg) (f : IntFmt) (k : KReg) (s : State) : exec (.vxor tk d a b f k) s = execVxor tk d a b f k s := rfl
@[simp] theorem exec_vshl (tk : Tok) (d a b : VReg) (f : IntFmt) (k : KReg) (s : State) : exec (.vshl tk d a b f k) s = execVshl tk d a b f k s := rfl
@[simp] theorem exec_vshr (tk : Tok) (d a b : VReg) (f : IntFmt) (k : KReg) (s : State) : exec (.vshr tk d a b f k) s = execVshr tk d a b f k s := rfl
@[simp] theorem exec_vsar (tk : Tok) (d a b : VReg) (f : IntFmt) (k : KReg) (s : State) : exec (.vsar tk d a b f k) s = execVsar tk d a b f k s := rfl
@[simp] theorem exec_vimin (tk : Tok) (d a b : VReg) (f : IntFmt) (k : KReg) (s : State) : exec (.vimin tk d a b f k) s = execVimin tk d a b f k s := rfl
@[simp] theorem exec_vimax (tk : Tok) (d a b : VReg) (f : IntFmt) (k : KReg) (s : State) : exec (.vimax tk d a b f k) s = execVimax tk d a b f k s := rfl
@[simp] theorem exec_vcmp (tk : Tok) (d : KReg) (a b : VReg) (c : Cond) (f : FpFmt) (k : KReg) (s : State) : exec (.vcmp tk d a b c f k) s = execVcmp tk d a b c f k s := rfl
@[simp] theorem exec_vicmp (tk : Tok) (d : KReg) (a b : VReg) (c : ICond) (f : IntFmt) (k : KReg) (s : State) : exec (.vicmp tk d a b c f k) s = execVicmp tk d a b c f k s := rfl
@[simp] theorem exec_vcvt (tk : Tok) (d a : VReg) (h : Bool) (g : VFmt) (r : Rounding) (f : VFmt) (k : KReg) (s : State) : exec (.vcvt tk d a h g r f k) s = execVcvt tk d a h g r f k s := rfl
@[simp] theorem exec_vqnt (tk : Tok) (d a : VReg) (r : Rounding) (t : QntType) (k : KReg) (s : State) : exec (.vqnt tk d a r t k) s = execVqnt tk d a r t k s := rfl
@[simp] theorem exec_vxacc (tk : Tok) (d a b : VReg) (f : FixFmt) (k : KReg) (s : State) : exec (.vxacc tk d a b f k) s = execVxacc tk d a b f k s := rfl
@[simp] theorem exec_vxrnd (tk : Tok) (d a b : VReg) (r : Rounding) (f : HFmt) (k : KReg) (s : State) : exec (.vxrnd tk d a b r f k) s = execVxrnd tk d a b r f k s := rfl
@[simp] theorem exec_vperm (tk : Tok) (d a b : VReg) (f : LaneW) (k : KReg) (s : State) : exec (.vperm tk d a b f k) s = execVperm tk d a b f k s := rfl
@[simp] theorem exec_vbcast (tk : Tok) (d a : VReg) (l : Fin 512) (x : LaneW) (k : KReg) (s : State) : exec (.vbcast tk d a l x k) s = execVbcast tk d a l x k s := rfl
@[simp] theorem exec_vslide (tk : Tok) (d a b : VReg) (n : Fin 64) (k : KReg) (s : State) : exec (.vslide tk d a b n k) s = execVslide tk d a b n k s := rfl
@[simp] theorem exec_vsel (tk : Tok) (d a b : VReg) (f : LaneW) (k : KReg) (s : State) : exec (.vsel tk d a b f k) s = execVsel tk d a b f k s := rfl
@[simp] theorem exec_vredsum (tk : Tok) (d a : VReg) (r : Rounding) (f : HFmt) (k : KReg) (s : State) : exec (.vredsum tk d a r f k) s = execVredsum tk d a r f k s := rfl
@[simp] theorem exec_vredmin (tk : Tok) (d a : VReg) (f : RedFmt) (k : KReg) (s : State) : exec (.vredmin tk d a f k) s = execVredmin tk d a f k s := rfl
@[simp] theorem exec_vredmax (tk : Tok) (d a : VReg) (f : RedFmt) (k : KReg) (s : State) : exec (.vredmax tk d a f k) s = execVredmax tk d a f k s := rfl
@[simp] theorem exec_viredsum (tk : Tok) (d a : VReg) (f : IntFmt) (k : KReg) (s : State) : exec (.viredsum tk d a f k) s = execViredsum tk d a f k s := rfl
@[simp] theorem exec_vld (tk : Tok) (d a : VReg) (c : Fin 8) (f : VFmt) (k : KReg) (s : State) : exec (.vld tk d a c f k) s = execVld tk d a c f k s := rfl
@[simp] theorem exec_vst (tk : Tok) (d a : VReg) (c : Fin 8) (f : VFmt) (k : KReg) (s : State) : exec (.vst tk d a c f k) s = execVst tk d a c f k s := rfl
@[simp] theorem exec_vlds (tk : Tok) (d a b : VReg) (c : Fin 8) (f : VFmt) (k : KReg) (s : State) : exec (.vlds tk d a b c f k) s = execVlds tk d a b c f k s := rfl
@[simp] theorem exec_vsts (tk : Tok) (d a b : VReg) (c : Fin 8) (f : VFmt) (k : KReg) (s : State) : exec (.vsts tk d a b c f k) s = execVsts tk d a b c f k s := rfl
@[simp] theorem exec_vgath (tk : Tok) (d a b : VReg) (c : Fin 8) (f : VFmt) (k : KReg) (s : State) : exec (.vgath tk d a b c f k) s = execVgath tk d a b c f k s := rfl
@[simp] theorem exec_vscat (tk : Tok) (d a b : VReg) (c : Fin 8) (f : VFmt) (k : KReg) (s : State) : exec (.vscat tk d a b c f k) s = execVscat tk d a b c f k s := rfl
@[simp] theorem exec_vtrd (tk : Tok) (v : VReg) (t : TReg) (e : Dir) (n : Fin 64) (f : TileFmt) (k : KReg) (s : State) : exec (.vtrd tk v t e n f k) s = execVtrd tk v t e n f k s := rfl
@[simp] theorem exec_vtwr (tk : Tok) (v : VReg) (t : TReg) (e : Dir) (n : Fin 64) (f : TileFmt) (k : KReg) (s : State) : exec (.vtwr tk v t e n f k) s = execVtwr tk v t e n f k s := rfl
@[simp] theorem exec_vflgRd (tk : Tok) (d : VReg) (k : KReg) (s : State) : exec (.vflgRd tk d k) s = execVflgRd tk d k s := rfl
@[simp] theorem exec_vflgClr (tk : Tok) (f : BitVec 5) (k : KReg) (s : State) : exec (.vflgClr tk f k) s = execVflgClr tk f k s := rfl
@[simp] theorem exec_vflgWr (tk : Tok) (a : VReg) (k : KReg) (s : State) : exec (.vflgWr tk a k) s = execVflgWr tk a k s := rfl
@[simp] theorem exec_vflgAny (tk : Tok) (d : KReg) (f : BitVec 5) (k : KReg) (s : State) : exec (.vflgAny tk d f k) s = execVflgAny tk d f k s := rfl
@[simp] theorem exec_vflgTm (tk : Tok) (d : KReg) (s : State) : exec (.vflgTm tk d) s = execVflgTm tk d s := rfl
@[simp] theorem exec_vflgCtm (tk : Tok) (s : State) : exec (.vflgCtm tk) s = execVflgCtm tk s := rfl
@[simp] theorem exec_vpush (tk : Tok) (q a : VReg) (x : LaneW) (k : KReg) (s : State) : exec (.vpush tk q a x k) s = execVpush tk q a x k s := rfl
@[simp] theorem exec_vpopPack (tk : Tok) (d q : VReg) (b : KReg) (x : LaneW) (s : State) : exec (.vpopPack tk d q b x) s = execVpopPack tk d q b x s := rfl
@[simp] theorem exec_vpopExp (tk : Tok) (d q : VReg) (x : LaneW) (k : KReg) (s : State) : exec (.vpopExp tk d q x k) s = execVpopExp tk d q x k s := rfl
@[simp] theorem exec_vexp (tk : Tok) (d a : VReg) (r : Rounding) (f : HFmt) (k : KReg) (s : State) : exec (.vexp tk d a r f k) s = execVexp tk d a r f k s := rfl
@[simp] theorem exec_vlog (tk : Tok) (d a : VReg) (r : Rounding) (f : HFmt) (k : KReg) (s : State) : exec (.vlog tk d a r f k) s = execVlog tk d a r f k s := rfl
@[simp] theorem exec_verf (tk : Tok) (d a : VReg) (r : Rounding) (f : HFmt) (k : KReg) (s : State) : exec (.verf tk d a r f k) s = execVerf tk d a r f k s := rfl
@[simp] theorem exec_vorient2 (tk : Tok) (d a b : VReg) (t q : Bool) (f : HFmt) (k : KReg) (s : State) : exec (.vorient2 tk d a b t q f k) s = execVorient2 tk d a b t q f k s := rfl
@[simp] theorem exec_vorient3 (tk : Tok) (d a b : VReg) (t q : Bool) (f : HFmt) (k : KReg) (s : State) : exec (.vorient3 tk d a b t q f k) s = execVorient3 tk d a b t q f k s := rfl
@[simp] theorem exec_vincirc (tk : Tok) (d a b : VReg) (t q : Bool) (f : HFmt) (k : KReg) (s : State) : exec (.vincirc tk d a b t q f k) s = execVincirc tk d a b t q f k s := rfl
@[simp] theorem exec_vinsph (tk : Tok) (d a b : VReg) (t q : Bool) (f : HFmt) (k : KReg) (s : State) : exec (.vinsph tk d a b t q f k) s = execVinsph tk d a b t q f k s := rfl
@[simp] theorem exec_vsegx (tk : Tok) (d a b : VReg) (t q : Bool) (f : HFmt) (k : KReg) (s : State) : exec (.vsegx tk d a b t q f k) s = execVsegx tk d a b t q f k s := rfl
@[simp] theorem exec_vmskAnd (tk : Tok) (d a b k : KReg) (s : State) : exec (.vmskAnd tk d a b k) s = execVmskAnd tk d a b k s := rfl
@[simp] theorem exec_vmskOr (tk : Tok) (d a b k : KReg) (s : State) : exec (.vmskOr tk d a b k) s = execVmskOr tk d a b k s := rfl
@[simp] theorem exec_vmskXor (tk : Tok) (d a b k : KReg) (s : State) : exec (.vmskXor tk d a b k) s = execVmskXor tk d a b k s := rfl
@[simp] theorem exec_vmskAndn (tk : Tok) (d a b k : KReg) (s : State) : exec (.vmskAndn tk d a b k) s = execVmskAndn tk d a b k s := rfl
@[simp] theorem exec_vmskTov (tk : Tok) (d : VReg) (a k : KReg) (s : State) : exec (.vmskTov tk d a k) s = execVmskTov tk d a k s := rfl
@[simp] theorem exec_vmskFromv (tk : Tok) (d : KReg) (a : VReg) (k : KReg) (s : State) : exec (.vmskFromv tk d a k) s = execVmskFromv tk d a k s := rfl
@[simp] theorem exec_vmskCnt (tk : Tok) (d : VReg) (a k : KReg) (s : State) : exec (.vmskCnt tk d a k) s = execVmskCnt tk d a k s := rfl
@[simp] theorem exec_vmskFirst (tk : Tok) (d : VReg) (a k : KReg) (s : State) : exec (.vmskFirst tk d a k) s = execVmskFirst tk d a k s := rfl
@[simp] theorem exec_vmov (tk : Tok) (d a : VReg) (f : LaneW) (k : KReg) (s : State) : exec (.vmov tk d a f k) s = execVmov tk d a f k s := rfl
@[simp] theorem exec_viota (tk : Tok) (d : VReg) (f : FixFmt) (k : KReg) (s : State) : exec (.viota tk d f k) s = execViota tk d f k s := rfl
@[simp] theorem exec_veTkw (tk : Tok) (f : Engine) (s : State) : exec (.veTkw tk f) s = execVeTkw tk f s := rfl
@[simp] theorem exec_veTks (tk : Tok) (f : Engine) (s : State) : exec (.veTks tk f) s = execVeTks tk f s := rfl
@[simp] theorem exec_veLoop (tk : Tok) (l : Fin 1024) (c : Bool) (n : Fin 8192) (s : State) : exec (.veLoop tk l c n) s = execVeLoop tk l c n s := rfl
@[simp] theorem exec_veSeg (tk : Tok) (cnt : BitVec 24) (crc : BitVec 16) (s : State) : exec (.veSeg tk cnt crc) s = execVeSeg tk cnt crc s := rfl
@[simp] theorem exec_veSafe (tk : Tok) (s : State) : exec (.veSafe tk) s = execVeSafe tk s := rfl
@[simp] theorem exec_veEnd (tk : Tok) (s : State) : exec (.veEnd tk) s = execVeEnd tk s := rfl
@[simp] theorem exec_mmaF64 (tk : Tok) (d : TReg) (a b : Sys2Proof.ZReg) (r : Rounding) (c t e : Bool) (s : State) : exec (.mmaF64 tk d a b r c t e) s = execMmaF64 tk d a b r c t e s := rfl
@[simp] theorem exec_mmaB16 (tk : Tok) (d : TReg) (a b : Sys2Proof.ZReg) (f : B16Fmt) (r : Rounding) (c t e : Bool) (s : State) : exec (.mmaB16 tk d a b f r c t e) s = execMmaB16 tk d a b f r c t e s := rfl
@[simp] theorem exec_mmas (tk : Tok) (d : TReg) (a b : Sys2Proof.ZReg) (f : B16Fmt) (r : Rounding) (c t e : Bool) (s : State) : exec (.mmas tk d a b f r c t e) s = execMmas tk d a b f r c t e s := rfl
@[simp] theorem exec_mmaF8 (tk : Tok) (d : TReg) (a b : Sys2Proof.ZReg) (f : BitVec 2) (r : Rounding) (c t e : Bool) (s : State) : exec (.mmaF8 tk d a b f r c t e) s = execMmaF8 tk d a b f r c t e s := rfl
@[simp] theorem exec_mmaI8 (tk : Tok) (d : TReg) (a b : Sys2Proof.ZReg) (f : BitVec 2) (c t e : Bool) (s : State) : exec (.mmaI8 tk d a b f c t e) s = execMmaI8 tk d a b f c t e s := rfl
@[simp] theorem exec_mmaF4 (tk : Tok) (d : TReg) (a b : Sys2Proof.ZReg) (r : Rounding) (c t e : Bool) (s : State) : exec (.mmaF4 tk d a b r c t e) s = execMmaF4 tk d a b r c t e s := rfl
@[simp] theorem exec_mmaI4 (tk : Tok) (d : TReg) (a b : Sys2Proof.ZReg) (f : BitVec 2) (c t e : Bool) (s : State) : exec (.mmaI4 tk d a b f c t e) s = execMmaI4 tk d a b f c t e s := rfl
@[simp] theorem exec_lrset (tk : Tok) (d : TReg) (a b : Sys2Proof.ZReg) (e : Bool) (s : State) : exec (.lrset tk d a b e) s = execLrset tk d a b e s := rfl
@[simp] theorem exec_lrmul (tk : Tok) (d a b : TReg) (s : State) : exec (.lrmul tk d a b) s = execLrmul tk d a b s := rfl
@[simp] theorem exec_lradd (tk : Tok) (d a b : TReg) (n : Bool) (s : State) : exec (.lradd tk d a b n) s = execLradd tk d a b n s := rfl
@[simp] theorem exec_lrcmp (tk : Tok) (d a : TReg) (s : State) : exec (.lrcmp tk d a) s = execLrcmp tk d a s := rfl
@[simp] theorem exec_lrden (tk : Tok) (d a : TReg) (c : Bool) (s : State) : exec (.lrden tk d a c) s = execLrden tk d a c s := rfl
@[simp] theorem exec_lrrank (tk : Tok) (a : TReg) (s : State) : exec (.lrrank tk a) s = execLrrank tk a s := rfl
@[simp] theorem exec_lrrankSet (tk : Tok) (d : TReg) (s : State) : exec (.lrrankSet tk d) s = execLrrankSet tk d s := rfl
@[simp] theorem exec_mrd (tk : Tok) (t : TReg) (e : Dir) (n : Fin 64) (s : State) : exec (.mrd tk t e n) s = execMrd tk t e n s := rfl
@[simp] theorem exec_mwr (tk : Tok) (t : TReg) (e : Dir) (n : Fin 64) (s : State) : exec (.mwr tk t e n) s = execMwr tk t e n s := rfl
@[simp] theorem exec_mldc (tk : Tok) (t : TReg) (e : Dir) (n : Fin 64) (f : Fin 32) (g : Bool) (s : State) : exec (.mldc tk t e n f g) s = execMldc tk t e n f g s := rfl
@[simp] theorem exec_mstc (tk : Tok) (t : TReg) (e : Dir) (n : Fin 64) (f : Fin 32) (g : Bool) (s : State) : exec (.mstc tk t e n f g) s = execMstc tk t e n f g s := rfl
@[simp] theorem exec_talloc (tk : Tok) (d : TReg) (n : Fin 2048) (f : TileForm) (s : State) : exec (.talloc tk d n f) s = execTalloc tk d n f s := rfl
@[simp] theorem exec_tfree (tk : Tok) (d : TReg) (s : State) : exec (.tfree tk d) s = execTfree tk d s := rfl
@[simp] theorem exec_tclr (tk : Tok) (d : TReg) (s : State) : exec (.tclr tk d) s = execTclr tk d s := rfl
@[simp] theorem exec_tmov (tk : Tok) (d a : TReg) (s : State) : exec (.tmov tk d a) s = execTmov tk d a s := rfl
@[simp] theorem exec_mloop (tk : Tok) (l : Fin 1024) (i : Fin 64) (c : Bool) (n : Fin 128) (s : State) : exec (.mloop tk l i c n) s = execMloop tk l i c n s := rfl
@[simp] theorem exec_meLoop (tk : Tok) (l : Fin 1024) (c : Bool) (n : Fin 8192) (s : State) : exec (.meLoop tk l c n) s = execMeLoop tk l c n s := rfl
@[simp] theorem exec_meTkw (tk : Tok) (f : Engine) (s : State) : exec (.meTkw tk f) s = execMeTkw tk f s := rfl
@[simp] theorem exec_meTks (tk : Tok) (f : Engine) (s : State) : exec (.meTks tk f) s = execMeTks tk f s := rfl
@[simp] theorem exec_meSeg (tk : Tok) (cnt : BitVec 24) (crc : BitVec 16) (s : State) : exec (.meSeg tk cnt crc) s = execMeSeg tk cnt crc s := rfl
@[simp] theorem exec_meSafe (tk : Tok) (s : State) : exec (.meSafe tk) s = execMeSafe tk s := rfl
@[simp] theorem exec_meEnd (tk : Tok) (s : State) : exec (.meEnd tk) s = execMeEnd tk s := rfl
@[simp] theorem exec_meNop (tk : Tok) (s : State) : exec (.meNop tk) s = execMeNop tk s := rfl
@[simp] theorem exec_cp (tk : Tok) (p q : CReg) (a : AReg) (x : CpDst) (y : CpSrc) (o : Bool) (z : Fin 8) (s : State) : exec (.cp tk p q a x y o z) s = execCp tk p q a x y o z s := rfl
@[simp] theorem exec_cpn (tk : Tok) (p q : Sys2Proof.ZReg) (a : AReg) (o : Bool) (s : State) : exec (.cpn tk p q a o) s = execCpn tk p q a o s := rfl
@[simp] theorem exec_cpx (tk : Tok) (p q : CReg) (a : AReg) (x : CpxDst) (o : Bool) (z : Fin 8) (s : State) : exec (.cpx tk p q a x o z) s = execCpx tk p q a x o z s := rfl
@[simp] theorem exec_cprm (tk : Tok) (p q : CReg) (a : AReg) (m : Fin 64) (o : Bool) (z : Fin 8) (s : State) : exec (.cprm tk p q a m o z) s = execCprm tk p q a m o z s := rfl
@[simp] theorem exec_pf (tk : Tok) (q : CReg) (l : Bool) (z : Fin 8) (s : State) : exec (.pf tk q l z) s = execPf tk q l z s := rfl
@[simp] theorem exec_keep (tk : Tok) (n : Fin 8) (q : CReg) (s : State) : exec (.keep tk n q) s = execKeep tk n q s := rfl
@[simp] theorem exec_keepF (tk : Tok) (n : Fin 8) (q : CReg) (a : AReg) (s : State) : exec (.keepF tk n q a) s = execKeepF tk n q a s := rfl
@[simp] theorem exec_unkeep (tk : Tok) (n : Fin 8) (s : State) : exec (.unkeep tk n) s = execUnkeep tk n s := rfl
@[simp] theorem exec_cflush (tk : Tok) (q : CReg) (a : AReg) (h : Bool) (s : State) : exec (.cflush tk q a h) s = execCflush tk q a h s := rfl
@[simp] theorem exec_cinv (tk : Tok) (q : CReg) (a : AReg) (s : State) : exec (.cinv tk q a) s = execCinv tk q a s := rfl
@[simp] theorem exec_cpatm (tk : Tok) (p q : CReg) (a : AReg) (c : AmoOp) (x e o : Bool) (z : ListSrc) (s : State) : exec (.cpatm tk p q a c x e o z) s = execCpatm tk p q a c x e o z s := rfl
@[simp] theorem exec_collAr (tk : Tok) (p : CReg) (a : AReg) (o : Bool) (s : State) : exec (.collAr tk p a o) s = execCollAr tk p a o s := rfl
@[simp] theorem exec_collRs (tk : Tok) (p : CReg) (a : AReg) (o : Bool) (s : State) : exec (.collRs tk p a o) s = execCollRs tk p a o s := rfl
@[simp] theorem exec_collAg (tk : Tok) (p : CReg) (a : AReg) (o : Bool) (s : State) : exec (.collAg tk p a o) s = execCollAg tk p a o s := rfl
@[simp] theorem exec_collBc (tk : Tok) (p : CReg) (a : AReg) (o : Bool) (s : State) : exec (.collBc tk p a o) s = execCollBc tk p a o s := rfl
@[simp] theorem exec_sigSt (tk : Tok) (p q : CReg) (a : AReg) (m : Fin 64) (o x : Bool) (s : State) : exec (.sigSt tk p q a m o x) s = execSigSt tk p q a m o x s := rfl
@[simp] theorem exec_sigAdd (tk : Tok) (p q : CReg) (a : AReg) (m : Fin 64) (o x : Bool) (s : State) : exec (.sigAdd tk p q a m o x) s = execSigAdd tk p q a m o x s := rfl
@[simp] theorem exec_acset (tk : Tok) (q : CReg) (a : AReg) (s : State) : exec (.acset tk q a) s = execAcset tk q a s := rfl
@[simp] theorem exec_acadd (tk : Tok) (q : CReg) (a : AReg) (s : State) : exec (.acadd tk q a) s = execAcadd tk q a s := rfl
@[simp] theorem exec_acwait (tk : Tok) (a : AReg) (s : State) : exec (.acwait tk a) s = execAcwait tk a s := rfl
@[simp] theorem exec_lyt (tk : Tok) (p q : Sys2Proof.ZReg) (a : AReg) (m : CReg) (o : Bool) (s : State) : exec (.lyt tk p q a m o) s = execLyt tk p q a m o s := rfl
@[simp] theorem exec_scfg (tk : Tok) (p : Sys2Proof.ZReg) (q : CReg) (s : State) : exec (.scfg tk p q) s = execScfg tk p q s := rfl
@[simp] theorem exec_cgetPop (tk : Tok) (p : CReg) (s : State) : exec (.cgetPop tk p) s = execCgetPop tk p s := rfl
@[simp] theorem exec_cgetC (tk : Tok) (p : CReg) (s : State) : exec (.cgetC tk p) s = execCgetC tk p s := rfl
@[simp] theorem exec_cgetCur (tk : Tok) (p : Sys2Proof.ZReg) (s : State) : exec (.cgetCur tk p) s = execCgetCur tk p s := rfl
@[simp] theorem exec_cgetScale (tk : Tok) (p : Sys2Proof.ZReg) (s : State) : exec (.cgetScale tk p) s = execCgetScale tk p s := rfl
@[simp] theorem exec_cgetAc (tk : Tok) (n : AReg) (s : State) : exec (.cgetAc tk n) s = execCgetAc tk n s := rfl
@[simp] theorem exec_cgetLi (tk : Tok) (p : CReg) (i : BitVec 16) (s : State) : exec (.cgetLi tk p i) s = execCgetLi tk p i s := rfl
@[simp] theorem exec_cadd (tk : Tok) (p q : CReg) (i : BitVec 16) (s : State) : exec (.cadd tk p q i) s = execCadd tk p q i s := rfl
@[simp] theorem exec_hret (c : BitVec 8) (s : State) : exec (.hret c) s = execHret c s := rfl
@[simp] theorem exec_hflag (p q : CReg) (s : State) : exec (.hflag p q) s = execHflag p q s := rfl
@[simp] theorem exec_spill (tk : Tok) (p q : CReg) (a : AReg) (b : Buf) (o : Bool) (s : State) : exec (.spill tk p q a b o) s = execSpill tk p q a b o s := rfl
@[simp] theorem exec_fill (tk : Tok) (p q : CReg) (a : AReg) (b : Buf) (o : Bool) (s : State) : exec (.fill tk p q a b o) s = execFill tk p q a b o s := rfl
@[simp] theorem exec_datmOpen (tk : Tok) (p q : CReg) (o : Bool) (s : State) : exec (.datmOpen tk p q o) s = execDatmOpen tk p q o s := rfl
@[simp] theorem exec_datmClose (tk : Tok) (p : CReg) (a : AReg) (r : Bool) (s : State) : exec (.datmClose tk p a r) s = execDatmClose tk p a r s := rfl
@[simp] theorem exec_ceLoop (tk : Tok) (l : Fin 1024) (c : Bool) (n : Fin 8192) (s : State) : exec (.ceLoop tk l c n) s = execCeLoop tk l c n s := rfl
@[simp] theorem exec_ceTkw (tk : Tok) (f : Engine) (s : State) : exec (.ceTkw tk f) s = execCeTkw tk f s := rfl
@[simp] theorem exec_ceTks (tk : Tok) (f : Engine) (s : State) : exec (.ceTks tk f) s = execCeTks tk f s := rfl
@[simp] theorem exec_ceSeg (tk : Tok) (cnt : BitVec 24) (crc : BitVec 16) (s : State) : exec (.ceSeg tk cnt crc) s = execCeSeg tk cnt crc s := rfl
@[simp] theorem exec_ceSafe (tk : Tok) (s : State) : exec (.ceSafe tk) s = execCeSafe tk s := rfl
@[simp] theorem exec_ceEnd (tk : Tok) (s : State) : exec (.ceEnd tk) s = execCeEnd tk s := rfl
@[simp] theorem exec_ceNop (tk : Tok) (s : State) : exec (.ceNop tk) s = execCeNop tk s := rfl
@[simp] theorem exec_launch (h : Pkt) (first : Word) (count : Nat) (s : State) : exec (.launch h first count) s = execLaunch h first count s := rfl
@[simp] theorem exec_wait (h : Pkt) (addr value : Word) (c : WCond) (w32 : Bool) (s : State) : exec (.wait h addr value c w32) s = execWait h addr value c w32 s := rfl
@[simp] theorem exec_signal (h : Pkt) (addr value : Word) (w32 : Bool) (s : State) : exec (.signal h addr value w32) s = execSignal h addr value w32 s := rfl
@[simp] theorem exec_write (h : Pkt) (addr : Word) (data : List Word) (s : State) : exec (.write h addr data) s = execWrite h addr data s := rfl
@[simp] theorem exec_writeSignal (h : Pkt) (addr : Word) (data : List Word) (sigAddr sigVal : Word) (s : State) : exec (.writeSignal h addr data sigAddr sigVal) s = execWriteSignal h addr data sigAddr sigVal s := rfl
@[simp] theorem exec_transformCompress (h : Pkt) (src dst length : Word) (exp : BitVec 2) (rep : Report) (s : State) : exec (.transformCompress h src dst length exp rep) s = execTransformCompress h src dst length exp rep s := rfl
@[simp] theorem exec_transformExpand (h : Pkt) (src dst length : Word) (rep : Report) (s : State) : exec (.transformExpand h src dst length rep) s = execTransformExpand h src dst length rep s := rfl
@[simp] theorem exec_transformLayout (h : Pkt) (sdesc ddesc map : Word) (rep : Report) (s : State) : exec (.transformLayout h sdesc ddesc map rep) s = execTransformLayout h sdesc ddesc map rep s := rfl
@[simp] theorem exec_transformQuant (h : Pkt) (src dst length : Word) (q : QntType) (mode : Rounding) (rep : Report) (s : State) : exec (.transformQuant h src dst length q mode rep) s = execTransformQuant h src dst length q mode rep s := rfl
@[simp] theorem exec_node (h : Pkt) (counter payload : Word) (succ : List Word) (s : State) : exec (.node h counter payload succ) s = execNode h counter payload succ s := rfl
@[simp] theorem exec_mark (h : Pkt) (addr : Word) (s : State) : exec (.mark h addr) s = execMark h addr s := rfl
@[simp] theorem exec_inval (h : Pkt) (ctx : Nat) (va length : Word) (s : State) : exec (.inval h ctx va length) s = execInval h ctx va length s := rfl
@[simp] theorem exec_echo (g : CoreNo) (arg : BitVec 56) (s : State) : exec (.echo g arg) s = execEcho g arg s := rfl
@[simp] theorem exec_moduleTime (g : CoreNo) (arg : BitVec 56) (s : State) : exec (.moduleTime g arg) s = execModuleTime g arg s := rfl
@[simp] theorem exec_checkpoint (g : CoreNo) (arg : BitVec 56) (s : State) : exec (.checkpoint g arg) s = execCheckpoint g arg s := rfl
@[simp] theorem exec_yield (g : CoreNo) (arg : BitVec 56) (s : State) : exec (.yield g arg) s = execYield g arg s := rfl
@[simp] theorem exec_inServiceCoreCount (g : CoreNo) (arg : BitVec 56) (s : State) : exec (.inServiceCoreCount g arg) s = execInServiceCoreCount g arg s := rfl
@[simp] theorem exec_unknownService (g : CoreNo) (code : BitVec 8) (arg : BitVec 56) (s : State) : exec (.unknownService g code arg) s = execUnknownService g code arg s := rfl
@[simp] theorem exec_fmodeWrite (g : CoreNo) (fw : Bool) (v : Word) (s : State) : exec (.fmodeWrite g fw v) s = execFmodeWrite g fw v s := rfl
@[simp] theorem exec_mflgWrite (g : CoreNo) (fw : Bool) (v : Word) (s : State) : exec (.mflgWrite g fw v) s = execMflgWrite g fw v s := rfl
@[simp] theorem exec_mtolWrite (g : CoreNo) (fw : Bool) (v : Word) (s : State) : exec (.mtolWrite g fw v) s = execMtolWrite g fw v s := rfl
@[simp] theorem exec_mrmodeWrite (g : CoreNo) (fw : Bool) (v : Word) (s : State) : exec (.mrmodeWrite g fw v) s = execMrmodeWrite g fw v s := rfl
@[simp] theorem exec_rungWrite (g : CoreNo) (v : Word) (s : State) : exec (.rungWrite g v) s = execRungWrite g v s := rfl
@[simp] theorem exec_fshareWrite (g : CoreNo) (v : Word) (s : State) : exec (.fshareWrite g v) s = execFshareWrite g v s := rfl
@[simp] theorem exec_wdogWrite (g : CoreNo) (v : Word) (s : State) : exec (.wdogWrite g v) s = execWdogWrite g v s := rfl
@[simp] theorem exec_q6ToVq2Transfer (g : CoreNo) (s : State) : exec (.q6ToVq2Transfer g) s = execQ6ToVq2Transfer g s := rfl
@[simp] theorem exec_vq3ToQ7Transfer (g : CoreNo) (s : State) : exec (.vq3ToQ7Transfer g) s = execVq3ToQ7Transfer g s := rfl
@[simp] theorem exec_helperStart (g : CoreNo) (s : State) : exec (.helperStart g) s = execHelperStart g s := rfl
@[simp] theorem exec_larkspurStart (g : CoreNo) (s : State) : exec (.larkspurStart g) s = execLarkspurStart g s := rfl
@[simp] theorem exec_copyUnitLand (g : CoreNo) (copy unit : Nat) (s : State) : exec (.copyUnitLand g copy unit) s = execCopyUnitLand g copy unit s := rfl
@[simp] theorem exec_copyComplete (g : CoreNo) (copy : Nat) (s : State) : exec (.copyComplete g copy) s = execCopyComplete g copy s := rfl
@[simp] theorem exec_q2AtomicApply (g : CoreNo) (s : State) : exec (.q2AtomicApply g) s = execQ2AtomicApply g s := rfl
@[simp] theorem exec_windowApply (task : Nat) (win : Fin 64) (s : State) : exec (.windowApply task win) s = execWindowApply task win s := rfl
@[simp] theorem exec_wmonSatisfy (g : CoreNo) (s : State) : exec (.wmonSatisfy g) s = execWmonSatisfy g s := rfl
@[simp] theorem exec_hollyhockSettle (g : CoreNo) (s : State) : exec (.hollyhockSettle g) s = execHollyhockSettle g s := rfl
@[simp] theorem exec_meFeederDecode (g : CoreNo) (s : State) : exec (.meFeederDecode g) s = execMeFeederDecode g s := rfl
@[simp] theorem exec_assistEnter (g : CoreNo) (s : State) : exec (.assistEnter g) s = execAssistEnter g s := rfl
@[simp] theorem exec_assistDone (g : CoreNo) (s : State) : exec (.assistDone g) s = execAssistDone g s := rfl
@[simp] theorem exec_trapTake (g : CoreNo) (s : State) : exec (.trapTake g) s = execTrapTake g s := rfl
@[simp] theorem exec_firmwareFirstService (g : CoreNo) (answer : Service) (s : State) : exec (.firmwareFirstService g answer) s = execFirmwareFirstService g answer s := rfl
@[simp] theorem exec_segMismatchReplay (g : CoreNo) (passed : Bool) (dest : CoreNo) (s : State) : exec (.segMismatchReplay g passed dest) s = execSegMismatchReplay g passed dest s := rfl
@[simp] theorem exec_passEnd (g : CoreNo) (s : State) : exec (.passEnd g) s = execPassEnd g s := rfl
@[simp] theorem exec_instancePlace (task : Nat) (g : CoreNo) (s : State) : exec (.instancePlace task g) s = execInstancePlace task g s := rfl
@[simp] theorem exec_shadowSwap (g : CoreNo) (s : State) : exec (.shadowSwap g) s = execShadowSwap g s := rfl
@[simp] theorem exec_taskKill (task : Nat) (detail : BitVec 8) (s : State) : exec (.taskKill task detail) s = execTaskKill task detail s := rfl
@[simp] theorem exec_preemptRequest (g : CoreNo) (s : State) : exec (.preemptRequest g) s = execPreemptRequest g s := rfl
@[simp] theorem exec_contextSave (g : CoreNo) (s : State) : exec (.contextSave g) s = execContextSave g s := rfl
@[simp] theorem exec_contextRestore (n : Nat) (g : CoreNo) (s : State) : exec (.contextRestore n g) s = execContextRestore n g s := rfl
@[simp] theorem exec_watchdogExpiry (g : CoreNo) (s : State) : exec (.watchdogExpiry g) s = execWatchdogExpiry g s := rfl
@[simp] theorem exec_marginTest (u : AgedUnit) (fails again : Bool) (s : State) : exec (.marginTest u fails again) s = execMarginTest u fails again s := rfl
@[simp] theorem exec_foxglove (u : AgedUnit) (fails : Bool) (s : State) : exec (.foxglove u fails) s = execFoxglove u fails s := rfl
@[simp] theorem exec_errorDetected (c : ErrorCase) (granule : Nat) (s : State) : exec (.errorDetected c granule) s = execErrorDetected c granule s := rfl
@[simp] theorem exec_capacityReduction (ch : Fin 1024) (s : State) : exec (.capacityReduction ch) s = execCapacityReduction ch s := rfl
@[simp] theorem exec_channelRetire (ch : Fin 1024) (bad : List Nat) (s : State) : exec (.channelRetire ch bad) s = execChannelRetire ch bad s := rfl
@[simp] theorem exec_nodeFire (n : Nat) (s : State) : exec (.nodeFire n) s = execNodeFire n s := rfl
@[simp] theorem exec_ringPark (r : Fin 256) (s : State) : exec (.ringPark r) s = execRingPark r s := rfl
@[simp] theorem exec_ringRearm (r : Fin 256) (s : State) : exec (.ringRearm r) s = execRingRearm r s := rfl
@[simp] theorem exec_ringRestart (r : Fin 256) (ridx : Word) (s : State) : exec (.ringRestart r ridx) s = execRingRestart r ridx s := rfl
@[simp] theorem exec_slotGrant (r : Fin 256) (s : State) : exec (.slotGrant r) s = execSlotGrant r s := rfl
@[simp] theorem exec_ringSliceExpiry (r : Fin 256) (s : State) : exec (.ringSliceExpiry r) s = execRingSliceExpiry r s := rfl
@[simp] theorem exec_taskDispatch (task : Nat) (s : State) : exec (.taskDispatch task) s = execTaskDispatch task s := rfl
@[simp] theorem exec_taskComplete (task : Nat) (s : State) : exec (.taskComplete task) s = execTaskComplete task s := rfl
@[simp] theorem exec_flitReceive (l : Fin 16) (f : Flit) (s : State) : exec (.flitReceive l f) s = execFlitReceive l f s := rfl
@[simp] theorem exec_nakReceive (l : Fin 16) (ack : BitVec 16) (s : State) : exec (.nakReceive l ack) s = execNakReceive l ack s := rfl
@[simp] theorem exec_ackTimer (l : Fin 16) (s : State) : exec (.ackTimer l) s = execAckTimer l s := rfl
@[simp] theorem exec_replayTimeout (l : Fin 16) (s : State) : exec (.replayTimeout l) s = execReplayTimeout l s := rfl
@[simp] theorem exec_retrainComplete (l : Fin 16) (trained : Bool) (s : State) : exec (.retrainComplete l trained) s = execRetrainComplete l trained s := rfl
@[simp] theorem exec_laneFailure (l lane : Fin 16) (s : State) : exec (.laneFailure l lane) s = execLaneFailure l lane s := rfl
@[simp] theorem exec_linkRetireReroute (l : Fin 16) (s : State) : exec (.linkRetireReroute l) s = execLinkRetireReroute l s := rfl
@[simp] theorem exec_remoteUnitAck (g : CoreNo) (copy unit : Nat) (answer : RemoteAnswer) (s : State) : exec (.remoteUnitAck g copy unit answer) s = execRemoteUnitAck g copy unit answer s := rfl
@[simp] theorem exec_memberRemove (grp slot : Fin 64) (s : State) : exec (.memberRemove grp slot) s = execMemberRemove grp slot s := rfl
@[simp] theorem exec_collectiveCommit (g : CoreNo) (copy : Nat) (others : List Contribution) (agree : Bool) (s : State) : exec (.collectiveCommit g copy others agree) s = execCollectiveCommit g copy others agree s := rfl
@[simp] theorem exec_hostBar1Write (pa : Nat) (data : List Byte) (s : State) : exec (.hostBar1Write pa data) s = execHostBar1Write pa data s := rfl
@[simp] theorem exec_hostAtomicop (op : HostAtomic) (w32 : Bool) (pa : Nat) (x cmp : Word) (s : State) : exec (.hostAtomicop op w32 pa x cmp) s = execHostAtomicop op w32 pa x cmp s := rfl
@[simp] theorem exec_powerOn (s : State) : exec (.powerOn) s = execPowerOn s := rfl
@[simp] theorem exec_thermalTrip (s : State) : exec (.thermalTrip) s = execThermalTrip s := rfl
@[simp] theorem exec_powerCapSet (watts : Nat) (s : State) : exec (.powerCapSet watts) s = execPowerCapSet watts s := rfl
@[simp] theorem exec_d3hotEntry (s : State) : exec (.d3hotEntry) s = execD3hotEntry s := rfl
@[simp] theorem exec_d3coldEntry (s : State) : exec (.d3coldEntry) s = execD3coldEntry s := rfl
@[simp] theorem exec_quoteRequest (nonce : BitVec 256) (s : State) : exec (.quoteRequest nonce) s = execQuoteRequest nonce s := rfl
@[simp] theorem exec_firmwareUpdate (v : Nat) (c : SignedBody) (s : State) : exec (.firmwareUpdate v c) s = execFirmwareUpdate v c s := rfl
@[simp] theorem exec_d3hotExit (s : State) : exec (.d3hotExit) s = execD3hotExit s := rfl
@[simp] theorem exec_waitSatisfied (r : Fin 256) (s : State) : exec (.waitSatisfied r) s = execWaitSatisfied r s := rfl
@[simp] theorem exec_coreOutOfService (g : CoreNo) (s : State) : exec (.coreOutOfService g) s = execCoreOutOfService g s := rfl
@[simp] theorem exec_shadowWithdraw (g : CoreNo) (s : State) : exec (.shadowWithdraw g) s = execShadowWithdraw g s := rfl

end Sys2Proof.Machine
end

