-- ==== Sys2Proof/Laws/Feeder.lean ====
section
/-! SUPPORT. The operand feeder reads every element of a stream when no unit of W or A holds a stored tile (15 R409, R411). -/

namespace Sys2Proof.Machine

open Host

/-- Without tags a range of a buffer reads as its bytes. -/
theorem bufRead_plain {i : Inst} {b : Buf} (h : i.tags b = []) (off n : Nat) : i.bufRead b off n = .ok ((i.buf b).read off n) := by
  have hf : ∀ l : List Nat, l.find? (fun _ => false) = none := fun l => by simp
  unfold Inst.bufRead
  simp [h, hf]

theorem bufBits_plain {i : Inst} {b : Buf} (h : i.tags b = []) (p w : Nat) : ∃ v, i.bufBits b p w = .ok v := by
  unfold Inst.bufBits
  rw [bufRead_plain h]
  exact ⟨_, rfl⟩

theorem planeBits_plain {i : Inst} {b : Buf} (h : i.tags b = []) (z : ZReg) (p k acc : Nat) :
    ∃ v, i.planeBits b z p k acc = .ok v := by
  induction k generalizing acc with
  | zero => exact ⟨acc, rfl⟩
  | succ j ih =>
    obtain ⟨v, hv⟩ := bufBits_plain h (p + 8 * (z.planeOf (z.planes - 1 - j)).toNat) 1
    simp only [Inst.planeBits, hv]
    exact ih _

theorem element_plain {i : Inst} (h : ∀ b, i.tags b = []) (z : ZReg) (n : Nat) : ∃ v, i.element z n = .ok v := by
  unfold Inst.element
  dsimp only
  split
  · obtain ⟨v, hv⟩ := planeBits_plain (h (i.streamOrigin z).1) z (8 * ((i.streamOrigin z).2 : Int) + z.bitOf n).toNat z.planes 0
    rw [hv]; exact ⟨_, rfl⟩
  · obtain ⟨v, hv⟩ := bufBits_plain (h (i.streamOrigin z).1) (8 * ((i.streamOrigin z).2 : Int) + z.bitOf n).toNat z.w
    rw [hv]
    simp only [bind, Except.bind]
    split
    · obtain ⟨x, hx⟩ := bufBits_plain (h (i.streamOrigin z).1) (8 * (((i.streamOrigin z).2 : Int) + z.scaleOf (n / 32)).toNat) 8
      rw [hx]; exact ⟨_, rfl⟩
    · exact ⟨_, rfl⟩

theorem mapM_ok {α β ε : Type} (f : α → Except ε β) (h : ∀ a, ∃ b, f a = .ok b) (l : List α) : ∃ r, l.mapM f = .ok r := by
  induction l with
  | nil => exact ⟨[], rfl⟩
  | cons a t ih =>
    obtain ⟨b, hb⟩ := h a
    obtain ⟨r, hr⟩ := ih
    exact ⟨b :: r, by simp [List.mapM_cons, hb, hr, bind, Except.bind, pure, Except.pure]⟩

/-- Every element that an instruction takes is there. -/
theorem take_plain {i : Inst} (h : ∀ b, i.tags b = []) (n : Sys2Proof.ZReg) (e : Nat) : ∃ xs, i.take n e = .ok xs := by
  obtain ⟨r, hr⟩ := mapM_ok (fun k => i.element i.z[n] (elemNo i.z[n] k)) (fun k => element_plain h _ _) (List.range e)
  exact ⟨r.toArray, by unfold Inst.take; rw [hr]; rfl⟩

end Sys2Proof.Machine
end

