-- ==== Sys2Proof/Laws/Memory.lean ====
section
/-! SUPPORT. The laws of byte spaces: reading after writing, and that every operation keeps the canonical form. -/

namespace Sys2Proof.Machine

/-- Every listed address is at least a. -/
def Above (a : Nat) (m : Bytes) : Prop := ∀ c ∈ m, a ≤ c.1

theorem wf_cons (c : Host.Cell) (m : Bytes) :
    Memory.wf (c :: m) = true ↔ c.2 ≠ 0 ∧ Above (c.1 + 1) m ∧ Memory.wf m = true := by
  induction m generalizing c with
  | nil => simp [Memory.wf, Above]
  | cons d t ih =>
    simp only [Memory.wf, Bool.and_eq_true, bne_iff_ne, decide_eq_true_eq, ih d]
    constructor
    · rintro ⟨⟨h1, h2⟩, h3, h4, h5⟩
      refine ⟨h1, ?_, h3, h4, h5⟩
      intro x hx
      rcases List.mem_cons.1 hx with rfl | hx
      · exact h2
      · have := h4 x hx; omega
    · rintro ⟨h1, h2, h3, h4, h5⟩
      exact ⟨⟨h1, h2 d (List.mem_cons_self ..)⟩, h3, h4, h5⟩

theorem wf_nil : Memory.wf [] = true := rfl

theorem wf_filter (p : Host.Cell → Bool) (m : Bytes) (h : Memory.wf m = true) : Memory.wf (m.filter p) = true := by
  induction m with
  | nil => rfl
  | cons c t ih =>
    obtain ⟨h1, h2, h3⟩ := (wf_cons c t).1 h
    by_cases hp : p c
    · rw [List.filter_cons_of_pos hp]
      exact (wf_cons _ _).2 ⟨h1, fun x hx => h2 x (List.mem_of_mem_filter hx), ih h3⟩
    · rw [List.filter_cons_of_neg hp]; exact ih h3

theorem wf_append (l m : Bytes) (a : Nat) (hl : Memory.wf l = true) (hm : Memory.wf m = true) (h1 : ∀ c ∈ l, c.1 < a)
    (h2 : Above a m) : Memory.wf (l ++ m) = true := by
  induction l with
  | nil => exact hm
  | cons c t ih =>
    obtain ⟨k1, k2, k3⟩ := (wf_cons c t).1 hl
    refine (wf_cons _ _).2 ⟨k1, ?_, ih k3 fun x hx => h1 x (List.mem_cons_of_mem _ hx)⟩
    intro x hx
    rcases List.mem_append.1 hx with hx | hx
    · exact k2 x hx
    · have := h1 c (List.mem_cons_self ..); have := h2 x hx; omega

theorem cellsFrom_bounds (bs : List Byte) (a : Nat) : ∀ c ∈ cellsFrom a bs, a ≤ c.1 ∧ c.1 < a + bs.length := by
  induction bs generalizing a with
  | nil => simp [cellsFrom]
  | cons b t ih =>
    intro c hc
    simp only [cellsFrom] at hc
    split at hc
    · have := ih (a + 1) c hc; simp only [List.length_cons]; omega
    · rcases List.mem_cons.1 hc with rfl | hc
      · simp
      · have := ih (a + 1) c hc; simp only [List.length_cons]; omega

theorem wf_cellsFrom (bs : List Byte) (a : Nat) : Memory.wf (cellsFrom a bs) = true := by
  induction bs generalizing a with
  | nil => rfl
  | cons b t ih =>
    simp only [cellsFrom]
    split
    · exact ih _
    · exact (wf_cons _ _).2 ⟨‹_›, fun x hx => (cellsFrom_bounds t _ x hx).1, ih _⟩

/-- A write keeps the canonical form. -/
theorem wf_put (m : Bytes) (a : Nat) (bs : List Byte) (h : Memory.wf m = true) : Memory.wf (m.put a bs) = true := by
  unfold Bytes.put
  refine wf_append _ _ (a + bs.length) (wf_append _ _ a (wf_filter _ _ h) (wf_cellsFrom _ _) ?_ ?_) (wf_filter _ _ h) ?_ ?_
  · intro c hc; simpa using (List.mem_filter.1 hc).2
  · intro c hc; exact (cellsFrom_bounds _ _ c hc).1
  · intro c hc
    rcases List.mem_append.1 hc with hc | hc
    · have : c.1 < a := by simpa using (List.mem_filter.1 hc).2
      omega
    · exact (cellsFrom_bounds _ _ c hc).2
  · intro c hc; simpa using (List.mem_filter.1 hc).2

theorem get_append (l m : Bytes) (a : Nat) (h : ∀ c ∈ l, c.1 ≠ a) : Bytes.get (l ++ m) a = m.get a := by
  induction l with
  | nil => rfl
  | cons c t ih =>
    have h1 : c.1 ≠ a := h c (List.mem_cons_self ..)
    show (if c.1 = a then c.2 else Bytes.get (t ++ m) a) = _
    rw [if_neg h1, ih fun x hx => h x (List.mem_cons_of_mem _ hx)]

theorem get_append_of_mem (l m : Bytes) (a : Nat) (h : ∀ c ∈ m, c.1 ≠ a) : Bytes.get (l ++ m) a = l.get a := by
  induction l with
  | nil =>
    show Bytes.get m a = 0
    induction m with
    | nil => rfl
    | cons c t ih =>
      show (if c.1 = a then c.2 else Bytes.get t a) = 0
      rw [if_neg (h c (List.mem_cons_self ..)), ih fun x hx => h x (List.mem_cons_of_mem _ hx)]
  | cons c t ih =>
    show (if c.1 = a then c.2 else Bytes.get (t ++ m) a) = (if c.1 = a then c.2 else Bytes.get t a)
    rw [ih]

theorem get_filter (p : Host.Cell → Bool) (m : Bytes) (a : Nat) (h : ∀ c ∈ m, c.1 = a → p c = true) :
    Bytes.get (m.filter p) a = m.get a := by
  induction m with
  | nil => rfl
  | cons c t ih =>
    have ht := ih fun x hx => h x (List.mem_cons_of_mem _ hx)
    by_cases hp : p c
    · rw [List.filter_cons_of_pos hp]
      show (if c.1 = a then c.2 else Bytes.get (t.filter p) a) = (if c.1 = a then c.2 else Bytes.get t a)
      rw [ht]
    · rw [List.filter_cons_of_neg hp, ht]
      have : c.1 ≠ a := fun e => hp (h c (List.mem_cons_self ..) e)
      show _ = (if c.1 = a then c.2 else Bytes.get t a)
      rw [if_neg this]

theorem get_cellsFrom (bs : List Byte) (a i : Nat) (h : i < bs.length) : (cellsFrom a bs).get (a + i) = bs.getD i 0 := by
  induction bs generalizing a i with
  | nil => simp at h
  | cons b t ih =>
    have hrest : ∀ x, (cellsFrom (a + 1) t).get a = x → x = 0 := by
      intro x hx
      rw [← hx]
      exact get_append_of_mem [] (cellsFrom (a + 1) t) a fun c hc => by
        have := (cellsFrom_bounds t (a + 1) c hc).1; omega
    cases i with
    | zero =>
      simp only [cellsFrom, Nat.add_zero, List.getD_cons_zero]
      split
      · rename_i hb; rw [hb]; exact hrest _ rfl
      · show (if a = a then b else _) = b
        rw [if_pos rfl]
    | succ j =>
      have hj : j < t.length := by simpa using h
      have := ih (a + 1) j hj
      rw [show a + 1 + j = a + (j + 1) by omega] at this
      simp only [cellsFrom, List.getD_cons_succ]
      split
      · exact this
      · show (if a = a + (j + 1) then b else _) = _
        rw [if_neg (by omega)]; exact this

/-- A byte just written reads as it was written. -/
theorem get_put_in (m : Bytes) (a i : Nat) (bs : List Byte) (h : i < bs.length) : (m.put a bs).get (a + i) = bs.getD i 0 := by
  unfold Bytes.put
  rw [get_append_of_mem, get_append, get_cellsFrom _ _ _ h]
  · intro c hc; have : c.1 < a := by simpa using (List.mem_filter.1 hc).2
    omega
  · intro c hc; have : a + bs.length ≤ c.1 := by simpa using (List.mem_filter.1 hc).2
    omega

/-- A byte outside a write keeps its value. -/
theorem get_put_out (m : Bytes) (a x : Nat) (bs : List Byte) (h : x < a ∨ a + bs.length ≤ x) : (m.put a bs).get x = m.get x := by
  unfold Bytes.put
  have hc : ∀ c ∈ cellsFrom a bs, c.1 ≠ x := fun c hc => by have := cellsFrom_bounds bs a c hc; omega
  rcases h with h | h
  · rw [get_append_of_mem, get_append_of_mem _ _ _ hc, get_filter]
    · intro c _ e; subst e; simpa using h
    · intro c hc; have : a + bs.length ≤ c.1 := by simpa using (List.mem_filter.1 hc).2
      omega
  · rw [List.append_assoc, get_append, get_append _ _ _ hc, get_filter]
    · intro c _ e; subst e; simpa using h
    · intro c hc; have : c.1 < a := by simpa using (List.mem_filter.1 hc).2
      omega

theorem wf_puts (l : List (Nat × Byte)) (m : Bytes) (h : Memory.wf m = true) : Memory.wf (m.puts l) = true := by
  unfold Bytes.puts
  induction l generalizing m with
  | nil => exact h
  | cons e t ih => exact ih _ (wf_put _ _ _ h)

end Sys2Proof.Machine
end

