-- ==== Sys2Proof/Laws/Traps.lean ====
section
/-! SUPPORT. What leaving a core, killing a task and raising a trap can do. -/

namespace Sys2Proof.Machine

open Host

/-- A core that its instance has left. -/
def Core.vacated (c : Core) : Core :=
  { c with
    occupant := none, inst := c.inst.left, request := none, keeping := false, replyOwed := false, inService := c.inService && !c.leaving, leaving := false }

theorem vacate_bare (s : State) (g : CoreNo) : (s.vacate g).bareCaches = (s.modCore g Core.vacated).bareCaches := by
  have h := flushL1_bare (s.modCore g Core.vacated) g
  rw [← h]
  rfl

theorem vacate_cores (s : State) (g : CoreNo) : (s.vacate g).cores = (s.modCore g Core.vacated).cores :=
  (congrArg (fun x : State => x.cores) (vacate_bare s g) : (s.vacate g).bareCaches.cores = (s.modCore g Core.vacated).bareCaches.cores)

theorem vacate_core (s : State) (g : CoreNo) : (s.vacate g).cores[g] = s.cores[g].vacated := by
  simp [vacate_cores]

theorem vacate_other (s : State) (g h : CoreNo) (hne : h ≠ g) : (s.vacate g).cores[h] = s.cores[h] := by
  simp [vacate_cores, modCore_other _ _ _ _ hne]

theorem vacate_mem (s : State) (g : CoreNo) : (s.vacate g).mem = s.mem :=
  (congrArg (fun x : State => x.mem) (vacate_bare s g) : (s.vacate g).bareCaches.mem = (s.modCore g Core.vacated).bareCaches.mem)

theorem vacate_tasks (s : State) (g : CoreNo) : (s.vacate g).tasks = s.tasks :=
  (congrArg (fun x : State => x.tasks) (vacate_bare s g) : (s.vacate g).bareCaches.tasks = (s.modCore g Core.vacated).bareCaches.tasks)

theorem vacate_channels (s : State) (g : CoreNo) : (s.vacate g).channels = s.channels :=
  (congrArg (fun x : State => x.channels) (vacate_bare s g) :
    (s.vacate g).bareCaches.channels = (s.modCore g Core.vacated).bareCaches.channels)

/-- Leaving some cores: each is vacated, every other stands as it was. -/
theorem vacates_core (l : List CoreNo) (s : State) (h : CoreNo) :
    (l.foldl State.vacate s).cores[h] = if h ∈ l then s.cores[h].vacated else s.cores[h] := by
  induction l generalizing s with
  | nil => simp
  | cons g t ih =>
    rw [List.foldl_cons, ih]
    by_cases e : h = g
    · subst e
      rw [vacate_core]
      simp [Core.vacated, Inst.left]
    · rw [vacate_other s g h e]
      simp [e]

theorem vacates_keep {γ : Type} (view : State → γ) (hv : ∀ (s : State) (g : CoreNo), view (s.vacate g) = view s) (l : List CoreNo)
    (s : State) : view (l.foldl State.vacate s) = view s := foldl_keep view _ hv l s

/-- The core of a killed task is vacated; what its shadow bank and its place hold of it goes; every other core stands as it was. -/
theorem killTask_core (s : State) (id d : Nat) (h : CoreNo) :
    (s.killTask id d).cores[h] =
      Core.drop (if s.cores[h].occupant.any (fun o => o.task == id) then s.cores[h].vacated else s.cores[h]) id := by
  have key : ∀ l : List CoreNo, (h ∈ l ↔ s.cores[h].occupant.any (fun o => o.task == id) = true) →
      ((l.foldl State.vacate s).cores.map fun c : Core => c.drop id)[h] =
      Core.drop (if s.cores[h].occupant.any (fun o => o.task == id) then s.cores[h].vacated else s.cores[h]) id := by
    intro l hl
    rw [Fin.getElem_fin, Vector.getElem_map, ← Fin.getElem_fin, vacates_core]
    simp only [hl]
  refine key _ ?_
  rw [List.mem_filter]
  cases s.cores[h].occupant <;> simp [List.mem_finRange]

/-- No core holds an instance of a killed task any more. -/
theorem killTask_occupant (s : State) (id d : Nat) (h : CoreNo) (o : Occupant) (ho : (s.killTask id d).cores[h].occupant = some o) :
    o.task ≠ id := by
  rw [killTask_core] at ho
  intro e
  have hs : ∀ c : Core, (c.drop id).occupant = c.occupant := fun _ => rfl
  rw [hs] at ho
  by_cases hc : s.cores[h].occupant.any (fun o => o.task == id) = true
  · rw [if_pos hc] at ho; cases ho
  · rw [if_neg hc] at ho
    exact hc (by rw [ho]; simpa using e)

theorem killTask_mem (s : State) (id d : Nat) : (s.killTask id d).mem = s.mem :=
  vacates_keep (fun x => x.mem) vacate_mem _ s

theorem killTask_channels (s : State) (id d : Nat) : (s.killTask id d).channels = s.channels :=
  vacates_keep (fun x => x.channels) vacate_channels _ s

/-- A killed core is vacated. -/
theorem killOn_core (s : State) (g : CoreNo) (d : Nat) :
    (s.killOn g d).cores[g].occupant = none ∧ (s.killOn g d).inst g = (s.inst g).left ∧ (s.killOn g d).mem = s.mem := by
  unfold State.killOn
  cases e : s.cores[g].occupant with
  | none =>
    simp only [State.inst]
    rw [vacate_core]
    exact ⟨rfl, rfl, vacate_mem s g⟩
  | some o =>
    have hk : ((s.killTask o.task d).cores[g]).occupant = none ∧ ((s.killTask o.task d).cores[g]).inst = s.cores[g].inst.left := by
      rw [killTask_core, if_pos (by rw [e]; simp)]
      exact ⟨rfl, rfl⟩
    exact ⟨hk.1, hk.2, killTask_mem _ _ _⟩

/-- The trap that stands when one is raised: of the oldest instruction, unless one has been taken (16 R427). -/
def State.standing (s : State) (g : CoreNo) (p : Pending) : Pending :=
  match (s.inst g).pending with
  | some q => if p.stamp < q.stamp && !q.served then p else q
  | none => p

theorem standing_cases (s : State) (g : CoreNo) (p : Pending) : s.standing g p = p ∨ (s.inst g).pending = some (s.standing g p) := by
  unfold State.standing
  cases (s.inst g).pending with
  | none => exact .inl rfl
  | some q => dsimp only; split <;> simp

/-- A trap raised on a core: its instance is killed, or its handler runs, or a segment mismatch is taken, or the trap stays
pending. -/
theorem raiseOn_cases (s : State) (g : CoreNo) (p : Pending) :
    s.raiseOn g p = s.killOn g p.cause.code ∨ s.raiseOn g p = s.killOn g (s.standing g p).cause.code ∨
      s.raiseOn g p = (s.modInst g fun i => i.deliver (s.standing g p) (s.asked g) (Config.freeWord s.tick 0)) ∨
      s.raiseOn g p = (s.modInst g fun i => i.takeSegment (s.standing g p)) ∨
      s.raiseOn g p = s.modInst g fun i => { i with pending := some (s.standing g p) } := by
  have e : s.raiseOn g p = if (s.inst g).handler ∧ p.route = .user then s.killOn g p.cause.code
      else if (s.standing g p).route = .user ∧ (s.inst g).boundary then s.deliver g (s.standing g p)
      else if (s.standing g p).route = .segment ∧ (s.inst g).boundary ∧ !(s.standing g p).served then
        s.modInst g fun i => i.takeSegment (s.standing g p)
      else s.modInst g fun i => { i with pending := some (s.standing g p) } := rfl
  rw [e]
  generalize s.standing g p = q
  unfold State.deliver
  dsimp only
  split
  · exact .inl rfl
  · split
    · split
      · exact .inr (.inr (.inl rfl))
      · exact .inr (.inl rfl)
    · split
      · exact .inr (.inr (.inr (.inl rfl)))
      · exact .inr (.inr (.inr (.inr rfl)))

/-- TSTAT as a trap writes it says that the handler runs (16 Table 16.7). -/
theorem tstatOf_handler (spc : Nat) (fws : Bool) (src : BitVec 2) (e : Engine) (sh se ds : Bool) :
    (tstatOf spc fws src e sh se ds).getLsbD 7 = true := by
  unfold tstatOf
  rw [BitVec.getLsbD_ofNat, Nat.testBit_eq_decide_div_mod_eq]
  have hb : ∀ b : Bool, b.toNat < 2 := Bool.toNat_lt
  have he : e.code < 4 := by cases e <;> decide
  have hs := src.isLt
  have h1 := hb fws
  have h2 := hb sh
  have h3 := hb se
  have h4 := hb ds
  simp only [Nat.reducePow, Nat.reduceLT, decide_true, Bool.true_and, decide_eq_true_eq]
  omega

/-- A delivered trap runs the handler. -/
theorem deliver_handler (i : Inst) (p : Pending) (a : Bool) (w : Word) : (i.deliver p a w).handler = true :=
  tstatOf_handler _ _ _ _ _ _ _

/-- A trap leaves its mark: the core is free, its handler runs, or a trap is pending. -/
theorem raiseOn_marks (s : State) (g : CoreNo) (p : Pending) :
    (s.raiseOn g p).cores[g].occupant = none ∨ ((s.raiseOn g p).inst g).handler = true ∨ ((s.raiseOn g p).inst g).pending.isSome = true := by
  rcases raiseOn_cases s g p with h | h | h | h | h <;> rw [h]
  · exact .inl (killOn_core _ _ _).1
  · exact .inl (killOn_core _ _ _).1
  · exact .inr (.inl (by rw [modInst_inst]; exact deliver_handler _ _ _ _))
  · exact .inr (.inr (by simp [Inst.takeSegment]))
  · exact .inr (.inr (by simp))

theorem raise_marks (s : State) (hf : s.cur.fw = false) (c : Cause) (v : Word) (q2 : Bool) (seg : Option (Word × Word))
    (m : Option FpxMark) :
    let t := s.raiseAs c v q2 seg m
    t.cores[s.cur.core].occupant = none ∨ (t.inst s.cur.core).handler = true ∨ (t.inst s.cur.core).pending.isSome = true := by
  unfold State.raiseAs
  simp only [hf, Bool.false_eq_true, if_false]
  exact raiseOn_marks _ _ _

/-- A word of an instance that leaves its core occupied, out of its handler and with no trap pending has not trapped. -/
theorem not_trapped {s t : State} (hf : s.cur.fw = false) (ho : t.cores[s.cur.core].occupant.isSome = true)
    (hh : (t.inst s.cur.core).handler = false) (hp : (t.inst s.cur.core).pending = none) : ¬s.trapped t := by
  rintro ⟨c, v, q2, seg, m, rfl⟩
  rcases raise_marks s hf c v q2 seg m with h | h | h
  · rw [h] at ho; cases ho
  · rw [h] at hh; cases hh
  · rw [hp] at h; cases h

end Sys2Proof.Machine
end

