-- ==== Sys2Proof/Laws/Keep.lean ====
section
/-! SUPPORT. What no step does: memory never loses its canonical form, and no rung of an ME, a bank or a channel rises. `Keeps`
relates two states so; `Good` says that an instruction ends in a next state that it relates to the first; `Within` says what holds
of a result, if there is one. One lemma for each shared operation. -/

namespace Sys2Proof.Machine

open Host

/-- From s to t memory keeps its form and no rung rises. -/
structure State.Keeps (s t : State) : Prop where
  mem : Memory.wf s.mem = true → Memory.wf t.mem = true
  core : ∀ g : CoreNo, s.cores[g].rung ≤ t.cores[g].rung ∧ ∀ (b : Buf) (m : Fin 16), (s.cores[g].banks b)[m] ≤ (t.cores[g].banks b)[m]
  channels : ∀ c : Fin 1024, s.channels[c] ≤ t.channels[c]

/-- The rungs of a core. -/
def Core.ladders (c : Core) : Fin 5 × Vector (Fin 3) 16 × Vector (Fin 3) 16 × Vector (Fin 3) 16 := (c.rung, c.bankW, c.bankA, c.bankC)

/-- What holds of a result, if there is one. -/
def Within {ε α : Type} (p : α → Prop) (r : Except ε α) : Prop := ∀ a, r = .ok a → p a

/-- The outcome is a next state that keeps what s has. -/
def Good (s : State) (o : Outcome State Fault Refusal) : Prop := ∃ t, o = .next t ∧ s.Keeps t

-- Results.

section
variable {ε α β : Type} {p : α → Prop} {q : β → Prop}

theorem Within.ok {a : α} (h : p a) : Within p (.ok a : Except ε α) := fun _ e => by cases e; exact h
theorem Within.pair {a : α} {b : β} (h : p a) : Within (fun r : α × β => p r.1) (.ok (a, b) : Except ε (α × β)) := Within.ok h
theorem Within.pure {a : α} (h : p a) : Within p (pure a : Except ε α) := Within.ok h
theorem Within.error (e : ε) : Within p (.error e : Except ε α) := fun _ h => by cases h
theorem Within.bind {r : Except ε α} {f : α → Except ε β} (h : Within p r) (k : ∀ a, p a → Within q (f a)) : Within q (r >>= f) := by
  cases r with
  | error e => exact Within.error e
  | ok a => exact k a (h a rfl)
theorem Within.any (r : Except ε α) : Within (fun _ => True) r := fun _ _ => trivial
theorem Within.then {r : Except ε α} {f : α → Except ε β} (k : ∀ a, Within q (f a)) : Within q (r >>= f) :=
  Within.bind (Within.any r) fun a _ => k a
theorem Within.map {r : Except ε α} {f : α → β} (h : Within (fun a => q (f a)) r) : Within q (r.map f) := by
  cases r with
  | error e => exact Within.error e
  | ok a => exact Within.ok (h a rfl)
theorem Within.ite {c : Prop} [Decidable c] {x y : Except ε α} (h : Within p x) (k : Within p y) : Within p (if c then x else y) := by
  split <;> assumption
theorem Within.getD {r : Except ε α} {d : α} (h : Within p r) (k : p d) : p (r.toOption.getD d) := by
  cases r with
  | error e => exact k
  | ok a => exact h a rfl
theorem Within.imp {p' : α → Prop} {r : Except ε α} (h : Within p r) (k : ∀ a, p a → p' a) : Within p' r := fun a e => k a (h a e)
theorem Within.foldlM {γ : Type} {f : α → γ → Except ε α} (h : ∀ a c, p a → Within p (f a c)) (l : List γ) (a : α) (ha : p a) :
    Within p (l.foldlM f a) := by
  induction l generalizing a with
  | nil => exact Within.ok ha
  | cons c t ih => rw [List.foldlM_cons]; exact Within.bind (h a c ha) fun b hb => ih b hb

end

theorem Within.q2 {α : Type} {p : α → Prop} {r : Res α} (h : Within p r) : Within p (asQ2 r) := by
  cases r with
  | ok a => exact Within.ok (h a rfl)
  | error e => cases e <;> exact Within.error _

theorem Within.late {α : Type} {p : α → Prop} {r : Res α} (b : Bool) (h : Within p r) : Within p (asLate b r) := by
  cases r with
  | ok a => exact Within.ok (h a rfl)
  | error e => cases e <;> cases b <;> exact Within.error _

-- The relation.

theorem State.Keeps.refl (s : State) : s.Keeps s := ⟨id, fun _ => ⟨le_refl _, fun _ _ => le_refl _⟩, fun _ => le_refl _⟩

theorem State.Keeps.trans {s t u : State} (h : s.Keeps t) (k : t.Keeps u) : s.Keeps u :=
  ⟨fun m => k.mem (h.mem m), fun g => ⟨le_trans (h.core g).1 (k.core g).1, fun b m => le_trans ((h.core g).2 b m) ((k.core g).2 b m)⟩,
    fun c => le_trans (h.channels c) (k.channels c)⟩

theorem State.Keeps.of_mem {s t : State} (hm : Memory.wf s.mem = true → Memory.wf t.mem = true)
    (hc : ∀ g : CoreNo, t.cores[g].ladders = s.cores[g].ladders) (hch : t.channels = s.channels) : s.Keeps t := by
  refine ⟨hm, fun g => ?_, fun c => by rw [hch]⟩
  have h := hc g
  simp only [Core.ladders, Prod.mk.injEq] at h
  obtain ⟨h1, h2, h3, h4⟩ := h
  refine ⟨by rw [h1], fun b m => ?_⟩
  cases b <;> simp only [Core.banks, h2, h3, h4, le_refl]

/-- A change of no byte and no rung. -/
theorem State.Keeps.of_eq {s t : State} (hm : t.mem = s.mem) (hc : ∀ g : CoreNo, t.cores[g].ladders = s.cores[g].ladders)
    (hch : t.channels = s.channels) : s.Keeps t := State.Keeps.of_mem (by rw [hm]; exact id) hc hch

/-- A change of other parts of the state than memory, cores and channels. -/
theorem State.Keeps.of_parts {s t : State} (hm : t.mem = s.mem) (hc : t.cores = s.cores) (hch : t.channels = s.channels) : s.Keeps t :=
  State.Keeps.of_eq hm (fun g => by rw [hc]) hch

theorem State.Keeps.foldl {s b : State} {γ : Type} (f : State → γ → State) (h : ∀ (b : State) a, b.Keeps (f b a)) (l : List γ) (k : s.Keeps b) :
    s.Keeps (l.foldl f b) := by
  induction l generalizing b with
  | nil => exact k
  | cons a t ih => exact ih (k.trans (h b a))

theorem State.Keeps.ite {s x y : State} {c : Prop} [Decidable c] (h : s.Keeps x) (k : s.Keeps y) : s.Keeps (if c then x else y) := by
  split <;> assumption

theorem State.Keeps.of_bare {s t : State} (h : t.bareTlb = s.bareTlb) : s.Keeps t :=
  State.Keeps.of_eq (bare_mem h) (fun g => (congrArg (fun c : Core => c.ladders) (bare_core h g) :
    t.cores[g].bareTlb.ladders = s.cores[g].bareTlb.ladders)) (bare_channels h)

-- Outcomes.

theorem Good.next {s t : State} (h : s.Keeps t) : Good s (.next t) := ⟨t, rfl, h⟩
theorem Good.same (s : State) : Good s (.next s) := Good.next (State.Keeps.refl s)
theorem Good.ite {s : State} {c : Prop} [Decidable c] {x y : Outcome State Fault Refusal} (h : Good s x) (k : Good s y) :
    Good s (if c then x else y) := by
  split <;> assumption
theorem Good.from {s t : State} {o : Outcome State Fault Refusal} (h : s.Keeps t) (k : Good t o) : Good s o :=
  let ⟨u, e, m⟩ := k; ⟨u, e, h.trans m⟩

-- The updates.

theorem modCore_keeps (s : State) (g : CoreNo) {f : Core → Core} (h : ∀ c, (f c).ladders = c.ladders := by intro c; rfl) :
    s.Keeps (s.modCore g f) :=
  State.Keeps.of_eq rfl (fun x => by
    by_cases e : x = g
    · subst e; simp [h]
    · simp [modCore_other _ _ _ _ e]) rfl

theorem modInst_keeps (s : State) (g : CoreNo) (f : Inst → Inst) : s.Keeps (s.modInst g f) := modCore_keeps s g

theorem sink_keeps (s : State) (g : CoreNo) : s.Keeps (s.sink g) := modCore_keeps s g

theorem modTask_keeps (s : State) (id : Nat) (f : Task → Task) : s.Keeps (s.modTask id f) := State.Keeps.of_parts rfl rfl rfl

theorem physWriteIn_keeps (s : State) (l : Bool) (pa : Nat) (bs : List Byte) : s.Keeps (s.physWriteIn l pa bs) :=
  State.Keeps.of_mem (wf_put _ _ _) (fun _ => rfl) rfl

theorem physWrite_keeps (s : State) (pa : Nat) (bs : List Byte) : s.Keeps (s.physWrite pa bs) :=
  State.Keeps.of_mem (wf_put _ _ _) (fun _ => rfl) rfl

theorem poisonGranule_keeps (s : State) (gr : Nat) : s.Keeps (s.poisonGranule gr) := State.Keeps.of_parts rfl rfl rfl

theorem accessL2_keeps (s : State) (h : Option CoreNo) (line : Nat) (m : BitVec 4) (d : Fin 8) (w : Bool) (ctx : Nat)
    (pin : Option (CoreNo × Fin 8 × Nat)) : s.Keeps (s.accessL2 h line m d w ctx pin) :=
  State.Keeps.of_bare (bareTlb_of_bareCaches (accessL2_bare s line m d w ctx pin h))

theorem agentWrite_keeps (s : State) (ctx pa : Nat) (bs : List Byte) : s.Keeps (s.agentWrite ctx pa bs) := by
  unfold State.agentWrite
  dsimp only
  refine State.Keeps.ite (State.Keeps.refl s) (State.Keeps.foldl _ (fun b l => ?_) _
    ((physWrite_keeps s pa bs).trans (State.Keeps.of_parts rfl rfl rfl)))
  exact State.Keeps.ite (accessL2_keeps _ _ _ _ _ _ _ _) (State.Keeps.refl b)

theorem writeRuns_keeps (l : List (Nat × Nat)) (s : State) (g : Option CoreNo) (ctx : Nat) (bs : List Byte) :
    s.Keeps (s.writeRuns g ctx l bs) := by
  induction l generalizing s bs with
  | nil => exact State.Keeps.refl s
  | cons e t ih => exact State.Keeps.trans (State.Keeps.ite (physWrite_keeps _ _ _) (agentWrite_keeps _ _ _ _)) (ih _ _)

theorem writeV_keeps (s : State) (g : Option CoreNo) (ctx va : Nat) (bs : List Byte) : Within s.Keeps (s.writeV g ctx va bs) := by
  unfold State.writeV
  split
  · exact Within.error _
  · exact Within.ok (writeRuns_keeps _ _ _ _ _)

theorem fillTlb_keeps (s : State) (g : CoreNo) (ctx va : Nat) : s.Keeps (s.fillTlb g ctx va) := State.Keeps.of_bare (fillTlb_bare s g ctx va)

theorem noteAccess_keeps (s : State) (l1 : Bool) (g : CoreNo) (va pa n : Nat) (d : Fin 8) (w : Bool) :
    s.Keeps (s.noteAccess l1 g va pa n d w) := State.Keeps.of_bare (noteAccess_bare s l1 g va pa n d w)

theorem noteSpan_keeps (s : State) (l1 : Bool) (g : CoreNo) (va n : Nat) (d : Fin 8) (w : Bool) : s.Keeps (s.noteSpan l1 g va n d w) :=
  State.Keeps.of_bare (noteSpan_bare s l1 g va n d w)

theorem noteWalk_keeps (s : State) (h : Option CoreNo) (ctx va : Nat) : s.Keeps (s.noteWalk h ctx va) :=
  State.Keeps.of_bare (bareTlb_of_bareCaches (noteWalk_bare s ctx h va))

theorem touchL1_keeps (s : State) (g : CoreNo) (line : Nat) (m : BitVec 4) (d : Fin 8) (w : Bool) (ctx : Nat)
    (pin : Option (CoreNo × Fin 8 × Nat)) : s.Keeps (s.touchL1 g line m d w ctx pin) :=
  State.Keeps.of_bare (bareTlb_of_bareCaches (touchL1_bare s g line m d w ctx pin))

theorem touchL2_keeps (s : State) (h : Option CoreNo) (line : Nat) (m : BitVec 4) (d : Fin 8) (w : Bool) (ctx : Nat)
    (pin : Option (CoreNo × Fin 8 × Nat)) : s.Keeps (s.touchL2 h line m d w ctx pin) :=
  State.Keeps.of_bare (bareTlb_of_bareCaches (touchL2_bare s line m d w ctx pin h))

theorem flushL1_keeps (s : State) (g : CoreNo) : s.Keeps (s.flushL1 g) := State.Keeps.of_bare (bareTlb_of_bareCaches (flushL1_bare s g))

-- Traps.

theorem vacate_keeps (s : State) (g : CoreNo) : s.Keeps (s.vacate g) :=
  State.Keeps.of_eq (vacate_mem s g) (fun h => by
    by_cases e : h = g
    · subst e; rw [vacate_core]; rfl
    · rw [vacate_other s g h e]) (vacate_channels s g)

theorem killTask_keeps (s : State) (id d : Nat) : s.Keeps (s.killTask id d) :=
  State.Keeps.of_eq (killTask_mem s id d) (fun h => by
    rw [killTask_core]
    show Core.ladders (if _ then _ else _) = _
    split <;> rfl) (killTask_channels s id d)

theorem killOn_keeps (s : State) (g : CoreNo) (d : Nat) : s.Keeps (s.killOn g d) := by
  unfold State.killOn
  split
  · exact killTask_keeps _ _ _
  · exact vacate_keeps _ _

theorem raiseOn_keeps (s : State) (g : CoreNo) (p : Pending) : s.Keeps (s.raiseOn g p) := by
  rcases raiseOn_cases s g p with h | h | h | h | h <;> rw [h]
  · exact killOn_keeps _ _ _
  · exact killOn_keeps _ _ _
  · exact modInst_keeps _ _ _
  · exact modInst_keeps _ _ _
  · exact modInst_keeps _ _ _

theorem deliver_keeps (s : State) (g : CoreNo) (p : Pending) : s.Keeps (s.deliver g p) := by
  unfold State.deliver
  dsimp only
  split
  · exact modInst_keeps _ _ _
  · exact killOn_keeps _ _ _

theorem fwTrap_keeps (s : State) (g : CoreNo) (n : Nat) (v : Word) : s.Keeps (s.fwTrap g n v) := modCore_keeps s g

theorem noteFailed_keeps (s : State) (g : CoreNo) (ctx : Nat) (c : Cause) (va : Nat) : s.Keeps (s.noteFailed g ctx c va) :=
  State.Keeps.ite (noteWalk_keeps _ _ _ _) (State.Keeps.refl s)

theorem raiseAs_keeps (s : State) (c : Cause) (v : Word) (q2 : Bool) (seg : Option (Word × Word)) (m : Option FpxMark) :
    s.Keeps (s.raiseAs c v q2 seg m) := by
  unfold State.raiseAs
  dsimp only
  have h : s.Keeps (if s.cur.src = .scu ∨ s.cur.src = .ve then s.noteFailed s.cur.core (s.ctxOf s.cur.core) c v.toNat else s) :=
    State.Keeps.ite (noteFailed_keeps _ _ _ _ _) (State.Keeps.refl s)
  exact State.Keeps.ite (h.trans (fwTrap_keeps _ _ _ _))
    (h.trans (State.Keeps.trans (State.Keeps.ite (modInst_keeps _ _ _) (State.Keeps.refl _)) (raiseOn_keeps _ _ _)))

theorem raise_keeps (s : State) (c : Cause) (v : Word) : s.Keeps (s.raise c v) := raiseAs_keeps s c v _ _ _

theorem raiseSegment_keeps (s : State) (st : Stream) : s.Keeps (s.raiseSegment st) := by
  unfold State.raiseSegment
  split
  · exact State.Keeps.refl s
  · exact raiseAs_keeps _ _ _ _ _ _

theorem settle_good {s : State} {r : Res State} (h : Within s.Keeps r) : Good s (settle s r) := by
  unfold settle
  split
  · exact Good.next (h _ rfl)
  · exact Good.next (raise_keeps _ _ _)
  · exact Good.next (raise_keeps _ _ _)
  · exact Good.next (raiseAs_keeps _ _ _ _ _ _)
  · exact Good.same s

-- The scalar stream.

theorem popAll_keeps (s : State) (g : CoreNo) (rs : List SReg) : s.Keeps (s.popAll g rs) := by
  unfold State.popAll
  dsimp only
  split
  · exact State.Keeps.refl s
  · exact (modInst_keeps _ _ _).trans (sink_keeps _ _)

theorem modJoiner_keeps (s : State) (t o n : Nat) (f : Joiner → Joiner) : s.Keeps (s.modJoiner t o n f) := modTask_keeps _ _ _

theorem takeSeq_keeps (s : State) (g : CoreNo) (n : Nat) : s.Keeps (s.takeSeq g n).2 := by
  unfold State.takeSeq
  split
  · exact modJoiner_keeps _ _ _ _ _
  · exact State.Keeps.refl s

theorem writeQ2_keeps (s : State) (g : CoreNo) (v : Word) : Within s.Keeps (s.writeQ2 g v) := by
  unfold State.writeQ2
  dsimp only
  split
  · exact Within.then fun _ => Within.ok (modInst_keeps _ _ _)
  · split
    · refine Within.ite (Within.error _) ?_
      · split
        · exact Within.error _
        · exact Within.ok ((fillTlb_keeps _ _ _ _).trans (modInst_keeps _ _ _))
    · refine Within.then fun _ => Within.then fun _ => Within.ok (State.Keeps.trans ?_ (modInst_keeps _ _ _))
      split
      · exact takeSeq_keeps _ _ _
      · exact State.Keeps.refl s

theorem pushRaw_keeps (s : State) (g : CoreNo) (q : Fin 16) (v : Word) : s.Keeps (s.pushRaw g q v) := by
  unfold State.pushRaw
  split
  · exact modInst_keeps _ _ _
  · split
    · exact modInst_keeps _ _ _
    · exact State.Keeps.refl s

theorem writeDst_keeps (s : State) (g : CoreNo) (late : Bool) (d : SReg) (v : Word) : Within s.Keeps (s.writeDst g late d v) := by
  unfold State.writeDst
  split
  · exact Within.ok (modInst_keeps _ _ _)
  · split
    · exact Within.map (Within.q2 ((writeQ2_keeps _ _ _).imp fun t h => h.trans (sink_keeps _ _)))
    · exact Within.then fun _ => Within.then fun _ => Within.ok ((pushRaw_keeps _ _ _ _).trans (sink_keeps _ _))

theorem pushLink_keeps (s : State) (g : CoreNo) : s.Keeps (s.pushLink g) := by
  unfold State.pushLink
  split
  · split
    · split
      · exact Within.getD (writeDst_keeps _ _ _ _ _) (State.Keeps.refl s)
      · exact State.Keeps.refl s
    · exact State.Keeps.refl s
  · exact State.Keeps.refl s

theorem scalarLoad_keeps (s : State) (g : CoreNo) (ea : Word) (n : Nat) : Within (fun r => s.Keeps r.1) (s.scalarLoad g ea n) := by
  unfold State.scalarLoad
  split
  · exact Within.error _
  · exact Within.ok (noteAccess_keeps _ _ _ _ _ _ _ _)

theorem scalarStore_keeps (s : State) (g : CoreNo) (ea : Word) (n : Nat) (v : Word) : Within s.Keeps (s.scalarStore g ea n v) := by
  unfold State.scalarStore
  split
  · exact Within.error _
  · exact Within.ok (((physWriteIn_keeps _ _ _ _).trans (noteAccess_keeps _ _ _ _ _ _ _ _)).trans (sink_keeps _ _))

theorem scuRun_good {s : State} {srcs : List SReg} {dst : Option SReg} {pre : Res Unit} {f : State → List Word → Res (State × Word)}
    (h : ∀ t vs, Within (fun r => t.Keeps r.1) (f t vs)) : Good s (scuRun s srcs dst pre f) := by
  unfold scuRun
  refine settle_good (Within.then fun _ => Within.then fun _ => Within.then fun _ => Within.then fun _ => Within.then fun _ =>
    Within.bind (Within.late _ (h _ _)) fun r hr => ?_)
  have hp : s.Keeps (r.1.popAll s.cur.core srcs) := (pushLink_keeps s s.cur.core).trans (hr.trans (popAll_keeps _ _ _))
  cases dst with
  | none => exact Within.ok (hp.trans (modInst_keeps _ _ _))
  | some d => exact Within.bind (writeDst_keeps _ _ _ d _) fun u hu => Within.ok ((hp.trans hu).trans (modInst_keeps _ _ _))

theorem scuAlu2_good (s : State) (d a b : SReg) (f : Word → Word → Word) : Good s (scuAlu2 s d a b f) :=
  scuRun_good fun t _ => Within.ok (State.Keeps.refl t)

theorem scuAlu1_good (s : State) (d a : SReg) (f : Word → Word) : Good s (scuAlu1 s d a f) :=
  scuRun_good fun t _ => Within.ok (State.Keeps.refl t)

theorem scuLoad_good (s : State) (d a : SReg) (i : BitVec 14) (n : Nat) (e : Nat → Word) : Good s (scuLoad s d a i n e) := by
  unfold scuLoad
  refine scuRun_good fun t vs => Within.map ?_
  exact scalarLoad_keeps t _ _ _

theorem scuStore_good (s : State) (d a : SReg) (i : BitVec 14) (n : Nat) : Good s (scuStore s d a i n) := by
  unfold scuStore
  refine scuRun_good fun t vs => Within.map ?_
  exact scalarStore_keeps t _ _ _ _

theorem noSlot_good {s : State} {k : Outcome State Fault Refusal} (h : Good s k) : Good s (noSlot s k) := by
  unfold noSlot
  split
  · exact Good.next (raise_keeps _ _ _)
  · exact h

theorem branch_good (s : State) (srcs : List SReg) (dst : Option SReg) (target : List Word → Int) (cond : List Word → Bool) :
    Good s (branch s srcs dst target cond) := by
  unfold branch
  refine noSlot_good (settle_good (Within.then fun _ => Within.then fun _ => Within.then fun _ => Within.then fun _ =>
    Within.then fun _ => Within.then fun _ => ?_))
  cases dst with
  | none => exact Within.then fun _ => Within.ok ((popAll_keeps _ _ _).trans (modInst_keeps _ _ _))
  | some d => exact Within.then fun _ => Within.ok ((popAll_keeps _ _ _).trans (modInst_keeps _ _ _))

theorem wmonRead_keeps (s : State) (g : CoreNo) (a b : Word) (w : Bool) (c : WCond) :
    Within (fun r => s.Keeps r.1) (s.wmonRead g a b w c) := by
  unfold State.wmonRead
  refine Within.map ?_
  exact scalarLoad_keeps s _ _ _

theorem wmonDone_keeps (s : State) (g : CoreNo) (cur : Cur) (d : SReg) (v : Word) : Within s.Keeps (s.wmonDone g cur d v) :=
  Within.map ((writeDst_keeps s g true d v).imp fun _ h => h.trans (modInst_keeps _ _ _))

theorem moveTokens_keeps (s : State) (g : CoreNo) (ps qs : List (Fin 16)) : s.Keeps (s.moveTokens g ps qs) := by
  unfold State.moveTokens
  dsimp only
  split
  · exact modInst_keeps _ _ _
  · exact (modInst_keeps _ _ _).trans (sink_keeps _ _)

theorem holdAt_keeps (s : State) (g : CoreNo) (e : Engine) : s.Keeps (s.holdAt g e) := by
  unfold State.holdAt
  split
  · exact State.Keeps.refl s
  · exact modInst_keeps _ _ _

-- The other engines.

theorem retireWord_keeps (s : State) (ps qs : List (Fin 16)) : s.Keeps (s.retireWord ps qs) := by
  unfold State.retireWord
  dsimp only
  have h : s.Keeps (if ps.isEmpty && qs.isEmpty then s else s.moveTokens s.cur.core ps qs) := by
    split
    · exact State.Keeps.refl s
    · exact moveTokens_keeps _ _ _ _
  split
  · exact h.trans (modInst_keeps _ _ _)
  · exact h.trans (modInst_keeps _ _ _)
  · exact h.trans ((modInst_keeps _ _ _).trans (sink_keeps _ _))
  · exact h.trans (modInst_keeps _ _ _)
  · exact h.trans ((modInst_keeps _ _ _).trans (sink_keeps _ _))
  · exact h.trans ((modInst_keeps _ _ _).trans (sink_keeps _ _))
  · exact h.trans (modInst_keeps _ _ _)

theorem engineRunThen_good {s : State} {tk : Tok} {pops pushes : List (Fin 16)} {close : Bool} {f : Res State} {post : State → State}
    (h : Within s.Keeps f) (hp : ∀ t : State, t.Keeps (post t)) : Good s (engineRunThen s tk pops pushes close f post) := by
  unfold engineRunThen
  dsimp only
  generalize (if tk.tw then [defaultIn s.cur.src.engine] else []) ++ pops = ps
  generalize (if tk.ts then [defaultOut s.cur.src.engine] else []) ++ pushes = qs
  split
  · exact Good.next (raise_keeps _ _ _)
  · exact Good.next (State.Keeps.ite (raiseSegment_keeps _ _) (State.Keeps.refl s))
  · exact Good.next (State.Keeps.ite (raiseSegment_keeps _ _) (State.Keeps.ite (raise_keeps _ _ _) (State.Keeps.refl s)))
  · exact Good.next (State.Keeps.ite (raiseSegment_keeps _ _) (State.Keeps.ite (raise_keeps _ _ _) (State.Keeps.refl s)))
  · refine Good.next (State.Keeps.ite (raiseSegment_keeps _ _) (State.Keeps.ite ?_ (State.Keeps.refl s)))
    have hr := (h _ rfl).trans (retireWord_keeps _ ps qs)
    exact State.Keeps.trans (State.Keeps.ite (hr.trans (modInst_keeps _ _ _)) hr) (hp _)

theorem engineRun_good {s : State} {tk : Tok} {pops pushes : List (Fin 16)} {close : Bool} {f : Res State} (h : Within s.Keeps f) :
    Good s (engineRun s tk pops pushes close f) := engineRunThen_good h State.Keeps.refl

theorem modCurStream_keeps (s : State) (cur : Cur) (f : Stream → Stream) : s.Keeps (s.modCurStream cur f) := modInst_keeps _ _ _

theorem engineTkw_good (s : State) (tk : Tok) (f : Engine) : Good s (engineTkw s tk f) := engineRun_good (Within.ok (State.Keeps.refl s))
theorem engineTks_good (s : State) (tk : Tok) (f : Engine) : Good s (engineTks s tk f) := engineRun_good (Within.ok (State.Keeps.refl s))
theorem engineSeg_good (s : State) (tk : Tok) (n : BitVec 24) (c : BitVec 16) : Good s (engineSeg s tk n c) := by
  unfold engineSeg
  refine Good.ite (Good.next (raiseSegment_keeps _ _)) (engineRunThen_good (Within.ok (State.Keeps.refl s)) fun t => ?_)
  exact modCurStream_keeps _ _ _
theorem engineSafe_good (s : State) (tk : Tok) : Good s (engineSafe s tk) :=
  engineRunThen_good (Within.ok (State.Keeps.refl s)) fun t => holdAt_keeps t _ _
theorem engineEnd_good (s : State) (tk : Tok) : Good s (engineEnd s tk) := by
  unfold engineEnd
  exact engineRunThen_good (Within.ok (sink_keeps _ _)) fun t => modCurStream_keeps _ _ _
theorem engineLoop_good (s : State) (tk : Tok) (l : Nat) (imm : Option Nat) {p : Res (State × Word)}
    (h : Within (fun r => s.Keeps r.1) p) : Good s (engineLoop s tk l imm p) := by
  unfold engineLoop
  refine engineRunThen_good (Within.map (Within.then fun _ => ?_)) fun t => modCurStream_keeps _ _ _
  cases imm with
  | none => exact h
  | some n => exact Within.ok (State.Keeps.refl s)

theorem raiseFpx_keeps (s : State) (f : Nat → Flags) (m : Mask) (v : Word) : s.Keeps (s.raiseFpx f m v) :=
  raiseAs_keeps _ _ _ _ _ _

-- The vector engine.

/-- The other effects of a vector instruction keep what a state has. -/
def VecEffect.Mild (e : VecEffect) : Prop := ∀ t : State, t.Keeps (e.other t)

theorem VecEffect.mild {o : Lanes} {fl : Option (Nat → Flags)} {k : State → State} (h : ∀ t : State, t.Keeps (k t)) :
    VecEffect.Mild ⟨o, fl, k⟩ := h

theorem vecCommit_keeps (s : State) (srcs : List VReg) (dst : Option VReg) {e : VecEffect} (h : e.Mild) : s.Keeps (s.vecCommit srcs dst e) := by
  unfold State.vecCommit
  dsimp only
  exact State.Keeps.trans (State.Keeps.ite ((modInst_keeps _ _ _).trans (sink_keeps _ _)) (modInst_keeps _ _ _)) (h _)

theorem vecRun_good {s : State} {tk : Tok} {srcs : List VReg} {dst : Option VReg} {late : Bool} {pre : Res Unit}
    {f : Inst → List Lanes → Lanes → Res VecEffect} (h : ∀ i vs old, Within VecEffect.Mild (f i vs old)) :
    Good s (vecRun s tk srcs dst late pre f) := by
  have hp : Within VecEffect.Mild (s.vecPrep srcs dst late pre f) := by
    unfold State.vecPrep
    dsimp only
    refine Within.then fun _ => Within.then fun _ => ?_
    refine Within.ite ?_ (Within.then fun _ => Within.late _ (h _ _ _))
    split
    · exact Within.error _
    · exact Within.then fun _ => Within.then fun _ => Within.late _ (h _ _ _)
  unfold vecRun
  split
  · exact engineRun_good (Within.error _)
  · rename_i e he
    have hc := vecCommit_keeps s srcs dst (hp e he)
    split
    · split
      · exact Good.next (State.Keeps.ite (raiseFpx_keeps _ _ _ _) (State.Keeps.refl s))
      · exact engineRun_good (Within.ok hc)
    · exact engineRun_good (Within.ok hc)

theorem vecElems_good (s : State) (tk : Tok) (srcs : List VReg) (d : VReg) (k : KReg) (w x : Elem) (fp : Bool) (pre : Res Unit)
    (op : Inst → List Nat → Nat × Flags) : Good s (vecElems s tk srcs d k w x fp pre op) :=
  vecRun_good fun _ _ _ => Within.ok State.Keeps.refl

theorem vecMove_good (s : State) (tk : Tok) (srcs : List VReg) (d : VReg) (k : KReg) (w : Elem) (val : Inst → List Lanes → Nat → Nat) :
    Good s (vecMove s tk srcs d k w val) := vecRun_good fun _ _ _ => Within.ok State.Keeps.refl

theorem vecToMask_good (s : State) (tk : Tok) (srcs : List VReg) (d : KReg) (k : KReg) (w : Elem) (fp : Bool)
    (op : Inst → List Lanes → Nat → Bool × Flags) : Good s (vecToMask s tk srcs d k w fp op) :=
  vecRun_good fun _ _ _ => Within.ok (VecEffect.mild fun t => modInst_keeps t _ _)

end Sys2Proof.Machine
end

