-- ==== Sys2Proof/Laws/KeepScalar.lean ====
section
/-! SUPPORT. That no step breaks the form of memory or raises a rung (`Good`): the scalar stream, system registers, fences, atomics, and what firmware writes. -/

namespace Sys2Proof.Machine

open Host

theorem good_lui (d : SReg) (i : BitVec 20) (s : State) : Good s (execLui d i s) := scuRun_good fun t _ => Within.ok (State.Keeps.refl t)
theorem good_pcadd (d : SReg) (i : BitVec 20) (s : State) : Good s (execPcadd d i s) := scuRun_good fun t _ => Within.ok (State.Keeps.refl t)

theorem good_csrr (d : SReg) (n : Fin 16384) (s : State) : Good s (execCsrr d n s) := by unfold execCsrr; exact scuRun_good fun t _ => Within.ok (State.Keeps.refl t)

/-- A lower rung of one core. -/
theorem stepRung_keeps (s : State) (g : CoreNo) (r : Fin 5) (h : s.cores[g].rung ≤ r) : s.Keeps (s.modCore g fun c => { c with rung := r }) := by
  refine ⟨id, fun x => ?_, fun _ => le_refl _⟩
  by_cases e : x = g
  · subst e
    simp only [Fin.getElem_fin, modCore_core]
    exact ⟨h, fun b m => by cases b <;> exact le_refl _⟩
  · simp only [Fin.getElem_fin, modCore_other _ _ _ _ e]; exact ⟨le_refl _, fun _ _ => le_refl _⟩

theorem writeRecord_keeps (s : State) (k : Fin 6) : s.Keeps (s.writeRecord k) := State.Keeps.of_parts rfl rfl rfl

theorem fwWrite_keeps (s : State) (g : CoreNo) (n : Nat) (v : Word) : Within s.Keeps (s.fwWrite g n v) := by
  unfold State.fwWrite
  split
  · split
    · rename_i h
      exact Within.then fun _ => Within.ok ((stepRung_keeps _ _ _ (Fin.le_def.2 (Nat.le_of_lt h.1))).trans (writeRecord_keeps _ _))
    · exact Within.error _
  · exact Within.then fun _ => Within.ok (modInst_keeps s _ _)

theorem good_csrw (a : SReg) (n : Fin 16384) (s : State) : Good s (execCsrw a n s) := by
  unfold execCsrw
  exact Good.ite (scuRun_good fun t _ => Within.map ((fwWrite_keeps t _ _ _).imp fun _ h => h))
    (scuRun_good fun t _ => Within.then fun _ => Within.pair (modInst_keeps t _ _))
theorem good_fence (sc : FenceScope) (k : FenceKind) (s : State) : Good s (execFence sc k s) := by unfold execFence; exact scuRun_good fun t _ => Within.then fun _ => Within.ok (State.Keeps.refl t)

theorem atomApply_keeps (s : State) (g : CoreNo) (va pa : Nat) (d : Fin 8) (op : AmoOp) (w32 : Bool) (x : Word) :
    s.Keeps (s.atomApply g va pa d op w32 x).2 :=
  ((physWrite_keeps _ _ _).trans (noteAccess_keeps _ _ _ _ _ _ _ _)).trans (sink_keeps _ _)

theorem good_amo (d a b : SReg) (o : AmoOrder) (w : Bool) (c : AmoOp) (s : State) : Good s (execAmo d a b o w c s) := by
  unfold execAmo
  exact scuRun_good fun t _ => Within.map ((Within.any _).imp fun _ _ => atomApply_keeps _ _ _ _ _ _ _ _)

theorem good_cas (d a b : SReg) (o : AmoOrder) (w : Bool) (s : State) : Good s (execCas d a b o w s) := by
  unfold execCas
  exact scuRun_good fun t _ => Within.map ((Within.any _).imp fun _ _ =>
    State.Keeps.ite (atomApply_keeps _ _ _ _ _ _ _ _) (noteAccess_keeps _ _ _ _ _ _ _ _))

theorem good_scuTkw (f : Engine) (s : State) : Good s (execScuTkw f s) := by
  unfold execScuTkw; exact scuRun_good fun t _ => Within.then fun _ => Within.pair (moveTokens_keeps t _ _ _)
theorem good_scuTks (f : Engine) (s : State) : Good s (execScuTks f s) := by
  unfold execScuTks; exact scuRun_good fun t _ => Within.then fun _ => Within.pair (moveTokens_keeps t _ _ _)

theorem good_scuLoop (a : SReg) (l : Fin 16384) (s : State) : Good s (execScuLoop a l s) :=
  noSlot_good (settle_good (Within.then fun _ => Within.then fun _ => Within.then fun _ =>
    Within.ok ((popAll_keeps _ _ _).trans (modInst_keeps _ _ _))))

theorem good_wmon (d a b : SReg) (w : Bool) (c : WCond) (s : State) : Good s (execWmon d a b w c s) := by
  unfold execWmon
  have k : ∀ r : State × Option Word, s.Keeps r.1 → Within s.Keeps (match r.2 with
      | some v => (r.1.popAll s.cur.core [a, b]).wmonDone s.cur.core s.cur d v
      | none => .ok ((r.1.popAll s.cur.core [a, b]).modInst s.cur.core fun i =>
          { i with wmon := some ⟨d, s.readS s.cur.core a, s.readS s.cur.core b, w, c, s.cur.pc, s.cur.word, s.popped s.cur.core [a, b], s.cur.stamp⟩,
                   scu := { i.scu with held := i.handler && i.scu.held } })) := by
    intro r hr
    split
    · exact (wmonDone_keeps _ _ _ _ _).imp fun _ h => (hr.trans (popAll_keeps _ _ _)).trans h
    · exact Within.ok ((hr.trans (popAll_keeps _ _ _)).trans (modInst_keeps _ _ _))
  refine noSlot_good (settle_good (Within.then fun _ => ?_))
  dsimp only
  split <;> first
    | exact Within.then fun _ => Within.then fun _ => Within.then fun _ => Within.bind (Within.late _ (wmonRead_keeps _ _ _ _ _ _)) k
    | exact Within.then fun _ => Within.then fun _ => Within.bind (Within.late _ (wmonRead_keeps _ _ _ _ _ _)) k

theorem good_scuSafe (s : State) : Good s (execScuSafe s) :=
  noSlot_good (Good.next ((modInst_keeps _ _ _).trans (holdAt_keeps _ _ _)))
theorem good_scuSeg (n : BitVec 24) (c : BitVec 16) (s : State) : Good s (execScuSeg n c s) :=
  noSlot_good (Good.ite (Good.next (modInst_keeps _ _ _)) (Good.ite (Good.next (raiseSegment_keeps _ _)) (Good.next (modInst_keeps _ _ _))))
theorem good_scuEnd (s : State) : Good s (execScuEnd s) :=
  noSlot_good (Good.ite (Good.next (raise_keeps _ _ _)) (Good.ite (Good.next (raiseSegment_keeps _ _))
    (Good.next ((modInst_keeps _ _ _).trans (sink_keeps _ _)))))
theorem good_trap (i : BitVec 20) (s : State) : Good s (execTrap i s) := noSlot_good (Good.next (raise_keeps _ _ _))
theorem good_eret (s : State) : Good s (execEret s) := by
  unfold execEret
  refine noSlot_good (settle_good (Within.then fun _ => ?_))
  dsimp only
  split
  · exact Within.then fun _ => Within.then fun _ => Within.ok (modInst_keeps _ _ _)
  · exact Within.ok (modInst_keeps _ _ _)

theorem good_wmonSatisfy (g : CoreNo) (s : State) : Good s (execWmonSatisfy g s) := by
  unfold execWmonSatisfy
  split
  · exact Good.same s
  · rename_i w _
    generalize hc : (⟨g, .scu, w.pc, w.word, 0, w.stamp, false⟩ : Cur) = c
    have h1 : s.Keeps { s with cur := c } := State.Keeps.of_parts rfl rfl rfl
    have hr : ∀ (c' : Cause) (x : Word) (q : Bool), Good s (.next ((({ s with cur := c } : State).modInst g Inst.dropWmon).raiseAs c' x q none)) :=
      fun _ _ _ => Good.next ((h1.trans (modInst_keeps _ _ _)).trans (raiseAs_keeps _ _ _ _ _ _))
    dsimp only
    have hk := wmonRead_keeps { s with cur := c } g w.addr w.b w.w32 w.cond
    refine Good.ite (Good.same s) ?_
    split
    · rename_i t v e
      have ht := h1.trans (hk _ e)
      have hd := wmonDone_keeps (t.modInst g fun i => { i with wmon := none }) g c w.d v
      split
      · rename_i u hu
        exact Good.next ((ht.trans (modInst_keeps _ _ _)).trans (hd _ hu))
      · exact Good.next ht
      · exact hr _ _ _
      · exact hr _ _ _
      · exact hr _ _ _
    · rename_i t e
      exact Good.next (h1.trans (hk _ e))
    · exact Good.same s
    · exact hr _ _ _
    · exact hr _ _ _
    · exact hr _ _ _

-- Firmware's writes.

theorem fwStep_keeps (s : State) (g : CoreNo) (n : Nat) (v : Word) : s.Keeps (s.fwStep g n v) := by
  unfold State.fwStep
  refine State.Keeps.ite (State.Keeps.refl s) ?_
  split
  · exact fwWrite_keeps _ _ _ _ _ ‹_›
  · exact fwTrap_keeps _ _ _ _
  · exact State.Keeps.refl s

theorem regWrite_good (g : CoreNo) (fw : Bool) (n : Fin 16384) (v : Word) (s : State) : Good s (regWrite g fw n v s) := by
  unfold regWrite
  dsimp only
  split
  · exact Good.next (fwStep_keeps _ _ _ _)
  · split
    · refine Good.ite ?_ (Good.same s)
      refine Good.from ?_ (good_csrw _ _ _)
      exact State.Keeps.of_parts rfl rfl rfl
    · exact Good.same s

theorem good_rungWrite (g : CoreNo) (v : Word) (s : State) : Good s (execRungWrite g v s) := Good.next (fwStep_keeps _ _ _ _)
theorem good_fshareWrite (g : CoreNo) (v : Word) (s : State) : Good s (execFshareWrite g v s) := Good.next (fwStep_keeps _ _ _ _)
theorem good_wdogWrite (g : CoreNo) (v : Word) (s : State) : Good s (execWdogWrite g v s) := Good.next (fwStep_keeps _ _ _ _)

end Sys2Proof.Machine
end

