-- ==== Sys2Proof/Laws/KeepVector.lean ====
section
/-! SUPPORT. That no step breaks the form of memory or raises a rung (`Good`): the vector engine. -/

namespace Sys2Proof.Machine

open Host

theorem vecReduce_good (s : State) (tk : Tok) (d a : VReg) (k : KReg) (w : Elem) (fp : Bool)
    (red : Inst → List (Option Nat) → Nat × Flags) : Good s (vecReduce s tk d a k w fp red) :=
  vecRun_good fun _ _ _ => Within.ok State.Keeps.refl

theorem noteElems_keeps (l : List (Nat × Nat)) (s : State) (g : CoreNo) (d : Fin 8) (w : Bool) (n : Nat) (seen : List Nat) :
    s.Keeps (s.noteElems g d w n l seen) := by
  induction l generalizing s seen with
  | nil => exact State.Keeps.refl s
  | cons x t ih =>
    unfold State.noteElems
    split
    · exact ih s seen
    · exact (noteAccess_keeps _ _ _ _ _ _ _ _).trans (ih _ _)

theorem vecLoad_good (s : State) (tk : Tok) (d : VReg) (srcs : List VReg) (c : Fin 8) (f : VFmt) (k : KReg)
    (addr : List Lanes → Nat → Word) : Good s (vecLoad s tk d srcs c f k addr) :=
  vecRun_good fun _ _ _ => Within.map ((Within.any _).imp fun _ _ _ => noteElems_keeps _ _ _ _ _ _ _)

theorem putElem_keeps (s : State) (g : CoreNo) (e : ElemStore) : s.Keeps (s.putElem g e) := by
  cases e with
  | mem va pa bs => exact physWriteIn_keeps _ _ _ _
  | tile t ws => unfold State.putElem; exact modInst_keeps _ _ _

theorem vecStore_good (s : State) (tk : Tok) (d : VReg) (srcs : List VReg) (c : Fin 8) (f : VFmt) (k : KReg)
    (addr : List Lanes → Nat → Word) : Good s (vecStore s tk d srcs c f k addr) :=
  vecRun_good fun _ _ _ => Within.map ((Within.any _).imp fun _ _ t =>
    (State.Keeps.foldl _ (fun _ _ => putElem_keeps _ _ _) _ (State.Keeps.refl t)).trans
      ((noteElems_keeps _ _ _ _ _ _ _).trans (sink_keeps _ _)))

theorem flagOp_good (s : State) (tk : Tok) (srcs : List VReg) (op : Inst → List Lanes → Inst) : Good s (flagOp s tk srcs op) :=
  vecRun_good fun _ _ _ => Within.ok (VecEffect.mild fun t => modInst_keeps t _ _)

theorem condPop_good (s : State) (tk : Tok) (d q : VReg) (x : LaneW) (ns : List Nat) (also : Inst → Inst) :
    Good s (condPop s tk d q x ns also) :=
  vecRun_good fun _ _ _ => Within.ok (VecEffect.mild fun t =>
    State.Keeps.ite (modInst_keeps t _ _) ((modInst_keeps t _ _).trans (sink_keeps _ _)))

theorem good_vpush (tk : Tok) (q a : VReg) (x : LaneW) (k : KReg) (s : State) : Good s (execVpush tk q a x k s) := by
  unfold execVpush
  refine vecRun_good fun _ _ _ => Within.ok (VecEffect.mild fun t => ?_)
  split
  · exact modInst_keeps t _ _
  · exact (modInst_keeps t _ _).trans (sink_keeps _ _)
theorem good_vpopPack (tk : Tok) (d q : VReg) (b : KReg) (x : LaneW) (s : State) : Good s (execVpopPack tk d q b x s) := by
  unfold execVpopPack; exact condPop_good _ _ _ _ _ _ _
theorem good_vpopExp (tk : Tok) (d q : VReg) (x : LaneW) (k : KReg) (s : State) : Good s (execVpopExp tk d q x k s) := by
  unfold execVpopExp; exact condPop_good _ _ _ _ _ _ _
theorem good_vcvt (tk : Tok) (d a : VReg) (h : Bool) (g : VFmt) (r : Rounding) (f : VFmt) (k : KReg) (s : State) :
    Good s (execVcvt tk d a h g r f k s) := vecRun_good fun _ _ _ => Within.ok State.Keeps.refl
theorem good_vqnt (tk : Tok) (d a : VReg) (r : Rounding) (t : QntType) (k : KReg) (s : State) : Good s (execVqnt tk d a r t k s) :=
  vecRun_good fun _ _ _ => Within.ok State.Keeps.refl
theorem good_vxacc (tk : Tok) (d a b : VReg) (f : FixFmt) (k : KReg) (s : State) : Good s (execVxacc tk d a b f k s) :=
  vecRun_good fun _ _ _ => Within.ok (VecEffect.mild fun t => modInst_keeps t _ _)
theorem good_vxrnd (tk : Tok) (d a b : VReg) (r : Rounding) (f : HFmt) (k : KReg) (s : State) : Good s (execVxrnd tk d a b r f k s) :=
  vecRun_good fun _ _ _ => Within.ok State.Keeps.refl
theorem good_veLoop (tk : Tok) (l : Fin 1024) (c : Bool) (n : Fin 8192) (s : State) : Good s (execVeLoop tk l c n s) :=
  engineLoop_good _ _ _ _ (Within.then fun _ => Within.pair ((modInst_keeps _ _ _).trans (sink_keeps _ _)))

end Sys2Proof.Machine
end

