-- ==== Sys2Proof/Laws/KeepCopies.lean ====
section
/-! SUPPORT. That no step breaks the form of memory or raises a rung (`Good`): the copy engine, caches and the landing of copies. -/

namespace Sys2Proof.Machine

open Host

theorem ceRun_good {s : State} {tk : Tok} {f : Res (State × Bool)} (h : Within (fun r => s.Keeps r.1) f) : Good s (ceRun s tk f) := by
  unfold ceRun
  exact engineRunThen_good (Within.map h) fun t => State.Keeps.ite ((modInst_keeps _ _ _).trans (sink_keeps _ _)) (State.Keeps.refl t)

theorem ceNow_good {s : State} {tk : Tok} {f : Res State} (h : Within s.Keeps f) : Good s (ceNow s tk f) := by
  unfold ceNow
  exact ceRun_good (Within.map h)

theorem startCopy_keeps (s : State) (i : Instr) (x : CopySpec) : Within (fun r => s.Keeps r.1) (s.startCopy i x) := by
  unfold State.startCopy
  exact Within.then fun _ => Within.pair (modInst_keeps s _ _)

theorem startUnlessEmpty_keeps (s : State) (i : Instr) (x : CopySpec) : Within (fun r => s.Keeps r.1) (s.startUnlessEmpty i x) := by
  unfold State.startUnlessEmpty
  exact Within.ite (Within.pair (State.Keeps.refl s)) (startCopy_keeps _ _ _)

theorem startCopy_from {s t : State} (h : s.Keeps t) (i : Instr) (x : CopySpec) : Within (fun r => s.Keeps r.1) (t.startCopy i x) :=
  (startCopy_keeps t i x).imp fun _ k => h.trans k

theorem reserveSlot_keeps (s : State) (z : ZReg) : Within (fun r => s.Keeps r.1) (s.reserveSlot z) := by
  unfold State.reserveSlot
  dsimp only
  split
  · exact Within.pair (State.Keeps.refl s)
  · exact Within.then fun _ => Within.pair (modInst_keeps s _ _)

theorem good_cp (tk : Tok) (p q : CReg) (a : AReg) (x : CpDst) (y : CpSrc) (o : Bool) (z : Fin 8) (s : State) :
    Good s (execCp tk p q a x y o z s) := by
  unfold execCp
  refine ceRun_good ?_
  dsimp only
  repeat' first
    | with_reducible exact Within.error _
    | with_reducible exact Within.pair (State.Keeps.refl s)
    | with_reducible exact startCopy_keeps s _ _
    | with_reducible refine Within.bind (reserveSlot_keeps s _) fun r h => ?_
    | with_reducible refine Within.then fun _ => ?_
    | with_reducible refine Within.ite ?_ ?_
    | exact startCopy_from (by assumption) _ _
    | exact startCopy_from (modInst_keeps s _ _) _ _
    | split

theorem good_cpn (tk : Tok) (p q : Sys2Proof.ZReg) (a : AReg) (o : Bool) (s : State) : Good s (execCpn tk p q a o s) := by
  unfold execCpn
  refine ceRun_good ?_
  dsimp only
  repeat' first
    | with_reducible exact Within.pair (State.Keeps.refl s)
    | with_reducible refine Within.bind (reserveSlot_keeps s _) fun r h => ?_
    | with_reducible refine Within.then fun _ => ?_
    | with_reducible refine Within.ite ?_ ?_
    | exact startCopy_from (by assumption) _ _

theorem good_cpx (tk : Tok) (p q : CReg) (a : AReg) (x : CpxDst) (o : Bool) (z : Fin 8) (s : State) : Good s (execCpx tk p q a x o z s) := by
  unfold execCpx
  refine ceRun_good ?_
  dsimp only
  repeat' first
    | with_reducible exact Within.error _
    | with_reducible exact Within.pair (State.Keeps.refl s)
    | with_reducible exact startCopy_keeps s _ _
    | with_reducible refine Within.bind (reserveSlot_keeps s _) fun r h => ?_
    | with_reducible refine Within.then fun _ => ?_
    | with_reducible refine Within.ite ?_ ?_
    | exact startCopy_from (by assumption) _ _
    | split

theorem good_lyt (tk : Tok) (p q : Sys2Proof.ZReg) (a : AReg) (m : CReg) (o : Bool) (s : State) : Good s (execLyt tk p q a m o s) := by
  unfold execLyt
  refine ceRun_good ?_
  dsimp only
  repeat' first
    | with_reducible exact Within.pair (State.Keeps.refl s)
    | with_reducible refine Within.bind (reserveSlot_keeps s _) fun r h => ?_
    | with_reducible refine Within.then fun _ => ?_
    | with_reducible refine Within.ite ?_ ?_
    | exact startCopy_from (by assumption) _ _

theorem good_cprm (tk : Tok) (p q : CReg) (a : AReg) (m : Fin 64) (o : Bool) (z : Fin 8) (s : State) : Good s (execCprm tk p q a m o z s) := by
  unfold execCprm
  refine ceRun_good ?_
  exact Within.then fun _ => Within.then fun _ => startUnlessEmpty_keeps _ _ _

theorem issueSig_good (s : State) (tk : Tok) (p q : CReg) (m : Fin 64) (x : Bool) (i : Instr) : Good s (issueSig s tk p q m x i) := by
  unfold issueSig
  refine ceRun_good ?_
  exact Within.then fun _ => Within.then fun _ => startCopy_keeps _ _ _

theorem good_cflush (tk : Tok) (q : CReg) (a : AReg) (h : Bool) (s : State) : Good s (execCflush tk q a h s) := by
  unfold execCflush
  exact ceRun_good (Within.then fun _ => startUnlessEmpty_keeps _ _ _)

theorem good_cinv (tk : Tok) (q : CReg) (a : AReg) (s : State) : Good s (execCinv tk q a s) := by
  unfold execCinv
  exact ceRun_good (Within.then fun _ => startUnlessEmpty_keeps _ _ _)

theorem good_spill (tk : Tok) (p q : CReg) (a : AReg) (b : Buf) (o : Bool) (s : State) : Good s (execSpill tk p q a b o s) := by
  unfold execSpill
  exact ceRun_good (Within.then fun _ => startUnlessEmpty_keeps _ _ _)

theorem good_fill (tk : Tok) (p q : CReg) (a : AReg) (b : Buf) (o : Bool) (s : State) : Good s (execFill tk p q a b o s) := by
  unfold execFill
  exact ceRun_good (Within.then fun _ => startUnlessEmpty_keeps _ _ _)

theorem setKeep_keeps (s : State) (g : CoreNo) (n : Fin 8) (base : Word) (len : Nat) : s.Keeps (s.setKeep g n base len) :=
  State.Keeps.trans (t := s.releasePins g n) (State.Keeps.of_parts rfl rfl rfl) (modInst_keeps _ _ _)

theorem good_keep (tk : Tok) (n : Fin 8) (q : CReg) (s : State) : Good s (execKeep tk n q s) := by
  unfold execKeep
  exact ceNow_good (Within.then fun _ => Within.ok (setKeep_keeps _ _ _ _ _))

theorem good_keepF (tk : Tok) (n : Fin 8) (q : CReg) (a : AReg) (s : State) : Good s (execKeepF tk n q a s) := by
  unfold execKeepF
  exact ceRun_good (Within.then fun _ => (startUnlessEmpty_keeps _ _ _).imp fun _ h => (setKeep_keeps _ _ _ _ _).trans h)

theorem good_unkeep (tk : Tok) (n : Fin 8) (s : State) : Good s (execUnkeep tk n s) := by
  unfold execUnkeep
  exact ceNow_good (Within.ok (setKeep_keeps _ _ _ _ _))

theorem prefetch_keeps (s : State) (l1 : Bool) (g : CoreNo) (va pa n : Nat) (d : Fin 8) : s.Keeps (s.prefetch l1 g va pa n d) := by
  unfold State.prefetch
  exact State.Keeps.ite (State.Keeps.refl s)
    (State.Keeps.trans (State.Keeps.ite (touchL1_keeps _ _ _ _ _ _ _ _) (accessL2_keeps _ _ _ _ _ _ _ _)) (fillTlb_keeps _ _ _ _))

theorem good_pf (tk : Tok) (q : CReg) (l : Bool) (z : Fin 8) (s : State) : Good s (execPf tk q l z s) := by
  unfold execPf
  refine ceNow_good (Within.then fun _ => Within.ok (State.Keeps.foldl _ (fun b va => ?_) _ (State.Keeps.refl s)))
  split
  · exact prefetch_keeps _ _ _ _ _ _ _
  · exact State.Keeps.refl b

theorem good_acset (tk : Tok) (q : CReg) (a : AReg) (s : State) : Good s (execAcset tk q a s) := ceNow_good (Within.ok (modInst_keeps _ _ _))
theorem good_acadd (tk : Tok) (q : CReg) (a : AReg) (s : State) : Good s (execAcadd tk q a s) := ceNow_good (Within.ok (modInst_keeps _ _ _))
theorem good_acwait (tk : Tok) (a : AReg) (s : State) : Good s (execAcwait tk a s) :=
  ceNow_good (Within.then fun _ => Within.then fun _ => Within.ok (State.Keeps.refl s))

theorem noteRange_keeps (s : State) (g : CoreNo) (va n : Nat) (d : Fin 8) (w : Bool) : s.Keeps (s.noteRange g va n d w) := by
  exact noteSpan_keeps _ _ _ _ _ _ _

theorem good_scfg (tk : Tok) (p : Sys2Proof.ZReg) (q : CReg) (s : State) : Good s (execScfg tk p q s) := by
  unfold execScfg
  dsimp only
  split
  · exact Good.ite (Good.next (raise_keeps _ _ _)) (Good.ite (Good.next ((noteFailed_keeps _ _ _ _ _).trans (modInst_keeps _ _ _))) (Good.same s))
  · refine ceNow_good (Within.then fun _ => ?_)
    split
    · exact Within.error _
    · exact Within.ok ((noteRange_keeps _ _ _ _ _ _).trans (modInst_keeps _ _ _))

theorem pushQ11_keeps (s : State) (v : Word) : Within s.Keeps (pushQ11 s v) := by
  unfold pushQ11
  exact Within.then fun _ => Within.ok ((modInst_keeps _ _ _).trans (sink_keeps _ _))

theorem good_cgetPop (tk : Tok) (p : CReg) (s : State) : Good s (execCgetPop tk p s) := by
  unfold execCgetPop
  refine ceNow_good ?_
  split
  · exact Within.error _
  · exact Within.ok ((modInst_keeps _ _ _).trans (sink_keeps _ _))

theorem good_cgetC (tk : Tok) (p : CReg) (s : State) : Good s (execCgetC tk p s) := ceNow_good (pushQ11_keeps _ _)
theorem good_cgetCur (tk : Tok) (p : Sys2Proof.ZReg) (s : State) : Good s (execCgetCur tk p s) := ceNow_good (pushQ11_keeps _ _)
theorem good_cgetScale (tk : Tok) (p : Sys2Proof.ZReg) (s : State) : Good s (execCgetScale tk p s) := ceNow_good (pushQ11_keeps _ _)
theorem good_cgetAc (tk : Tok) (n : AReg) (s : State) : Good s (execCgetAc tk n s) := ceNow_good (pushQ11_keeps _ _)
theorem good_cgetLi (tk : Tok) (p : CReg) (i : BitVec 16) (s : State) : Good s (execCgetLi tk p i s) := ceNow_good (Within.ok (modInst_keeps _ _ _))
theorem good_cadd (tk : Tok) (p q : CReg) (i : BitVec 16) (s : State) : Good s (execCadd tk p q i s) := ceNow_good (Within.ok (modInst_keeps _ _ _))

theorem good_helperStart (g : CoreNo) (s : State) : Good s (execHelperStart g s) := by
  unfold execHelperStart
  dsimp only
  split
  · exact Good.ite (Good.same s) (Good.next ((modInst_keeps _ _ _).trans (sink_keeps _ _)))
  · exact Good.same s

theorem good_hret (c : BitVec 8) (s : State) : Good s (execHret c s) := by
  unfold execHret
  exact ceNow_good (Within.then fun _ => Within.ok ((modInst_keeps _ _ _).trans (sink_keeps _ _)))

theorem copyBuf_keeps (s : State) (g : CoreNo) (b : Buf) (off : Nat) (bs : List Byte) : s.Keeps (s.copyBuf g b off bs) :=
  (modInst_keeps _ _ _).trans (sink_keeps _ _)

theorem good_hflag (p q : CReg) (s : State) : Good s (execHflag p q s) := by
  unfold execHflag
  exact ceNow_good (Within.then fun _ => Within.then fun _ => Within.then fun _ => Within.ok (copyBuf_keeps _ _ _ _ _))

theorem good_ceLoop (tk : Tok) (l : Fin 1024) (c : Bool) (n : Fin 8192) (s : State) : Good s (execCeLoop tk l c n s) := by
  unfold execCeLoop
  refine engineLoop_good _ _ _ _ ?_
  split
  · exact Within.error _
  · exact Within.pair ((modInst_keeps _ _ _).trans (sink_keeps _ _))

theorem good_q6ToVq2Transfer (g : CoreNo) (s : State) : Good s (execQ6ToVq2Transfer g s) := by
  unfold execQ6ToVq2Transfer
  dsimp only
  split
  · exact Good.ite (Good.next (modInst_keeps _ _ _)) (Good.same s)
  · exact Good.same s

theorem good_vq3ToQ7Transfer (g : CoreNo) (s : State) : Good s (execVq3ToQ7Transfer g s) := by
  unfold execVq3ToQ7Transfer
  dsimp only
  split
  · exact Good.ite (Good.next (modInst_keeps _ _ _)) (Good.same s)
  · exact Good.same s

-- Landing.

theorem Within.mem {α : Type} {p : α → Prop} {r : Except MemFault α} (h : Within p r) : Within p (memStop r) := by
  cases r with
  | ok a => exact Within.ok (h a rfl)
  | error e => exact Within.error _

theorem copyWrite_keeps (s : State) (g : CoreNo) (va : Nat) (bs : List Byte) (d : Fin 8) : Within s.Keeps (s.copyWrite g va bs d) := by
  unfold State.copyWrite
  exact Within.map ((Within.mem (writeV_keeps _ _ _ _ _)).imp fun _ h => (h.trans (noteRange_keeps _ _ _ _ _ _)).trans (sink_keeps _ _))

theorem copyWrite_from {s t : State} (h : s.Keeps t) (g : CoreNo) (va : Nat) (bs : List Byte) (d : Fin 8) :
    Within s.Keeps (t.copyWrite g va bs d) := (copyWrite_keeps t g va bs d).imp fun _ k => h.trans k

theorem copyReadAt_keeps (s : State) (g : CoreNo) (va n : Nat) (d : Fin 8) : Within (fun r => s.Keeps r.1) (s.copyReadAt g va n d) :=
  Within.map ((Within.any _).imp fun _ _ => noteRange_keeps _ _ _ _ _ _)

theorem keepBytes_keeps (s : State) (g : CoreNo) (c : Copy) (space : Nat) (as : List Nat) : s.Keeps (s.keepBytes g c space as) :=
  State.Keeps.ite (modInst_keeps _ _ _) (State.Keeps.refl s)

theorem writeFor_keeps (s : State) (g : CoreNo) (c : Copy) (va : Nat) (bs : List Byte) (d : Fin 8) : Within s.Keeps (s.writeFor g c va bs d) :=
  Within.then fun _ => copyWrite_from (keepBytes_keeps _ _ _ _ _) _ _ _ _

theorem bufWriteFor_keeps (s : State) (g : CoreNo) (c : Copy) (b : Buf) (off : Nat) (bs : List Byte) : s.Keeps (s.bufWriteFor g c b off bs) :=
  (keepBytes_keeps _ _ _ _ _).trans (copyBuf_keeps _ _ _ _ _)

theorem readForAt_keeps (s : State) (g : CoreNo) (c : Copy) (va n : Nat) (d : Fin 8) : Within (fun r => s.Keeps r.1) (s.readForAt g c va n d) :=
  Within.map ((Within.any _).imp fun _ _ => noteRange_keeps _ _ _ _ _ _)

theorem readAhead_keeps (s : State) (g : CoreNo) (c : Copy) (space a : Nat) : s.Keeps (s.readAhead g c space a) :=
  State.Keeps.ite (modInst_keeps _ _ _) (State.Keeps.refl s)

theorem readEdges_keeps (s : State) (g : CoreNo) (c : Copy) (space lo n : Nat) : s.Keeps (s.readEdges g c space lo n) := by
  unfold State.readEdges
  have h : s.Keeps (if lo % 4 = 0 then s else s.readAhead g c space lo) := State.Keeps.ite (State.Keeps.refl s) (readAhead_keeps _ _ _ _ _)
  exact State.Keeps.ite h (h.trans (readAhead_keeps _ _ _ _ _))

theorem sourceBytes_keeps (s : State) (g : CoreNo) (c : Copy) (space a n : Nat) (d : Fin 8) :
    Within (fun r => s.Keeps r.1) (s.sourceBytes g c space a n d) := by
  unfold State.sourceBytes
  dsimp only
  split
  · exact Within.map ((Within.any _).imp fun _ _ => readEdges_keeps _ _ _ _ _ _)
  · exact (readForAt_keeps _ _ _ _ _ _).imp fun _ h => (readEdges_keeps _ _ _ _ _ _).trans h

theorem placeGet_keeps (s : State) (g : CoreNo) (c : Copy) (pl : Place) (d : Fin 8) (bit : Int) (w : Nat) :
    Within (fun r => s.Keeps r.1) (s.placeGet g c pl d bit w) :=
  Within.map ((sourceBytes_keeps _ _ _ _ _ _ _).imp fun _ h => h)

theorem placePut_keeps (s : State) (g : CoreNo) (c : Copy) (pl : Place) (d : Fin 8) (bit : Int) (w v : Nat) :
    Within s.Keeps (s.placePut g c pl d bit w v) := by
  unfold State.placePut
  dsimp only
  split
  · exact Within.ite (Within.map ((Within.any _).imp fun _ _ => bufWriteFor_keeps _ _ _ _ _ _)) (Within.ok (bufWriteFor_keeps _ _ _ _ _ _))
  · refine Within.ite ?_ (Within.map ((writeFor_keeps _ _ _ _ _ _).imp fun _ h => h.trans (modInst_keeps _ _ _)))
    split
    · exact Within.error _
    · split
      · exact Within.error _
      · exact Within.ok (((((keepBytes_keeps _ _ _ _ _).trans (physWrite_keeps _ _ _)).trans (noteAccess_keeps _ _ _ _ _ _ _ _)).trans
          (sink_keeps _ _)).trans (modInst_keeps _ _ _))

theorem readParts_keeps (l : List (Int × Nat)) (s : State) (g : CoreNo) (c : Copy) (pl : Place) (d : Fin 8) :
    Within (fun r => s.Keeps r.1) (s.readParts g c pl d l) := by
  induction l generalizing s c with
  | nil => exact Within.pair (State.Keeps.refl s)
  | cons e t ih =>
    exact Within.bind (placeGet_keeps _ _ _ _ _ _ _) fun v h => Within.bind (ih v.1 _) fun _ k => Within.pair (h.trans k)

theorem writeParts_keeps (l : List (Int × Nat × Nat)) (s : State) (g : CoreNo) (c : Copy) (pl : Place) (d : Fin 8) :
    Within s.Keeps (s.writeParts g c pl d l) := by
  induction l generalizing s c with
  | nil => exact Within.ok (State.Keeps.refl s)
  | cons e t ih => exact Within.bind (placePut_keeps _ _ _ _ _ _ _ _) fun u h => (ih u _).imp fun _ k => h.trans k

theorem moveCpn_keeps (s : State) (g : CoreNo) (c : Copy) (u : Nat) : Within s.Keeps (s.moveCpn g c u) :=
  Within.bind (readParts_keeps _ _ _ _ _ _) fun _ h => (writeParts_keeps _ _ _ _ _ _).imp fun _ k => h.trans k

theorem moveLyt_keeps (s : State) (g : CoreNo) (c : Copy) (u : Nat) : Within s.Keeps (s.moveLyt g c u) :=
  Within.ite (Within.error _) (writeParts_keeps _ _ _ _ _ _)

theorem sectorRead_keeps (s : State) (g : CoreNo) (id va : Nat) : s.Keeps (s.sectorRead g id va) := by
  unfold State.sectorRead
  dsimp only
  split
  · exact State.Keeps.refl s
  · split
    · refine State.Keeps.ite (State.Keeps.refl s) ?_
      split
      · exact State.Keeps.refl s
      · exact State.Keeps.ite (State.Keeps.refl s) (modInst_keeps _ _ _)
    · exact State.Keeps.refl s

theorem noteHeld_keeps (s : State) (g : CoreNo) (va n : Nat) (d : Fin 8) : s.Keeps (s.noteHeld g va n d) := by
  unfold State.noteHeld
  refine State.Keeps.foldl _ (fun b p => ?_) _ (State.Keeps.refl s)
  split
  · exact State.Keeps.foldl _ (fun x l => State.Keeps.ite (touchL2_keeps _ _ _ _ _ _ _ _) (State.Keeps.refl x)) _ (State.Keeps.refl b)
  · exact State.Keeps.refl b

theorem tileBytes_keeps (s : State) (g : CoreNo) (c : Copy) (x va n : Nat) (d : Fin 8) :
    Within (fun r => s.Keeps r.1) (s.tileBytes g c x va n d) :=
  Within.map ((Within.any _).imp fun _ _ => State.Keeps.ite (noteHeld_keeps _ _ _ _ _) (noteRange_keeps _ _ _ _ _ _))

theorem readHeader_keeps (s : State) (g : CoreNo) (c : Copy) (v n : Nat) (d : Fin 8) : Within (fun r => s.Keeps r.1) (s.readHeader g c v n d) := by
  unfold State.readHeader
  refine Within.then fun hb => ?_
  split
  · exact Within.error _
  · exact Within.map ((tileBytes_keeps _ _ _ _ _ _ _).imp fun _ h => h)

theorem readTile_keeps (s : State) (g : CoreNo) (c : Copy) (v n t : Nat) (d : Fin 8) : Within (fun r => s.Keeps r.1) (s.readTile g c v n t d) := by
  unfold State.readTile
  refine Within.bind (readHeader_keeps _ _ _ _ _ _) fun hd h => ?_
  refine Within.ite (Within.map ((tileBytes_keeps _ _ _ _ _ _ _).imp fun _ k => h.trans k)) ?_
  refine Within.bind (tileBytes_keeps _ _ _ _ _ _ _) fun eb k => ?_
  split
  · exact Within.error _
  · exact Within.ok (h.trans k)
  · exact Within.map ((tileBytes_keeps _ _ _ _ _ _ _).imp fun _ m => (h.trans k).trans m)

theorem fullTile_keeps (s : State) (g : CoreNo) (c : Copy) (v n t : Nat) (d : Fin 8) : Within (fun r => s.Keeps r.1) (s.fullTile g c v n t d) := by
  unfold State.fullTile
  refine Within.bind (readTile_keeps _ _ _ _ _ _ _) fun r h => ?_
  split
  · exact Within.pair h
  · split
    · exact Within.pair h
    · exact Within.error _

theorem fullTiles_keeps (l : List Nat) (s : State) (g : CoreNo) (c : Copy) (v n : Nat) (d : Fin 8) :
    Within (fun r => s.Keeps r.1) (s.fullTiles g c v n d l) := by
  induction l generalizing s with
  | nil => exact Within.pair (State.Keeps.refl s)
  | cons t ts ih => exact Within.bind (fullTile_keeps _ _ _ _ _ _ _) fun r h => Within.bind (ih r.1) fun _ k => Within.pair (h.trans k)

theorem moveImage_keeps (s : State) (g : CoreNo) (c : Copy) (d : Fin 8) (u : Nat) : Within s.Keeps (s.moveImage g c d u) := by
  unfold State.moveImage
  refine Within.bind (readHeader_keeps _ _ _ _ _ _) fun hd h => Within.then fun _ => ?_
  refine Within.bind (Within.foldlM (p := fun r : State × List (Nat × List Byte) => s.Keeps r.1)
    (fun r w k => Within.map ((sourceBytes_keeps _ _ _ _ _ _ _).imp fun _ m => k.trans m)) _ _ h) fun r k => ?_
  exact Within.foldlM (fun t w m => (writeFor_keeps _ _ _ _ _ _).imp fun _ j => m.trans j) _ _ k

theorem moveTiles_keeps (s : State) (g : CoreNo) (c : Copy) (b : Buf) (base : Nat) (d : Fin 8) (u : Nat) :
    Within s.Keeps (s.moveTiles g c b base d u) := by
  unfold State.moveTiles
  dsimp only
  refine Within.ite ?_ (Within.bind (fullTiles_keeps _ _ _ _ _ _ _) fun r h => Within.ok (h.trans (bufWriteFor_keeps _ _ _ _ _ _)))
  refine Within.bind (readTile_keeps _ _ _ _ _ _ _) fun r h => ?_
  split
  · exact Within.ok (h.trans (bufWriteFor_keeps _ _ _ _ _ _))
  · refine Within.ite (Within.ok (h.trans ((modInst_keeps _ _ _).trans (sink_keeps _ _)))) ?_
    split
    · exact Within.ok (h.trans (bufWriteFor_keeps _ _ _ _ _ _))
    · exact Within.error _

theorem moveCpx_keeps (s : State) (g : CoreNo) (c : Copy) (x : CpxDst) (d : Fin 8) (u : Nat) : Within s.Keeps (s.moveCpx g c x d u) := by
  unfold State.moveCpx
  split
  · exact moveTiles_keeps _ _ _ _ _ _ _
  · split
    · exact moveTiles_keeps _ _ _ _ _ _ _
    · exact moveImage_keeps _ _ _ _ _

theorem cpBytes_keeps (s : State) (g : CoreNo) (c : Copy) (y : CpSrc) (d : Fin 8) (u off n : Nat) :
    Within (fun r => s.Keeps r.1) (s.cpBytes g c y d u off n) := by
  unfold State.cpBytes
  cases y
  · exact sourceBytes_keeps _ _ _ _ _ _ _
  · exact sourceBytes_keeps _ _ _ _ _ _ _
  · exact sourceBytes_keeps _ _ _ _ _ _ _
  · exact sourceBytes_keeps _ _ _ _ _ _ _
  · refine Within.ite (Within.error _) (Within.ite (Within.pair (modInst_keeps s _ _)) ?_)
    split
    · exact Within.error _
    · exact Within.pair ((modInst_keeps s _ _).trans (sink_keeps _ _))

theorem cpDeliver_keeps (s : State) (g : CoreNo) (c : Copy) (x : CpDst) (d : Fin 8) (u off lo : Nat) (bs : List Byte) :
    Within s.Keeps (s.cpDeliver g c x d u off lo bs) := by
  have buf : ∀ b, Within (ε := CopyStop) s.Keeps (.ok (s.bufWriteFor g c b lo bs)) := fun _ => Within.ok (bufWriteFor_keeps _ _ _ _ _ _)
  have upd : ∀ f, s.Keeps ((s.modInst g f).sink g) := fun f => (modInst_keeps _ _ _).trans (sink_keeps _ _)
  unfold State.cpDeliver
  cases x
  · exact writeFor_keeps _ _ _ _ _ _
  · exact buf _
  · exact buf _
  · exact buf _
  · exact Within.ok (upd _)
  · exact Within.ite (Within.error _) (Within.ite (Within.ok (upd _)) (Within.ite (Within.error _) (Within.ok (upd _))))
  · dsimp only
    split
    · exact buf _
    · exact Within.ok (State.Keeps.refl s)

theorem moveCp_keeps (s : State) (g : CoreNo) (c : Copy) (x : CpDst) (y : CpSrc) (d : Fin 8) (u : Nat) : Within s.Keeps (s.moveCp g c x y d u) :=
  Within.bind (cpBytes_keeps _ _ _ _ _ _ _ _) fun _ h => (cpDeliver_keeps _ _ _ _ _ _ _ _ _).imp fun _ m => h.trans m

theorem moveKeep_keeps (s : State) (g : CoreNo) (c : Copy) (u : Nat) : s.Keeps (s.moveKeep g c u) := by
  unfold State.moveKeep
  dsimp only
  split
  · exact prefetch_keeps _ _ _ _ _ _ _
  · exact State.Keeps.refl s

theorem moveSpill_keeps (s : State) (g : CoreNo) (c : Copy) (b : Buf) (u : Nat) : Within s.Keeps (s.moveSpill g c b u) :=
  Within.bind (sourceBytes_keeps _ _ _ _ _ _ _) fun _ h => Within.ok (h.trans ((modInst_keeps _ _ _).trans (sink_keeps _ _)))

theorem moveFill_keeps (s : State) (g : CoreNo) (c : Copy) (b : Buf) (u : Nat) : Within s.Keeps (s.moveFill g c b u) := by
  unfold State.moveFill
  dsimp only
  split
  · exact Within.error _
  · exact Within.ok (bufWriteFor_keeps _ _ _ _ _ _)

end Sys2Proof.Machine
end

