-- ==== Sys2Proof/Laws/KeepUnits.lean ====
section
/-! SUPPORT. That no step breaks the form of memory or raises a rung (`Good`): deterministic windows, links, collectives and the host. -/

namespace Sys2Proof.Machine

open Host

theorem takeSeq_from (s : State) (g : CoreNo) (n : Nat) (e : Bool) : s.Keeps (if e then s.takeSeq g n else (0, s)).2 := by
  split
  · exact takeSeq_keeps _ _ _
  · exact State.Keeps.refl s

theorem good_cpatm (tk : Tok) (p q : CReg) (a : AReg) (c : AmoOp) (x e o : Bool) (z : ListSrc) (s : State) :
    Good s (execCpatm tk p q a c x e o z s) := by
  unfold execCpatm
  refine ceRun_good (Within.then fun _ => Within.then fun _ => Within.then fun _ => Within.then fun _ => ?_)
  dsimp only
  split
  · exact Within.then fun _ => startCopy_from (takeSeq_from _ _ _ _) _ _
  · exact startCopy_from (takeSeq_from _ _ _ _) _ _

theorem accept_keeps {s t : State} {g : CoreNo} {num pa : Nat} {op : AmoOp} {w32 : Bool} {x : Word} {lane seq : Nat}
    (h : s.accept g num pa op w32 x lane seq = some t) : s.Keeps t := by
  unfold State.accept at h
  split at h
  · cases h; exact modTask_keeps _ _ _
  · cases h

theorem good_q2AtomicApply (g : CoreNo) (s : State) : Good s (execQ2AtomicApply g s) := by
  unfold execQ2AtomicApply
  dsimp only
  split
  · exact Good.same s
  · have done : ∀ (t : State) (f : Inst → Inst), s.Keeps t → Good s (.next ((t.modInst g f).sink g)) :=
      fun t f h => Good.next (h.trans ((modInst_keeps _ _ _).trans (sink_keeps _ _)))
    refine Good.ite (Good.same s) ?_
    split
    · exact done _ _ (State.Keeps.refl s)
    · refine Good.ite (done _ _ (State.Keeps.refl s)) (Good.ite ?_ ?_)
      · split
        · rename_i h
          exact done _ _ (accept_keeps h)
        · exact Good.same s
      · exact done _ _ (atomApply_keeps _ _ _ _ _ _ _ _)

theorem moveRecord_keeps (s : State) (g : CoreNo) (c : Copy) (op : AmoOp) (w32 det : Bool) (z : ListSrc) (u : Nat) :
    Within s.Keeps (s.moveRecord g c op w32 det z u) := by
  unfold State.moveRecord
  refine Within.bind (sourceBytes_keeps _ _ _ _ _ _ _) fun r hr => ?_
  dsimp only
  refine Within.ite (Within.error _) ?_
  split
  · exact Within.error _
  · refine Within.ite (Within.error _) ?_
    split
    · exact Within.error _
    · rename_i t h
      refine Within.ok (hr.trans ?_)
      split at h
      · exact accept_keeps h
      · cases h; exact (keepBytes_keeps _ _ _ _ _).trans (atomApply_keeps _ _ _ _ _ _ _ _)

theorem good_datmOpen (tk : Tok) (p q : CReg) (o : Bool) (s : State) : Good s (execDatmOpen tk p q o s) := by
  unfold execDatmOpen
  refine ceNow_good ?_
  split
  · refine Within.then fun _ => ?_
    dsimp only
    split
    · exact Within.then fun _ => Within.ok (modTask_keeps _ _ _)
    · exact Within.then fun _ => Within.then fun _ => Within.then fun _ => Within.ok (modTask_keeps _ _ _)
  · exact Within.ok (State.Keeps.refl s)

theorem good_datmClose (tk : Tok) (p : CReg) (a : AReg) (r : Bool) (s : State) : Good s (execDatmClose tk p a r s) := by
  unfold execDatmClose
  refine ceRun_good (Within.then fun _ => Within.then fun _ => Within.bind (startCopy_keeps _ _ _) fun t h => ?_)
  split
  · exact Within.pair (h.trans (modJoiner_keeps _ _ _ _ _))
  · exact Within.ok h

theorem good_windowApply (task : Nat) (win : Fin 64) (s : State) : Good s (execWindowApply task win s) := by
  unfold execWindowApply
  split
  · exact Good.same s
  · split
    · exact Good.same s
    · refine Good.ite (Good.same s) ?_
      dsimp only
      refine Good.next (State.Keeps.trans (State.Keeps.foldl _ (fun b j => ?_) _ ?_) (modTask_keeps _ _ _))
      · split
        · exact modInst_keeps _ _ _
        · exact State.Keeps.refl b
      · refine State.Keeps.trans (State.Keeps.foldl _ (fun b u => ?_) _ (State.Keeps.refl s)) (State.Keeps.of_parts rfl rfl rfl)
        exact (physWrite_keeps b _ _).trans (accessL2_keeps _ _ _ _ _ _ _ _)

-- Links.

theorem modLink_keeps (s : State) (l : Fin 16) (f : Link → Link) : s.Keeps (s.modLink l f) := State.Keeps.of_parts rfl rfl rfl
theorem stepLink_keeps (s : State) (l : Fin 16) : s.Keeps (s.stepLink l) := (modLink_keeps _ _ _).trans (writeRecord_keeps _ _)

theorem good_laneFailure (l : Fin 16) (lane : Fin 16) (s : State) : Good s (execLaneFailure l lane s) :=
  Good.ite (Good.next (((modLink_keeps _ _ _).trans (modLink_keeps _ _ _)).trans (stepLink_keeps _ _))) (Good.next (modLink_keeps _ _ _))
theorem good_retrainComplete (l : Fin 16) (trained : Bool) (s : State) : Good s (execRetrainComplete l trained s) :=
  Good.ite (Good.same s) (Good.ite (Good.next (modLink_keeps _ _ _)) (Good.ite (Good.next (modLink_keeps _ _ _)) (Good.next (stepLink_keeps _ _))))

theorem send_keeps {s t : State} {l : Fin 16} {e : Envelope} (h : s.send l e = some t) : s.Keeps t := by
  unfold State.send at h
  dsimp only at h
  split at h
  · cases h
  · cases h; exact modLink_keeps _ _ _

theorem sendUnit_keeps (s : State) (g : CoreNo) (c : Copy) (m : Nat) (d : Fin 8) (u : Nat) : Within s.Keeps (s.sendUnit g c m d u) := by
  have k : ∀ r : State × Message, s.Keeps r.1 → Within (ε := CopyStop) s.Keeps (match s.route m with
      | none => .error (.fault .prot (c.remote u))
      | some l => match r.1.send l ⟨s.pod, m, (g, c.id, u), r.2⟩ with
        | none => .error .wait
        | some t => .ok (t.modInst g fun i => i.modCopy c.id fun x => { x with sent := u :: x.sent })) := by
    intro r hr
    split
    · exact Within.error _
    · split
      · exact Within.error _
      · rename_i h
        exact Within.ok ((hr.trans (send_keeps h)).trans (modInst_keeps _ _ _))
  unfold State.sendUnit
  dsimp only
  refine Within.ite (Within.error _) ?_
  split
  · exact Within.bind (Within.pair (State.Keeps.refl s)) k
  · exact Within.bind (Within.pair (State.Keeps.refl s)) k
  · exact Within.bind (Within.map ((sourceBytes_keeps _ _ _ _ _ _ _).imp fun _ h => h)) k

theorem drainL1_keeps (s : State) (g : CoreNo) (line : Nat) (m : BitVec 4) (ctx : Nat) : s.Keeps (s.drainL1 g line m ctx) :=
  State.Keeps.of_bare (bareTlb_of_bareCaches (drainL1_bare s g line m ctx))

theorem cleanL1_keeps (s : State) (g : CoreNo) (line : Nat) (m : BitVec 4) (remove : Bool) : s.Keeps (s.cleanL1 g line m remove) := by
  unfold State.cleanL1
  dsimp only
  split
  · exact State.Keeps.refl s
  · exact State.Keeps.trans (State.Keeps.ite (State.Keeps.refl s) (drainL1_keeps _ _ _ _ _)) (State.Keeps.of_parts rfl rfl rfl)

theorem failUnit_keeps (s : State) (g : CoreNo) (id u off : Nat) (ca : Cause) : s.Keeps (s.failUnit g id u off ca) := modInst_keeps _ _ _

theorem remoteAnswer_keeps (s : State) (g : CoreNo) (copy unit : Nat) (a : RemoteAnswer) : s.Keeps (s.remoteAnswer g copy unit a) := by
  unfold State.remoteAnswer
  split
  · exact State.Keeps.refl s
  · refine State.Keeps.ite (State.Keeps.refl s) ?_
    split
    · exact (modInst_keeps _ _ _).trans (sink_keeps _ _)
    · exact State.Keeps.ite (failUnit_keeps _ _ _ _ _ _) (State.Keeps.refl s)
    · exact State.Keeps.ite (failUnit_keeps _ _ _ _ _ _) (State.Keeps.refl s)
    · exact State.Keeps.ite (State.Keeps.ite (failUnit_keeps _ _ _ _ _ _) (State.Keeps.refl s)) (State.Keeps.refl s)

theorem good_remoteUnitAck (g : CoreNo) (copy : Nat) (unit : Nat) (answer : RemoteAnswer) (s : State) :
    Good s (execRemoteUnitAck g copy unit answer s) := Good.next (remoteAnswer_keeps _ _ _ _ _)

theorem failMessage_keeps (s : State) (e : Envelope) : s.Keeps (s.failMessage e) := by
  unfold State.failMessage
  split
  · exact State.Keeps.refl s
  · exact State.Keeps.ite (failUnit_keeps _ _ _ _ _ _) (State.Keeps.of_parts rfl rfl rfl)

theorem sendOn_keeps {s t : State} {e : Envelope} (h : s.sendOn e = some t) : s.Keeps t := by
  unfold State.sendOn at h
  split at h
  · cases h; exact failMessage_keeps _ _
  · exact send_keeps h

theorem landMessage_keeps (s : State) (m : Message) : ∀ t, s.landMessage m = .landed t → s.Keeps t := by
  have f : ∀ c n t, s.landFault c n ≠ .landed t := by
    intro c n t
    unfold State.landFault
    split <;> intro h <;> cases h
  have st : ∀ ctx va bs t, (match s.writeV none ctx va bs with
      | .ok t => Landing.landed t
      | .error (c, a) => s.landFault c (a - va)) = .landed t → s.Keeps t := by
    intro ctx va bs t h
    split at h
    · rename_i e; cases h; exact writeV_keeps _ _ _ _ _ _ e
    · exact absurd h (f _ _ _)
  unfold State.landMessage
  dsimp only
  intro t h
  split at h
  · exact st _ _ _ _ h
  · exact st _ _ _ _ h
  · split at h
    · exact absurd h (f _ _ _)
    · split at h
      · cases h
      · cases h; exact agentWrite_keeps _ _ _ _
  · cases h; exact State.Keeps.refl s

theorem answerTo_keeps (s : State) (e : Envelope) (a : RemoteAnswer) : s.Keeps (s.answerTo e a) := State.Keeps.of_parts rfl rfl rfl

theorem deliverTo_keeps {s t : State} {e : Envelope} (h : s.deliverTo e = some t) : s.Keeps t := by
  unfold State.deliverTo at h
  split at h
  · exact sendOn_keeps h
  · split at h
    · cases h; exact remoteAnswer_keeps _ _ _ _ _
    · split at h
      · rename_i m; cases h; exact (landMessage_keeps _ _ _ m).trans (answerTo_keeps _ _ _)
      · cases h; exact answerTo_keeps _ _ _
      · cases h

theorem landOldest_keeps (s : State) (l : Fin 16) : s.Keeps (s.landOldest l) := by
  unfold State.landOldest
  split
  · exact State.Keeps.refl s
  · refine State.Keeps.ite (State.Keeps.refl s) ?_
    split
    · rename_i e; exact (deliverTo_keeps e).trans (modLink_keeps _ _ _)
    · exact State.Keeps.refl s

theorem reply_keeps (s : State) : s.Keeps s.reply := by
  unfold State.reply
  split
  · exact State.Keeps.refl s
  · rename_i e rest _
    refine State.Keeps.ite (State.Keeps.refl s) ?_
    cases h : State.sendOn { s with outbox := rest } e with
    | none => exact State.Keeps.refl s
    | some t => exact State.Keeps.trans (t := { s with outbox := rest }) (State.Keeps.of_parts rfl rfl rfl) (sendOn_keeps h)

theorem flitFlush_keeps (s : State) (l : Fin 16) : s.Keeps (s.flitFlush l) := State.Keeps.ite (modLink_keeps _ _ _) (State.Keeps.refl s)

theorem hopLost_keeps (s : State) (m : Fin 64) : s.Keeps (s.hopLost m) := by
  unfold State.hopLost
  split
  · exact State.Keeps.of_parts rfl rfl rfl
  · exact State.Keeps.refl s

theorem good_flitReceive (l : Fin 16) (f : Flit) (s : State) : Good s (execFlitReceive l f s) :=
  Good.ite (Good.same s) (Good.next (modLink_keeps _ _ _))

theorem good_nakReceive (l : Fin 16) (ack : BitVec 16) (s : State) : Good s (execNakReceive l ack s) :=
  Good.ite (Good.next (modLink_keeps _ _ _)) (Good.same s)
theorem good_ackTimer (l : Fin 16) (s : State) : Good s (execAckTimer l s) := Good.ite (Good.next (modLink_keeps _ _ _)) (Good.same s)
theorem good_replayTimeout (l : Fin 16) (s : State) : Good s (execReplayTimeout l s) :=
  Good.ite (Good.next (modLink_keeps _ _ _)) (Good.same s)

theorem rerouteFlits_keeps (way : Option (Fin 16)) (fs : List SentFlit) (s : State) : s.Keeps (rerouteFlits way fs s).1 := by
  induction fs generalizing s with
  | nil => exact State.Keeps.refl s
  | cons f fs ih =>
    unfold rerouteFlits
    split
    · exact (State.Keeps.foldl _ failMessage_keeps _ (State.Keeps.refl s)).trans (ih _)
    · split
      · exact State.Keeps.refl s
      · exact (modLink_keeps _ _ _).trans (ih _)

theorem good_linkRetireReroute (l : Fin 16) (s : State) : Good s (execLinkRetireReroute l s) :=
  Good.ite (Good.same s) (Good.next (((modLink_keeps _ _ _).trans (rerouteFlits_keeps _ _ _)).trans (modLink_keeps _ _ _)))

-- Cache flushes and the other landings.

theorem cleanL2_keeps (s : State) (line : Nat) (m : BitVec 4) : s.Keeps (s.cleanL2 line m) := by
  unfold State.cleanL2
  split
  · exact State.Keeps.refl _
  · exact State.Keeps.of_parts rfl rfl rfl

theorem moveFlush_keeps (s : State) (g : CoreNo) (c : Copy) (remove hbm : Bool) (u : Nat) : s.Keeps (s.moveFlush g c remove hbm u) := by
  unfold State.moveFlush
  dsimp only
  refine State.Keeps.foldl _ (fun b va => ?_) _ (State.Keeps.refl s)
  split
  · exact State.Keeps.refl b
  · exact State.Keeps.ite ((cleanL1_keeps b _ _ _ _).trans (cleanL2_keeps _ _ _)) (cleanL1_keeps _ _ _ _ _)

theorem moveUnit_keeps (s : State) (g : CoreNo) (c : Copy) (u : Nat) : Within s.Keeps (s.moveUnit g c u) := by
  unfold State.moveUnit
  split
  · exact moveCp_keeps _ _ _ _ _ _ _
  · exact moveCpn_keeps _ _ _ _
  · exact moveCpx_keeps _ _ _ _ _ _
  · exact moveLyt_keeps _ _ _ _
  · exact Within.ok (moveKeep_keeps _ _ _ _)
  · exact Within.ok (moveFlush_keeps _ _ _ _ _ _)
  · exact Within.ok (moveFlush_keeps _ _ _ _ _ _)
  · exact moveSpill_keeps _ _ _ _ _
  · exact moveFill_keeps _ _ _ _ _
  · exact moveRecord_keeps _ _ _ _ _ _ _ _
  · exact Within.error _

theorem unitDone_keeps (s : State) (g : CoreNo) (c : Copy) (u n : Nat) : s.Keeps (s.unitDone g c u n) := modInst_keeps _ _ _

theorem landUnit_keeps (s : State) (g : CoreNo) (c : Copy) (u : Nat) : Within s.Keeps (s.landUnit g c u) := by
  unfold State.landUnit
  split
  · exact sendUnit_keeps _ _ _ _ _ _
  · exact sendUnit_keeps _ _ _ _ _ _
  · exact sendUnit_keeps _ _ _ _ _ _
  · exact Within.map ((moveUnit_keeps _ _ _ _).imp fun _ h => h.trans (unitDone_keeps _ _ _ _ _))

theorem putWord_keeps (s : State) (g : CoreNo) (c : Copy) (w : WordStore) : s.Keeps (s.putWord g c w) := by
  unfold State.putWord
  split
  · exact State.Keeps.foldl _ (fun _ _ => copyBuf_keeps _ _ _ _ _) _ (State.Keeps.refl s)
  · exact State.Keeps.foldl _ (fun _ _ => ((physWrite_keeps _ _ _).trans (accessL2_keeps _ _ _ _ _ _ _ _)).trans (sink_keeps _ _)) _
      (State.Keeps.refl s)

theorem beginUnit_keeps (s : State) (g : CoreNo) (c : Copy) (u : Nat) : s.Keeps (s.beginUnit g c u) := by
  unfold State.beginUnit
  split
  · exact State.Keeps.refl s
  · rename_i t e
    have h : s.Keeps t := moveUnit_keeps s g c u t e
    dsimp only
    refine State.Keeps.ite (State.Keeps.refl s) (h.trans ?_)
    exact State.Keeps.trans (State.Keeps.of_mem (t := { t with mem := _ }) (wf_puts _ _) (fun _ => rfl) rfl)
      ((modInst_keeps _ _ _).trans (modCore_keeps _ _))

theorem landPart_keeps (s : State) (g : CoreNo) (id : Nat) (p : Part) : s.Keeps (s.landPart g id p) := by
  unfold State.landPart
  dsimp only
  split
  · exact State.Keeps.refl s
  · split
    · exact State.Keeps.ite (readAhead_keeps _ _ _ _ _) (State.Keeps.refl s)
    · exact State.Keeps.ite (beginUnit_keeps _ _ _ _) (State.Keeps.refl s)
    · split
      · split
        · exact (putWord_keeps _ _ _ _).trans (modInst_keeps _ _ _)
        · exact State.Keeps.refl s
      · exact State.Keeps.refl s

theorem good_copyUnitLand (g : CoreNo) (copy : Nat) (unit : Nat) (s : State) : Good s (execCopyUnitLand g copy unit s) := by
  unfold execCopyUnitLand
  dsimp only
  split
  · exact Good.same s
  · split
    · exact Good.ite (Good.next ((State.Keeps.foldl _ (fun _ _ => putWord_keeps _ _ _ _) _ (State.Keeps.refl s)).trans
        (unitDone_keeps _ _ _ _ _))) (Good.same s)
    · refine Good.ite (Good.same s) ?_
      split
      · rename_i e; exact Good.next (landUnit_keeps _ _ _ _ _ e)
      · exact Good.same s
      · exact Good.next (modInst_keeps _ _ _)
      · exact Good.next (State.Keeps.trans (State.Keeps.ite (State.Keeps.refl s) (noteFailed_keeps _ _ _ _ _)) (modInst_keeps _ _ _))

theorem finishCopy_keeps (s : State) (g : CoreNo) (c : Copy) : s.Keeps (s.finishCopy g c) := by
  unfold State.finishCopy
  exact State.Keeps.ite ((modInst_keeps _ _ _).trans (sink_keeps _ _)) (modInst_keeps _ _ _)

theorem good_copyComplete (g : CoreNo) (copy : Nat) (s : State) : Good s (execCopyComplete g copy s) := by
  unfold execCopyComplete
  split
  · exact Good.same s
  · refine Good.ite (Good.same s) ?_
    split
    · exact Good.ite (Good.next (((modInst_keeps _ _ _).trans (finishCopy_keeps _ _ _)).trans (sink_keeps _ _))) (Good.same s)
    · exact Good.next (finishCopy_keeps _ _ _)

theorem good_larkspurStart (g : CoreNo) (s : State) : Good s (execLarkspurStart g s) := by
  unfold execLarkspurStart
  dsimp only
  split
  · exact Good.same s
  · refine Good.ite (Good.same s) ?_
    split
    · exact Good.next ((noteFailed_keeps _ _ _ _ _).trans (modInst_keeps _ _ _))
    · exact Good.same s
    · exact Good.same s
    · rename_i e; exact Good.next (State.Keeps.trans (readParts_keeps _ _ _ _ _ _ _ e) (modInst_keeps _ _ _))

-- Collectives.

theorem issueColl_good (s : State) (tk : Tok) (p : CReg) (i : Instr) : Good s (issueColl s tk p i) := by
  unfold issueColl
  refine ceRun_good (Within.then fun _ => Within.bind (startCopy_keeps _ _ _) fun r h => Within.pair ?_)
  exact State.Keeps.ite (h.trans (modInst_keeps _ _ _)) h

theorem ownPart_keeps (s : State) (g : CoreNo) (d : Descriptor) (n : Nat) (b : Bool) : Within (fun r => s.Keeps r.1) (s.ownPart g d n b) :=
  Within.ite (Within.pair (State.Keeps.refl s)) (copyReadAt_keeps _ _ _ _ _)

theorem commitColl_keeps (s : State) (g : CoreNo) (c : Copy) (others : List Contribution) (agree : Bool) :
    Within (fun r => s.Keeps r.1) (s.commitColl g c others agree) := by
  unfold State.commitColl
  refine Within.bind (copyReadAt_keeps _ _ _ _ _) fun rd h => ?_
  dsimp only
  split
  · exact Within.pair h
  · refine Within.bind (ownPart_keeps _ _ _ _ _) fun own k => ?_
    split
    · exact Within.error _
    · exact Within.pair (h.trans k)

theorem collData_keeps (s : State) (g : CoreNo) (dst : Nat) (m : Commit) : Within s.Keeps (s.collData g dst m) := by
  unfold State.collData
  split
  · exact Within.ok (State.Keeps.refl s)
  · split
    · rename_i e; exact Within.ok (copyWrite_keeps _ _ _ _ _ _ e)
    · exact Within.ite (Within.error _) (Within.ok (State.Keeps.refl s))

theorem finishColl_keeps (s : State) (g : CoreNo) (c : Copy) (m : Commit) : Within s.Keeps (s.finishColl g c m) :=
  Within.bind (copyReadAt_keeps _ _ _ _ _) fun _ h => Within.bind ((collData_keeps _ _ _ _).imp fun _ k => h.trans k) fun _ k =>
    Within.bind (copyWrite_from k _ _ _ _) fun _ j => Within.ok ((j.trans (modInst_keeps _ _ _)).trans (sink_keeps _ _))

theorem good_collectiveCommit (g : CoreNo) (copy : Nat) (others : List Contribution) (agree : Bool) (s : State) :
    Good s (execCollectiveCommit g copy others agree s) := by
  have stop : ∀ (t : State) (id : Nat) (e : CopyStop), t.Keeps (match e with
      | .fault ca tv => t.modInst g fun i => i.modCopy id fun x => x.withFault 0 ca tv
      | _ => t) := by
    intro t id e
    split
    · exact modInst_keeps _ _ _
    · exact State.Keeps.refl t
  have finish : ∀ (t : State) (c : Copy) (m : Commit), t.Keeps (match t.finishColl g c m with
      | .ok u => u
      | .error e => match e with
        | .fault ca tv => t.modInst g fun i => i.modCopy c.id fun x => x.withFault 0 ca tv
        | _ => t) := by
    intro t c m
    split
    · rename_i e; exact finishColl_keeps _ _ _ _ _ e
    · exact stop t _ _
  unfold execCollectiveCommit
  dsimp only
  split
  · exact Good.same s
  · refine Good.ite (Good.same s) ?_
    split
    · exact Good.next (finish _ _ _)
    · split
      · exact Good.next (stop _ _ _)
      · rename_i e
        have h : ∀ f, s.Keeps (State.modInst _ g f) := fun f => State.Keeps.trans (commitColl_keeps _ _ _ _ _ _ e) (modInst_keeps _ g f)
        exact Good.next (State.Keeps.ite (h _) ((h _).trans (finish _ _ _)))

theorem good_memberRemove (grp slot : Fin 64) (s : State) : Good s (execMemberRemove grp slot s) :=
  Good.ite (Good.next (State.Keeps.of_parts rfl rfl rfl)) (Good.same s)

theorem setGroup_keeps (s : State) (grp : Fin 64) (ms : List (Fin 64)) (l : BitVec 64) (e : Word32) (c : Option Nat) :
    s.Keeps (s.setGroup grp ms l e c) :=
  State.Keeps.ite (State.Keeps.of_parts rfl rfl rfl) (State.Keeps.ite (State.Keeps.refl s) (State.Keeps.of_parts rfl rfl rfl))

theorem hostRead_keeps (s : State) (b : Fin 2) (a n : Nat) : s.Keeps (s.hostRead b a n) :=
  State.Keeps.ite (State.Keeps.refl s) (State.Keeps.of_parts rfl rfl rfl)

theorem dmaIn_keeps (s : State) (pa : Nat) (d : List Byte) : s.Keeps (s.dmaIn pa d) :=
  State.Keeps.ite (agentWrite_keeps _ _ _ _) (State.Keeps.refl s)

theorem dmaOut_keeps (s : State) (pa n : Nat) : s.Keeps (s.dmaOut pa n) := by
  unfold State.dmaOut
  refine State.Keeps.ite ?_ (State.Keeps.refl s)
  split
  · exact State.Keeps.of_parts rfl rfl rfl
  · exact State.Keeps.refl s

theorem hostBar1Write_cases (pa : Nat) (data : List Byte) (s : State) :
    Good s (execHostBar1Write pa data s) ∨ s.paTop < pa + data.length ∧ execHostBar1Write pa data s = .fault (.outsideMemory pa) := by
  unfold execHostBar1Write
  split
  · exact .inl (Good.same s)
  · split
    · rename_i h; exact .inr ⟨h, rfl⟩
    · exact .inl (Good.next (agentWrite_keeps _ _ _ _))

theorem hostAtomicop_cases (op : HostAtomic) (w32 : Bool) (pa : Nat) (x cmp : Word) (s : State) :
    Good s (execHostAtomicop op w32 pa x cmp s) ∨
      s.paTop < pa + atomBytes w32 ∧ execHostAtomicop op w32 pa x cmp s = .fault (.outsideMemory pa) := by
  unfold execHostAtomicop
  dsimp only
  split
  · exact .inl (Good.same s)
  · split
    · rename_i h; exact .inr ⟨h, rfl⟩
    · exact .inl (Good.ite (Good.same s) (Good.next (agentWrite_keeps _ _ _ _)))

end Sys2Proof.Machine
end

