-- ==== Sys2Proof/Laws/KeepEngine.lean ====
section
/-! SUPPORT. That no step breaks the form of memory or raises a rung (`Good`): the matrix engine, tiles and Hollyhock. -/

namespace Sys2Proof.Machine

open Host

theorem classed_good {s : State} {cls : Nat} {i : Instr} {tk : Tok} {close : Bool} {res : Res State} (h : Within s.Keeps res) :
    Good s (classed s cls i tk close res) := by
  unfold classed
  refine Good.ite (engineRun_good h) ?_
  split
  · exact Good.next (raise_keeps _ _ _)
  · exact Good.next (modInst_keeps _ _ _)

theorem maResult_keeps (s : State) (d : TReg) (a b : Sys2Proof.ZReg) (form : TileForm) (fa fb ea eb : Nat) (sparse : Bool)
    (f : Tile → Array (Nat × Nat) → Array (Nat × Nat) → Array Nat → Tile × Word) :
    Within s.Keeps (maResult s d a b form fa fb ea eb sparse f) := by
  unfold maResult
  refine Within.then fun _ => Within.then fun _ => Within.then fun t => Within.then fun _ => ?_
  dsimp only
  split
  · split
    · exact Within.error _
    · split
      · exact Within.error _
      · split
        · exact Within.then fun _ => Within.then fun _ => Within.then fun _ => Within.ok (modInst_keeps s _ _)
        · exact Within.error _
  · exact Within.then fun _ => Within.then fun _ => Within.then fun _ => Within.ok (modInst_keeps s _ _)

theorem fpResult_keeps (s : State) (d : TReg) (a b : Sys2Proof.ZReg) (form : TileForm) (fa fb k : Nat) (f : Fmt) (grp : Nat) (r : Rounding)
    (acc bt : Bool) : Within s.Keeps (fpResult s d a b form fa fb k f grp r acc bt) := by
  unfold fpResult; exact maResult_keeps _ _ _ _ _ _ _ _ _ _ _
theorem intResult_keeps (s : State) (d : TReg) (a b : Sys2Proof.ZReg) (fa fb k : Nat) (acc bt : Bool) :
    Within s.Keeps (intResult s d a b fa fb k acc bt) := by
  unfold intResult; exact maResult_keeps _ _ _ _ _ _ _ _ _ _ _
theorem resMmas_keeps (s : State) (d : TReg) (a b : Sys2Proof.ZReg) (f : B16Fmt) (r : Rounding) (c t : Bool) :
    Within s.Keeps (resMmas s d a b f r c t) := by
  unfold resMmas; exact maResult_keeps _ _ _ _ _ _ _ _ _ _ _

theorem resLrset_keeps (s : State) (d : TReg) (a b : Sys2Proof.ZReg) : Within s.Keeps (resLrset s d a b) :=
  Within.then fun _ => Within.then fun _ => Within.then fun _ => Within.then fun _ => Within.then fun _ => Within.then fun _ =>
    Within.ok (modInst_keeps _ _ _)

theorem lrCommit_keeps (s : State) (d : TReg) (r : Res (Tile × Flags)) : Within s.Keeps (lrCommit s d r) :=
  Within.map ((Within.any _).imp fun _ _ => modInst_keeps _ _ _)

theorem resLrmul_keeps (s : State) (d a b : TReg) : Within s.Keeps (resLrmul s d a b) :=
  Within.then fun _ => Within.then fun _ => Within.then fun _ => Within.then fun _ => lrCommit_keeps _ _ _

theorem resLradd_keeps (s : State) (d a b : TReg) (n : Bool) : Within s.Keeps (resLradd s d a b n) :=
  Within.then fun _ => Within.then fun _ => Within.then fun _ => Within.ite (lrCommit_keeps _ _ _) (lrCommit_keeps _ _ _)

theorem resLrcmp_keeps (s : State) (d a : TReg) : Within s.Keeps (resLrcmp s d a) := by
  unfold resLrcmp
  refine Within.then fun _ => Within.then fun _ => ?_
  dsimp only
  split
  · exact Within.then fun _ => lrCommit_keeps _ _ _
  · exact Within.then fun _ => lrCommit_keeps _ _ _

theorem resLrden_keeps (s : State) (d a : TReg) (c : Bool) : Within s.Keeps (resLrden s d a c) :=
  Within.then fun _ => Within.then fun _ => Within.then fun _ => lrCommit_keeps _ _ _

theorem good_mmaF64 (tk : Tok) (d : TReg) (a b : Sys2Proof.ZReg) (r : Rounding) (c t e : Bool) (s : State) : Good s (execMmaF64 tk d a b r c t e s) :=
  classed_good (fpResult_keeps _ _ _ _ _ _ _ _ _ _ _ _ _)
theorem good_mmaB16 (tk : Tok) (d : TReg) (a b : Sys2Proof.ZReg) (f : B16Fmt) (r : Rounding) (c t e : Bool) (s : State) :
    Good s (execMmaB16 tk d a b f r c t e s) := classed_good (fpResult_keeps _ _ _ _ _ _ _ _ _ _ _ _ _)
theorem good_mmas (tk : Tok) (d : TReg) (a b : Sys2Proof.ZReg) (f : B16Fmt) (r : Rounding) (c t e : Bool) (s : State) :
    Good s (execMmas tk d a b f r c t e s) := classed_good (resMmas_keeps _ _ _ _ _ _ _ _)
theorem good_mmaF8 (tk : Tok) (d : TReg) (a b : Sys2Proof.ZReg) (f : BitVec 2) (r : Rounding) (c t e : Bool) (s : State) :
    Good s (execMmaF8 tk d a b f r c t e s) := classed_good (fpResult_keeps _ _ _ _ _ _ _ _ _ _ _ _ _)
theorem good_mmaI8 (tk : Tok) (d : TReg) (a b : Sys2Proof.ZReg) (f : BitVec 2) (c t e : Bool) (s : State) : Good s (execMmaI8 tk d a b f c t e s) :=
  classed_good (intResult_keeps _ _ _ _ _ _ _ _ _)
theorem good_mmaF4 (tk : Tok) (d : TReg) (a b : Sys2Proof.ZReg) (r : Rounding) (c t e : Bool) (s : State) : Good s (execMmaF4 tk d a b r c t e s) :=
  classed_good (fpResult_keeps _ _ _ _ _ _ _ _ _ _ _ _ _)
theorem good_mmaI4 (tk : Tok) (d : TReg) (a b : Sys2Proof.ZReg) (f : BitVec 2) (c t e : Bool) (s : State) : Good s (execMmaI4 tk d a b f c t e s) :=
  classed_good (intResult_keeps _ _ _ _ _ _ _ _ _)
theorem good_lrset (tk : Tok) (d : TReg) (a b : Sys2Proof.ZReg) (e : Bool) (s : State) : Good s (execLrset tk d a b e s) :=
  classed_good (resLrset_keeps _ _ _ _)
theorem good_lrmul (tk : Tok) (d a b : TReg) (s : State) : Good s (execLrmul tk d a b s) :=
  classed_good (resLrmul_keeps _ _ _ _)
theorem good_lradd (tk : Tok) (d a b : TReg) (n : Bool) (s : State) : Good s (execLradd tk d a b n s) :=
  classed_good (resLradd_keeps _ _ _ _ _)
theorem good_lrcmp (tk : Tok) (d a : TReg) (s : State) : Good s (execLrcmp tk d a s) :=
  classed_good (resLrcmp_keeps _ _ _)
theorem good_lrden (tk : Tok) (d a : TReg) (c : Bool) (s : State) : Good s (execLrden tk d a c s) :=
  classed_good (resLrden_keeps _ _ _ _)

theorem classedOf_keeps {i : Instr} {c : Classed} (h : classedOf i = some c) (s : State) : Within s.Keeps (c.res s) := by
  unfold classedOf at h
  split at h <;> cases h
  · exact fpResult_keeps _ _ _ _ _ _ _ _ _ _ _ _ _
  · exact fpResult_keeps _ _ _ _ _ _ _ _ _ _ _ _ _
  · exact resMmas_keeps _ _ _ _ _ _ _ _
  · exact fpResult_keeps _ _ _ _ _ _ _ _ _ _ _ _ _
  · exact intResult_keeps _ _ _ _ _ _ _ _ _
  · exact fpResult_keeps _ _ _ _ _ _ _ _ _ _ _ _ _
  · exact intResult_keeps _ _ _ _ _ _ _ _ _
  · exact resLrset_keeps _ _ _ _
  · exact resLrmul_keeps _ _ _ _
  · exact resLradd_keeps _ _ _ _ _
  · exact resLrcmp_keeps _ _ _
  · exact resLrden_keeps _ _ _ _

theorem good_assistEnter (g : CoreNo) (s : State) : Good s (execAssistEnter g s) := by
  unfold execAssistEnter
  dsimp only
  split
  · exact Good.same s
  · split
    · exact Good.same s
    · exact Good.ite (Good.same s) (Good.next (modInst_keeps _ _ _))

theorem atAssist_keeps (s : State) (g : CoreNo) (a : Assist) : s.Keeps (s.atAssist g a) := State.Keeps.of_parts rfl rfl rfl

theorem good_assistDone (g : CoreNo) (s : State) : Good s (execAssistDone g s) := by
  unfold execAssistDone
  split
  · exact Good.same s
  · split
    · exact Good.same s
    · rename_i h
      refine Good.ite (Good.same s) (Good.from ?_ (engineRun_good (classedOf_keeps h _)))
      exact (atAssist_keeps _ _ _).trans (modCore_keeps _ _)

theorem good_meFeederDecode (g : CoreNo) (s : State) : Good s (execMeFeederDecode g s) := by
  unfold execMeFeederDecode
  split
  · dsimp only
    split
    · exact Good.same s
    · split
      · refine Good.ite (Good.from ?_ (engineRun_good (Within.error _))) (Good.same s)
        exact State.Keeps.of_parts rfl rfl rfl
      · exact Good.same s
  · exact Good.same s

theorem popQ8_keeps (s : State) : Within (fun r => s.Keeps r.1) (popQ8 s) :=
  Within.then fun _ => Within.pair ((modInst_keeps _ _ _).trans (sink_keeps _ _))

theorem good_mloop (tk : Tok) (l : Fin 1024) (ii : Fin 64) (c : Bool) (n : Fin 128) (s : State) : Good s (execMloop tk l ii c n s) := by
  unfold execMloop
  refine engineRunThen_good (Within.map (Within.then fun _ => Within.ite (popQ8_keeps s) (Within.pair (State.Keeps.refl s)))) fun t => ?_
  exact modInst_keeps _ _ _

theorem good_meLoop (tk : Tok) (l : Fin 1024) (c : Bool) (n : Fin 8192) (s : State) : Good s (execMeLoop tk l c n s) :=
  engineLoop_good _ _ _ _ (popQ8_keeps s)

-- Tiles.

theorem good_talloc (tk : Tok) (d : TReg) (n : Fin 2048) (f : TileForm) (s : State) : Good s (execTalloc tk d n f s) :=
  engineRun_good (Within.then fun _ => Within.then fun _ => Within.ok (modInst_keeps _ _ _))
theorem good_tfree (tk : Tok) (d : TReg) (s : State) : Good s (execTfree tk d s) :=
  engineRun_good (Within.then fun _ => Within.ok (modInst_keeps _ _ _))
theorem good_tclr (tk : Tok) (d : TReg) (s : State) : Good s (execTclr tk d s) :=
  engineRun_good (Within.then fun _ => Within.ok (modInst_keeps _ _ _))
theorem good_tmov (tk : Tok) (d a : TReg) (s : State) : Good s (execTmov tk d a s) :=
  engineRun_good (Within.then fun _ => Within.then fun _ => Within.then fun _ => Within.ok (modInst_keeps _ _ _))
theorem good_mrd (tk : Tok) (t : TReg) (e : Dir) (n : Fin 64) (s : State) : Good s (execMrd tk t e n s) :=
  engineRun_good (Within.then fun _ => Within.then fun _ => Within.ok ((modInst_keeps _ _ _).trans (sink_keeps _ _)))
theorem good_mwr (tk : Tok) (t : TReg) (e : Dir) (n : Fin 64) (s : State) : Good s (execMwr tk t e n s) :=
  engineRun_good (Within.then fun _ => Within.then fun _ => Within.ok ((modInst_keeps _ _ _).trans (sink_keeps _ _)))
theorem good_mldc (tk : Tok) (t : TReg) (e : Dir) (n : Fin 64) (f : Fin 32) (g : Bool) (s : State) : Good s (execMldc tk t e n f g s) :=
  engineRun_good (Within.then fun _ => Within.ok (modInst_keeps _ _ _))
theorem good_mstc (tk : Tok) (t : TReg) (e : Dir) (n : Fin 64) (f : Fin 32) (g : Bool) (s : State) : Good s (execMstc tk t e n f g s) :=
  engineRun_good (Within.then fun _ => Within.ok ((modInst_keeps _ _ _).trans (sink_keeps _ _)))
theorem good_lrrank (tk : Tok) (a : TReg) (s : State) : Good s (execLrrank tk a s) :=
  engineRun_good (Within.then fun _ => Within.then fun _ => Within.ok ((modInst_keeps _ _ _).trans (sink_keeps _ _)))
theorem good_lrrankSet (tk : Tok) (d : TReg) (s : State) : Good s (execLrrankSet tk d s) :=
  engineRun_good (Within.then fun _ => Within.then fun _ => Within.then fun _ => Within.ok ((modInst_keeps _ _ _).trans (sink_keeps _ _)))
theorem good_vtrd (tk : Tok) (v : VReg) (t : TReg) (e : Dir) (n : Fin 64) (f : TileFmt) (k : KReg) (s : State) :
    Good s (execVtrd tk v t e n f k s) := vecRun_good fun _ _ _ => Within.map ((Within.any _).imp fun _ _ => State.Keeps.refl)
theorem good_vtwr (tk : Tok) (v : VReg) (t : TReg) (e : Dir) (n : Fin 64) (f : TileFmt) (k : KReg) (s : State) :
    Good s (execVtwr tk v t e n f k s) := by
  refine vecRun_good fun _ _ _ => ?_
  split
  · exact Within.ok (VecEffect.mild fun t => State.Keeps.foldl _ (fun _ _ => putElem_keeps _ _ _) _ (State.Keeps.refl t))
  · exact Within.map ((Within.any _).imp fun _ _ => VecEffect.mild fun t => modInst_keeps t _ _)

-- Hollyhock.

theorem hollyIssue_good (s : State) (tk : Tok) (d : VReg) (k : KReg) (read pops : List VReg) (me : Instr) :
    Good s (hollyIssue s tk d k read pops me) := by
  unfold hollyIssue
  dsimp only
  split
  · exact engineRun_good (Within.error _)
  · exact Good.ite (Good.same s) (Good.next (State.Keeps.ite (modInst_keeps _ _ _) ((modInst_keeps _ _ _).trans (sink_keeps _ _))))

theorem hollyPredicate_good (s : State) (tk : Tok) (d a b : VReg) (t : Bool) (k : KReg) (coords indexes : Nat) (me : Instr) :
    Good s (hollyPredicate s tk d a b t k coords indexes me) := hollyIssue_good _ _ _ _ _ _ _

theorem good_hollyhockSettle (g : CoreNo) (s : State) : Good s (execHollyhockSettle g s) := by
  unfold execHollyhockSettle
  split
  · exact Good.same s
  · rename_i x _
    split
    · exact Good.same s
    · dsimp only
      have h1 : s.Keeps { s with cur := ⟨g, .ve, x.pc, x.word, 0, x.stamp, false⟩ } := State.Keeps.of_parts rfl rfl rfl
      split
      · exact Good.next ((h1.trans (modInst_keeps _ _ _)).trans (raiseFpx_keeps _ _ _ _))
      · refine Good.next (State.Keeps.trans ?_ (retireWord_keeps _ _ _))
        exact State.Keeps.ite ((h1.trans (modInst_keeps _ _ _)).trans (sink_keeps _ _)) (h1.trans (modInst_keeps _ _ _))

end Sys2Proof.Machine
end

