-- ==== Sys2Proof/Laws/KeepPackets.lean ====
section
/-! SUPPORT. That no step breaks the form of memory or raises a rung (`Good`): command packets, rings, spawn, the mailbox, placement and transforms. -/

namespace Sys2Proof.Machine

open Host

-- The command processor's stores.

theorem cpWrite_keeps {s t : State} {k ctx va : Nat} {bs : List Byte} (h : s.cpWrite k ctx va bs = .ok t) : s.Keeps t := by
  unfold State.cpWrite at h
  split at h
  · rename_i e; cases h; exact writeV_keeps _ _ _ _ _ _ e
  · unfold State.cpFault at h
    split at h
    · split at h <;> cases h
    · split at h <;> cases h
    · cases h

theorem cpStore_keeps {s t : State} {k ctx va : Nat} {bs : List Byte} (h : s.cpStore k ctx va bs = some t) : s.Keeps t := by
  unfold State.cpStore at h
  split at h
  · rename_i e; cases h; exact cpWrite_keeps e
  · cases h; exact State.Keeps.refl s
  · cases h

theorem modCmdRing_keeps (s : State) (r : Fin 256) (f : CmdRing → CmdRing) : s.Keeps (s.modCmdRing r f) := State.Keeps.of_parts rfl rfl rfl

theorem beginPacket_keeps (s : State) (r : Fin 256) : s.Keeps (s.beginPacket r) := by
  unfold State.beginPacket
  exact State.Keeps.ite (modCmdRing_keeps _ _ _) (State.Keeps.refl s)

theorem ringFault_keeps (s : State) (r : Fin 256) (code : Nat) : s.Keeps (s.ringFault r code) := by
  unfold State.ringFault
  dsimp only
  split
  · rename_i e
    obtain ⟨u, hu, hv⟩ := Option.bind_eq_some_iff.1 e
    exact ((cpStore_keeps hu).trans (cpStore_keeps hv)).trans (modCmdRing_keeps _ _ _)
  · exact beginPacket_keeps _ _

theorem completePacket_good {s t : State} (h : s.Keeps t) (r : Fin 256) (len : Nat) : Good s (completePacket s t r len) := by
  unfold completePacket
  dsimp only
  split
  · rename_i e; exact Good.next ((h.trans (cpWrite_keeps e)).trans (modCmdRing_keeps _ _ _))
  · exact Good.next (beginPacket_keeps _ _)
  · exact Good.next (ringFault_keeps _ _ _)

theorem completePacket_from {s t : State} (h : s.Keeps t) (r : Fin 256) (len : Nat) : Good s (completePacket t t r len) :=
  Good.from h (completePacket_good (State.Keeps.refl t) r len)

theorem packetStore_good {s t : State} (h : s.Keeps t) (r : Fin 256) (va : Nat) (bs : List Byte) {k : State → Outcome State Fault Refusal}
    (hk : ∀ u, s.Keeps u → Good s (k u)) : Good s (packetStore t r va bs k) := by
  unfold packetStore
  split
  · rename_i e; exact hk _ (h.trans (cpWrite_keeps e))
  · exact Good.next (h.trans (beginPacket_keeps _ _))
  · exact Good.next (h.trans (ringFault_keeps _ _ _))

theorem packetStores_good {s t : State} (h : s.Keeps t) (r : Fin 256) (va : Nat) (ws : List Word) {k : State → Outcome State Fault Refusal}
    (hk : ∀ u, s.Keeps u → Good s (k u)) : Good s (packetStores r t va ws k) := by
  induction ws generalizing t va with
  | nil => exact hk _ h
  | cons w ws ih => exact packetStore_good h _ _ _ fun u hu => ih hu _

theorem good_signal (h : Pkt) (addr value : Word) (w32 : Bool) (s : State) : Good s (execSignal h addr value w32 s) :=
  packetStore_good (State.Keeps.refl s) _ _ _ fun _ k => completePacket_from k _ _
theorem good_write (h : Pkt) (addr : Word) (data : List Word) (s : State) : Good s (execWrite h addr data s) :=
  packetStores_good (State.Keeps.refl s) _ _ _ fun _ k => completePacket_from k _ _
theorem good_writeSignal (h : Pkt) (addr : Word) (data : List Word) (sigAddr sigVal : Word) (s : State) :
    Good s (execWriteSignal h addr data sigAddr sigVal s) :=
  packetStores_good (State.Keeps.refl s) _ _ _ fun _ k => packetStore_good k _ _ _ fun _ l => completePacket_from l _ _
theorem good_mark (h : Pkt) (addr : Word) (s : State) : Good s (execMark h addr s) :=
  Good.ite (completePacket_good (State.Keeps.refl s) _ _) (packetStore_good (State.Keeps.refl s) _ _ _ fun _ k => completePacket_from k _ _)
theorem good_wait (h : Pkt) (addr value : Word) (c : WCond) (w32 : Bool) (s : State) : Good s (execWait h addr value c w32 s) := by
  unfold execWait
  dsimp only
  split
  · exact Good.ite (completePacket_good (State.Keeps.refl s) _ _) (Good.next (modCmdRing_keeps _ _ _))
  · exact Good.next (modCmdRing_keeps _ _ _)
  · exact Good.next (ringFault_keeps _ _ _)
theorem good_waitSatisfied (r : Fin 256) (s : State) : Good s (execWaitSatisfied r s) := by
  unfold execWaitSatisfied
  dsimp only
  refine Good.ite (Good.same s) ?_
  split
  · split
    · exact good_wait _ _ _ _ _ _
    · exact Good.same s
  · exact Good.same s
theorem good_inval (h : Pkt) (ctx : Nat) (va length : Word) (s : State) : Good s (execInval h ctx va length s) := by
  unfold execInval
  refine Good.ite (Good.next (ringFault_keeps _ _ _)) (Good.ite (Good.same s) ?_)
  refine completePacket_good ?_ _ _
  exact State.Keeps.of_eq rfl (fun g => by simp [Core.ladders]) rfl

theorem addTask_keeps (s : State) (ring : Option (Fin 256)) (node : Option Nat) (ctx : Nat) (r : OpRecord) (w : Work)
    (rs : List Range) (p : TaskPhase) : s.Keeps (s.addTask ring node ctx r w rs p) := State.Keeps.of_parts rfl rfl rfl

theorem acceptRecord_keeps {s t : State} {ring : Option (Fin 256)} {node : Option Nat} {ctx : Nat} {r : OpRecord}
    (h : s.acceptRecord ring node ctx r = some t) : s.Keeps t := by
  unfold State.acceptRecord at h
  split at h <;> cases h <;> exact addTask_keeps _ _ _ _ _ _ _ _

theorem acceptRecords_keeps (ring : Fin 256) (ctx first left n : Nat) (s : State) : s.Keeps (acceptRecords ring ctx first left n s).1 := by
  induction left generalizing n s with
  | zero => exact State.Keeps.refl s
  | succ left ih =>
    unfold acceptRecords
    split
    · exact beginPacket_keeps _ _
    · split
      · exact beginPacket_keeps _ _
      · exact ringFault_keeps _ _ _
      · split
        · exact beginPacket_keeps _ _
        · rename_i e
          exact ((acceptRecord_keeps e).trans (modCmdRing_keeps _ _ _)).trans (ih _ _)

theorem good_launch (h : Pkt) (first : Word) (count : Nat) (s : State) : Good s (execLaunch h first count s) := by
  unfold execLaunch
  dsimp only
  have k := acceptRecords_keeps h.ring s.rings[h.ring].ctx first.toNat (count - s.rings[h.ring].accepted) s.rings[h.ring].accepted s
  exact Good.ite (Good.from k (completePacket_good (State.Keeps.refl _) _ _)) (Good.next k)

theorem good_node (h : Pkt) (counter payload : Word) (succ : List Word) (s : State) : Good s (execNode h counter payload succ s) := by
  unfold execNode
  exact Good.ite (Good.next (beginPacket_keeps _ _)) (completePacket_good (by exact State.Keeps.of_parts rfl rfl rfl) _ _)

theorem acceptTransform_keeps {s t : State} {ring : Option (Fin 256)} {node : Option Nat} {ctx : Nat} {i : Instr}
    (h : s.acceptTransform ring node ctx i = some t) : s.Keeps t := by
  unfold State.acceptTransform at h
  dsimp only at h
  split at h <;> cases h <;> exact addTask_keeps _ _ _ _ _ _ _ _

theorem transformPacket_good (h : Pkt) (i : Instr) (s : State) : Good s (transformPacket h i s) := by
  unfold transformPacket
  refine Good.ite (Good.next (beginPacket_keeps _ _)) ?_
  split
  · rename_i e; exact completePacket_good (acceptTransform_keeps e) _ _
  · exact Good.next (beginPacket_keeps _ _)

-- Nodes.

theorem decrement_keeps (s : State) (ctx : Nat) (c : Word) : s.Keeps (s.decrement ctx c) := by
  unfold State.decrement
  split
  · exact State.Keeps.ite (agentWrite_keeps _ _ _ _) (State.Keeps.refl s)
  · split
    · exact State.Keeps.of_parts rfl rfl rfl
    · exact State.Keeps.refl s

theorem settleDecrement_keeps (s : State) : s.Keeps s.settleDecrement := by
  unfold State.settleDecrement
  split
  · rename_i e rest _
    exact State.Keeps.trans (t := { s with owed := rest }) (State.Keeps.of_parts rfl rfl rfl) (decrement_keeps _ _ _)
  · exact State.Keeps.refl s

theorem finishNode_keeps (s : State) (n : Node) : s.Keeps (s.finishNode n) :=
  State.Keeps.foldl _ (fun _ _ => decrement_keeps _ _ _) _ (State.Keeps.of_parts rfl rfl rfl)

theorem badPayload_keeps (s : State) (n : Node) : s.Keeps (s.badPayload n) := by
  unfold State.badPayload State.finishNode
  exact State.Keeps.foldl _ (fun _ _ => decrement_keeps _ _ _) _ (State.Keeps.of_parts rfl rfl rfl)

theorem modNode_keeps (s : State) (id : Nat) (f : Node → Node) : s.Keeps (s.modNode id f) := State.Keeps.of_parts rfl rfl rfl

theorem nodeDone_keeps (s : State) (node : Nat) : s.Keeps (s.nodeDone node) := by
  unfold State.nodeDone
  split
  · exact State.Keeps.ite (State.Keeps.refl s) (finishNode_keeps _ _)
  · exact State.Keeps.refl s

theorem nodeRuns_keeps (s : State) (n : Node) : s.Keeps (s.nodeRuns n) := (modNode_keeps _ _ _).trans (nodeDone_keeps _ _)

theorem nodeRecords_keeps (left k first : Nat) (n : Node) (s : State) : s.Keeps (s.nodeRecords n first left k) := by
  induction left generalizing k s with
  | zero => exact nodeRuns_keeps _ _
  | succ left ih =>
    unfold State.nodeRecords
    refine State.Keeps.ite (modNode_keeps _ _ _) ?_
    split
    · exact modNode_keeps _ _ _
    · exact badPayload_keeps _ _
    · split
      · exact modNode_keeps _ _ _
      · rename_i e; exact (acceptRecord_keeps e).trans (ih _ _)

theorem runPayload_keeps (s : State) (n : Node) (taken : Nat) : s.Keeps (s.runPayload n taken) := by
  unfold State.runPayload
  dsimp only
  split
  · exact modNode_keeps _ _ _
  · exact modNode_keeps _ _ _
  · exact nodeRecords_keeps _ _ _ _ _
  · refine State.Keeps.ite (modNode_keeps _ _ _) ?_
    split
    · rename_i e; exact (acceptTransform_keeps e).trans (nodeRuns_keeps _ _)
    · exact modNode_keeps _ _ _
  · exact badPayload_keeps _ _

theorem good_nodeFire (id : Nat) (s : State) : Good s (execNodeFire id s) := by
  unfold execNodeFire
  split
  · exact Good.same s
  · split
    · exact Good.same s
    · exact Good.next (runPayload_keeps _ _ _)
    · split
      · exact Good.same s
      · exact Good.next (State.Keeps.ite (runPayload_keeps _ _ _) (State.Keeps.refl s))

-- Ring states.

theorem good_slotGrant (r : Fin 256) (s : State) : Good s (execSlotGrant r s) := by
  unfold execSlotGrant
  exact Good.ite (Good.next (modCmdRing_keeps _ _ _)) (Good.same s)
theorem good_ringSliceExpiry (r : Fin 256) (s : State) : Good s (execRingSliceExpiry r s) :=
  Good.ite (Good.next (modCmdRing_keeps _ _ _)) (Good.same s)
theorem good_ringPark (r : Fin 256) (s : State) : Good s (execRingPark r s) :=
  Good.ite (Good.next (modCmdRing_keeps _ _ _)) (Good.same s)
theorem good_ringRearm (r : Fin 256) (s : State) : Good s (execRingRearm r s) := by
  unfold execRingRearm
  dsimp only
  refine Good.ite (Good.same s) ?_
  split
  · split
    · split
      · exact Good.ite (Good.next (ringFault_keeps _ _ _)) (Good.same s)
      · exact Good.next (modCmdRing_keeps _ _ _)
    · exact Good.next (modCmdRing_keeps _ _ _)
  · exact Good.next (modCmdRing_keeps _ _ _)
theorem good_ringRestart (r : Fin 256) (ridx : Word) (s : State) : Good s (execRingRestart r ridx s) := by
  unfold execRingRestart
  refine Good.ite (Good.same s) ?_
  split
  · exact Good.same s
  · rename_i e; exact Good.next ((cpStore_keeps e).trans (modCmdRing_keeps _ _ _))
theorem ringReady_keeps (r : Fin 256) (s : State) : s.Keeps (s.ringReady r) := by
  unfold State.ringReady
  dsimp only
  refine State.Keeps.ite (State.Keeps.refl s) ?_
  split
  · exact State.Keeps.ite (State.Keeps.refl s) (modCmdRing_keeps _ _ _)
  · exact ringFault_keeps _ _ _
  · exact State.Keeps.refl s

-- spawn.

theorem memRes_within {α : Type} {p : α → Prop} {r : Except MemFault α} (h : Within p r) : Within p (memRes r) := by
  cases r with
  | ok a => exact Within.ok (h a rfl)
  | error e => exact Within.error _

theorem ringWrite_keeps (s : State) (g : CoreNo) (r : CmdRing) (idx : Nat) (bs : List Byte) : Within s.Keeps (s.ringWrite g r idx bs) := by
  unfold State.ringWrite
  refine Within.map (Within.foldlM (p := fun st : State × List Byte => s.Keeps st.1) (fun st p h => ?_) _ _ (State.Keeps.refl s))
  exact Within.map ((memRes_within (writeV_keeps _ _ _ _ _)).imp fun _ k => h.trans (k.trans (noteSpan_keeps _ _ _ _ _ _ _)))

theorem spawn_keeps (s : State) (g : CoreNo) (a b : Word) : Within (fun r => s.Keeps r.1) (s.spawn g a b) := by
  unfold State.spawn
  have h := noteSpan_keeps s
  refine Within.then fun _ => Within.then fun _ => Within.then fun _ => Within.then fun _ => Within.then fun _ => Within.then fun _ =>
    Within.ite (Within.pair (h _ _ _ _ _ _)) ?_
  refine Within.bind (ringWrite_keeps _ _ _ _ _) fun t ht => Within.bind (ringWrite_keeps _ _ _ _ _) fun u hu =>
    Within.bind (memRes_within (writeV_keeps _ _ _ _ _)) fun v hv => Within.pair ?_
  exact ((((h _ _ _ _ _ _).trans ht).trans hu).trans hv).trans ((noteSpan_keeps _ _ _ _ _ _ _).trans (sink_keeps _ _))

theorem good_spawn (d a b : SReg) (s : State) : Good s (execSpawn d a b s) := by
  unfold execSpawn
  exact scuRun_good fun t _ => spawn_keeps t _ _ _

-- Requests and the mailbox.

theorem ask_keeps (s : State) (l : List CoreNo) (r : Request) : s.Keeps (s.ask l r) :=
  State.Keeps.foldl _ (fun b _ => modCore_keeps b _) _ (State.Keeps.refl s)

theorem answer_good (s : State) (g : CoreNo) (status value : Nat) : Good s (answer s g status value) :=
  Good.ite (Good.next ((modInst_keeps _ _ _).trans (sink_keeps _ _))) (Good.same s)

theorem good_checkpoint (g : CoreNo) (a : BitVec 56) (s : State) : Good s (execCheckpoint g a s) := by
  unfold execCheckpoint
  exact Good.ite (answer_good _ _ _ _) (Good.next
    ((((modCore_keeps _ _).trans (modInst_keeps _ _ _)).trans (sink_keeps _ _)).trans (ask_keeps _ _ _)))

theorem good_yield (g : CoreNo) (a : BitVec 56) (s : State) : Good s (execYield g a s) := by
  unfold execYield
  exact Good.ite (answer_good _ _ _ _) (Good.ite (Good.from (ask_keeps _ _ _) (answer_good _ _ _ _)) (Good.same s))

-- Placement, passes, retirement.

theorem occupy_keeps (s : State) (g : CoreNo) (o : Occupant) : s.Keeps (s.occupy g o) := by
  unfold State.occupy
  split
  · exact State.Keeps.refl s
  · split
    · exact State.Keeps.refl s
    · exact modCore_keeps _ _

theorem place_keeps (s : State) (o : Occupant) (g : CoreNo) : s.Keeps (s.place o g) := by
  unfold State.place
  exact State.Keeps.ite ((modTask_keeps _ _ _).trans (occupy_keeps _ _ _)) ((modTask_keeps _ _ _).trans (modCore_keeps _ _))

theorem lockWays_keeps (s : State) (ks : List SpillLock) : s.Keeps (s.lockWays ks) :=
  State.Keeps.trans (State.Keeps.foldl (fun s (x : L2Line) => s.writeBack x.line x.writer x.dirty)
    (fun _ _ => State.Keeps.of_parts rfl rfl rfl) _ (State.Keeps.refl s)) (State.Keeps.of_parts rfl rfl rfl)

theorem good_instancePlace (task : Nat) (g : CoreNo) (s : State) : Good s (execInstancePlace task g s) := by
  unfold execInstancePlace
  split
  · exact Good.same s
  · split
    · refine Good.ite (Good.same s) ?_
      dsimp only
      split
      · rename_i ks l _ _
        have k : s.Keeps (l.foldl (fun s e => s.place ⟨task, e.1⟩ e.2) (s.lockWays ks)) :=
          State.Keeps.foldl _ (fun _ _ => place_keeps _ _ _) _ (lockWays_keeps _ _)
        exact Good.ite (Good.same s) (Good.next (State.Keeps.ite k (k.trans (modTask_keeps _ _ _))))
      · exact Good.same s
    · exact Good.same s

theorem good_shadowSwap (g : CoreNo) (s : State) : Good s (execShadowSwap g s) := by
  unfold execShadowSwap
  dsimp only
  split
  · have k : ∀ o, s.Keeps ((s.modCore g fun c => { c with shadow := none }).occupy g o) :=
      fun _ => State.Keeps.trans (modCore_keeps _ _) (occupy_keeps _ _ _)
    split
    · exact Good.next ((k _).trans (modCore_keeps _ _))
    · exact Good.next (k _)
  · exact Good.same s

theorem withdraw_keeps (s : State) (g : CoreNo) : s.Keeps (s.withdraw g) := by
  unfold State.withdraw
  split
  · exact State.Keeps.refl s
  · exact State.Keeps.trans (modCore_keeps _ _) (modTask_keeps _ _ _)

theorem good_shadowWithdraw (g : CoreNo) (s : State) : Good s (execShadowWithdraw g s) := Good.next (withdraw_keeps _ _)

theorem retire_keeps (s : State) (g : CoreNo) (o : Occupant) (i : Image) : s.Keeps (s.retire g o i) :=
  ((modTask_keeps _ _ _).trans (vacate_keeps _ _)).trans (modTask_keeps _ _ _)

theorem good_passEnd (g : CoreNo) (s : State) : Good s (execPassEnd g s) := by
  unfold execPassEnd
  dsimp only
  split
  · exact Good.ite (Good.same s) (Good.ite (Good.next (modInst_keeps _ _ _)) (Good.next (retire_keeps _ _ _ _)))
  · exact Good.same s

theorem good_taskKill (task : Nat) (d : BitVec 8) (s : State) : Good s (execTaskKill task d s) := by
  unfold execTaskKill
  split
  · split
    · exact Good.same s
    · exact Good.next (killTask_keeps _ _ _)
  · exact Good.same s

theorem storeOpt_keeps {s t : State} {c : Prop} [Decidable c] {k ctx va : Nat} {bs : List Byte}
    (h : (if c then s.cpStore k ctx va bs else some s) = some t) : s.Keeps t := by
  split at h
  · exact cpStore_keeps h
  · cases h; exact State.Keeps.refl s

theorem good_taskComplete (task : Nat) (s : State) : Good s (execTaskComplete task s) := by
  unfold execTaskComplete
  split
  · exact Good.same s
  · split
    · refine Good.ite (Good.same s) ?_
      dsimp only
      generalize e1 : ({ s with tasks := _, spillLocks := _ } : State) = s1
      have h1 : s.Keeps s1 := by subst e1; exact State.Keeps.of_parts rfl rfl rfl
      split
      · exact Good.same s
      · rename_i e2
        have h2 := h1.trans (storeOpt_keeps e2)
        split
        · exact Good.same s
        · rename_i e3
          have h3 := h2.trans (storeOpt_keeps e3)
          refine Good.next ?_
          split
          · exact h3.trans (nodeDone_keeps _ _)
          · exact h3
    · exact Good.same s

theorem good_preemptRequest (g : CoreNo) (s : State) : Good s (execPreemptRequest g s) := by
  unfold execPreemptRequest
  exact Good.ite (Good.same s) (Good.next (ask_keeps _ _ _))

theorem saveCore_keeps (s : State) (g : CoreNo) : s.Keeps (s.saveCore g) := by
  unfold State.saveCore
  dsimp only
  split
  · exact State.Keeps.refl s
  · exact (vacate_keeps s g).trans (State.Keeps.of_parts rfl rfl rfl)

theorem good_contextSave (g : CoreNo) (s : State) : Good s (execContextSave g s) := by
  unfold execContextSave
  exact Good.ite (Good.same s) (Good.next (State.Keeps.foldl _ (fun _ _ => saveCore_keeps _ _) _
    (State.Keeps.foldl _ (fun _ _ => withdraw_keeps _ _) _ (State.Keeps.refl s))))

theorem restoreOn_keeps (s : State) (x : Saved) (g : CoreNo) : s.Keeps (s.restoreOn x g) := modCore_keeps _ _

theorem bringBack_keeps (s : State) (task : Nat) (e : Nat × CoreNo) : s.Keeps (s.bringBack task e) := by
  unfold State.bringBack
  split
  · exact State.Keeps.trans (restoreOn_keeps _ _ _) (State.Keeps.of_parts rfl rfl rfl)
  · exact place_keeps _ _ _

theorem good_contextRestore (n : Nat) (g : CoreNo) (s : State) : Good s (execContextRestore n g s) := by
  unfold execContextRestore
  split
  · exact Good.same s
  · split
    · refine Good.ite (Good.next (killTask_keeps _ _ _)) (Good.ite (Good.same s) ?_)
      split
      · exact Good.ite (Good.same s) (Good.next (State.Keeps.foldl _ (fun _ _ => bringBack_keeps _ _ _) _ (lockWays_keeps _ _)))
      · exact Good.same s
    · exact Good.same s

theorem good_coreOutOfService (g : CoreNo) (s : State) : Good s (execCoreOutOfService g s) := by
  unfold execCoreOutOfService
  have h : s.Keeps ((s.withdraw g).modCore g fun c => { c with leaving := true }) := (withdraw_keeps s g).trans (modCore_keeps _ _)
  exact Good.ite (Good.next (State.Keeps.ite (h.trans (ask_keeps _ _ _)) (h.trans (killOn_keeps _ _ _))))
    (Good.ite (Good.next h) (Good.next (h.trans (modCore_keeps _ _))))

theorem good_watchdogExpiry (g : CoreNo) (s : State) : Good s (execWatchdogExpiry g s) := by
  unfold execWatchdogExpiry
  dsimp only
  split
  · exact Good.same s
  · refine Good.ite (Good.same s) (Good.next (State.Keeps.trans ?_ (modCore_keeps _ _)))
    exact State.Keeps.of_parts rfl rfl rfl

-- Transforms.

theorem compressPart_keeps (g : CoreNo) (src dst len exp k : Nat) (s : State) : Within s.Keeps (compressPart g src dst len exp k s) :=
  Within.bind (copyReadAt_keeps _ _ _ _ _) fun _ h => Within.ite (Within.ok h) (copyWrite_from h _ _ _ _)

theorem expandHeader_keeps (g : CoreNo) (src len : Nat) (s : State) : Within s.Keeps (expandHeader g src len s) := by
  unfold expandHeader
  refine Within.ite (Within.error _) (Within.then fun bs => ?_)
  split
  · exact Within.error _
  · exact Within.ok (State.Keeps.refl s)

theorem expandTilePart_keeps (g : CoreNo) (src dst len t : Nat) (s : State) : Within s.Keeps (expandTilePart g src dst len t s) := by
  unfold expandTilePart
  refine Within.bind (readTile_keeps _ _ _ _ _ _ _) fun r h => ?_
  split
  · exact copyWrite_from h _ _ _ _
  · split
    · exact copyWrite_from h _ _ _ _
    · exact Within.error _

theorem layoutPart_keeps (g : CoreNo) (sd dd : Nat) (map : Word) (lo n : Nat) (s : State) : Within s.Keeps (layoutPart g sd dd map lo n s) := by
  unfold layoutPart
  refine Within.then fun zq => Within.then fun zp => ?_
  dsimp only
  split
  · exact Within.error _
  · exact Within.bind (readParts_keeps _ _ _ _ _ _) fun _ h => (writeParts_keeps _ _ _ _ _ _).imp fun _ k => h.trans k

theorem quantPart_keeps (g : CoreNo) (src dst n : Nat) (q : QntType) (md : Rounding) (k : Nat) (s : State) :
    Within s.Keeps (quantPart g src dst n q md k s) := by
  unfold quantPart
  exact Within.bind (copyReadAt_keeps _ _ _ _ _) fun _ h => Within.bind (copyWrite_from h _ _ _ _) fun _ k => copyWrite_from k _ _ _ _

theorem transformPart_keeps (g : CoreNo) (i : Instr) (k : Nat) (s : State) : Within s.Keeps (transformPart g i k s) := by
  unfold transformPart
  split
  · exact compressPart_keeps _ _ _ _ _ _ _
  · split
    · exact expandHeader_keeps _ _ _ _
    · exact expandTilePart_keeps _ _ _ _ _ _
  · exact layoutPart_keeps _ _ _ _ _ _ _
  · exact quantPart_keeps _ _ _ _ _ _ _ _
  · exact Within.ok (State.Keeps.refl s)

/-- A core's rungs put back where they were. -/
theorem backCore_keeps {s t : State} (h : s.Keeps t) (g : CoreNo) {f : Core → Core} (hf : ∀ c, (f c).ladders = s.cores[g].ladders) :
    s.Keeps (t.modCore g f) := by
  refine ⟨h.mem, fun x => ?_, h.channels⟩
  by_cases e : x = g
  · subst e
    have k := hf t.cores[x]
    simp only [Core.ladders, Prod.mk.injEq] at k
    obtain ⟨h1, h2, h3, h4⟩ := k
    simp only [Fin.getElem_fin] at h2 h3 h4
    rw [show (t.modCore x f).cores[x] = f t.cores[x] by simp]
    exact ⟨by rw [h1], fun b m => by cases b <;> simp [Core.banks, h2, h3, h4]⟩
  · simpa [modCore_other _ _ _ _ e] using h.core x

theorem setPhase_keeps (s : State) (id : Nat) (p : TaskPhase) : s.Keeps (s.setPhase id p) := modTask_keeps _ _ _

theorem pieceStart_keeps (s : State) (task : Nat) (g : CoreNo) : s.Keeps (s.pieceStart task g) := by
  unfold State.pieceStart
  split
  · split
    · exact State.Keeps.ite (State.Keeps.refl s) ((modCore_keeps _ _).trans (modTask_keeps _ _ _))
    · exact State.Keeps.refl s
  · exact State.Keeps.refl s

theorem pieceEnd_keeps (s : State) (g : CoreNo) (p : PieceRun) (n : Nat) : s.Keeps (s.pieceEnd g p n) :=
  State.Keeps.trans (modCore_keeps _ _) (modTask_keeps _ _ _)

theorem pieceWork_keeps (s : State) (g : CoreNo) (p : PieceRun) (i : Instr) : Within s.Keeps (s.pieceWork g p i) :=
  Within.map ((transformPart_keeps _ _ _ _).imp fun _ h => backCore_keeps (State.Keeps.trans (modCore_keeps _ _) h) g fun _ => rfl)

theorem pieceStep_keeps (s : State) (g : CoreNo) : s.Keeps (s.pieceStep g) := by
  unfold State.pieceStep
  split
  · exact State.Keeps.refl s
  · split
    · exact modCore_keeps _ _
    · split
      · exact State.Keeps.refl s
      · dsimp only
        refine State.Keeps.ite (pieceEnd_keeps _ _ _ _) ?_
        split
        · rename_i e; exact pieceWork_keeps _ _ _ _ _ e
        · refine State.Keeps.ite (State.Keeps.refl s) (State.Keeps.trans ?_ (setPhase_keeps _ _ _))
          exact State.Keeps.of_eq rfl (fun x => by simp [Core.ladders, Core.drop]) rfl
        · exact State.Keeps.refl s

theorem good_taskDispatch (task : Nat) (s : State) : Good s (execTaskDispatch task s) := by
  unfold execTaskDispatch
  split
  · exact Good.same s
  · refine Good.ite (Good.same s) ?_
    split
    · split
      · rename_i e; exact Good.next ((cpWrite_keeps e).trans (setPhase_keeps _ _ _))
      · exact Good.same s
      · exact Good.next (setPhase_keeps _ _ _)
    · exact Good.next (setPhase_keeps _ _ _)

end Sys2Proof.Machine
end

