-- ==== Sys2Proof/Laws/KeepFirmware.lean ====
section
/-! SUPPORT. That no step breaks the form of memory or raises a rung (`Good`): ladders, retired channels, errors, power, and a turn of a ring or of the mailbox. -/

namespace Sys2Proof.Machine

open Host

theorem writeRecord_from {s t : State} (h : s.Keeps t) (k : Fin 6) : s.Keeps (t.writeRecord k) := h.trans (writeRecord_keeps _ _)

-- Ladders.

theorem stepMe_keeps (s : State) (g : CoreNo) : s.Keeps (s.stepMe g) := by
  unfold State.stepMe
  split
  · exact (stepRung_keeps _ _ _ (Fin.le_def.2 (Nat.le_succ _))).trans (writeRecord_keeps _ _)
  · exact State.Keeps.refl s

theorem nextRung3_le (r : Fin 3) : r ≤ nextRung3 r := by revert r; decide

theorem stepBank_keeps (s : State) (g : CoreNo) (b : Buf) (n : Fin 16) : s.Keeps (s.stepBank g b n) := by
  unfold State.stepBank
  split
  · exact State.Keeps.refl s
  · refine writeRecord_from ?_ _
    refine ⟨id, fun x => ?_, fun _ => le_refl _⟩
    by_cases e : x = g
    · subst e
      simp only [Fin.getElem_fin, modCore_core]
      refine ⟨by cases b <;> exact le_refl _, fun x m => ?_⟩
      by_cases ec : x = b
      · subst ec
        by_cases em : (n : Nat) = m
        · cases x <;> simp [Core.setBanks, Core.banks, em, nextRung3_le]
        · cases x <;> simp [Core.setBanks, Core.banks, em]
      · cases x <;> cases b <;> simp_all [Core.setBanks, Core.banks]
    · simp only [Fin.getElem_fin, modCore_other _ _ _ _ e]; exact ⟨le_refl _, fun _ _ => le_refl _⟩

theorem postReduction_keeps (s : State) (ch : Fin 1024) : s.Keeps (s.postReduction ch) := by
  unfold State.postReduction
  exact State.Keeps.ite (State.Keeps.of_parts rfl rfl rfl) (State.Keeps.refl s)

theorem setChannel_le (v : Vector (Fin 3) 1024) (ch : Fin 1024) (r : Fin 3) (h : v[ch] ≤ r) (c : Fin 1024) : v[c] ≤ (v.set ch r)[c] := by
  by_cases e : (ch : Nat) = c
  · have : ch = c := Fin.ext e
    subst this; simpa using h
  · simp [e]

theorem stepChannel_keeps (s : State) (ch : Fin 1024) : s.Keeps (s.stepChannel ch) := by
  unfold State.stepChannel
  split
  · rename_i h
    refine writeRecord_from ?_ _
    exact ⟨id, fun _ => ⟨le_refl _, fun _ _ => le_refl _⟩, setChannel_le _ _ _ (by rw [h]; decide)⟩
  · exact postReduction_keeps _ _

theorem stepUnit_keeps (s : State) (u : AgedUnit) : s.Keeps (s.stepUnit u) := by
  unfold State.stepUnit
  split
  · exact stepMe_keeps _ _
  · exact stepBank_keeps _ _ _ _
  · exact stepChannel_keeps _ _

theorem foxTest_keeps (s : State) (u : AgedUnit) (fails : Bool) : s.Keeps (s.foxTest u fails) :=
  State.Keeps.ite (stepUnit_keeps _ _) (State.Keeps.of_parts rfl rfl rfl)

theorem quiesce_keeps (s : State) : s.Keeps s.quiesce := by
  have k : ∀ (l : List CoreNo) (u : State), u.Keeps (l.foldl State.withdraw u) :=
    fun l u => State.Keeps.foldl _ withdraw_keeps l (State.Keeps.refl u)
  unfold State.quiesce
  generalize List.finRange 192 = l
  dsimp only
  refine State.Keeps.trans (State.Keeps.trans ?_ (ask_keeps _ _ _)) (State.Keeps.of_parts rfl rfl rfl)
  have h : s.Keeps { s with quiescing := true } := State.Keeps.of_parts rfl rfl rfl
  exact h.trans (k l _)

theorem writeBack_keeps (s : State) (line ctx : Nat) (m : BitVec 4) : s.Keeps (s.writeBack line ctx m) := State.Keeps.of_parts rfl rfl rfl

theorem flushAll_keeps (s : State) : s.Keeps s.flushAll := by
  have k : ∀ (l : List CoreNo) (u : State), u.Keeps (l.foldl State.flushL1 u) :=
    fun l u => State.Keeps.foldl _ (fun _ _ => flushL1_keeps _ _) l (State.Keeps.refl u)
  have j : ∀ (l : List L2Line) (u : State), u.Keeps (l.foldl (fun s l => if l.dirty = 0 then s else s.writeBack l.line l.writer l.dirty) u) :=
    fun l u => State.Keeps.foldl _ (fun b _ => State.Keeps.ite (State.Keeps.refl b) (writeBack_keeps b _ _ _)) l (State.Keeps.refl u)
  unfold State.flushAll
  generalize List.finRange 192 = l
  exact ((k l s).trans (j _ _)).trans (State.Keeps.of_parts rfl rfl rfl)

theorem good_marginTest (u : AgedUnit) (fails again : Bool) (s : State) : Good s (execMarginTest u fails again s) := by
  unfold execMarginTest
  dsimp only
  have t : ∀ v : State, v.Keeps (if fails then (if again then (v.stepUnit u).stepUnit u else v.stepUnit u) else v) := fun v =>
    State.Keeps.ite (State.Keeps.ite ((stepUnit_keeps _ _).trans (stepUnit_keeps _ _)) (stepUnit_keeps _ _)) (State.Keeps.refl v)
  refine Good.ite (Good.same s) ?_
  split
  · exact Good.next (State.Keeps.ite (t s) (State.Keeps.ite ((withdraw_keeps _ _).trans (ask_keeps _ _ _)) (State.Keeps.refl s)))
  · exact Good.next (State.Keeps.ite ((flushAll_keeps s).trans (t _)) (quiesce_keeps _))

theorem abandonAssist_keeps (s : State) (g : CoreNo) : s.Keeps (s.abandonAssist g) := modInst_keeps _ _ _

theorem restartAssist_keeps (s : State) (g : CoreNo) : s.Keeps (s.restartAssist g) := by
  unfold State.restartAssist
  split
  · exact modCore_keeps _ _
  · exact State.Keeps.refl s

theorem askTest_keeps (s : State) (g : CoreNo) : s.Keeps (s.askTest g) := (withdraw_keeps _ _).trans (ask_keeps _ _ _)

theorem good_foxglove (u : AgedUnit) (fails : Bool) (s : State) : Good s (execFoxglove u fails s) := by
  unfold execFoxglove
  refine Good.ite (Good.same s) ?_
  split
  · exact Good.next (State.Keeps.ite (foxTest_keeps _ _ _) (State.Keeps.ite ((foxTest_keeps _ _ _).trans (restartAssist_keeps _ _))
      (askTest_keeps _ _)))
  · exact Good.next (foxTest_keeps _ _ _)

theorem good_capacityReduction (ch : Fin 1024) (s : State) : Good s (execCapacityReduction ch s) :=
  Good.next (State.Keeps.ite (postReduction_keeps _ _) (State.Keeps.refl s))

/-- Two addresses that stay keep their order. -/
theorem movedPa_lt {n a b x y : Nat} (h : a < b) (ha : movedPa n a = some x) (hb : movedPa n b = some y) : x < y := by
  have k : ∀ size region : Nat, (if region ≤ a then (if a < size then none else some (a - size)) else if region - size ≤ a then none
      else some a) = some x → (if region ≤ b then (if b < size then none else some (b - size)) else if region - size ≤ b then none
      else some b) = some y → x < y := by
    intro size region ha hb
    split at ha <;> split at hb <;> split at ha <;> split at hb <;> simp only [Option.some.injEq, reduceCtorEq] at ha hb <;> omega
  unfold movedPa at ha hb
  extract_lets size region at ha
  extract_lets at hb
  clear_value region size
  exact k size region ha hb

/-- Moving cells by a map of addresses that keeps their order keeps the canonical form. -/
theorem wf_filterMap (f : Nat → Option Nat) (hf : ∀ a b x y, a < b → f a = some x → f b = some y → x < y) (m : Bytes)
    (h : Memory.wf m = true) : Memory.wf (m.filterMap fun c => (f c.1).map fun a => (a, c.2)) = true := by
  induction m with
  | nil => rfl
  | cons c t ih =>
    obtain ⟨h1, h2, h3⟩ := (wf_cons c t).1 h
    rw [List.filterMap_cons]
    cases e : f c.1 with
    | none => exact ih h3
    | some a =>
      refine (wf_cons _ _).2 ⟨h1, fun x hx => ?_, ih h3⟩
      obtain ⟨d, hd, hx⟩ := List.mem_filterMap.1 hx
      obtain ⟨b, hb, rfl⟩ := Option.map_eq_some_iff.1 hx
      exact hf _ _ _ _ (h2 d hd) e hb

theorem wf_putWords (l : List (Nat × Word)) (m : Bytes) (h : Memory.wf m = true) :
    Memory.wf (l.foldl (fun (m : Bytes) w => m.put w.1 (leBytes 8 w.2.toNat)) m) = true := by
  induction l generalizing m with
  | nil => exact h
  | cons w t ih => exact ih _ (wf_put _ _ _ h)

theorem good_channelRetire (ch : Fin 1024) (bad : List Nat) (s : State) : Good s (execChannelRetire ch bad s) := by
  unfold execChannelRetire
  refine Good.ite (Good.same s) (Good.ite (Good.next (quiesce_keeps _)) ?_)
  dsimp only
  have k : s.Keeps ((((bad.filter fun gr => s.channelOf (gr / 8) == ch.val && decide (32 * gr < s.paTop)).eraseDups).foldl
      State.poisonGranule s.flushAll)) := (flushAll_keeps s).trans (State.Keeps.foldl _ (fun _ _ => poisonGranule_keeps _ _) _ (State.Keeps.refl _))
  refine Good.next (writeRecord_from ?_ _)
  refine k.trans ⟨fun h => wf_filterMap _ (fun _ _ _ _ => movedPa_lt) _ (wf_putWords _ _ h),
    fun _ => ⟨le_refl _, fun _ _ => le_refl _⟩, setChannel_le _ _ _ (Fin.le_last _)⟩

-- Errors and power.

theorem note_keeps (s : State) (c : ErrorClass) (u : ErrorUnit) (g n x : Nat) : s.Keeps (s.note c u g n x) := State.Keeps.of_parts rfl rfl rfl
theorem poisonSector_keeps (s : State) (gr : Nat) : s.Keeps (s.poisonSector gr) := (poisonGranule_keeps _ _).trans (poisonGranule_keeps _ _)

theorem settleLine_keeps (s : State) (line : Nat) (c : CacheSite) : s.Keeps (s.settleLine line c) := by
  unfold State.settleLine
  split
  · split
    · exact State.Keeps.ite (State.Keeps.refl s) (drainL1_keeps _ _ _ _ _)
    · exact State.Keeps.refl s
  · split
    · exact writeBack_keeps _ _ _ _
    · exact State.Keeps.refl s

theorem dropLine_keeps (s : State) (line : Nat) (c : CacheSite) : s.Keeps (s.dropLine line c) := by
  have h := settleLine_keeps s line c
  cases c <;> exact h.trans (State.Keeps.of_parts rfl rfl rfl)

theorem memoryError_keeps (s : State) (c : ErrorCase) (gr : Nat) : s.Keeps (s.memoryError c gr) := by
  have k : ∀ (u : ErrorUnit) (w : Nat), s.Keeps ((s.poisonGranule gr).note .deferred u gr 1 w) :=
    fun _ _ => (poisonGranule_keeps _ _).trans (note_keeps _ _ _ _ _ _)
  have p : ∀ u : ErrorUnit, s.Keeps ((s.poisonSector gr).note .unattributed u (gr / 2 * 2) 2 0xFFFF) :=
    fun _ => (poisonSector_keeps _ _).trans (note_keeps _ _ _ _ _ _)
  unfold State.memoryError
  dsimp only
  split
  · exact State.Keeps.ite (note_keeps _ _ _ _ _ _) (State.Keeps.refl s)
  · rename_i bs
    have h : s.Keeps { s with mem := s.mem.put (32 * gr) bs } := State.Keeps.of_mem (wf_put _ _ _) (fun _ => rfl) rfl
    exact State.Keeps.ite (h.trans (note_keeps _ _ _ _ _ _)) (State.Keeps.refl s)
  · exact State.Keeps.ite (State.Keeps.refl s) (p _)
  · exact State.Keeps.ite (State.Keeps.trans (State.Keeps.trans (State.Keeps.foldl _ (fun _ _ => poisonGranule_keeps _ _) _
      (poisonGranule_keeps _ _)) (note_keeps _ _ _ _ _ _)) (note_keeps _ _ _ _ _ _)) (State.Keeps.refl s)
  · exact State.Keeps.ite (k _ _) (State.Keeps.refl s)
  · exact State.Keeps.ite (k _ _) (State.Keeps.refl s)
  · split
    · exact State.Keeps.ite (k _ _) (State.Keeps.refl s)
    · exact State.Keeps.refl s
  · split
    · exact State.Keeps.ite (State.Keeps.refl s) (p _)
    · exact State.Keeps.refl s
  · split
    · exact (dropLine_keeps _ _ _).trans (note_keeps _ _ _ _ _ _)
    · exact State.Keeps.refl s
  · exact State.Keeps.of_parts rfl rfl rfl
  · exact State.Keeps.of_parts rfl rfl rfl
  · exact State.Keeps.refl s
  · exact State.Keeps.refl s

theorem good_errorDetected (c : ErrorCase) (granule : Nat) (s : State) : Good s (execErrorDetected c granule s) := by
  unfold execErrorDetected
  split
  · exact Good.ite (Good.next ((modInst_keeps _ _ _).trans (note_keeps _ _ _ _ _ _))) (Good.same s)
  · exact Good.ite (Good.next (abandonAssist_keeps _ _)) (Good.same s)
  · exact Good.ite (Good.same s) (Good.next (memoryError_keeps _ _ _))

theorem le_loadRung {n : Nat} [NeZero n] (r : Fin n) (k : Nat) : r ≤ loadRung r k := by
  have h := r.isLt
  rw [Fin.le_def, loadRung, Fin.val_ofNat, Nat.mod_eq_of_lt] <;> simp only [Nat.min_def, Nat.max_def] <;> split <;> split <;> omega

theorem bare_keeps (s : State) (p : Power) (k : Nat) : s.Keeps (s.bare p k) := by
  refine ⟨fun _ => rfl, fun g => ?_, fun c => ?_⟩
  · have e : (s.bare p k).cores[g] = s.cores[g].boot s.flash g := by simp [State.bare]
    rw [e]
    exact ⟨le_loadRung _ _, fun b m => by cases b <;> simpa [Core.banks, Core.boot, Flash.banks] using le_loadRung _ _⟩
  · simpa [State.bare] using le_loadRung _ _

theorem good_powerOn (s : State) : Good s (execPowerOn s) := by
  unfold execPowerOn
  refine Good.ite (Good.same s) ?_
  dsimp only
  split
  · rename_i k _
    have h := bare_keeps s .held (k - 1)
    generalize s.bare .held (k - 1) = t at h ⊢
    exact Good.next (h.trans (State.Keeps.of_parts rfl rfl rfl))
  · have h := bare_keeps s .d0 7
    generalize s.bare .d0 7 = t at h ⊢
    exact Good.next (h.trans (State.Keeps.of_parts rfl rfl rfl))

theorem good_thermalTrip (s : State) : Good s (execThermalTrip s) := by
  unfold execThermalTrip
  have k := bare_keeps s .tripped 0
  generalize s.bare .tripped 0 = t at k ⊢
  exact Good.next (State.Keeps.ite (State.Keeps.refl s) (k.trans (State.Keeps.of_parts rfl rfl rfl)))
theorem good_powerCapSet (w : Nat) (s : State) : Good s (execPowerCapSet w s) :=
  Good.next (State.Keeps.ite (State.Keeps.of_parts rfl rfl rfl) (State.Keeps.refl s))
theorem good_d3hotEntry (s : State) : Good s (execD3hotEntry s) := by
  unfold execD3hotEntry
  have k := flushAll_keeps s
  generalize s.flushAll = t at k ⊢
  exact Good.next (State.Keeps.ite (k.trans (State.Keeps.of_parts rfl rfl rfl)) (State.Keeps.refl s))
theorem good_d3hotExit (s : State) : Good s (execD3hotExit s) :=
  Good.next (State.Keeps.ite (State.Keeps.of_parts rfl rfl rfl) (State.Keeps.refl s))
theorem good_d3coldEntry (s : State) : Good s (execD3coldEntry s) := Good.next (bare_keeps _ _ _)
theorem setRoot_keeps (s : State) (ctx : Nat) (root : Option Nat) : s.Keeps (s.setRoot ctx root) := by
  unfold State.setRoot
  refine State.Keeps.ite (State.Keeps.refl s) ?_
  split
  · exact State.Keeps.of_parts rfl rfl rfl
  · exact State.Keeps.ite (State.Keeps.of_parts rfl rfl rfl) (State.Keeps.refl s)
theorem setRing_keeps (s : State) (r : Fin 256) (g : Grant) (b : Word) (l : Nat) (a : Word) (k : Nat) : s.Keeps (s.setRing r g b l a k) :=
  State.Keeps.ite (State.Keeps.refl s) (State.Keeps.of_parts rfl rfl rfl)
theorem release_keeps (s : State) : s.Keeps s.release := State.Keeps.of_parts rfl rfl rfl
theorem good_quoteRequest (nonce : BitVec 256) (s : State) : Good s (execQuoteRequest nonce s) :=
  Good.next (State.Keeps.ite (State.Keeps.of_parts rfl rfl rfl) (State.Keeps.refl s))
theorem good_firmwareUpdate (v : Nat) (c : SignedBody) (s : State) : Good s (execFirmwareUpdate v c s) :=
  Good.next (State.Keeps.ite (State.Keeps.of_parts rfl rfl rfl) (State.Keeps.refl s))
theorem setFloor_keeps (s : State) (v : Nat) : s.Keeps (s.setFloor v) :=
  State.Keeps.ite (State.Keeps.refl s) (State.Keeps.of_parts rfl rfl rfl)
theorem setMargins_keeps (s : State) (l : List Nat) : s.Keeps (s.setMargins l) :=
  State.Keeps.ite (State.Keeps.refl s) (State.Keeps.of_parts rfl rfl rfl)
theorem tornRecord_keeps (s : State) (k : Fin 6) : s.Keeps (s.tornRecord k) :=
  State.Keeps.ite (State.Keeps.trans (t := { s with flash := s.flash.write k [] false }) (State.Keeps.of_parts rfl rfl rfl)
    (bare_keeps _ _ _)) (State.Keeps.refl s)
theorem report_keeps (s : State) : s.Keeps s.report := State.Keeps.ite (State.Keeps.of_parts rfl rfl rfl) (State.Keeps.refl s)

-- Later traps.

theorem good_trapTake (g : CoreNo) (s : State) : Good s (execTrapTake g s) := by
  unfold execTrapTake
  dsimp only
  refine Good.ite (Good.same s) ?_
  split
  · exact Good.ite (Good.ite (Good.same s) (Good.next (modInst_keeps _ _ _))) (Good.ite (Good.next (deliver_keeps _ _ _)) (Good.same s))
  · refine Good.ite ?_ (Good.same s)
    split
    · exact Good.next (raiseOn_keeps _ _ _)
    · exact Good.same s

theorem writeWords_keeps (s : State) (l : List (Nat × Word)) : s.Keeps (s.writeWords l) :=
  State.Keeps.foldl _ (fun _ _ => agentWrite_keeps _ _ _ _) _ (State.Keeps.refl s)

theorem good_firmwareFirstService (g : CoreNo) (a : Service) (s : State) : Good s (execFirmwareFirstService g a s) := by
  unfold execFirmwareFirstService
  dsimp only
  split
  · refine Good.ite (Good.same s) (Good.ite (Good.next (State.Keeps.trans ?_ (deliver_keeps _ _ _))) ?_)
    · exact State.Keeps.of_parts rfl rfl rfl
    · split
      · exact Good.next (deliver_keeps _ _ _)
      · exact Good.ite (Good.next ((writeWords_keeps _ _).trans (deliver_keeps _ _ _)))
          (Good.next ((writeWords_keeps _ _).trans (modInst_keeps _ _ _)))
  · exact Good.same s

theorem good_segMismatchReplay (g : CoreNo) (passed : Bool) (dest : CoreNo) (s : State) : Good s (execSegMismatchReplay g passed dest s) := by
  unfold execSegMismatchReplay
  dsimp only
  have kill : Good s (.next ((s.killOn g Cause.segMismatch.code).foxTest (.me g) (!passed))) :=
    Good.next ((killOn_keeps _ _ _).trans (foxTest_keeps _ _ _))
  have back : ∀ x h, Good s (.next (s.carry (((s.vacate g).foxTest (.me g) (!passed)).restoreOn x h) g h)) := fun _ _ =>
    Good.next ((((vacate_keeps _ _).trans (foxTest_keeps _ _ _)).trans (restoreOn_keeps _ _ _)).trans (modCore_keeps _ _))
  split
  · refine Good.ite (Good.same s) ?_
    split
    · exact Good.ite kill (Good.ite (back _ _) (Good.ite (back _ _) (Good.same s)))
    · exact kill
  · exact Good.same s

-- The turns of rings and mailboxes.

theorem turn_keeps (s : State) (r : Fin 256) : ∀ t, s.turn r = .inl t → s.Keeps t := by
  intro t h
  unfold State.turn at h
  dsimp only at h
  repeat' split at h
  all_goals first
    | (cases h; exact State.Keeps.refl s)
    | (cases h; exact ringFault_keeps _ _ _)
    | (cases h; exact modCmdRing_keeps _ _ _)
    | cases h

theorem mailTurn_keeps (s : State) (g : CoreNo) : ∀ t, s.mailTurn g = .inl t → s.Keeps t := by
  intro t h
  unfold State.mailTurn at h
  dsimp only at h
  split at h
  · cases h; exact State.Keeps.refl s
  · split at h
    · split at h
      · cases h; exact ((modCore_keeps s _).trans (modInst_keeps _ _ _)).trans (sink_keeps _ _)
      · cases h; exact State.Keeps.refl s
    · split at h
      · cases h
      · cases h; exact State.Keeps.refl s

end Sys2Proof.Machine
end

