-- ==== Sys2Proof/Laws/KeepExec.lean ====
section
/-! SUPPORT. That no step breaks the form of memory or raises a rung: the instructions that are one line over a shared operation,
and `exec` on every constructor. -/

namespace Sys2Proof.Machine

open Host

theorem branchIf_good (s : State) (a b : SReg) (i : BitVec 14) (c : Word → Word → Bool) : Good s (branchIf s a b i c) := by
  unfold branchIf; exact branch_good ..
theorem vecFp_good (s : State) (tk : Tok) (srcs : List VReg) (d : VReg) (k : KReg) (r : Rounding) (f : FpFmt)
    (op : Fmt → Rounding → List Num → Nat × Flags) : Good s (vecFp s tk srcs d k r f op) := by unfold vecFp; exact vecElems_good ..
theorem vecMinMax_good (s : State) (tk : Tok) (d a b : VReg) (f : FpFmt) (k : KReg) (m : Bool) : Good s (vecMinMax s tk d a b f k m) := by
  unfold vecMinMax; exact vecElems_good ..
theorem vecSign_good (s : State) (tk : Tok) (srcs : List VReg) (d : VReg) (f : FpFmt) (k : KReg) (op : Nat → Nat → Nat) :
    Good s (vecSign s tk srcs d f k op) := by unfold vecSign; exact vecElems_good ..
theorem vecInt_good (s : State) (tk : Tok) (d a b : VReg) (f : IntFmt) (k : KReg) (op : Nat → Nat → Nat → Nat) :
    Good s (vecInt s tk d a b f k op) := by unfold vecInt; exact vecElems_good ..
theorem maskOp_good (s : State) (tk : Tok) (d a b k : KReg) (op : Bool → Bool → Bool) : Good s (maskOp s tk d a b k op) := by
  unfold maskOp; exact vecToMask_good ..

theorem good_add (d a b) (s : State) : Good s (execAdd d a b s) := by unfold execAdd; exact scuAlu2_good ..
theorem good_sub (d a b) (s : State) : Good s (execSub d a b s) := by unfold execSub; exact scuAlu2_good ..
theorem good_and (d a b) (s : State) : Good s (execAnd d a b s) := by unfold execAnd; exact scuAlu2_good ..
theorem good_or (d a b) (s : State) : Good s (execOr d a b s) := by unfold execOr; exact scuAlu2_good ..
theorem good_xor (d a b) (s : State) : Good s (execXor d a b s) := by unfold execXor; exact scuAlu2_good ..
theorem good_shl (d a b) (s : State) : Good s (execShl d a b s) := by unfold execShl; exact scuAlu2_good ..
theorem good_shr (d a b) (s : State) : Good s (execShr d a b s) := by unfold execShr; exact scuAlu2_good ..
theorem good_sar (d a b) (s : State) : Good s (execSar d a b s) := by unfold execSar; exact scuAlu2_good ..
theorem good_slt (d a b) (s : State) : Good s (execSlt d a b s) := by unfold execSlt; exact scuAlu2_good ..
theorem good_sltu (d a b) (s : State) : Good s (execSltu d a b s) := by unfold execSltu; exact scuAlu2_good ..
theorem good_mul (d a b) (s : State) : Good s (execMul d a b s) := by unfold execMul; exact scuAlu2_good ..
theorem good_mulh (d a b) (s : State) : Good s (execMulh d a b s) := by unfold execMulh; exact scuAlu2_good ..
theorem good_mulhu (d a b) (s : State) : Good s (execMulhu d a b s) := by unfold execMulhu; exact scuAlu2_good ..
theorem good_div (d a b) (s : State) : Good s (execDiv d a b s) := by unfold execDiv; exact scuAlu2_good ..
theorem good_divu (d a b) (s : State) : Good s (execDivu d a b s) := by unfold execDivu; exact scuAlu2_good ..
theorem good_rem (d a b) (s : State) : Good s (execRem d a b s) := by unfold execRem; exact scuAlu2_good ..
theorem good_remu (d a b) (s : State) : Good s (execRemu d a b s) := by unfold execRemu; exact scuAlu2_good ..
theorem good_min (d a b) (s : State) : Good s (execMin d a b s) := by unfold execMin; exact scuAlu2_good ..
theorem good_minu (d a b) (s : State) : Good s (execMinu d a b s) := by unfold execMinu; exact scuAlu2_good ..
theorem good_max (d a b) (s : State) : Good s (execMax d a b s) := by unfold execMax; exact scuAlu2_good ..
theorem good_maxu (d a b) (s : State) : Good s (execMaxu d a b s) := by unfold execMaxu; exact scuAlu2_good ..
theorem good_addi (d a im) (s : State) : Good s (execAddi d a im s) := by unfold execAddi; exact scuAlu1_good ..
theorem good_andi (d a im) (s : State) : Good s (execAndi d a im s) := by unfold execAndi; exact scuAlu1_good ..
theorem good_ori (d a im) (s : State) : Good s (execOri d a im s) := by unfold execOri; exact scuAlu1_good ..
theorem good_xori (d a im) (s : State) : Good s (execXori d a im s) := by unfold execXori; exact scuAlu1_good ..
theorem good_shli (d a im) (s : State) : Good s (execShli d a im s) := by unfold execShli; exact scuAlu1_good ..
theorem good_shri (d a im) (s : State) : Good s (execShri d a im s) := by unfold execShri; exact scuAlu1_good ..
theorem good_sari (d a im) (s : State) : Good s (execSari d a im s) := by unfold execSari; exact scuAlu1_good ..
theorem good_slti (d a im) (s : State) : Good s (execSlti d a im s) := by unfold execSlti; exact scuAlu1_good ..
theorem good_sltui (d a im) (s : State) : Good s (execSltui d a im s) := by unfold execSltui; exact scuAlu1_good ..
theorem good_ldb (d a im) (s : State) : Good s (execLdb d a im s) := by unfold execLdb; exact scuLoad_good ..
theorem good_ldbu (d a im) (s : State) : Good s (execLdbu d a im s) := by unfold execLdbu; exact scuLoad_good ..
theorem good_ldh (d a im) (s : State) : Good s (execLdh d a im s) := by unfold execLdh; exact scuLoad_good ..
theorem good_ldhu (d a im) (s : State) : Good s (execLdhu d a im s) := by unfold execLdhu; exact scuLoad_good ..
theorem good_ldw (d a im) (s : State) : Good s (execLdw d a im s) := by unfold execLdw; exact scuLoad_good ..
theorem good_ldwu (d a im) (s : State) : Good s (execLdwu d a im s) := by unfold execLdwu; exact scuLoad_good ..
theorem good_ldd (d a im) (s : State) : Good s (execLdd d a im s) := by unfold execLdd; exact scuLoad_good ..
theorem good_stb (d a im) (s : State) : Good s (execStb d a im s) := by unfold execStb; exact scuStore_good ..
theorem good_sth (d a im) (s : State) : Good s (execSth d a im s) := by unfold execSth; exact scuStore_good ..
theorem good_stw (d a im) (s : State) : Good s (execStw d a im s) := by unfold execStw; exact scuStore_good ..
theorem good_std (d a im) (s : State) : Good s (execStd d a im s) := by unfold execStd; exact scuStore_good ..
theorem good_beq (a b im) (s : State) : Good s (execBeq a b im s) := by unfold execBeq; exact branchIf_good ..
theorem good_bne (a b im) (s : State) : Good s (execBne a b im s) := by unfold execBne; exact branchIf_good ..
theorem good_blt (a b im) (s : State) : Good s (execBlt a b im s) := by unfold execBlt; exact branchIf_good ..
theorem good_bge (a b im) (s : State) : Good s (execBge a b im s) := by unfold execBge; exact branchIf_good ..
theorem good_bltu (a b im) (s : State) : Good s (execBltu a b im s) := by unfold execBltu; exact branchIf_good ..
theorem good_bgeu (a b im) (s : State) : Good s (execBgeu a b im s) := by unfold execBgeu; exact branchIf_good ..
theorem good_j (im) (s : State) : Good s (execJ im s) := by unfold execJ; exact branch_good ..
theorem good_jal (im) (s : State) : Good s (execJal im s) := by unfold execJal; exact branch_good ..
theorem good_jalr (d a) (s : State) : Good s (execJalr d a s) := by unfold execJalr; exact branch_good ..
theorem good_vadd (tk d a b r f k) (s : State) : Good s (execVadd tk d a b r f k s) := by unfold execVadd; exact vecFp_good ..
theorem good_vsub (tk d a b r f k) (s : State) : Good s (execVsub tk d a b r f k s) := by unfold execVsub; exact vecFp_good ..
theorem good_vmul (tk d a b r f k) (s : State) : Good s (execVmul tk d a b r f k s) := by unfold execVmul; exact vecFp_good ..
theorem good_vdiv (tk d a b r f k) (s : State) : Good s (execVdiv tk d a b r f k s) := by unfold execVdiv; exact vecFp_good ..
theorem good_vsqrt (tk d a r f k) (s : State) : Good s (execVsqrt tk d a r f k s) := by unfold execVsqrt; exact vecFp_good ..
theorem good_vfma (tk d a b r f k) (s : State) : Good s (execVfma tk d a b r f k s) := by unfold execVfma; exact vecFp_good ..
theorem good_vfms (tk d a b r f k) (s : State) : Good s (execVfms tk d a b r f k s) := by unfold execVfms; exact vecFp_good ..
theorem good_vfnma (tk d a b r f k) (s : State) : Good s (execVfnma tk d a b r f k s) := by unfold execVfnma; exact vecFp_good ..
theorem good_vmin (tk d a b f k) (s : State) : Good s (execVmin tk d a b f k s) := by unfold execVmin; exact vecMinMax_good ..
theorem good_vmax (tk d a b f k) (s : State) : Good s (execVmax tk d a b f k s) := by unfold execVmax; exact vecMinMax_good ..
theorem good_vsgnNeg (tk d a f k) (s : State) : Good s (execVsgnNeg tk d a f k s) := by unfold execVsgnNeg; exact vecSign_good ..
theorem good_vsgnAbs (tk d a f k) (s : State) : Good s (execVsgnAbs tk d a f k s) := by unfold execVsgnAbs; exact vecSign_good ..
theorem good_vsgnCp (tk d a b f k) (s : State) : Good s (execVsgnCp tk d a b f k s) := by unfold execVsgnCp; exact vecSign_good ..
theorem good_vsgnXs (tk d a b f k) (s : State) : Good s (execVsgnXs tk d a b f k s) := by unfold execVsgnXs; exact vecSign_good ..
theorem good_vsgnExp (tk d a f k) (s : State) : Good s (execVsgnExp tk d a f k s) := by unfold execVsgnExp; exact vecElems_good ..
theorem good_viadd (tk d a b f k) (s : State) : Good s (execViadd tk d a b f k s) := by unfold execViadd; exact vecInt_good ..
theorem good_visub (tk d a b f k) (s : State) : Good s (execVisub tk d a b f k s) := by unfold execVisub; exact vecInt_good ..
theorem good_vimul (tk d a b f k) (s : State) : Good s (execVimul tk d a b f k s) := by unfold execVimul; exact vecInt_good ..
theorem good_vand (tk d a b f k) (s : State) : Good s (execVand tk d a b f k s) := by unfold execVand; exact vecInt_good ..
theorem good_vor (tk d a b f k) (s : State) : Good s (execVor tk d a b f k s) := by unfold execVor; exact vecInt_good ..
theorem good_vxor (tk d a b f k) (s : State) : Good s (execVxor tk d a b f k s) := by unfold execVxor; exact vecInt_good ..
theorem good_vshl (tk d a b f k) (s : State) : Good s (execVshl tk d a b f k s) := by unfold execVshl; exact vecInt_good ..
theorem good_vshr (tk d a b f k) (s : State) : Good s (execVshr tk d a b f k s) := by unfold execVshr; exact vecInt_good ..
theorem good_vsar (tk d a b f k) (s : State) : Good s (execVsar tk d a b f k s) := by unfold execVsar; exact vecInt_good ..
theorem good_vimin (tk d a b f k) (s : State) : Good s (execVimin tk d a b f k s) := by unfold execVimin; exact vecInt_good ..
theorem good_vimax (tk d a b f k) (s : State) : Good s (execVimax tk d a b f k s) := by unfold execVimax; exact vecInt_good ..
theorem good_vcmp (tk d a b c f k) (s : State) : Good s (execVcmp tk d a b c f k s) := by unfold execVcmp; exact vecToMask_good ..
theorem good_vicmp (tk d a b c f k) (s : State) : Good s (execVicmp tk d a b c f k s) := by unfold execVicmp; exact vecToMask_good ..
theorem good_vperm (tk d a b f k) (s : State) : Good s (execVperm tk d a b f k s) := by unfold execVperm; exact vecMove_good ..
theorem good_vbcast (tk d a l x k) (s : State) : Good s (execVbcast tk d a l x k s) := by unfold execVbcast; exact vecMove_good ..
theorem good_vslide (tk d a b n k) (s : State) : Good s (execVslide tk d a b n k s) := by unfold execVslide; exact vecMove_good ..
theorem good_vsel (tk d a b f k) (s : State) : Good s (execVsel tk d a b f k s) := by unfold execVsel; exact vecMove_good ..
theorem good_vredsum (tk d a r f k) (s : State) : Good s (execVredsum tk d a r f k s) := by unfold execVredsum; exact vecReduce_good ..
theorem good_vredmin (tk d a f k) (s : State) : Good s (execVredmin tk d a f k s) := by unfold execVredmin; exact vecReduce_good ..
theorem good_vredmax (tk d a f k) (s : State) : Good s (execVredmax tk d a f k s) := by unfold execVredmax; exact vecReduce_good ..
theorem good_viredsum (tk d a f k) (s : State) : Good s (execViredsum tk d a f k s) := by unfold execViredsum; exact vecReduce_good ..
theorem good_vld (tk d a c f k) (s : State) : Good s (execVld tk d a c f k s) := by unfold execVld; exact vecLoad_good ..
theorem good_vst (tk d a c f k) (s : State) : Good s (execVst tk d a c f k s) := by unfold execVst; exact vecStore_good ..
theorem good_vlds (tk d a b c f k) (s : State) : Good s (execVlds tk d a b c f k s) := by unfold execVlds; exact vecLoad_good ..
theorem good_vsts (tk d a b c f k) (s : State) : Good s (execVsts tk d a b c f k s) := by unfold execVsts; exact vecStore_good ..
theorem good_vgath (tk d a b c f k) (s : State) : Good s (execVgath tk d a b c f k s) := by unfold execVgath; exact vecLoad_good ..
theorem good_vscat (tk d a b c f k) (s : State) : Good s (execVscat tk d a b c f k s) := by unfold execVscat; exact vecStore_good ..
theorem good_vflgRd (tk d k) (s : State) : Good s (execVflgRd tk d k s) := by unfold execVflgRd; exact vecMove_good ..
theorem good_vflgClr (tk f k) (s : State) : Good s (execVflgClr tk f k s) := by unfold execVflgClr; exact flagOp_good ..
theorem good_vflgWr (tk a k) (s : State) : Good s (execVflgWr tk a k s) := by unfold execVflgWr; exact flagOp_good ..
theorem good_vflgAny (tk d f k) (s : State) : Good s (execVflgAny tk d f k s) := by unfold execVflgAny; exact vecToMask_good ..
theorem good_vflgTm (tk d) (s : State) : Good s (execVflgTm tk d s) := by unfold execVflgTm; exact flagOp_good ..
theorem good_vflgCtm (tk) (s : State) : Good s (execVflgCtm tk s) := by unfold execVflgCtm; exact flagOp_good ..
theorem good_vexp (tk d a r f k) (s : State) : Good s (execVexp tk d a r f k s) := by unfold execVexp; exact hollyIssue_good ..
theorem good_vlog (tk d a r f k) (s : State) : Good s (execVlog tk d a r f k s) := by unfold execVlog; exact hollyIssue_good ..
theorem good_verf (tk d a r f k) (s : State) : Good s (execVerf tk d a r f k s) := by unfold execVerf; exact hollyIssue_good ..
theorem good_vorient2 (tk d a b t q f k) (s : State) : Good s (execVorient2 tk d a b t q f k s) := by
  unfold execVorient2; exact hollyPredicate_good ..
theorem good_vorient3 (tk d a b t q f k) (s : State) : Good s (execVorient3 tk d a b t q f k s) := by
  unfold execVorient3; exact hollyPredicate_good ..
theorem good_vincirc (tk d a b t q f k) (s : State) : Good s (execVincirc tk d a b t q f k s) := by
  unfold execVincirc; exact hollyPredicate_good ..
theorem good_vinsph (tk d a b t q f k) (s : State) : Good s (execVinsph tk d a b t q f k s) := by
  unfold execVinsph; exact hollyPredicate_good ..
theorem good_vsegx (tk d a b t q f k) (s : State) : Good s (execVsegx tk d a b t q f k s) := by
  unfold execVsegx; exact hollyPredicate_good ..
theorem good_vmskAnd (tk d a b k) (s : State) : Good s (execVmskAnd tk d a b k s) := by unfold execVmskAnd; exact maskOp_good ..
theorem good_vmskOr (tk d a b k) (s : State) : Good s (execVmskOr tk d a b k s) := by unfold execVmskOr; exact maskOp_good ..
theorem good_vmskXor (tk d a b k) (s : State) : Good s (execVmskXor tk d a b k s) := by unfold execVmskXor; exact maskOp_good ..
theorem good_vmskAndn (tk d a b k) (s : State) : Good s (execVmskAndn tk d a b k s) := by unfold execVmskAndn; exact maskOp_good ..
theorem good_vmskTov (tk d a k) (s : State) : Good s (execVmskTov tk d a k s) := by unfold execVmskTov; exact vecMove_good ..
theorem good_vmskFromv (tk d a k) (s : State) : Good s (execVmskFromv tk d a k s) := by unfold execVmskFromv; exact vecToMask_good ..
theorem good_vmskCnt (tk d a k) (s : State) : Good s (execVmskCnt tk d a k s) := by unfold execVmskCnt; exact vecMove_good ..
theorem good_vmskFirst (tk d a k) (s : State) : Good s (execVmskFirst tk d a k s) := by unfold execVmskFirst; exact vecMove_good ..
theorem good_vmov (tk d a f k) (s : State) : Good s (execVmov tk d a f k s) := by unfold execVmov; exact vecMove_good ..
theorem good_viota (tk d f k) (s : State) : Good s (execViota tk d f k s) := by unfold execViota; exact vecMove_good ..
theorem good_veTkw (tk f) (s : State) : Good s (execVeTkw tk f s) := by unfold execVeTkw; exact engineTkw_good ..
theorem good_veTks (tk f) (s : State) : Good s (execVeTks tk f s) := by unfold execVeTks; exact engineTks_good ..
theorem good_veSeg (tk cnt crc) (s : State) : Good s (execVeSeg tk cnt crc s) := by unfold execVeSeg; exact engineSeg_good ..
theorem good_veSafe (tk) (s : State) : Good s (execVeSafe tk s) := by unfold execVeSafe; exact engineSafe_good ..
theorem good_veEnd (tk) (s : State) : Good s (execVeEnd tk s) := by unfold execVeEnd; exact engineEnd_good ..
theorem good_meTkw (tk f) (s : State) : Good s (execMeTkw tk f s) := by unfold execMeTkw; exact engineTkw_good ..
theorem good_meTks (tk f) (s : State) : Good s (execMeTks tk f s) := by unfold execMeTks; exact engineTks_good ..
theorem good_meSeg (tk cnt crc) (s : State) : Good s (execMeSeg tk cnt crc s) := by unfold execMeSeg; exact engineSeg_good ..
theorem good_meSafe (tk) (s : State) : Good s (execMeSafe tk s) := by unfold execMeSafe; exact engineSafe_good ..
theorem good_meEnd (tk) (s : State) : Good s (execMeEnd tk s) := by unfold execMeEnd; exact engineEnd_good ..
theorem good_meNop (tk) (s : State) : Good s (execMeNop tk s) := by unfold execMeNop; exact engineRun_good (Within.ok (State.Keeps.refl s))
theorem good_collAr (tk p a o) (s : State) : Good s (execCollAr tk p a o s) := by unfold execCollAr; exact issueColl_good ..
theorem good_collRs (tk p a o) (s : State) : Good s (execCollRs tk p a o s) := by unfold execCollRs; exact issueColl_good ..
theorem good_collAg (tk p a o) (s : State) : Good s (execCollAg tk p a o s) := by unfold execCollAg; exact issueColl_good ..
theorem good_collBc (tk p a o) (s : State) : Good s (execCollBc tk p a o s) := by unfold execCollBc; exact issueColl_good ..
theorem good_sigSt (tk p q a m o x) (s : State) : Good s (execSigSt tk p q a m o x s) := by unfold execSigSt; exact issueSig_good ..
theorem good_sigAdd (tk p q a m o x) (s : State) : Good s (execSigAdd tk p q a m o x s) := by unfold execSigAdd; exact issueSig_good ..
theorem good_ceTkw (tk f) (s : State) : Good s (execCeTkw tk f s) := by unfold execCeTkw; exact engineTkw_good ..
theorem good_ceTks (tk f) (s : State) : Good s (execCeTks tk f s) := by unfold execCeTks; exact engineTks_good ..
theorem good_ceSeg (tk cnt crc) (s : State) : Good s (execCeSeg tk cnt crc s) := by unfold execCeSeg; exact engineSeg_good ..
theorem good_ceSafe (tk) (s : State) : Good s (execCeSafe tk s) := by unfold execCeSafe; exact engineSafe_good ..
theorem good_ceEnd (tk) (s : State) : Good s (execCeEnd tk s) := by unfold execCeEnd; exact engineEnd_good ..
theorem good_ceNop (tk) (s : State) : Good s (execCeNop tk s) := by unfold execCeNop; exact engineRun_good (Within.ok (State.Keeps.refl s))
theorem good_transformCompress (h src dst length exp rep) (s : State) : Good s (execTransformCompress h src dst length exp rep s) := by
  unfold execTransformCompress; exact transformPacket_good ..
theorem good_transformExpand (h src dst length rep) (s : State) : Good s (execTransformExpand h src dst length rep s) := by
  unfold execTransformExpand; exact transformPacket_good ..
theorem good_transformLayout (h sdesc ddesc map rep) (s : State) : Good s (execTransformLayout h sdesc ddesc map rep s) := by
  unfold execTransformLayout; exact transformPacket_good ..
theorem good_transformQuant (h src dst length q mode rep) (s : State) : Good s (execTransformQuant h src dst length q mode rep s) := by
  unfold execTransformQuant; exact transformPacket_good ..
theorem good_echo (g arg) (s : State) : Good s (execEcho g arg s) := by unfold execEcho; exact answer_good ..
theorem good_moduleTime (g arg) (s : State) : Good s (execModuleTime g arg s) := by unfold execModuleTime; exact answer_good ..
theorem good_inServiceCoreCount (g arg) (s : State) : Good s (execInServiceCoreCount g arg s) := by
  unfold execInServiceCoreCount; exact answer_good ..
theorem good_unknownService (g code arg) (s : State) : Good s (execUnknownService g code arg s) := by
  unfold execUnknownService; exact answer_good ..
theorem good_fmodeWrite (g fw v) (s : State) : Good s (execFmodeWrite g fw v s) := by unfold execFmodeWrite; exact regWrite_good ..
theorem good_mflgWrite (g fw v) (s : State) : Good s (execMflgWrite g fw v s) := by unfold execMflgWrite; exact regWrite_good ..
theorem good_mtolWrite (g fw v) (s : State) : Good s (execMtolWrite g fw v s) := by unfold execMtolWrite; exact regWrite_good ..
theorem good_mrmodeWrite (g fw v) (s : State) : Good s (execMrmodeWrite g fw v s) := by unfold execMrmodeWrite; exact regWrite_good ..

/-- An instruction or step is `Good`, or it is an access of the host beyond the end of device memory. -/
theorem exec_good (i : Instr) (s : State) : Good s (exec i s) ∨ ∃ pa, exec i s = .fault (.outsideMemory pa) ∧
      ((∃ data, i = .hostBar1Write pa data ∧ s.paTop < pa + data.length) ∨
        ∃ op w x c, i = .hostAtomicop op w pa x c ∧ s.paTop < pa + if w then 4 else 8) := by
  cases i with
  | add d a b => exact .inl (good_add d a b s)
  | sub d a b => exact .inl (good_sub d a b s)
  | and d a b => exact .inl (good_and d a b s)
  | or d a b => exact .inl (good_or d a b s)
  | xor d a b => exact .inl (good_xor d a b s)
  | shl d a b => exact .inl (good_shl d a b s)
  | shr d a b => exact .inl (good_shr d a b s)
  | sar d a b => exact .inl (good_sar d a b s)
  | slt d a b => exact .inl (good_slt d a b s)
  | sltu d a b => exact .inl (good_sltu d a b s)
  | mul d a b => exact .inl (good_mul d a b s)
  | mulh d a b => exact .inl (good_mulh d a b s)
  | mulhu d a b => exact .inl (good_mulhu d a b s)
  | div d a b => exact .inl (good_div d a b s)
  | divu d a b => exact .inl (good_divu d a b s)
  | rem d a b => exact .inl (good_rem d a b s)
  | remu d a b => exact .inl (good_remu d a b s)
  | min d a b => exact .inl (good_min d a b s)
  | minu d a b => exact .inl (good_minu d a b s)
  | max d a b => exact .inl (good_max d a b s)
  | maxu d a b => exact .inl (good_maxu d a b s)
  | addi d a im => exact .inl (good_addi d a im s)
  | andi d a im => exact .inl (good_andi d a im s)
  | ori d a im => exact .inl (good_ori d a im s)
  | xori d a im => exact .inl (good_xori d a im s)
  | shli d a im => exact .inl (good_shli d a im s)
  | shri d a im => exact .inl (good_shri d a im s)
  | sari d a im => exact .inl (good_sari d a im s)
  | slti d a im => exact .inl (good_slti d a im s)
  | sltui d a im => exact .inl (good_sltui d a im s)
  | lui d im => exact .inl (good_lui d im s)
  | pcadd d im => exact .inl (good_pcadd d im s)
  | ldb d a im => exact .inl (good_ldb d a im s)
  | ldbu d a im => exact .inl (good_ldbu d a im s)
  | ldh d a im => exact .inl (good_ldh d a im s)
  | ldhu d a im => exact .inl (good_ldhu d a im s)
  | ldw d a im => exact .inl (good_ldw d a im s)
  | ldwu d a im => exact .inl (good_ldwu d a im s)
  | ldd d a im => exact .inl (good_ldd d a im s)
  | stb d a im => exact .inl (good_stb d a im s)
  | sth d a im => exact .inl (good_sth d a im s)
  | stw d a im => exact .inl (good_stw d a im s)
  | std d a im => exact .inl (good_std d a im s)
  | beq a b im => exact .inl (good_beq a b im s)
  | bne a b im => exact .inl (good_bne a b im s)
  | blt a b im => exact .inl (good_blt a b im s)
  | bge a b im => exact .inl (good_bge a b im s)
  | bltu a b im => exact .inl (good_bltu a b im s)
  | bgeu a b im => exact .inl (good_bgeu a b im s)
  | j im => exact .inl (good_j im s)
  | jal im => exact .inl (good_jal im s)
  | jalr d a => exact .inl (good_jalr d a s)
  | scuLoop a l => exact .inl (good_scuLoop a l s)
  | csrr d n => exact .inl (good_csrr d n s)
  | csrw a n => exact .inl (good_csrw a n s)
  | wmon d a b w c => exact .inl (good_wmon d a b w c s)
  | amo d a b o w c => exact .inl (good_amo d a b o w c s)
  | cas d a b o w => exact .inl (good_cas d a b o w s)
  | fence st k => exact .inl (good_fence st k s)
  | scuTkw f => exact .inl (good_scuTkw f s)
  | scuTks f => exact .inl (good_scuTks f s)
  | spawn d a b => exact .inl (good_spawn d a b s)
  | scuSafe  => exact .inl (good_scuSafe  s)
  | scuSeg cnt crc => exact .inl (good_scuSeg cnt crc s)
  | scuEnd  => exact .inl (good_scuEnd  s)
  | trap im => exact .inl (good_trap im s)
  | eret  => exact .inl (good_eret  s)
  | vadd tk d a b r f k => exact .inl (good_vadd tk d a b r f k s)
  | vsub tk d a b r f k => exact .inl (good_vsub tk d a b r f k s)
  | vmul tk d a b r f k => exact .inl (good_vmul tk d a b r f k s)
  | vdiv tk d a b r f k => exact .inl (good_vdiv tk d a b r f k s)
  | vsqrt tk d a r f k => exact .inl (good_vsqrt tk d a r f k s)
  | vfma tk d a b r f k => exact .inl (good_vfma tk d a b r f k s)
  | vfms tk d a b r f k => exact .inl (good_vfms tk d a b r f k s)
  | vfnma tk d a b r f k => exact .inl (good_vfnma tk d a b r f k s)
  | vmin tk d a b f k => exact .inl (good_vmin tk d a b f k s)
  | vmax tk d a b f k => exact .inl (good_vmax tk d a b f k s)
  | vsgnNeg tk d a f k => exact .inl (good_vsgnNeg tk d a f k s)
  | vsgnAbs tk d a f k => exact .inl (good_vsgnAbs tk d a f k s)
  | vsgnCp tk d a b f k => exact .inl (good_vsgnCp tk d a b f k s)
  | vsgnXs tk d a b f k => exact .inl (good_vsgnXs tk d a b f k s)
  | vsgnExp tk d a f k => exact .inl (good_vsgnExp tk d a f k s)
  | viadd tk d a b f k => exact .inl (good_viadd tk d a b f k s)
  | visub tk d a b f k => exact .inl (good_visub tk d a b f k s)
  | vimul tk d a b f k => exact .inl (good_vimul tk d a b f k s)
  | vand tk d a b f k => exact .inl (good_vand tk d a b f k s)
  | vor tk d a b f k => exact .inl (good_vor tk d a b f k s)
  | vxor tk d a b f k => exact .inl (good_vxor tk d a b f k s)
  | vshl tk d a b f k => exact .inl (good_vshl tk d a b f k s)
  | vshr tk d a b f k => exact .inl (good_vshr tk d a b f k s)
  | vsar tk d a b f k => exact .inl (good_vsar tk d a b f k s)
  | vimin tk d a b f k => exact .inl (good_vimin tk d a b f k s)
  | vimax tk d a b f k => exact .inl (good_vimax tk d a b f k s)
  | vcmp tk d a b c f k => exact .inl (good_vcmp tk d a b c f k s)
  | vicmp tk d a b c f k => exact .inl (good_vicmp tk d a b c f k s)
  | vcvt tk d a h g r f k => exact .inl (good_vcvt tk d a h g r f k s)
  | vqnt tk d a r t k => exact .inl (good_vqnt tk d a r t k s)
  | vxacc tk d a b f k => exact .inl (good_vxacc tk d a b f k s)
  | vxrnd tk d a b r f k => exact .inl (good_vxrnd tk d a b r f k s)
  | vperm tk d a b f k => exact .inl (good_vperm tk d a b f k s)
  | vbcast tk d a l x k => exact .inl (good_vbcast tk d a l x k s)
  | vslide tk d a b n k => exact .inl (good_vslide tk d a b n k s)
  | vsel tk d a b f k => exact .inl (good_vsel tk d a b f k s)
  | vredsum tk d a r f k => exact .inl (good_vredsum tk d a r f k s)
  | vredmin tk d a f k => exact .inl (good_vredmin tk d a f k s)
  | vredmax tk d a f k => exact .inl (good_vredmax tk d a f k s)
  | viredsum tk d a f k => exact .inl (good_viredsum tk d a f k s)
  | vld tk d a c f k => exact .inl (good_vld tk d a c f k s)
  | vst tk d a c f k => exact .inl (good_vst tk d a c f k s)
  | vlds tk d a b c f k => exact .inl (good_vlds tk d a b c f k s)
  | vsts tk d a b c f k => exact .inl (good_vsts tk d a b c f k s)
  | vgath tk d a b c f k => exact .inl (good_vgath tk d a b c f k s)
  | vscat tk d a b c f k => exact .inl (good_vscat tk d a b c f k s)
  | vtrd tk v t e n f k => exact .inl (good_vtrd tk v t e n f k s)
  | vtwr tk v t e n f k => exact .inl (good_vtwr tk v t e n f k s)
  | vflgRd tk d k => exact .inl (good_vflgRd tk d k s)
  | vflgClr tk f k => exact .inl (good_vflgClr tk f k s)
  | vflgWr tk a k => exact .inl (good_vflgWr tk a k s)
  | vflgAny tk d f k => exact .inl (good_vflgAny tk d f k s)
  | vflgTm tk d => exact .inl (good_vflgTm tk d s)
  | vflgCtm tk => exact .inl (good_vflgCtm tk s)
  | vpush tk q a x k => exact .inl (good_vpush tk q a x k s)
  | vpopPack tk d q b x => exact .inl (good_vpopPack tk d q b x s)
  | vpopExp tk d q x k => exact .inl (good_vpopExp tk d q x k s)
  | vexp tk d a r f k => exact .inl (good_vexp tk d a r f k s)
  | vlog tk d a r f k => exact .inl (good_vlog tk d a r f k s)
  | verf tk d a r f k => exact .inl (good_verf tk d a r f k s)
  | vorient2 tk d a b t q f k => exact .inl (good_vorient2 tk d a b t q f k s)
  | vorient3 tk d a b t q f k => exact .inl (good_vorient3 tk d a b t q f k s)
  | vincirc tk d a b t q f k => exact .inl (good_vincirc tk d a b t q f k s)
  | vinsph tk d a b t q f k => exact .inl (good_vinsph tk d a b t q f k s)
  | vsegx tk d a b t q f k => exact .inl (good_vsegx tk d a b t q f k s)
  | vmskAnd tk d a b k => exact .inl (good_vmskAnd tk d a b k s)
  | vmskOr tk d a b k => exact .inl (good_vmskOr tk d a b k s)
  | vmskXor tk d a b k => exact .inl (good_vmskXor tk d a b k s)
  | vmskAndn tk d a b k => exact .inl (good_vmskAndn tk d a b k s)
  | vmskTov tk d a k => exact .inl (good_vmskTov tk d a k s)
  | vmskFromv tk d a k => exact .inl (good_vmskFromv tk d a k s)
  | vmskCnt tk d a k => exact .inl (good_vmskCnt tk d a k s)
  | vmskFirst tk d a k => exact .inl (good_vmskFirst tk d a k s)
  | vmov tk d a f k => exact .inl (good_vmov tk d a f k s)
  | viota tk d f k => exact .inl (good_viota tk d f k s)
  | veTkw tk f => exact .inl (good_veTkw tk f s)
  | veTks tk f => exact .inl (good_veTks tk f s)
  | veLoop tk l c n => exact .inl (good_veLoop tk l c n s)
  | veSeg tk cnt crc => exact .inl (good_veSeg tk cnt crc s)
  | veSafe tk => exact .inl (good_veSafe tk s)
  | veEnd tk => exact .inl (good_veEnd tk s)
  | mmaF64 tk d a b r c t e => exact .inl (good_mmaF64 tk d a b r c t e s)
  | mmaB16 tk d a b f r c t e => exact .inl (good_mmaB16 tk d a b f r c t e s)
  | mmas tk d a b f r c t e => exact .inl (good_mmas tk d a b f r c t e s)
  | mmaF8 tk d a b f r c t e => exact .inl (good_mmaF8 tk d a b f r c t e s)
  | mmaI8 tk d a b f c t e => exact .inl (good_mmaI8 tk d a b f c t e s)
  | mmaF4 tk d a b r c t e => exact .inl (good_mmaF4 tk d a b r c t e s)
  | mmaI4 tk d a b f c t e => exact .inl (good_mmaI4 tk d a b f c t e s)
  | lrset tk d a b e => exact .inl (good_lrset tk d a b e s)
  | lrmul tk d a b => exact .inl (good_lrmul tk d a b s)
  | lradd tk d a b n => exact .inl (good_lradd tk d a b n s)
  | lrcmp tk d a => exact .inl (good_lrcmp tk d a s)
  | lrden tk d a c => exact .inl (good_lrden tk d a c s)
  | lrrank tk a => exact .inl (good_lrrank tk a s)
  | lrrankSet tk d => exact .inl (good_lrrankSet tk d s)
  | mrd tk t e n => exact .inl (good_mrd tk t e n s)
  | mwr tk t e n => exact .inl (good_mwr tk t e n s)
  | mldc tk t e n f g => exact .inl (good_mldc tk t e n f g s)
  | mstc tk t e n f g => exact .inl (good_mstc tk t e n f g s)
  | talloc tk d n f => exact .inl (good_talloc tk d n f s)
  | tfree tk d => exact .inl (good_tfree tk d s)
  | tclr tk d => exact .inl (good_tclr tk d s)
  | tmov tk d a => exact .inl (good_tmov tk d a s)
  | mloop tk l im c n => exact .inl (good_mloop tk l im c n s)
  | meLoop tk l c n => exact .inl (good_meLoop tk l c n s)
  | meTkw tk f => exact .inl (good_meTkw tk f s)
  | meTks tk f => exact .inl (good_meTks tk f s)
  | meSeg tk cnt crc => exact .inl (good_meSeg tk cnt crc s)
  | meSafe tk => exact .inl (good_meSafe tk s)
  | meEnd tk => exact .inl (good_meEnd tk s)
  | meNop tk => exact .inl (good_meNop tk s)
  | cp tk p q a x y o z => exact .inl (good_cp tk p q a x y o z s)
  | cpn tk p q a o => exact .inl (good_cpn tk p q a o s)
  | cpx tk p q a x o z => exact .inl (good_cpx tk p q a x o z s)
  | cprm tk p q a m o z => exact .inl (good_cprm tk p q a m o z s)
  | pf tk q l z => exact .inl (good_pf tk q l z s)
  | keep tk n q => exact .inl (good_keep tk n q s)
  | keepF tk n q a => exact .inl (good_keepF tk n q a s)
  | unkeep tk n => exact .inl (good_unkeep tk n s)
  | cflush tk q a h => exact .inl (good_cflush tk q a h s)
  | cinv tk q a => exact .inl (good_cinv tk q a s)
  | cpatm tk p q a c x e o z => exact .inl (good_cpatm tk p q a c x e o z s)
  | collAr tk p a o => exact .inl (good_collAr tk p a o s)
  | collRs tk p a o => exact .inl (good_collRs tk p a o s)
  | collAg tk p a o => exact .inl (good_collAg tk p a o s)
  | collBc tk p a o => exact .inl (good_collBc tk p a o s)
  | sigSt tk p q a m o x => exact .inl (good_sigSt tk p q a m o x s)
  | sigAdd tk p q a m o x => exact .inl (good_sigAdd tk p q a m o x s)
  | acset tk q a => exact .inl (good_acset tk q a s)
  | acadd tk q a => exact .inl (good_acadd tk q a s)
  | acwait tk a => exact .inl (good_acwait tk a s)
  | lyt tk p q a m o => exact .inl (good_lyt tk p q a m o s)
  | scfg tk p q => exact .inl (good_scfg tk p q s)
  | cgetPop tk p => exact .inl (good_cgetPop tk p s)
  | cgetC tk p => exact .inl (good_cgetC tk p s)
  | cgetCur tk p => exact .inl (good_cgetCur tk p s)
  | cgetScale tk p => exact .inl (good_cgetScale tk p s)
  | cgetAc tk n => exact .inl (good_cgetAc tk n s)
  | cgetLi tk p im => exact .inl (good_cgetLi tk p im s)
  | cadd tk p q im => exact .inl (good_cadd tk p q im s)
  | hret c => exact .inl (good_hret c s)
  | hflag p q => exact .inl (good_hflag p q s)
  | spill tk p q a b o => exact .inl (good_spill tk p q a b o s)
  | fill tk p q a b o => exact .inl (good_fill tk p q a b o s)
  | datmOpen tk p q o => exact .inl (good_datmOpen tk p q o s)
  | datmClose tk p a r => exact .inl (good_datmClose tk p a r s)
  | ceLoop tk l c n => exact .inl (good_ceLoop tk l c n s)
  | ceTkw tk f => exact .inl (good_ceTkw tk f s)
  | ceTks tk f => exact .inl (good_ceTks tk f s)
  | ceSeg tk cnt crc => exact .inl (good_ceSeg tk cnt crc s)
  | ceSafe tk => exact .inl (good_ceSafe tk s)
  | ceEnd tk => exact .inl (good_ceEnd tk s)
  | ceNop tk => exact .inl (good_ceNop tk s)
  | launch h first count => exact .inl (good_launch h first count s)
  | wait h addr value c w32 => exact .inl (good_wait h addr value c w32 s)
  | signal h addr value w32 => exact .inl (good_signal h addr value w32 s)
  | write h addr data => exact .inl (good_write h addr data s)
  | writeSignal h addr data sigAddr sigVal => exact .inl (good_writeSignal h addr data sigAddr sigVal s)
  | transformCompress h src dst length exp rep => exact .inl (good_transformCompress h src dst length exp rep s)
  | transformExpand h src dst length rep => exact .inl (good_transformExpand h src dst length rep s)
  | transformLayout h sdesc ddesc map rep => exact .inl (good_transformLayout h sdesc ddesc map rep s)
  | transformQuant h src dst length q mode rep => exact .inl (good_transformQuant h src dst length q mode rep s)
  | node h counter payload succ => exact .inl (good_node h counter payload succ s)
  | mark h addr => exact .inl (good_mark h addr s)
  | inval h ctx va length => exact .inl (good_inval h ctx va length s)
  | echo g arg => exact .inl (good_echo g arg s)
  | moduleTime g arg => exact .inl (good_moduleTime g arg s)
  | checkpoint g arg => exact .inl (good_checkpoint g arg s)
  | yield g arg => exact .inl (good_yield g arg s)
  | inServiceCoreCount g arg => exact .inl (good_inServiceCoreCount g arg s)
  | unknownService g code arg => exact .inl (good_unknownService g code arg s)
  | fmodeWrite g fw v => exact .inl (good_fmodeWrite g fw v s)
  | mflgWrite g fw v => exact .inl (good_mflgWrite g fw v s)
  | mtolWrite g fw v => exact .inl (good_mtolWrite g fw v s)
  | mrmodeWrite g fw v => exact .inl (good_mrmodeWrite g fw v s)
  | rungWrite g v => exact .inl (good_rungWrite g v s)
  | fshareWrite g v => exact .inl (good_fshareWrite g v s)
  | wdogWrite g v => exact .inl (good_wdogWrite g v s)
  | q6ToVq2Transfer g => exact .inl (good_q6ToVq2Transfer g s)
  | vq3ToQ7Transfer g => exact .inl (good_vq3ToQ7Transfer g s)
  | helperStart g => exact .inl (good_helperStart g s)
  | larkspurStart g => exact .inl (good_larkspurStart g s)
  | copyUnitLand g copy unit => exact .inl (good_copyUnitLand g copy unit s)
  | copyComplete g copy => exact .inl (good_copyComplete g copy s)
  | q2AtomicApply g => exact .inl (good_q2AtomicApply g s)
  | windowApply task win => exact .inl (good_windowApply task win s)
  | wmonSatisfy g => exact .inl (good_wmonSatisfy g s)
  | hollyhockSettle g => exact .inl (good_hollyhockSettle g s)
  | meFeederDecode g => exact .inl (good_meFeederDecode g s)
  | assistEnter g => exact .inl (good_assistEnter g s)
  | assistDone g => exact .inl (good_assistDone g s)
  | trapTake g => exact .inl (good_trapTake g s)
  | firmwareFirstService g answer => exact .inl (good_firmwareFirstService g answer s)
  | segMismatchReplay g passed dest => exact .inl (good_segMismatchReplay g passed dest s)
  | passEnd g => exact .inl (good_passEnd g s)
  | instancePlace task g => exact .inl (good_instancePlace task g s)
  | shadowSwap g => exact .inl (good_shadowSwap g s)
  | taskKill task detail => exact .inl (good_taskKill task detail s)
  | preemptRequest g => exact .inl (good_preemptRequest g s)
  | contextSave g => exact .inl (good_contextSave g s)
  | contextRestore n g => exact .inl (good_contextRestore n g s)
  | watchdogExpiry g => exact .inl (good_watchdogExpiry g s)
  | marginTest u fails again => exact .inl (good_marginTest u fails again s)
  | foxglove u fails => exact .inl (good_foxglove u fails s)
  | errorDetected c granule => exact .inl (good_errorDetected c granule s)
  | capacityReduction ch => exact .inl (good_capacityReduction ch s)
  | channelRetire ch bad => exact .inl (good_channelRetire ch bad s)
  | nodeFire n => exact .inl (good_nodeFire n s)
  | ringPark r => exact .inl (good_ringPark r s)
  | ringRearm r => exact .inl (good_ringRearm r s)
  | ringRestart r ridx => exact .inl (good_ringRestart r ridx s)
  | slotGrant r => exact .inl (good_slotGrant r s)
  | ringSliceExpiry r => exact .inl (good_ringSliceExpiry r s)
  | taskDispatch task => exact .inl (good_taskDispatch task s)
  | taskComplete task => exact .inl (good_taskComplete task s)
  | flitReceive l f => exact .inl (good_flitReceive l f s)
  | nakReceive l ack => exact .inl (good_nakReceive l ack s)
  | ackTimer l => exact .inl (good_ackTimer l s)
  | replayTimeout l => exact .inl (good_replayTimeout l s)
  | retrainComplete l trained => exact .inl (good_retrainComplete l trained s)
  | laneFailure l lane => exact .inl (good_laneFailure l lane s)
  | linkRetireReroute l => exact .inl (good_linkRetireReroute l s)
  | remoteUnitAck g copy unit answer => exact .inl (good_remoteUnitAck g copy unit answer s)
  | memberRemove grp slot => exact .inl (good_memberRemove grp slot s)
  | collectiveCommit g copy others agree => exact .inl (good_collectiveCommit g copy others agree s)
  | hostBar1Write pa data => exact (hostBar1Write_cases pa data s).imp id fun h => ⟨_, h.2, .inl ⟨_, rfl, h.1⟩⟩
  | hostAtomicop op w32 pa x cmp => exact (hostAtomicop_cases op w32 pa x cmp s).imp id fun h => ⟨_, h.2, .inr ⟨_, _, _, _, rfl, h.1⟩⟩
  | powerOn  => exact .inl (good_powerOn  s)
  | thermalTrip  => exact .inl (good_thermalTrip  s)
  | powerCapSet watts => exact .inl (good_powerCapSet watts s)
  | d3hotEntry  => exact .inl (good_d3hotEntry  s)
  | d3coldEntry  => exact .inl (good_d3coldEntry  s)
  | quoteRequest nonce => exact .inl (good_quoteRequest nonce s)
  | firmwareUpdate version code => exact .inl (good_firmwareUpdate version code s)
  | d3hotExit  => exact .inl (good_d3hotExit  s)
  | waitSatisfied r => exact .inl (good_waitSatisfied r s)
  | coreOutOfService g => exact .inl (good_coreOutOfService g s)
  | shadowWithdraw g => exact .inl (good_shadowWithdraw g s)

end Sys2Proof.Machine
end

