-- ==== Sys2Proof/Laws/KeepSteps.lean ====
section
/-! SUPPORT. That no step breaks the form of memory or raises a rung (`Good`): accesses performed early, a word of the firmware context, and
what firmware writes of its tables. -/

namespace Sys2Proof.Machine

open Host

/-- What `exec_good` says of an outcome: a next state that keeps the form, or the fault of an access of the host beyond the end of device
memory. -/
def GoodOrHost (s : State) (i : Instr) (o : Outcome State Fault Refusal) : Prop :=
  Good s o ∨ ∃ pa, o = .fault (.outsideMemory pa) ∧
    ((∃ data, i = .hostBar1Write pa data) ∨ ∃ op w x c, i = .hostAtomicop op w pa x c)

theorem exec_goodOrHost (i : Instr) (s : State) : GoodOrHost s i (exec i s) := by
  rcases exec_good i s with h | ⟨pa, h, ⟨data, hi, -⟩ | ⟨op, w, x, c, hi, -⟩⟩
  · exact .inl h
  · exact .inr ⟨pa, h, .inl ⟨data, hi⟩⟩
  · exact .inr ⟨pa, h, .inr ⟨op, w, x, c, hi⟩⟩

theorem GoodOrHost.from {s t : State} {i : Instr} {o : Outcome State Fault Refusal} (h : s.Keeps t) (k : GoodOrHost t i o) : GoodOrHost s i o :=
  k.imp_left (Good.from h)

/-- A change of one instance after a word. -/
theorem GoodOrHost.modInst {s : State} {i : Instr} {o : Outcome State Fault Refusal} (h : GoodOrHost s i o) (g : CoreNo) (f : State → Inst → Inst) :
    GoodOrHost s i (thenInst o g f) := by
  rcases h with ⟨t, rfl, k⟩ | ⟨pa, rfl, k⟩
  · exact .inl (Good.next (k.trans (modInst_keeps _ _ _)))
  · exact .inr ⟨pa, rfl, k⟩

theorem runWord_good (cur : Cur) (i : Instr) (s : State) : GoodOrHost s i (runWord cur i s) := by
  have hc : s.Keeps { s with cur := cur } := State.Keeps.of_parts rfl rfl rfl
  unfold runWord
  dsimp only
  split
  · exact ((exec_goodOrHost i _).from hc).modInst cur.core _
  · split
    · exact ((exec_goodOrHost i _).from (hc.trans (modInst_keeps _ _ _))).modInst cur.core _
    · exact (exec_goodOrHost i _).from hc

theorem earlyWrite_keeps (s : State) (g : CoreNo) (i : Instr) (k : Nat) : s.Keeps (s.earlyWrite g i k) := by
  unfold State.earlyWrite
  split
  · exact State.Keeps.refl s
  · dsimp only
    split
    · exact State.Keeps.refl s
    · have h := fun d n w l => (putElem_keeps s g w).trans (noteElems_keeps l _ g d true n [])
      exact State.Keeps.ite (State.Keeps.refl s)
        (State.Keeps.trans (State.Keeps.ite (h _ _ _ _) ((h _ _ _ _).trans (sink_keeps _ _))) (modInst_keeps _ _ _))

theorem early_keeps (s : State) (g : CoreNo) (e : Early) : s.Keeps (s.early g e) := by
  unfold State.early
  split
  · rename_i cur i _
    have hc : s.Keeps { s with cur := cur } := State.Keeps.of_parts rfl rfl rfl
    dsimp only
    split
    · refine State.Keeps.ite (State.Keeps.refl s) ?_
      split
      · split
        · exact hc.trans (modInst_keeps _ _ _)
        · exact State.Keeps.refl s
      · exact State.Keeps.ite (State.Keeps.refl s) ((hc.trans (earlyWrite_keeps _ _ _ _)).trans (modInst_keeps _ _ _))
      · exact (hc.trans (modInst_keeps _ _ _)).trans (modInst_keeps _ _ _)
    · exact State.Keeps.refl s
  · exact State.Keeps.refl s

theorem leaveFirmware_keeps (s : State) (g : CoreNo) (i : Inst) : s.Keeps (s.modCore g fun x => x.leaveFirmware i) := modCore_keeps _ _
theorem setCur_keeps (s : State) (c : Cur) : s.Keeps { s with cur := c } := State.Keeps.of_parts rfl rfl rfl

/-- A word of the firmware context answers a next state, or it decodes to the instruction whose outcome it has. -/
theorem execFirmware_good (g : CoreNo) (w w1 : Word32) (s : State) :
    Good s (execFirmware g w w1 s) ∨ ∃ i x y, decode .scu x y = .ok i ∧ GoodOrHost s i (execFirmware g w w1 s) := by
  unfold execFirmware
  dsimp only
  split
  · exact .inl (Good.same s)
  · split
    · exact .inl (Good.same s)
    · exact .inl (Good.next (((setCur_keeps s _).trans (raise_keeps _ _ _)).trans (setCur_keeps _ _)))
    · split
      · exact .inl (Good.same s)
      · rename_i i e
        generalize hc : (⟨g, Source.scu, s.cores[g].fw.pc, w, w1, s.tick, true⟩ : Cur) = c
        have v := (exec_goodOrHost i (State.modCore { s with cur := c } g fun x => { x with inst := x.fw.view x.inst })).from
          ((setCur_keeps s c).trans (modCore_keeps _ _))
        refine .inr ⟨i, _, _, e, ?_⟩
        split
        · rename_i t e'
          rw [e'] at v
          rcases v with ⟨u, e'', k⟩ | ⟨pa, e'', -⟩
          · cases e''
            split
            · exact .inl (Good.same s)
            · exact .inl (Good.next ((k.trans (leaveFirmware_keeps _ _ _)).trans (setCur_keeps _ _)))
          · cases e''
        · exact v

theorem setPod_keeps (s : State) (n : Fin 64) : s.Keeps (s.setPod n) := State.Keeps.of_parts rfl rfl rfl
theorem setPeer_keeps (s : State) (c : Nat) (m : Fin 64) (p : Option Nat) : s.Keeps (s.setPeer c m p) := State.Keeps.of_parts rfl rfl rfl
theorem setRoutes_keeps (s : State) (m : Fin 64) (l : List (Fin 16)) : s.Keeps (s.setRoutes m l) := State.Keeps.of_parts rfl rfl rfl
theorem setBar1_keeps (s : State) (pa : Nat) : s.Keeps (s.setBar1 pa) := State.Keeps.of_parts rfl rfl rfl
theorem setPodTimeout_keeps (s : State) (n : Nat) : s.Keeps (s.setPodTimeout n) := State.Keeps.of_parts rfl rfl rfl
theorem setFar_keeps (s : State) (l : Fin 16) (m : Option Nat) : s.Keeps (s.setFar l m) := modLink_keeps _ _ _
theorem heartbeat_keeps (s : State) (m : Fin 64) : s.Keeps (s.heartbeat m) := State.Keeps.of_parts rfl rfl rfl
theorem moduleFailed_keeps (s : State) (m : Fin 64) : s.Keeps (s.moduleFailed m) := State.Keeps.of_parts rfl rfl rfl
theorem setHostEnd_keeps (s : State) (e : PortEnd) : s.Keeps (s.setHostEnd e) := State.Keeps.of_parts rfl rfl rfl
theorem setHelper_keeps (s : State) (h : Option Nat) : s.Keeps (s.setHelper h) := State.Keeps.of_parts rfl rfl rfl

end Sys2Proof.Machine
end

