-- ==== Sys2Proof/Laws/PerInstr.lean ====
section
/-! SUPPORT. What holds of every instruction as syntax, one lemma for each constructor of `Instr`. -/

namespace Sys2Proof.Laws.EncodeWf

/-- seg takes two words (02 R55, R56), every other word of the four engines one, and a step that is no word of an engine none. -/
def Statement (i : Instr) : Prop :=
  (encode i).length =
    match engineOf i with
    | none => 0
    | some _ =>
      match i with
      | .scuSeg _ _ => 2
      | .veSeg _ _ _ => 2
      | .meSeg _ _ _ => 2
      | .ceSeg _ _ _ => 2
      | _ => 1

theorem add (d a b : SReg) : Statement (.add d a b) := rfl
theorem sub (d a b : SReg) : Statement (.sub d a b) := rfl
theorem and (d a b : SReg) : Statement (.and d a b) := rfl
theorem or (d a b : SReg) : Statement (.or d a b) := rfl
theorem xor (d a b : SReg) : Statement (.xor d a b) := rfl
theorem shl (d a b : SReg) : Statement (.shl d a b) := rfl
theorem shr (d a b : SReg) : Statement (.shr d a b) := rfl
theorem sar (d a b : SReg) : Statement (.sar d a b) := rfl
theorem slt (d a b : SReg) : Statement (.slt d a b) := rfl
theorem sltu (d a b : SReg) : Statement (.sltu d a b) := rfl
theorem mul (d a b : SReg) : Statement (.mul d a b) := rfl
theorem mulh (d a b : SReg) : Statement (.mulh d a b) := rfl
theorem mulhu (d a b : SReg) : Statement (.mulhu d a b) := rfl
theorem div (d a b : SReg) : Statement (.div d a b) := rfl
theorem divu (d a b : SReg) : Statement (.divu d a b) := rfl
theorem rem (d a b : SReg) : Statement (.rem d a b) := rfl
theorem remu (d a b : SReg) : Statement (.remu d a b) := rfl
theorem min (d a b : SReg) : Statement (.min d a b) := rfl
theorem minu (d a b : SReg) : Statement (.minu d a b) := rfl
theorem max (d a b : SReg) : Statement (.max d a b) := rfl
theorem maxu (d a b : SReg) : Statement (.maxu d a b) := rfl
theorem addi (d a : SReg) (i : BitVec 14) : Statement (.addi d a i) := rfl
theorem andi (d a : SReg) (i : BitVec 14) : Statement (.andi d a i) := rfl
theorem ori (d a : SReg) (i : BitVec 14) : Statement (.ori d a i) := rfl
theorem xori (d a : SReg) (i : BitVec 14) : Statement (.xori d a i) := rfl
theorem shli (d a : SReg) (i : Fin 64) : Statement (.shli d a i) := rfl
theorem shri (d a : SReg) (i : Fin 64) : Statement (.shri d a i) := rfl
theorem sari (d a : SReg) (i : Fin 64) : Statement (.sari d a i) := rfl
theorem slti (d a : SReg) (i : BitVec 14) : Statement (.slti d a i) := rfl
theorem sltui (d a : SReg) (i : BitVec 14) : Statement (.sltui d a i) := rfl
theorem lui (d : SReg) (i : BitVec 20) : Statement (.lui d i) := rfl
theorem pcadd (d : SReg) (i : BitVec 20) : Statement (.pcadd d i) := rfl
theorem ldb (d a : SReg) (i : BitVec 14) : Statement (.ldb d a i) := rfl
theorem ldbu (d a : SReg) (i : BitVec 14) : Statement (.ldbu d a i) := rfl
theorem ldh (d a : SReg) (i : BitVec 14) : Statement (.ldh d a i) := rfl
theorem ldhu (d a : SReg) (i : BitVec 14) : Statement (.ldhu d a i) := rfl
theorem ldw (d a : SReg) (i : BitVec 14) : Statement (.ldw d a i) := rfl
theorem ldwu (d a : SReg) (i : BitVec 14) : Statement (.ldwu d a i) := rfl
theorem ldd (d a : SReg) (i : BitVec 14) : Statement (.ldd d a i) := rfl
theorem stb (d a : SReg) (i : BitVec 14) : Statement (.stb d a i) := rfl
theorem sth (d a : SReg) (i : BitVec 14) : Statement (.sth d a i) := rfl
theorem stw (d a : SReg) (i : BitVec 14) : Statement (.stw d a i) := rfl
theorem std (d a : SReg) (i : BitVec 14) : Statement (.std d a i) := rfl
theorem beq (a b : SReg) (i : BitVec 14) : Statement (.beq a b i) := rfl
theorem bne (a b : SReg) (i : BitVec 14) : Statement (.bne a b i) := rfl
theorem blt (a b : SReg) (i : BitVec 14) : Statement (.blt a b i) := rfl
theorem bge (a b : SReg) (i : BitVec 14) : Statement (.bge a b i) := rfl
theorem bltu (a b : SReg) (i : BitVec 14) : Statement (.bltu a b i) := rfl
theorem bgeu (a b : SReg) (i : BitVec 14) : Statement (.bgeu a b i) := rfl
theorem j (i : BitVec 26) : Statement (.j i) := rfl
theorem jal (i : BitVec 26) : Statement (.jal i) := rfl
theorem jalr (d a : SReg) : Statement (.jalr d a) := rfl
theorem scuLoop (a : SReg) (l : Fin 16384) : Statement (.scuLoop a l) := rfl
theorem csrr (d : SReg) (n : Fin 16384) : Statement (.csrr d n) := rfl
theorem csrw (a : SReg) (n : Fin 16384) : Statement (.csrw a n) := rfl
theorem wmon (d a b : SReg) (w : Bool) (c : WCond) : Statement (.wmon d a b w c) := rfl
theorem amo (d a b : SReg) (o : AmoOrder) (w : Bool) (c : AmoOp) : Statement (.amo d a b o w c) := rfl
theorem cas (d a b : SReg) (o : AmoOrder) (w : Bool) : Statement (.cas d a b o w) := rfl
theorem fence (s : FenceScope) (k : FenceKind) : Statement (.fence s k) := rfl
theorem scuTkw (f : Engine) : Statement (.scuTkw f) := rfl
theorem scuTks (f : Engine) : Statement (.scuTks f) := rfl
theorem spawn (d a b : SReg) : Statement (.spawn d a b) := rfl
theorem scuSafe : Statement (.scuSafe) := rfl
theorem scuSeg (cnt : BitVec 24) (crc : BitVec 16) : Statement (.scuSeg cnt crc) := rfl
theorem scuEnd : Statement (.scuEnd) := rfl
theorem trap (i : BitVec 20) : Statement (.trap i) := rfl
theorem eret : Statement (.eret) := rfl
theorem vadd (tk : Tok) (d a b : VReg) (r : Rounding) (f : FpFmt) (k : KReg) : Statement (.vadd tk d a b r f k) := rfl
theorem vsub (tk : Tok) (d a b : VReg) (r : Rounding) (f : FpFmt) (k : KReg) : Statement (.vsub tk d a b r f k) := rfl
theorem vmul (tk : Tok) (d a b : VReg) (r : Rounding) (f : FpFmt) (k : KReg) : Statement (.vmul tk d a b r f k) := rfl
theorem vdiv (tk : Tok) (d a b : VReg) (r : Rounding) (f : FpFmt) (k : KReg) : Statement (.vdiv tk d a b r f k) := rfl
theorem vsqrt (tk : Tok) (d a : VReg) (r : Rounding) (f : FpFmt) (k : KReg) : Statement (.vsqrt tk d a r f k) := rfl
theorem vfma (tk : Tok) (d a b : VReg) (r : Rounding) (f : FpFmt) (k : KReg) : Statement (.vfma tk d a b r f k) := rfl
theorem vfms (tk : Tok) (d a b : VReg) (r : Rounding) (f : FpFmt) (k : KReg) : Statement (.vfms tk d a b r f k) := rfl
theorem vfnma (tk : Tok) (d a b : VReg) (r : Rounding) (f : FpFmt) (k : KReg) : Statement (.vfnma tk d a b r f k) := rfl
theorem vmin (tk : Tok) (d a b : VReg) (f : FpFmt) (k : KReg) : Statement (.vmin tk d a b f k) := rfl
theorem vmax (tk : Tok) (d a b : VReg) (f : FpFmt) (k : KReg) : Statement (.vmax tk d a b f k) := rfl
theorem vsgnNeg (tk : Tok) (d a : VReg) (f : FpFmt) (k : KReg) : Statement (.vsgnNeg tk d a f k) := rfl
theorem vsgnAbs (tk : Tok) (d a : VReg) (f : FpFmt) (k : KReg) : Statement (.vsgnAbs tk d a f k) := rfl
theorem vsgnCp (tk : Tok) (d a b : VReg) (f : FpFmt) (k : KReg) : Statement (.vsgnCp tk d a b f k) := rfl
theorem vsgnXs (tk : Tok) (d a b : VReg) (f : FpFmt) (k : KReg) : Statement (.vsgnXs tk d a b f k) := rfl
theorem vsgnExp (tk : Tok) (d a : VReg) (f : FpFmt) (k : KReg) : Statement (.vsgnExp tk d a f k) := rfl
theorem viadd (tk : Tok) (d a b : VReg) (f : IntFmt) (k : KReg) : Statement (.viadd tk d a b f k) := rfl
theorem visub (tk : Tok) (d a b : VReg) (f : IntFmt) (k : KReg) : Statement (.visub tk d a b f k) := rfl
theorem vimul (tk : Tok) (d a b : VReg) (f : IntFmt) (k : KReg) : Statement (.vimul tk d a b f k) := rfl
theorem vand (tk : Tok) (d a b : VReg) (f : IntFmt) (k : KReg) : Statement (.vand tk d a b f k) := rfl
theorem vor (tk : Tok) (d a b : VReg) (f : IntFmt) (k : KReg) : Statement (.vor tk d a b f k) := rfl
theorem vxor (tk : Tok) (d a b : VReg) (f : IntFmt) (k : KReg) : Statement (.vxor tk d a b f k) := rfl
theorem vshl (tk : Tok) (d a b : VReg) (f : IntFmt) (k : KReg) : Statement (.vshl tk d a b f k) := rfl
theorem vshr (tk : Tok) (d a b : VReg) (f : IntFmt) (k : KReg) : Statement (.vshr tk d a b f k) := rfl
theorem vsar (tk : Tok) (d a b : VReg) (f : IntFmt) (k : KReg) : Statement (.vsar tk d a b f k) := rfl
theorem vimin (tk : Tok) (d a b : VReg) (f : IntFmt) (k : KReg) : Statement (.vimin tk d a b f k) := rfl
theorem vimax (tk : Tok) (d a b : VReg) (f : IntFmt) (k : KReg) : Statement (.vimax tk d a b f k) := rfl
theorem vcmp (tk : Tok) (d : KReg) (a b : VReg) (c : Cond) (f : FpFmt) (k : KReg) : Statement (.vcmp tk d a b c f k) := rfl
theorem vicmp (tk : Tok) (d : KReg) (a b : VReg) (c : ICond) (f : IntFmt) (k : KReg) : Statement (.vicmp tk d a b c f k) := rfl
theorem vcvt (tk : Tok) (d a : VReg) (h : Bool) (g : VFmt) (r : Rounding) (f : VFmt) (k : KReg) : Statement (.vcvt tk d a h g r f k) := rfl
theorem vqnt (tk : Tok) (d a : VReg) (r : Rounding) (t : QntType) (k : KReg) : Statement (.vqnt tk d a r t k) := rfl
theorem vxacc (tk : Tok) (d a b : VReg) (f : FixFmt) (k : KReg) : Statement (.vxacc tk d a b f k) := rfl
theorem vxrnd (tk : Tok) (d a b : VReg) (r : Rounding) (f : HFmt) (k : KReg) : Statement (.vxrnd tk d a b r f k) := rfl
theorem vperm (tk : Tok) (d a b : VReg) (f : LaneW) (k : KReg) : Statement (.vperm tk d a b f k) := rfl
theorem vbcast (tk : Tok) (d a : VReg) (l : Fin 512) (x : LaneW) (k : KReg) : Statement (.vbcast tk d a l x k) := rfl
theorem vslide (tk : Tok) (d a b : VReg) (n : Fin 64) (k : KReg) : Statement (.vslide tk d a b n k) := rfl
theorem vsel (tk : Tok) (d a b : VReg) (f : LaneW) (k : KReg) : Statement (.vsel tk d a b f k) := rfl
theorem vredsum (tk : Tok) (d a : VReg) (r : Rounding) (f : HFmt) (k : KReg) : Statement (.vredsum tk d a r f k) := rfl
theorem vredmin (tk : Tok) (d a : VReg) (f : RedFmt) (k : KReg) : Statement (.vredmin tk d a f k) := rfl
theorem vredmax (tk : Tok) (d a : VReg) (f : RedFmt) (k : KReg) : Statement (.vredmax tk d a f k) := rfl
theorem viredsum (tk : Tok) (d a : VReg) (f : IntFmt) (k : KReg) : Statement (.viredsum tk d a f k) := rfl
theorem vld (tk : Tok) (d a : VReg) (c : Fin 8) (f : VFmt) (k : KReg) : Statement (.vld tk d a c f k) := rfl
theorem vst (tk : Tok) (d a : VReg) (c : Fin 8) (f : VFmt) (k : KReg) : Statement (.vst tk d a c f k) := rfl
theorem vlds (tk : Tok) (d a b : VReg) (c : Fin 8) (f : VFmt) (k : KReg) : Statement (.vlds tk d a b c f k) := rfl
theorem vsts (tk : Tok) (d a b : VReg) (c : Fin 8) (f : VFmt) (k : KReg) : Statement (.vsts tk d a b c f k) := rfl
theorem vgath (tk : Tok) (d a b : VReg) (c : Fin 8) (f : VFmt) (k : KReg) : Statement (.vgath tk d a b c f k) := rfl
theorem vscat (tk : Tok) (d a b : VReg) (c : Fin 8) (f : VFmt) (k : KReg) : Statement (.vscat tk d a b c f k) := rfl
theorem vtrd (tk : Tok) (v : VReg) (t : TReg) (e : Dir) (n : Fin 64) (f : TileFmt) (k : KReg) : Statement (.vtrd tk v t e n f k) := rfl
theorem vtwr (tk : Tok) (v : VReg) (t : TReg) (e : Dir) (n : Fin 64) (f : TileFmt) (k : KReg) : Statement (.vtwr tk v t e n f k) := rfl
theorem vflgRd (tk : Tok) (d : VReg) (k : KReg) : Statement (.vflgRd tk d k) := rfl
theorem vflgClr (tk : Tok) (f : BitVec 5) (k : KReg) : Statement (.vflgClr tk f k) := rfl
theorem vflgWr (tk : Tok) (a : VReg) (k : KReg) : Statement (.vflgWr tk a k) := rfl
theorem vflgAny (tk : Tok) (d : KReg) (f : BitVec 5) (k : KReg) : Statement (.vflgAny tk d f k) := rfl
theorem vflgTm (tk : Tok) (d : KReg) : Statement (.vflgTm tk d) := rfl
theorem vflgCtm (tk : Tok) : Statement (.vflgCtm tk) := rfl
theorem vpush (tk : Tok) (q a : VReg) (x : LaneW) (k : KReg) : Statement (.vpush tk q a x k) := rfl
theorem vpopPack (tk : Tok) (d q : VReg) (b : KReg) (x : LaneW) : Statement (.vpopPack tk d q b x) := rfl
theorem vpopExp (tk : Tok) (d q : VReg) (x : LaneW) (k : KReg) : Statement (.vpopExp tk d q x k) := rfl
theorem vexp (tk : Tok) (d a : VReg) (r : Rounding) (f : HFmt) (k : KReg) : Statement (.vexp tk d a r f k) := rfl
theorem vlog (tk : Tok) (d a : VReg) (r : Rounding) (f : HFmt) (k : KReg) : Statement (.vlog tk d a r f k) := rfl
theorem verf (tk : Tok) (d a : VReg) (r : Rounding) (f : HFmt) (k : KReg) : Statement (.verf tk d a r f k) := rfl
theorem vorient2 (tk : Tok) (d a b : VReg) (t q : Bool) (f : HFmt) (k : KReg) : Statement (.vorient2 tk d a b t q f k) := rfl
theorem vorient3 (tk : Tok) (d a b : VReg) (t q : Bool) (f : HFmt) (k : KReg) : Statement (.vorient3 tk d a b t q f k) := rfl
theorem vincirc (tk : Tok) (d a b : VReg) (t q : Bool) (f : HFmt) (k : KReg) : Statement (.vincirc tk d a b t q f k) := rfl
theorem vinsph (tk : Tok) (d a b : VReg) (t q : Bool) (f : HFmt) (k : KReg) : Statement (.vinsph tk d a b t q f k) := rfl
theorem vsegx (tk : Tok) (d a b : VReg) (t q : Bool) (f : HFmt) (k : KReg) : Statement (.vsegx tk d a b t q f k) := rfl
theorem vmskAnd (tk : Tok) (d a b k : KReg) : Statement (.vmskAnd tk d a b k) := rfl
theorem vmskOr (tk : Tok) (d a b k : KReg) : Statement (.vmskOr tk d a b k) := rfl
theorem vmskXor (tk : Tok) (d a b k : KReg) : Statement (.vmskXor tk d a b k) := rfl
theorem vmskAndn (tk : Tok) (d a b k : KReg) : Statement (.vmskAndn tk d a b k) := rfl
theorem vmskTov (tk : Tok) (d : VReg) (a k : KReg) : Statement (.vmskTov tk d a k) := rfl
theorem vmskFromv (tk : Tok) (d : KReg) (a : VReg) (k : KReg) : Statement (.vmskFromv tk d a k) := rfl
theorem vmskCnt (tk : Tok) (d : VReg) (a k : KReg) : Statement (.vmskCnt tk d a k) := rfl
theorem vmskFirst (tk : Tok) (d : VReg) (a k : KReg) : Statement (.vmskFirst tk d a k) := rfl
theorem vmov (tk : Tok) (d a : VReg) (f : LaneW) (k : KReg) : Statement (.vmov tk d a f k) := rfl
theorem viota (tk : Tok) (d : VReg) (f : FixFmt) (k : KReg) : Statement (.viota tk d f k) := rfl
theorem veTkw (tk : Tok) (f : Engine) : Statement (.veTkw tk f) := rfl
theorem veTks (tk : Tok) (f : Engine) : Statement (.veTks tk f) := rfl
theorem veLoop (tk : Tok) (l : Fin 1024) (c : Bool) (n : Fin 8192) : Statement (.veLoop tk l c n) := rfl
theorem veSeg (tk : Tok) (cnt : BitVec 24) (crc : BitVec 16) : Statement (.veSeg tk cnt crc) := rfl
theorem veSafe (tk : Tok) : Statement (.veSafe tk) := rfl
theorem veEnd (tk : Tok) : Statement (.veEnd tk) := rfl
theorem mmaF64 (tk : Tok) (d : TReg) (a b : ZReg) (r : Rounding) (c t e : Bool) : Statement (.mmaF64 tk d a b r c t e) := rfl
theorem mmaB16 (tk : Tok) (d : TReg) (a b : ZReg) (f : B16Fmt) (r : Rounding) (c t e : Bool) : Statement (.mmaB16 tk d a b f r c t e) := rfl
theorem mmas (tk : Tok) (d : TReg) (a b : ZReg) (f : B16Fmt) (r : Rounding) (c t e : Bool) : Statement (.mmas tk d a b f r c t e) := rfl
theorem mmaF8 (tk : Tok) (d : TReg) (a b : ZReg) (f : BitVec 2) (r : Rounding) (c t e : Bool) : Statement (.mmaF8 tk d a b f r c t e) := rfl
theorem mmaI8 (tk : Tok) (d : TReg) (a b : ZReg) (f : BitVec 2) (c t e : Bool) : Statement (.mmaI8 tk d a b f c t e) := rfl
theorem mmaF4 (tk : Tok) (d : TReg) (a b : ZReg) (r : Rounding) (c t e : Bool) : Statement (.mmaF4 tk d a b r c t e) := rfl
theorem mmaI4 (tk : Tok) (d : TReg) (a b : ZReg) (f : BitVec 2) (c t e : Bool) : Statement (.mmaI4 tk d a b f c t e) := rfl
theorem lrset (tk : Tok) (d : TReg) (a b : ZReg) (e : Bool) : Statement (.lrset tk d a b e) := rfl
theorem lrmul (tk : Tok) (d a b : TReg) : Statement (.lrmul tk d a b) := rfl
theorem lradd (tk : Tok) (d a b : TReg) (n : Bool) : Statement (.lradd tk d a b n) := rfl
theorem lrcmp (tk : Tok) (d a : TReg) : Statement (.lrcmp tk d a) := rfl
theorem lrden (tk : Tok) (d a : TReg) (c : Bool) : Statement (.lrden tk d a c) := rfl
theorem lrrank (tk : Tok) (a : TReg) : Statement (.lrrank tk a) := rfl
theorem lrrankSet (tk : Tok) (d : TReg) : Statement (.lrrankSet tk d) := rfl
theorem mrd (tk : Tok) (t : TReg) (e : Dir) (n : Fin 64) : Statement (.mrd tk t e n) := rfl
theorem mwr (tk : Tok) (t : TReg) (e : Dir) (n : Fin 64) : Statement (.mwr tk t e n) := rfl
theorem mldc (tk : Tok) (t : TReg) (e : Dir) (n : Fin 64) (f : Fin 32) (g : Bool) : Statement (.mldc tk t e n f g) := rfl
theorem mstc (tk : Tok) (t : TReg) (e : Dir) (n : Fin 64) (f : Fin 32) (g : Bool) : Statement (.mstc tk t e n f g) := rfl
theorem talloc (tk : Tok) (d : TReg) (n : Fin 2048) (f : TileForm) : Statement (.talloc tk d n f) := rfl
theorem tfree (tk : Tok) (d : TReg) : Statement (.tfree tk d) := rfl
theorem tclr (tk : Tok) (d : TReg) : Statement (.tclr tk d) := rfl
theorem tmov (tk : Tok) (d a : TReg) : Statement (.tmov tk d a) := rfl
theorem mloop (tk : Tok) (l : Fin 1024) (i : Fin 64) (c : Bool) (n : Fin 128) : Statement (.mloop tk l i c n) := rfl
theorem meLoop (tk : Tok) (l : Fin 1024) (c : Bool) (n : Fin 8192) : Statement (.meLoop tk l c n) := rfl
theorem meTkw (tk : Tok) (f : Engine) : Statement (.meTkw tk f) := rfl
theorem meTks (tk : Tok) (f : Engine) : Statement (.meTks tk f) := rfl
theorem meSeg (tk : Tok) (cnt : BitVec 24) (crc : BitVec 16) : Statement (.meSeg tk cnt crc) := rfl
theorem meSafe (tk : Tok) : Statement (.meSafe tk) := rfl
theorem meEnd (tk : Tok) : Statement (.meEnd tk) := rfl
theorem meNop (tk : Tok) : Statement (.meNop tk) := rfl
theorem cp (tk : Tok) (p q : CReg) (a : AReg) (x : CpDst) (y : CpSrc) (o : Bool) (z : Fin 8) : Statement (.cp tk p q a x y o z) := rfl
theorem cpn (tk : Tok) (p q : ZReg) (a : AReg) (o : Bool) : Statement (.cpn tk p q a o) := rfl
theorem cpx (tk : Tok) (p q : CReg) (a : AReg) (x : CpxDst) (o : Bool) (z : Fin 8) : Statement (.cpx tk p q a x o z) := rfl
theorem cprm (tk : Tok) (p q : CReg) (a : AReg) (m : Fin 64) (o : Bool) (z : Fin 8) : Statement (.cprm tk p q a m o z) := rfl
theorem pf (tk : Tok) (q : CReg) (l : Bool) (z : Fin 8) : Statement (.pf tk q l z) := rfl
theorem keep (tk : Tok) (n : Fin 8) (q : CReg) : Statement (.keep tk n q) := rfl
theorem keepF (tk : Tok) (n : Fin 8) (q : CReg) (a : AReg) : Statement (.keepF tk n q a) := rfl
theorem unkeep (tk : Tok) (n : Fin 8) : Statement (.unkeep tk n) := rfl
theorem cflush (tk : Tok) (q : CReg) (a : AReg) (h : Bool) : Statement (.cflush tk q a h) := rfl
theorem cinv (tk : Tok) (q : CReg) (a : AReg) : Statement (.cinv tk q a) := rfl
theorem cpatm (tk : Tok) (p q : CReg) (a : AReg) (c : AmoOp) (x e o : Bool) (z : ListSrc) : Statement (.cpatm tk p q a c x e o z) := rfl
theorem collAr (tk : Tok) (p : CReg) (a : AReg) (o : Bool) : Statement (.collAr tk p a o) := rfl
theorem collRs (tk : Tok) (p : CReg) (a : AReg) (o : Bool) : Statement (.collRs tk p a o) := rfl
theorem collAg (tk : Tok) (p : CReg) (a : AReg) (o : Bool) : Statement (.collAg tk p a o) := rfl
theorem collBc (tk : Tok) (p : CReg) (a : AReg) (o : Bool) : Statement (.collBc tk p a o) := rfl
theorem sigSt (tk : Tok) (p q : CReg) (a : AReg) (m : Fin 64) (o x : Bool) : Statement (.sigSt tk p q a m o x) := rfl
theorem sigAdd (tk : Tok) (p q : CReg) (a : AReg) (m : Fin 64) (o x : Bool) : Statement (.sigAdd tk p q a m o x) := rfl
theorem acset (tk : Tok) (q : CReg) (a : AReg) : Statement (.acset tk q a) := rfl
theorem acadd (tk : Tok) (q : CReg) (a : AReg) : Statement (.acadd tk q a) := rfl
theorem acwait (tk : Tok) (a : AReg) : Statement (.acwait tk a) := rfl
theorem lyt (tk : Tok) (p q : ZReg) (a : AReg) (m : CReg) (o : Bool) : Statement (.lyt tk p q a m o) := rfl
theorem scfg (tk : Tok) (p : ZReg) (q : CReg) : Statement (.scfg tk p q) := rfl
theorem cgetPop (tk : Tok) (p : CReg) : Statement (.cgetPop tk p) := rfl
theorem cgetC (tk : Tok) (p : CReg) : Statement (.cgetC tk p) := rfl
theorem cgetCur (tk : Tok) (p : ZReg) : Statement (.cgetCur tk p) := rfl
theorem cgetScale (tk : Tok) (p : ZReg) : Statement (.cgetScale tk p) := rfl
theorem cgetAc (tk : Tok) (n : AReg) : Statement (.cgetAc tk n) := rfl
theorem cgetLi (tk : Tok) (p : CReg) (i : BitVec 16) : Statement (.cgetLi tk p i) := rfl
theorem cadd (tk : Tok) (p q : CReg) (i : BitVec 16) : Statement (.cadd tk p q i) := rfl
theorem hret (c : BitVec 8) : Statement (.hret c) := rfl
theorem hflag (p q : CReg) : Statement (.hflag p q) := rfl
theorem spill (tk : Tok) (p q : CReg) (a : AReg) (b : Buf) (o : Bool) : Statement (.spill tk p q a b o) := rfl
theorem fill (tk : Tok) (p q : CReg) (a : AReg) (b : Buf) (o : Bool) : Statement (.fill tk p q a b o) := rfl
theorem datmOpen (tk : Tok) (p q : CReg) (o : Bool) : Statement (.datmOpen tk p q o) := rfl
theorem datmClose (tk : Tok) (p : CReg) (a : AReg) (r : Bool) : Statement (.datmClose tk p a r) := rfl
theorem ceLoop (tk : Tok) (l : Fin 1024) (c : Bool) (n : Fin 8192) : Statement (.ceLoop tk l c n) := rfl
theorem ceTkw (tk : Tok) (f : Engine) : Statement (.ceTkw tk f) := rfl
theorem ceTks (tk : Tok) (f : Engine) : Statement (.ceTks tk f) := rfl
theorem ceSeg (tk : Tok) (cnt : BitVec 24) (crc : BitVec 16) : Statement (.ceSeg tk cnt crc) := rfl
theorem ceSafe (tk : Tok) : Statement (.ceSafe tk) := rfl
theorem ceEnd (tk : Tok) : Statement (.ceEnd tk) := rfl
theorem ceNop (tk : Tok) : Statement (.ceNop tk) := rfl
theorem launch (h : Pkt) (first : Word) (count : Nat) : Statement (.launch h first count) := rfl
theorem wait (h : Pkt) (addr value : Word) (c : WCond) (w32 : Bool) : Statement (.wait h addr value c w32) := rfl
theorem signal (h : Pkt) (addr value : Word) (w32 : Bool) : Statement (.signal h addr value w32) := rfl
theorem write (h : Pkt) (addr : Word) (data : List Word) : Statement (.write h addr data) := rfl
theorem writeSignal (h : Pkt) (addr : Word) (data : List Word) (sigAddr sigVal : Word) : Statement (.writeSignal h addr data sigAddr sigVal) := rfl
theorem transformCompress (h : Pkt) (src dst length : Word) (exp : BitVec 2) (rep : Report) : Statement (.transformCompress h src dst length exp rep) := rfl
theorem transformExpand (h : Pkt) (src dst length : Word) (rep : Report) : Statement (.transformExpand h src dst length rep) := rfl
theorem transformLayout (h : Pkt) (sdesc ddesc map : Word) (rep : Report) : Statement (.transformLayout h sdesc ddesc map rep) := rfl
theorem transformQuant (h : Pkt) (src dst length : Word) (q : QntType) (mode : Rounding) (rep : Report) : Statement (.transformQuant h src dst length q mode rep) := rfl
theorem node (h : Pkt) (counter payload : Word) (succ : List Word) : Statement (.node h counter payload succ) := rfl
theorem mark (h : Pkt) (addr : Word) : Statement (.mark h addr) := rfl
theorem inval (h : Pkt) (ctx : Nat) (va length : Word) : Statement (.inval h ctx va length) := rfl
theorem echo (g : CoreNo) (arg : BitVec 56) : Statement (.echo g arg) := rfl
theorem moduleTime (g : CoreNo) (arg : BitVec 56) : Statement (.moduleTime g arg) := rfl
theorem checkpoint (g : CoreNo) (arg : BitVec 56) : Statement (.checkpoint g arg) := rfl
theorem yield (g : CoreNo) (arg : BitVec 56) : Statement (.yield g arg) := rfl
theorem inServiceCoreCount (g : CoreNo) (arg : BitVec 56) : Statement (.inServiceCoreCount g arg) := rfl
theorem unknownService (g : CoreNo) (code : BitVec 8) (arg : BitVec 56) : Statement (.unknownService g code arg) := rfl
theorem fmodeWrite (g : CoreNo) (fw : Bool) (v : Word) : Statement (.fmodeWrite g fw v) := rfl
theorem mflgWrite (g : CoreNo) (fw : Bool) (v : Word) : Statement (.mflgWrite g fw v) := rfl
theorem mtolWrite (g : CoreNo) (fw : Bool) (v : Word) : Statement (.mtolWrite g fw v) := rfl
theorem mrmodeWrite (g : CoreNo) (fw : Bool) (v : Word) : Statement (.mrmodeWrite g fw v) := rfl
theorem rungWrite (g : CoreNo) (v : Word) : Statement (.rungWrite g v) := rfl
theorem fshareWrite (g : CoreNo) (v : Word) : Statement (.fshareWrite g v) := rfl
theorem wdogWrite (g : CoreNo) (v : Word) : Statement (.wdogWrite g v) := rfl
theorem q6ToVq2Transfer (g : CoreNo) : Statement (.q6ToVq2Transfer g) := rfl
theorem vq3ToQ7Transfer (g : CoreNo) : Statement (.vq3ToQ7Transfer g) := rfl
theorem helperStart (g : CoreNo) : Statement (.helperStart g) := rfl
theorem larkspurStart (g : CoreNo) : Statement (.larkspurStart g) := rfl
theorem copyUnitLand (g : CoreNo) (copy : Nat) (unit : Nat) : Statement (.copyUnitLand g copy unit) := rfl
theorem copyComplete (g : CoreNo) (copy : Nat) : Statement (.copyComplete g copy) := rfl
theorem q2AtomicApply (g : CoreNo) : Statement (.q2AtomicApply g) := rfl
theorem windowApply (task : Nat) (win : Fin 64) : Statement (.windowApply task win) := rfl
theorem wmonSatisfy (g : CoreNo) : Statement (.wmonSatisfy g) := rfl
theorem hollyhockSettle (g : CoreNo) : Statement (.hollyhockSettle g) := rfl
theorem meFeederDecode (g : CoreNo) : Statement (.meFeederDecode g) := rfl
theorem assistEnter (g : CoreNo) : Statement (.assistEnter g) := rfl
theorem assistDone (g : CoreNo) : Statement (.assistDone g) := rfl
theorem trapTake (g : CoreNo) : Statement (.trapTake g) := rfl
theorem firmwareFirstService (g : CoreNo) (answer : Service) : Statement (.firmwareFirstService g answer) := rfl
theorem segMismatchReplay (g : CoreNo) (passed : Bool) (dest : CoreNo) : Statement (.segMismatchReplay g passed dest) := rfl
theorem passEnd (g : CoreNo) : Statement (.passEnd g) := rfl
theorem instancePlace (task : Nat) (g : CoreNo) : Statement (.instancePlace task g) := rfl
theorem shadowSwap (g : CoreNo) : Statement (.shadowSwap g) := rfl
theorem taskKill (task : Nat) (detail : BitVec 8) : Statement (.taskKill task detail) := rfl
theorem preemptRequest (g : CoreNo) : Statement (.preemptRequest g) := rfl
theorem contextSave (g : CoreNo) : Statement (.contextSave g) := rfl
theorem contextRestore (n : Nat) (g : CoreNo) : Statement (.contextRestore n g) := rfl
theorem watchdogExpiry (g : CoreNo) : Statement (.watchdogExpiry g) := rfl
theorem marginTest (u : AgedUnit) (fails again : Bool) : Statement (.marginTest u fails again) := rfl
theorem foxglove (u : AgedUnit) (fails : Bool) : Statement (.foxglove u fails) := rfl
theorem errorDetected (c : ErrorCase) (granule : Nat) : Statement (.errorDetected c granule) := rfl
theorem capacityReduction (ch : Fin 1024) : Statement (.capacityReduction ch) := rfl
theorem channelRetire (ch : Fin 1024) (bad : List Nat) : Statement (.channelRetire ch bad) := rfl
theorem nodeFire (n : Nat) : Statement (.nodeFire n) := rfl
theorem ringPark (r : Fin 256) : Statement (.ringPark r) := rfl
theorem ringRearm (r : Fin 256) : Statement (.ringRearm r) := rfl
theorem ringRestart (r : Fin 256) (ridx : Word) : Statement (.ringRestart r ridx) := rfl
theorem slotGrant (r : Fin 256) : Statement (.slotGrant r) := rfl
theorem ringSliceExpiry (r : Fin 256) : Statement (.ringSliceExpiry r) := rfl
theorem taskDispatch (task : Nat) : Statement (.taskDispatch task) := rfl
theorem taskComplete (task : Nat) : Statement (.taskComplete task) := rfl
theorem flitReceive (l : Fin 16) (f : Flit) : Statement (.flitReceive l f) := rfl
theorem nakReceive (l : Fin 16) (ack : BitVec 16) : Statement (.nakReceive l ack) := rfl
theorem ackTimer (l : Fin 16) : Statement (.ackTimer l) := rfl
theorem replayTimeout (l : Fin 16) : Statement (.replayTimeout l) := rfl
theorem retrainComplete (l : Fin 16) (trained : Bool) : Statement (.retrainComplete l trained) := rfl
theorem laneFailure (l : Fin 16) (lane : Fin 16) : Statement (.laneFailure l lane) := rfl
theorem linkRetireReroute (l : Fin 16) : Statement (.linkRetireReroute l) := rfl
theorem remoteUnitAck (g : CoreNo) (copy : Nat) (unit : Nat) (answer : RemoteAnswer) : Statement (.remoteUnitAck g copy unit answer) := rfl
theorem memberRemove (grp : Fin 64) (slot : Fin 64) : Statement (.memberRemove grp slot) := rfl
theorem collectiveCommit (g : CoreNo) (copy : Nat) (others : List Contribution) (agree : Bool) : Statement (.collectiveCommit g copy others agree) := rfl
theorem hostBar1Write (pa : Nat) (data : List Byte) : Statement (.hostBar1Write pa data) := rfl
theorem hostAtomicop (op : HostAtomic) (w32 : Bool) (pa : Nat) (x cmp : Word) : Statement (.hostAtomicop op w32 pa x cmp) := rfl
theorem powerOn : Statement (.powerOn) := rfl
theorem thermalTrip : Statement (.thermalTrip) := rfl
theorem powerCapSet (watts : Nat) : Statement (.powerCapSet watts) := rfl
theorem d3hotEntry : Statement (.d3hotEntry) := rfl
theorem d3coldEntry : Statement (.d3coldEntry) := rfl
theorem quoteRequest (nonce : BitVec 256) : Statement (.quoteRequest nonce) := rfl
theorem firmwareUpdate (version : Nat) (code : SignedBody) : Statement (.firmwareUpdate version code) := rfl
theorem d3hotExit : Statement (.d3hotExit) := rfl
theorem waitSatisfied (r : Fin 256) : Statement (.waitSatisfied r) := rfl
theorem coreOutOfService (g : CoreNo) : Statement (.coreOutOfService g) := rfl
theorem shadowWithdraw (g : CoreNo) : Statement (.shadowWithdraw g) := rfl

end Sys2Proof.Laws.EncodeWf
end

