-- ==== Sys2Proof/Laws/Run.lean ====
section
/-! SUPPORT. What the shared runs of an instruction answer when nothing stands in its way: one lemma for each of `settle`,
`scuRun`, `engineRunThen`, `vecRun`. -/

namespace Sys2Proof.Machine

open Host

@[simp] theorem need_true : need true = .ok () := rfl
@[simp] theorem check_true (c : Cause) (v : Word) : check true c v = .ok () := rfl
@[simp] theorem asLate_ok {α : Type} (l : Bool) (x : α) : asLate l (.ok x) = .ok x := rfl
@[simp] theorem settle_ok (s t : State) : settle s (.ok t) = .next t := rfl

/-- An SCU word completes: its operands are in order, its own checks hold, its sources are there, its effect and the write of its
destination succeed. -/
theorem scuRun_ok {s u : State} {srcs : List SReg} {dst : Option SReg} {pre : Res Unit}
    {f : State → List Word → Res (State × Word)} {r : State × Word}
    (hops : operandChecks s.cur.core srcs dst = .ok ()) (hpre : pre = .ok ()) (hlink : s.linkCheck s.cur.core = .ok ())
    (hsrc : s.sourcesReady s.cur.core srcs = .ok ())
    (hroom : dst.all ((s.pushLink s.cur.core).hasRoom s.cur.core) = true)
    (heff : f (s.pushLink s.cur.core) (srcs.map (s.readS s.cur.core)) = .ok r)
    (hdst : (r.1.popAll s.cur.core srcs).writeOpt s.cur.core (srcs.any isQueue) dst r.2 = .ok u) :
    scuRun s srcs dst pre f = .next (u.modInst s.cur.core fun i => i.retireScu s.cur s.len) := by
  unfold scuRun
  simp only [hops, hpre, hlink, hsrc, hroom, heff, Bool.or_true, need_true, asLate_ok, bind, Except.bind]
  cases dst with
  | none =>
    simp only [State.writeOpt, Except.ok.injEq] at hdst
    subst hdst; rfl
  | some d =>
    simp only [State.writeOpt] at hdst
    simp only [hdst]; rfl

/-- What `scuDone` answers, taken apart. -/
theorem scuDone_ok {s t u : State} {srcs : List SReg} {dst : Option SReg} {v : Word} (h : s.scuDone t srcs dst v = .ok u) :
    ∃ w, (t.popAll s.cur.core srcs).writeOpt s.cur.core (srcs.any isQueue) dst v = .ok w ∧
      u = w.modInst s.cur.core fun i => i.retireScu s.cur s.len := by
  unfold State.scuDone at h
  cases hw : (t.popAll s.cur.core srcs).writeOpt s.cur.core (srcs.any isQueue) dst v with
  | error e => rw [hw] at h; cases h
  | ok w => rw [hw] at h; cases h; exact ⟨w, rfl, rfl⟩

/-- An SCU word whose operands are ready completes with its effect. -/
theorem scuRun_done {s u : State} {srcs : List SReg} {dst : Option SReg} {pre : Res Unit}
    {f : State → List Word → Res (State × Word)} {r : State × Word} (h : s.scuReady srcs dst) (hpre : pre = .ok ())
    (heff : f (s.pushLink s.cur.core) (srcs.map (s.readS s.cur.core)) = .ok r)
    (hdst : s.scuDone r.1 srcs dst r.2 = .ok u) : scuRun s srcs dst pre f = .next u := by
  obtain ⟨w, hw, rfl⟩ := scuDone_ok hdst
  exact scuRun_ok h.1 hpre h.2.1 h.2.2.1 h.2.2.2 heff hw

/-- An SCU word whose operands are ready and whose effect traps, traps. -/
theorem scuRun_trap {s : State} {srcs : List SReg} {dst : Option SReg} {pre : Res Unit}
    {f : State → List Word → Res (State × Word)} {c : Cause} {v : Word} (h : s.scuReady srcs dst) (hpre : pre = .ok ())
    (heff : f (s.pushLink s.cur.core) (srcs.map (s.readS s.cur.core)) = .error (.trap c v)) :
    scuRun s srcs dst pre f = .next (s.raise c v) := by
  unfold scuRun
  simp only [h.1, hpre, h.2.1, h.2.2.1, h.2.2.2, heff, Bool.or_true, need_true, bind, Except.bind]
  cases srcs.any isQueue <;> rfl

/-- A mapped address passes the checks of a scalar access. -/
theorem mapped_scalarAddr {s : State} {g : CoreNo} {ea : Word} {n : Nat} {need : Need} {pa : Nat} (h : s.mapped g ea n need pa) :
    s.scalarAddr g ea n need = .ok pa := by
  obtain ⟨h1, h2, h3⟩ := h
  unfold State.scalarAddr
  simp only [h1, h2, ne_eq, not_true_eq_false, if_false]
  rcases h3 with rfl | h3
  · rfl
  · simp [h3]

/-- The effective address of a scalar access, in integers. -/
theorem add_sext14 (x : Word) (i : BitVec 14) : x + sext14 i = effective x i := by
  rw [← BitVec.toInt_inj]; simp [effective, sext14, BitVec.toInt_signExtend_of_le]

/-- n bytes make a number below 2^(8n). -/
theorem leNat_lt (l : List Byte) : leNat l < 2 ^ (8 * l.length) := by
  induction l with
  | nil => simp [leNat]
  | cons b t ih =>
    have := b.isLt
    simp only [leNat, List.length_cons]
    rw [show 2 ^ (8 * (t.length + 1)) = 256 * 2 ^ (8 * t.length) by rw [Nat.mul_add, pow_add]; ring]
    omega

@[simp] theorem read_length (m : Bytes) (a n : Nat) : (m.read a n).length = n := by simp [Bytes.read]

@[simp] theorem leBytes_length (n v : Nat) : (leBytes n v).length = n := by
  induction n generalizing v with
  | zero => rfl
  | succ k ih => simp [leBytes, ih]

/-- A word of the VE, ME or CE completes when its effect succeeds, its tokens are there and it closes no broken segment. -/
theorem engineRunThen_ok {s t : State} {tk : Tok} {pops pushes : List (Fin 16)} {close : Bool} {f : Res State}
    {post : State → State}
    (hf : f = .ok t)
    (htok : (s.inst s.cur.core).tokensReady ((if tk.tw then [defaultIn s.cur.src.engine] else []) ++ pops)
      ((if tk.ts then [defaultOut s.cur.src.engine] else []) ++ pushes) = true)
    (hseg : (close && (((s.inst s.cur.core).stream s.cur.src.engine).count s.cur.word).mismatch) = false) :
    engineRunThen s tk pops pushes close f post = .next (post (
      let u := t.retireWord ((if tk.tw then [defaultIn s.cur.src.engine] else []) ++ pops)
        ((if tk.ts then [defaultOut s.cur.src.engine] else []) ++ pushes)
      if close then u.modInst s.cur.core fun i => i.modStream s.cur.src.engine fun x => { x with seg := none } else u)) := by
  subst hf
  unfold engineRunThen
  simp only [htok, hseg, Bool.false_eq_true, if_false, if_true]

/-- A vector word completes when its preparation gives an effect, no enabled exception arises and its tokens are there. -/
theorem vecRun_ok {s : State} {tk : Tok} {srcs : List VReg} {dst : Option VReg} {late : Bool} {pre : Res Unit}
    {f : Inst → List Lanes → Lanes → Res VecEffect} {e : VecEffect}
    (hf : s.vecPrep srcs dst late pre f = .ok e)
    (hfpx : ∀ fl, e.flags = some fl → fpxOf (s.inst s.cur.core).sys.fmode fl = none)
    (htok : s.tokReady tk = true) :
    vecRun s tk srcs dst late pre f = .next ((s.vecCommit srcs dst e).retireWord
      (if tk.tw then [defaultIn s.cur.src.engine] else []) (if tk.ts then [defaultOut s.cur.src.engine] else [])) := by
  have run : engineRun s tk [] [] false (.ok (s.vecCommit srcs dst e)) = .next ((s.vecCommit srcs dst e).retireWord
      (if tk.tw then [defaultIn s.cur.src.engine] else []) (if tk.ts then [defaultOut s.cur.src.engine] else [])) := by
    unfold engineRun
    rw [engineRunThen_ok rfl (by simpa [State.tokReady] using htok) (by simp)]
    simp
  unfold vecRun
  simp only [hf]
  cases h : e.flags with
  | none => exact run
  | some fl => simp only [hfpx fl h]; exact run

end Sys2Proof.Machine
end

