-- ==== Sys2Proof/Machine/Stages.lean ====
section
/-! DEFINITION. The stages of Hollyhock and its time (07 R208-R210, R225, R226, R490): which instances of a predicate each stage
settles, and between how many cycles after its issue an instruction retires. No result depends on it (07 R208), so `step` does
not consult it (LOG 25). -/

namespace Sys2Proof.Machine

/-- An FP64 value and whether some operation behind it overflowed or gave a subnormal or tiny result (07 R226). -/
abbrev Stg := Nat × Bool

/-- An FP64 result with its mark. -/
def stg (r : Nat × Flags) (bad : Bool) : Stg :=
  let sub := match decodeF fmtF64 r.1 with
    | .fin _ m e => m != 0 && decide (m < 2 ^ 52) && e == fmtF64.lowUlp
    | _ => false
  (r.1, bad || sub || (r.2 &&& (flagOF ||| flagUF)) != 0)

/-- The FP64 value with its sign inverted. -/
def stgNeg (a : Stg) : Stg := ((a.1 + 2 ^ 63) % 2 ^ 64, a.2)
/-- An FP64 sum in RNE. -/
def stgAdd (a b : Stg) : Stg := stg (fAdd fmtF64 .rne (decodeF fmtF64 a.1) (decodeF fmtF64 b.1)) (a.2 || b.2)
/-- An FP64 difference. -/
def stgSub (a b : Stg) : Stg := stgAdd a (stgNeg b)
/-- An FP64 product. -/
def stgMul (a b : Stg) : Stg := stg (fMul fmtF64 .rne (decodeF fmtF64 a.1) (decodeF fmtF64 b.1)) (a.2 || b.2)
/-- FMA(a, b, c). -/
def stgFma (a b c : Stg) : Stg :=
  stg (fFma fmtF64 .rne false (decodeF fmtF64 a.1) (decodeF fmtF64 b.1) (decodeF fmtF64 c.1)) (a.2 || b.2 || c.2)
/-- The absolute value. -/
def stgAbs (a : Stg) : Stg := (a.1 % 2 ^ 63, a.2)

/-- A double-double value (07 R490). -/
abbrev DD := Stg × Stg

/-- TwoSum (07 R490). -/
def twoSum (a b : Stg) : DD :=
  let s := stgAdd a b
  let bb := stgSub s a
  (s, stgAdd (stgSub a (stgSub s bb)) (stgSub b bb))

/-- FastTwoSum (07 R490). -/
def fastTwoSum (a b : Stg) : DD :=
  let s := stgAdd a b
  (s, stgSub b (stgSub s a))

/-- TwoProd (07 R490). -/
def twoProd (a b : Stg) : DD :=
  let p := stgMul a b
  (p, stgFma a b (stgNeg p))

/-- DDAdd (07 R490). -/
def ddAdd (x y : DD) : DD :=
  let t := twoSum x.1 y.1
  fastTwoSum t.1 (stgAdd t.2 (stgAdd x.2 y.2))

/-- DDMul (07 R490). -/
def ddMul (x y : DD) : DD :=
  let t := twoProd x.1 y.1
  fastTwoSum t.1 (stgAdd t.2 (stgAdd (stgMul x.1 y.2) (stgMul x.2 y.1)))

/-- An arithmetic in which the expression of 07 R225 is evaluated: the difference of coordinates, sum, difference, product. -/
structure Arith (α : Type) where
  diff : Stg → Stg → α
  add : α → α → α
  sub : α → α → α
  mul : α → α → α

/-- FP64 in RNE: D0. -/
def arithS0 : Arith Stg := ⟨stgSub, stgAdd, stgSub, stgMul⟩
/-- The companion P0: absolute values, and sums for differences. -/
def arithP0 : Arith Stg := ⟨fun a b => stgAbs (stgSub a b), stgAdd, stgAdd, stgMul⟩
/-- Double-double: D1. -/
def arithS1 : Arith DD :=
  ⟨fun a b => twoSum a (stgNeg b), ddAdd, fun x y => ddAdd x (stgNeg y.1, stgNeg y.2), ddMul⟩

/-- The terms of an expansion summed in row order, every second one subtracted. -/
def sumTerms {α : Type} (A : Arith α) (acc : α) (neg : Bool) : List α → α
  | [] => acc
  | t :: rest => sumTerms A (if neg then A.sub acc t else A.add acc t) (!neg) rest

/-- The expansion along the first column; n + 1 rows, a single entry at n = 0 (07 R225). -/
def evalDet {α : Type} (A : Arith α) (z : α) : Nat → List (List α) → α
  | 0, rows => (rows.headD []).headD z
  | n + 1, rows =>
    let ts := (List.range rows.length).map fun i =>
      A.mul ((rows.getD i []).headD z) (evalDet A z n ((dropAt i rows).map fun r => r.tail))
    sumTerms A (ts.headD z) true ts.tail

/-- The rows of a determinant: differences from a point, and with `lift` the sum of their squares in order. -/
def evalRows {α : Type} (A : Arith α) (z : α) (lift : Bool) (ps : List (List Stg)) (base : List Stg) : List (List α) :=
  ps.map fun p =>
    let d := p.zipWith A.diff base
    if lift then
      let sq := d.map fun x => A.mul x x
      d ++ [sq.tail.foldl A.add (sq.headD z)]
    else d

/-- The determinants that an instance evaluates, each as rows of points, the base point and whether they are lifted. -/
def detsOf (i : Instr) (ps : List (List Stg)) : List (List (List Stg) × List Stg × Bool) :=
  let at' := fun n => ps.getD n []
  let o := fun p q r => ([at' q, at' r], at' p, false)
  match i with
  | .vorient2 _ _ _ _ _ _ _ _ => [o 0 1 2]
  | .vorient3 _ _ _ _ _ _ _ _ => [(ps.take 3, at' 3, false)]
  | .vincirc _ _ _ _ _ _ _ _ => [(ps.take 3, at' 3, true)]
  | .vinsph _ _ _ _ _ _ _ _ => [(ps.take 4, at' 4, true)]
  | .vsegx _ _ _ _ _ _ _ _ => [o 0 1 2, o 0 1 3, o 2 3 0, o 2 3 1]
  | _ => []

/-- c0 as n / 2^106 and c1 (07 Table 7.6). -/
def stageConsts : Instr → Nat × Nat
  | .vorient3 _ _ _ _ _ _ _ _ => (7 * 2 ^ 53 + 56, 32)
  | .vincirc _ _ _ _ _ _ _ _ => (10 * 2 ^ 53 + 96, 64)
  | .vinsph _ _ _ _ _ _ _ _ => (16 * 2 ^ 53 + 224, 256)
  | _ => (3 * 2 ^ 53 + 16, 8)

/-- |x| > c × p, the product rounded up to FP64 (07 R226). -/
def exceeds (x p : Nat) (m : Nat) (e : Int) : Bool :=
  let c := (fMul fmtF64 .rup (.fin false m e) (decodeF fmtF64 p)).1
  compareNum (decodeF fmtF64 (x % 2 ^ 63)) (decodeF fmtF64 c) == some .gt

/-- Whether S0 settles a determinant, and whether S1 does (07 R226). -/
def stageSettles (i : Instr) (r : List (List Stg) × List Stg × Bool) : Bool × Bool :=
  let z : Stg := (0, false)
  let n := r.1.length - 1
  let d0 := evalDet arithS0 z n (evalRows arithS0 z r.2.2 r.1 r.2.1)
  let p0 := evalDet arithP0 z n (evalRows arithP0 z r.2.2 r.1 r.2.1)
  let d1 := evalDet arithS1 (z, z) n (evalRows arithS1 (z, z) r.2.2 r.1 r.2.1)
  let c := stageConsts i
  (!d0.2 && !p0.2 && exceeds d0.1 p0.1 c.1 (-106), !d1.1.2 && !d1.2.2 && exceeds d1.1.1 p0.1 c.2 (-106))

/-- FP64 encoding of a coordinate: FP32 widens exactly (07 R217). -/
def coord64 (x : Num) : Stg := ((convertF fmtF64 .rne x).1, false)

/-- Points and dimension of a predicate (07 Table 7.6). -/
def shapeOf : Instr → Option (HFmt × Nat × Nat)
  | .vorient2 _ _ _ _ _ _ f _ => some (f, 2, 3)
  | .vorient3 _ _ _ _ _ _ f _ => some (f, 3, 4)
  | .vincirc _ _ _ _ _ _ f _ => some (f, 2, 4)
  | .vinsph _ _ _ _ _ _ f _ => some (f, 3, 5)
  | .vsegx _ _ _ _ _ _ f _ => some (f, 2, 4)
  | _ => none

/-- In non-finite mode 0 an active non-finite instance makes a predicate trap at S0, and none is escalated (07 R223). -/
def InFlight.trapsAtOnce (x : InFlight) (f : HFmt) (d np : Nat) : Bool :=
  (match x.settled with
    | some y => y.force
    | none => false)
    && (actives (elemH f) x.mask).any fun e => !(x.coords f (d * np) e).all Num.isFin

/-- The stage, 0 to 2, that settles instance e of a predicate in flight (07 R223, R226). -/
def InFlight.stageOf (x : InFlight) (f : HFmt) (d np e : Nat) : Nat :=
  let cs := x.coords f (d * np) e
  if !cs.all Num.isFin ∨ x.trapsAtOnce f d np then 0
  else
    let ps := (List.range np).map fun p => (List.range d).map fun k => coord64 (cs.getD (d * p + k) (.fin false 0 0))
    let rs := (detsOf x.instr ps).map (stageSettles x.instr)
    if rs.all (·.1) then 0 else if rs.all fun r => r.1 || r.2 then 1 else 2

/-- S0, S1 per batch of 64 and S2 per batch of 8, in cycles (07 Table 7.2). -/
def latencies : Instr → Nat × Nat × Nat
  | .vexp _ _ _ _ .f32 _ => (12, 20, 60)
  | .vexp _ _ _ _ .f64 _ => (20, 36, 140)
  | .vlog _ _ _ _ .f32 _ => (14, 22, 64)
  | .vlog _ _ _ _ .f64 _ => (22, 40, 150)
  | .verf _ _ _ _ .f32 _ => (18, 28, 90)
  | .verf _ _ _ _ .f64 _ => (28, 48, 210)
  | .vorient2 _ _ _ _ _ _ f _ => (if f = .f32 then 16 else 8, 16, 40)
  | .vorient3 _ _ _ _ _ _ f _ => (if f = .f32 then 28 else 14, 30, 120)
  | .vincirc _ _ _ _ _ _ f _ => (if f = .f32 then 28 else 14, 32, 130)
  | .vinsph _ _ _ _ _ _ f _ => (if f = .f32 then 48 else 24, 60, 360)
  | .vsegx _ _ _ _ _ _ f _ => (if f = .f32 then 24 else 12, 40, 150)
  | _ => (0, 0, 0)

/-- The least and the greatest number of cycles from issue to retirement or trap (07 R209, R210, R223). For a transcendental every
active element may go through every stage. -/
def InFlight.cycles (x : InFlight) : Nat × Nat :=
  let l := latencies x.instr
  let bound := fun n1 n2 => l.1 + (n1 + 63) / 64 * l.2.1 + (n2 + 7) / 8 * l.2.2
  match shapeOf x.instr with
  | some (f, d, np) =>
    let st := (actives (elemH f) x.mask).map (x.stageOf f d np)
    (l.1, bound (st.filter fun n => decide (1 ≤ n)).length (st.filter fun n => n == 2).length)
  | none =>
    match x.settled with
    | some y => (l.1, bound (actives y.w x.mask).length (actives y.w x.mask).length)
    | none => (l.1, l.1)

end Sys2Proof.Machine
end

