-- ==== Sys2Proof/Tests/Slice0.lean ====
section
/-! SUPPORT. The tests of the model: the ill-formed terms its checks refuse, the decoding of a word of every row written out from the
spec's encodings, worked examples of the spec run by one step, and for every statement a witness that meets its hypotheses. -/

namespace Sys2Proof.Tests

open Sys2Proof Sys2Proof.Machine Host

set_option Elab.async false

/-- A result that is none of the stops. -/
theorem ok_of {ε α : Type} {r : Except ε α} (h : r.toBool = true) : ∃ t, r = .ok t := by
  cases r with
  | error e => cases h
  | ok t => exact ⟨t, rfl⟩

-- Small states.

/-- A launched task of one instance in context 1. -/
def task0 : Task where
  id := 0
  ctx := 1
  ring := none
  node := none
  work := .image ⟨false, 0, 8, [], 0, 64, 64, 64, [], [], [], [], [], [], []⟩
  data := 0
  sigAddr := 0
  sigVal := 0
  status := 0
  ranges := []
  kind := 0
  replay := false
  phase := .dispatched
  deps := []
  next := 1
  returned := []
  retired := []
  windows := []
  spills := []

/-- An instance on core 0, and one page of 1 GiB at address 0 in contexts 0 and 1, readable and writable (16 Table 16.1, R414): the
root at 0x1000 names the table at 0x2000, whose entry 0 is a leaf. -/
def base : State :=
  ({ State.reset with
    mem := [(0x1000, 0x01), (0x1001, 0x20), (0x2000, 0x0F)], roots := [(0, 0x1000), (1, 0x1000)], tasks := [task0] } : State).modCore 0
    fun c => { c with occupant := some ⟨0, 0⟩ }

/-- The base state with another instance-owned part. -/
def onInst (f : Inst → Inst) : State := base.modInst 0 f

/-- The base state with values in s1, s2 and s3. -/
def regs (x y z : Word) : State := onInst fun i => { i with s := ((i.s.set 1 x).set 2 y).set 3 z }

/-- The executing word of a state comes from another engine. -/
def from' (src : Source) (s : State) : State := { s with cur := { s.cur with src := src } }

/-- The executing word of a state stands at another address. -/
def atPc (pc : Nat) (s : State) : State := { s with cur := { s.cur with pc := pc } }

/-- A branch that awaits its slot: taken to address 64, with a link into s5. -/
def branch64 : Branch := ⟨0, 0xA0000010, 64, true, some (5, 8), []⟩

/-- An open segment of one word with a wrong signature, on every stream. -/
def broken : Segment := ⟨1, 1, 1, 0⟩

-- The hypotheses of the statements are met together, one theorem for each statement that has some. `r.toBool = true` says that r is
-- `.ok t` for some t (`ok_of`).

/-- Bytes and addresses at the ends of the field ranges for the scalar accesses: the last halfword below 0x1002. -/
def loads : State := regs 0x1002 0xFFFFFFFFFFFFFFFF 0

theorem witness_ScalarResults :
    scalarRule (.add 3 1 2) = some ([1, 2], 3, fun _ x y => BitVec.ofNat 64 (x.toNat + y.toNat)) ∧
    (regs 5 7 0).scuReady [1, 2] (some 3) ∧ ((regs 5 7 0).scuDone ((regs 5 7 0).pushLink 0) [1, 2] (some 3) 12).toBool = true :=
  ⟨rfl, by unfold State.scuReady; decide +kernel, by decide +kernel⟩

theorem witness_WriteDestination : (0 : SReg).val < 48 ∧ (47 : SReg).val < 48 ∧ queueNo 54 = some 6 ∧ (6 : Fin 16) ≠ 2 ∧
    pushCheck (base.inst 0) 6 9 = .ok () ∧ base.hasRoom 0 54 = true := by decide +kernel

theorem witness_ScalarLoads : loadRule (.ldh 3 1 0x3FFE) = some (3, 1, 0x3FFE, 2, true) ∧
    loads.scuReady [1] (some 3) ∧ (loads.pushLink 0).mapped 0 (effective (loads.readS 0 1) 0x3FFE) 2 .read 0x1000 ∧
    (loads.scuDone ((loads.pushLink 0).noteAccess true 0 0x1000 0x1000 2 2 false) [1] (some 3) 0x2001).toBool = true := by
  unfold State.scuReady State.mapped; decide +kernel

theorem witness_ScalarStores : storeRule (.std 2 1 0x3FFE) = some (2, 1, 0x3FFE, 8) ∧
    loads.scuReady [1, 2] none ∧ (loads.pushLink 0).mapped 0 (effective (loads.readS 0 1) 0x3FFE) 8 .write 0x1000 ∧
    loads.mapped 0 (effective (loads.readS 0 1) 0x3FFE) 8 .write 0x1000 ∧
    (loads.scuDone ((((loads.pushLink 0).physWrite 0x1000 (leBytes 8 (2 ^ 64 - 1))).noteAccess true 0 0x1000 0x1000 8 2 true).sink 0)
      [1, 2] none 0).toBool = true := by
  unfold State.scuReady State.mapped; decide +kernel

/-- The granule at 0x3000 poisoned, with that address in s3. -/
def poisoned : State := (regs 0 0 0x3000).poisonGranule 0x180

theorem witness_ScalarAccessTraps :
    (loadRule (.ldh 3 1 1) = some (3, 1, 1, 2, true) ∧ loads.scuReady [1] (some 3) ∧ (effective (loads.readS 0 1) 1).toNat % 2 ≠ 0) ∧
    (storeRule (.stb 1 2 0) = some (1, 2, 0, 1) ∧ loads.scuReady [2, 1] none ∧
      (effective (loads.readS 0 2) 0).toNat % 1 = 0 ∧
      loads.translate (some 0) (loads.ctxOf 0) (effective (loads.readS 0 2) 0).toNat .write = .error .pageW ∧
      (loads.pushLink 0).translate (some 0) (loads.ctxOf 0) (effective (loads.readS 0 2) 0).toNat .write = .error .pageW) ∧
    (loadRule (.ldb 4 3 0) = some (4, 3, 0, 1, true) ∧ poisoned.scuReady [3] (some 4) ∧
      (poisoned.pushLink 0).translate (some 0) 1 (effective (poisoned.readS 0 3) 0).toNat .read = .ok 0x3000 ∧
      (poisoned.pushLink 0).poisoned 0x3000 1 = true) := by
  unfold State.scuReady; and_intros <;> decide +kernel

/-- The state in the slot of that branch. -/
def inSlot : State := atPc 4 (onInst fun i => { i with slot := some branch64, scu := { i.scu with pc := 4 } })

theorem witness_BranchIssues :
    branchRule (.beq 1 1 0x1FFF) = some ([1, 1], none, fun (pc : Nat) (_ : Word) => pc + 4 * (0x1FFF : BitVec 14).toInt, fun (x y : Word) => x.toNat == y.toNat) ∧
    branchRule (.jalr 60 1) = some ([1], some 60, fun (_ : Nat) (x : Word) => (x.toNat : Int), fun _ _ => true) ∧ (base.inst 0).slot = none ∧
    operandChecks 0 [1, 1] none = .ok () ∧ base.sourcesReady 0 [1, 1] = .ok () ∧
    ((0 : Nat) + 4 * (0x1FFF : BitVec 14).toInt) % 4 = 0 ∧ ((0 : Nat) + 4 * (0x1FFF : BitVec 14).toInt) < 65536 ∧ (base.writeOpt 0 false none 8).toBool = true ∧
    ((inSlot.inst 0).slot.isSome = true ∧ inSlot.len = 4 ∧ slotWord (.j 1) = true ∧ slotWord .eret = true) :=
  ⟨rfl, rfl, by decide +kernel⟩

/-- The same slot of a branch that is not taken and has no link. -/
def notTaken : Branch := ⟨0, 0xA0000010, 64, false, none, []⟩

theorem witness_SlotRetires : (inSlot.inst 0).slot = some branch64 ∧ (inSlot.inst 0).handler = false ∧ branch64.taken = true ∧
    branch64.link = some (5, 8) ∧ (0 : Nat) < (47 : Fin 48).val ∧
    ((onInst fun i => { i with slot := some notTaken }).inst 0).slot = some notTaken ∧
    notTaken.taken = false ∧ (∀ f ∈ (base.inst 0).scu.loops, f.last ≠ 4) ∧ notTaken.link = none := by decide +kernel

/-- A value that FMODE accepts in s1, and one that it does not in s2. -/
def modes : State := regs 4 5 0

/-- The same for a word of the firmware context. -/
def fwModes : State := { modes with cur := { modes.cur with fw := true } }

theorem witness_SystemRegisters_firmware : fwModes.scuReady [1] none ∧ fwModes.cur.fw = true ∧ (0x043 : Fin 16384) ≠ 0x001 ∧
    0x043 ∈ userWritable ++ firmwareWritable ∧ fwValueOk 0x043 (fwModes.readS 0 1) = true ∧
    (fwModes.scuDone ((fwModes.pushLink 0).modInst 0 fun j => j.modSys fun y => y.fwWrite 0x043 4) [1] none 0).toBool = true ∧
    fwValueOk 0x043 (fwModes.readS 0 2) = false ∧ 0x000 ∉ userWritable ++ firmwareWritable := by
  unfold State.scuReady; decide +kernel

theorem witness_SystemRegisters : modes.cur.fw = false ∧ modes.scuReady [] (some 3) ∧ modes.scuReady [1] none ∧ modes.csr 0 0x032 = some 2930 ∧
    (modes.scuDone (modes.pushLink 0) [] (some 3) 2930).toBool = true ∧ modes.csr 0 0x044 = none ∧
    (userWritable.contains 0x043 = true ∧ valueOk 0x043 (modes.readS 0 1) = true ∧ valueOk 0x043 (modes.readS 0 2) = false) ∧
    (modes.scuDone ((modes.pushLink 0).modInst 0 fun j => j.modSys fun y => y.write 0x043 4) [1] none 0).toBool = true ∧
    firmwareWritable.contains 0x001 = true ∧ userWritable.contains 0x000 = false ∧ firmwareWritable.contains 0x000 = false := by
  unfold State.scuReady; decide +kernel

theorem witness_MonitorWaits : (loads.inst 0).slot = none ∧ operandChecks 0 [3, 0] (some 4) = .ok () ∧
    loads.sourcesReady 0 [3, 0] = .ok () ∧ loads.hasRoom 0 4 = true ∧ (loads.scalarLoad 0 0 4).toBool = true ∧
    (loads.scalarLoad 0 0 4).toOption.map (·.2) = some 0 ∧ monitorHolds .eq true 0 0 = true ∧ monitorHolds .ne true 0 0 = false ∧
    (((loads.scalarLoad 0 0 4).toOption.map (·.1)).map fun t => ((t.popAll 0 [3, 0]).writeDst 0 true 4 0).toBool) = some true := by
  decide +kernel

theorem witness_AtomicOperation : (regs 0x1000 1 0).scuReady [1, 2] (some 3) ∧
    ((regs 0x1000 1 0).pushLink 0).mapped 0 0x1000 8 .both 0x1000 ∧ (regs 0x1000 1 0).mapped 0 0x1000 8 .both 0x1000 ∧
    ((regs 0x1000 1 0).scuDone (((((regs 0x1000 1 0).pushLink 0).physWrite 0x1000 (leBytes 8 (atomicNew .add 8 0x2001 1))).noteAccess
      false 0 0x1000 0x1000 8 2 true).sink 0) [1, 2] (some 3) (atomicOld .add 8 0x2001)).toBool = true := by
  unfold State.scuReady State.mapped; decide +kernel

/-- The window of 14's example: P on core 1, Q on core 2, X at 0x7000. -/
def windowed : State :=
  let u := fun (core lane ord : Nat) (x : Word) => (⟨0, core, lane, 0, ord, 0x7000, .fadd, true, x, false⟩ : Update)
  let j := fun n core : Nat => (⟨n, 0, core, 1, true, none⟩ : Joiner)
  { base with
    mem := base.mem ++ [(0x7002, 0x80), (0x7003, 0x3F)]
    tasks := [{ task0 with windows := [⟨6, 2, false, [j 0 1, j 1 2],
      [u 2 0 1 0x33800000, u 1 1 0 0xBF800000, u 1 0 0 0x33800000]⟩] }] }

theorem witness_AtomicOperation_window : (windowed.task 0).isSome = true ∧
    ((windowed.task 0).bind fun t => t.window 6).isSome = true ∧
    ((windowed.task 0).bind fun t => t.window 6).all (fun w => windowed.applying 0 w &&
      w.updates.all fun u => u.pa % (if u.w32 then 4 else 8) == 0) = true ∧
    0x7000 % 8 = 0 ∧ windowed.poisoned 0x7000 8 = false := by decide +kernel

/-- Address, new value and expected value of a cas: in `swaps` the expected value stands in memory. -/
def swaps : State := regs 0x1000 9 0x2001

theorem witness_CompareAndSwap : (3 : SReg).val < 48 ∧ swaps.scuReady [1, 2, 3] (some 3) ∧
    (swaps.pushLink 0).mapped 0 0x1000 8 .both 0x1000 ∧ swaps.mapped 0 0x1000 8 .both 0x1000 ∧
    leNat ((swaps.pushLink 0).mem.read 0x1000 8) = (swaps.readS 0 3).toNat % 2 ^ 64 ∧
    (swaps.scuDone ((((swaps.pushLink 0).physWrite 0x1000 (leBytes 8 9)).noteAccess false 0 0x1000 0x1000 8 2 true).sink 0) [1, 2, 3]
      (some 3) (extended false 8 0x2001)).toBool = true ∧
    48 ≤ (63 : SReg).val ∧ operandChecks 0 [1, 2, 54] (some 54) = .error (.trap .queueProtocol 54) ∧
    operandChecks 1 [1, 2, 61] (some 61) = .ok () := by
  unfold State.scuReady State.mapped; decide +kernel

/-- One token from the VE and eight to the CE. -/
def tokens : State := onInst fun i => { i with tokens := (i.tokens.set (fifo .ve .scu) 1).set (fifo .scu .ce) 8 }

theorem witness_FenceAndTokens : (base.inst 0).remotePending = false ∧ base.othersRemote 0 = false ∧
    ((onInst fun i => { i with qw := i.qw.set 0 [0x04000000] }).inst 0).remotePending = true ∧ 0 < (tokens.inst 0).tokens[fifo .ve .scu] ∧
    (tokens.inst 0).tokens[fifo .ce .scu] = 0 ∧ (tokens.inst 0).tokens[fifo .scu .me] < 8 ∧
    8 ≤ (tokens.inst 0).tokens[fifo .scu .ce] := by decide +kernel

/-- A MARK packet of 64 bytes at 0x4000, and ring 8 of context 1 at 0x6000 with its state block at 0x5000 and WIDX in it. -/
def spawner (widx : Byte) : State :=
  { regs 0x4000 8 0 with
    mem := [(0x1000, 0x01), (0x1001, 0x20), (0x2000, 0x0F), (0x4000, 8), (0x4002, 1)] ++ cellsFrom 0x5001 [widx]
    rings := State.reset.rings.set 8 ⟨.ctx 1, 0x6000, 12, 0x5000, 0, .idle, 0, 0, false, false⟩ }

/-- The same when the packet has been read through the L1D. -/
def spawning (widx : Byte) : State := (spawner widx).noteSpan true 0 0x4000 64 2 false

theorem witness_SpawnPublishes : (spawner 0x10).scuReady [1, 2] (some 3) ∧ ((spawner 0x10).inst 0).slot = none ∧
    (0x4000 : Nat) % 64 = 0 ∧ ((spawner 0x10).packetImage 0 0x4000).toBool = true ∧
    ((spawner 0x10).packetImage 0 0x4000).toOption.map (fun bs => (bs.length, headerValid 8 bs)) = some (64, true) ∧
    (spawning 0x10).rings[(8 : Fin 256)].grant = .ctx ((spawning 0x10).ctxOf 0) ∧
    ((spawning 0x10).readV (some 0) 1 0x5000 8).toOption.map leNat = some 4096 ∧
    ((spawning 0x10).readV (some 0) 1 0x5008 8).toOption.map leNat = some 0 ∧
    (spawning 0x10).rings[(8 : Fin 256)].size < 4096 + 64 - 0 ∧
    ((spawner 0x10).scuDone (spawning 0x10) [1, 2] (some 3) (BitVec.allOnes 64)).toBool = true ∧
    ((spawning 0).readV (some 0) 1 0x5000 8).toOption.map leNat = some 0 ∧ 0 + 64 - 0 ≤ (spawning 0).rings[(8 : Fin 256)].size ∧
    (do
      let bs ← (spawner 0).packetImage 0 0x4000
      let s1 ← (spawning 0).ringWrite 0 (spawning 0).rings[(8 : Fin 256)] 8 (bs.drop 8)
      let s2 ← s1.ringWrite 0 (spawning 0).rings[(8 : Fin 256)] 0 (leBytes 4 (leNat (bs.take 4)) ++ leBytes 4 0)
      let s3 ← memRes (s2.writeV (some 0) 1 0x5000 (leBytes 8 64))
      (spawner 0).scuDone ((s3.noteSpan false 0 0x5000 8 2 true).sink 0) [1, 2] (some 3) 0 : Res State).toBool = true := by
  unfold State.scuReady; and_intros <;> decide +kernel

/-- TVEC names a handler at address 0x100. -/
def vectored : State := onInst fun i => { i with sys := { i.sys with tvec := 0x101 } }

/-- The same core in its handler, for a trap of engine e at address 64, with SKIP set or not. -/
def handling (e : Nat) (skip : Bool) : State := onInst fun i =>
  { i with sys := { i.sys with tvec := 0x101, tpc := 64, tcause := 1, tstat := BitVec.ofNat 64 (128 + 8 * e + 256 * skip.toNat) } }

/-- A broken segment on the scalar stream. -/
def brokenScu : State := onInst fun i => { i with scu := { i.scu with seg := some broken } }

/-- A q2 assembly begun. -/
def assembling : State := onInst fun i => { i with asm := ⟨1, 0, 0⟩ }

theorem witness_ScalarStreamControl : (base.inst 0).slot = none ∧ operandChecks 0 [1] none = .ok () ∧
    base.sourcesReady 0 [1] = .ok () ∧ loopOk .scu (base.inst 0).scu 0 16383 = true ∧ (base.inst 0).handler = false ∧
    (base.inst 0).scu.mismatch = false ∧ (brokenScu.inst 0).scu.mismatch = true ∧ (brokenScu.inst 0).handler = false ∧
    ((onInst fun i => { i with scu := { i.scu with held := true } }).inst 0).scu.held = true ∧ ((handling 0 false).inst 0).handler = true ∧
    (base.inst 0).asm.pos = 0 ∧ ((base.inst 0).scu.count 0).mismatch = false ∧ (assembling.inst 0).asm.pos ≠ 0 := by decide +kernel

theorem witness_TrapEntry : (vectored.cur.src = .scu ∧ (from' .ve vectored).cur.src = .ve) ∧ vectored.cur.fw = false ∧ (vectored.inst 0).boundary = true ∧
    (vectored.inst 0).pending = none ∧ (vectored.inst 0).handler = false ∧
    (vectored.inst 0).sys.tvec.getLsbD 0 = true ∧ Cause.user.route = .user := by decide +kernel

theorem witness_UnhandledTrapKills : base.cur.fw = false ∧ base.cur.src = .scu ∧ (base.inst 0).slot = none ∧
    base.cores[(0 : CoreNo)].occupant = some ⟨0, 0⟩ ∧
    ((handling 0 false).inst 0).handler = true ∧ ((base.inst 0).boundary = true ∧ (base.inst 0).pending = none ∧
      (base.inst 0).sys.tvec.getLsbD 0 = false ∧ Cause.illegal.route = .user) ∧
    ((base.raise .illegal 0).tasks.map (·.id)) = [0] := by decide +kernel

theorem witness_ReturnFromTrap : ((handling 0 true).inst 0).slot = none ∧ ((handling 0 true).inst 0).handler = true ∧
    ((handling 0 true).inst 0).eretTarget = some (64, .scu) ∧ (64 % 4 = 0 ∧ 64 < imemSize .scu) ∧
    tstatEng ((handling 0 true).inst 0).sys.tstat = 0 ∧ ((handling 0 true).inst 0).sys.tstat.getLsbD 8 = true ∧
    ((handling 0 true).inst 0).sys.tstat.getLsbD 0 = false ∧ ((handling 0 true).inst 0).sys.tcause.toNat ≠ 0x13 ∧
    ((handling 0 true).inst 0).scu.loops = [] ∧ ((handling 0 false).inst 0).sys.tstat.getLsbD 8 = false ∧
    tstatEng ((handling 1 false).inst 0).sys.tstat ≠ 0 ∧ ((handling 1 false).inst 0).eretTarget = some (64, .ve) ∧
    (base.inst 0).handler = false := by decide +kernel

/-- No token bits. -/
def noTok : Tok := ⟨false, false⟩

/-- Every exception's trap enabled, lanes 0 and 511 in k1, and v1 all infinite. -/
def infinite : State := from' .ve (onInst fun i =>
  { i with sys := { i.sys with fmode := 0x1F00 }, k := i.k.set 1 (BitVec.twoPow 512 0 ||| BitVec.twoPow 512 511),
           v := i.v.set 1 (Vector.replicate 512 0x7F800000) })

/-- The same with no exception's trap enabled. -/
def calm : State := from' .ve (infinite.modInst 0 fun i => { i with sys := { i.sys with fmode := 0 } })

/-- With no trap enabled no exception traps. -/
theorem quiet_calm (f : Nat → Flags) : (calm.inst 0).quiet f := by
  have h : enabled (calm.inst 0).sys.fmode = 0 := by decide +kernel
  intro l _
  simp [h]

theorem witness_ElementResults :
    (∃ r, elemRule (.vadd noTok 3 1 1 .rne .f32 1) = some r ∧ calm.vecReady r.tk r.srcs (some r.d) ∧ r.fp = true ∧
      ∀ f, (calm.inst 0).quiet f) ∧
    (∃ r, elemRule (.vsub noTok 3 1 1 .rne .f32 1) = some r ∧ infinite.vecReady r.tk r.srcs (some r.d) ∧ r.fp = true ∧
      ¬(infinite.inst 0).quiet fun l => if active r.from' ((infinite.inst 0).mask r.k) l then
        (r.op (infinite.inst 0).sys.fmode (r.srcs.map fun v => elemAt r.from' ((infinite.inst 0).readV v) l)).2 else 0) ∧
    ∃ r, elemRule (.viadd noTok 27 1 2 .i32 0) = some r ∧ infinite.vecReady r.tk r.srcs (some r.d) ∧ r.fp = false := by
  refine ⟨⟨_, rfl, ?_, rfl, quiet_calm⟩, ⟨_, rfl, ?_, rfl, fun h => absurd (h 511 (by decide)) ?_⟩, _, rfl, ?_, rfl⟩ <;>
    (try unfold State.vecReady) <;> decide +kernel

theorem witness_ElementPlacement : 511 < Elem.count .e16 ∧ 255 < Elem.count .e64 ∧ 65535 < 65536 ∧ Elem.e16 ≠ .e64 := by decide

theorem witness_MoveResults : ∃ tk srcs d k w val, moveRule (.vmov noTok 27 1 .b64 1) = some (tk, srcs, d, k, w, val) ∧
    infinite.vecReady tk srcs (some d) := by
  refine ⟨_, _, _, _, _, _, rfl, ?_⟩
  unfold State.vecReady; decide +kernel

theorem witness_MaskResults : ∃ tk srcs d k w fp op, maskRule (.vcmp noTok 7 1 1 .eq .f32 1) = some (tk, srcs, d, k, w, fp, op) ∧
    calm.vecReady tk srcs none ∧ fp = true ∧ ∀ f, (calm.inst 0).quiet f := by
  refine ⟨_, _, _, _, _, _, _, rfl, ?_, rfl, quiet_calm⟩
  unfold State.vecReady; decide +kernel

theorem witness_ReductionResults : ∃ tk d a k w fp red, reduceRule (.vredmax noTok 3 1 .f32 1) = some (tk, d, a, k, w, fp, red) ∧
    calm.vecReady tk [a] (some d) ∧ fp = true ∧ ∀ f, (calm.inst 0).quiet f := by
  refine ⟨_, _, _, _, _, _, _, rfl, ?_, rfl, quiet_calm⟩
  unfold State.vecReady; decide +kernel

theorem witness_ConversionResults : calm.vecReady noTok [1] (some 3) ∧ calm.vecReady noTok [1, 2] none ∧
    ∀ f, (calm.inst 0).quiet f := by
  refine ⟨?_, ?_, quiet_calm⟩ <;> unfold State.vecReady <;> decide +kernel

/-- Address 0x1000 as the base of a vector access in v2, and lanes 0 and 511 in k1. -/
def bases : State := from' .ve (onInst fun i =>
  { i with k := i.k.set 1 (BitVec.twoPow 512 0 ||| BitVec.twoPow 512 511), v := i.v.set 2 (zeroLanes.set 0 0x1000) })

theorem witness_VectorMemory :
    vecMemRule (.vld noTok 3 2 0 .f32 1) = some (false, noTok, 3, [2], 0, .f32, 1, unitEa .f32) ∧
    vecMemRule (.vst noTok 3 2 0 .f32 1) = some (true, noTok, 3, [2], 0, .f32, 1, unitEa .f32) ∧
    bases.vecReady noTok [2] (some 3) ∧ bases.vecReady noTok [2, 3] none ∧
    (∀ e ∈ (List.range 512).filter fun e => ((bases.inst 0).mask 1).getLsbD e,
      bases.mapped 0 (unitEa .f32 ([2].map (bases.inst 0).readV) e) 4 .read (0x1000 + 4 * e)) ∧
    ∀ e ∈ (List.range 512).filter fun e => ((bases.inst 0).mask 1).getLsbD e,
      bases.mapped 0 (unitEa .f32 ([2].map (bases.inst 0).readV) e) 4 .write (0x1000 + 4 * e) := by
  unfold State.vecReady State.mapped
  refine ⟨rfl, rfl, ?_, ?_, ?_, ?_⟩ <;> decide +kernel

/-- Tiles of each form: t1 of 32-bit elements, t2 of 64-bit elements, t3 of low rank with 2 rows, t4 of low rank with 64. -/
def tiles : State := onInst fun i =>
  { i with budget := 1024, tiles := (((i.tiles.set 1 (some ⟨.d32, List.replicate 64 (Vector.replicate 64 0), 0⟩)).set 2
             (some ⟨.d64, List.replicate 128 (Vector.replicate 64 0), 0⟩)).set 3
             (some ⟨.lr, List.replicate 2 (Vector.replicate 64 0), 1⟩)).set 4 (some ⟨.lr, List.replicate 64 (Vector.replicate 64 0), 2⟩) }

/-- A tile of that state. -/
def tile (r : TReg) : Tile := ((tiles.inst 0).tiles[r]).getD ⟨.d32, [], 0⟩

theorem witness_TileLineAccess : (tiles.inst 0).tiles[(1 : TReg)] = some (tile 1) ∧ lineOk (tile 1) .f32 .anti 63 = true ∧
    (tiles.inst 0).tiles[(2 : TReg)] = some (tile 2) ∧ lineOk (tile 2) .f64 .diag 63 = true ∧
    (tiles.inst 0).tiles[(3 : TReg)] = some (tile 3) ∧ lineOk (tile 3) .f32 .row 1 = true ∧
    tiles.vecReady noTok [] (some 3) ∧ tiles.vecReady noTok [3] none ∧ (tiles.inst 0).tiles[(31 : TReg)] = none ∧
    vOperandChecks [] (some 3) = .ok () ∧ vOperandChecks [3] none = .ok () ∧ 63 < 64 := by
  unfold State.vecReady; and_intros <;> decide +kernel

theorem witness_FlagWords : infinite.vecReady noTok [] none ∧ infinite.vecReady noTok [1] none := by
  unfold State.vecReady; and_intros <;> decide +kernel

/-- Stream A with one 64-bit record. -/
def records : State := from' .ve (onInst fun i => { i with condA := [⟨true, 5⟩], k := i.k.set 1 1 })

theorem witness_ConditionalStreams : ((28 : VReg) = 28 ∨ (28 : VReg) = 29) ∧
    slots ((records.inst 0).cond 28) + ((List.range 256).filter fun n => ((records.inst 0).mask 1).getLsbD n).length * 2 ≤ 2048 ∧
    records.vecReady noTok [1] none ∧ records.vecReady noTok [] (some 3) ∧
    (∀ r ∈ ((records.inst 0).cond 28).take 1, r.wide = true) ∧
    ((List.range 256).filter fun n => ((records.inst 0).mask 1).getLsbD n).length ≤ ((records.inst 0).cond 28).length ∧
    ¬((30 : VReg) = 28 ∨ (30 : VReg) = 29) ∧ vOperandChecks [1] none = .ok () := by
  unfold State.vecReady; and_intros <;> decide +kernel

/-- An entry in vq0. -/
def entry : State := from' .ve (onInst fun i => { i with vq := i.vq.set 0 [zeroLanes] })

theorem witness_HollyhockIssues : (∃ read pops, hollyRule (.vexp noTok 3 24 .rne .f32 1) = some (noTok, 3, 1, read, pops) ∧
    entry.vecReady noTok pops (some 3)) ∧ (∃ read pops, hollyRule (.vorient2 noTok 3 18 0 false false .f64 1) =
    some (noTok, 3, 1, read, pops) ∧ entry.vecReady noTok pops (some 3)) ∧ (entry.inst 0).condA = [] := by
  refine ⟨⟨_, _, rfl, ?_⟩, ⟨_, _, rfl, ?_⟩, ?_⟩ <;> (try unfold State.vecReady) <;> decide +kernel

/-- A vexp in flight on lane 0 alone, with the value x there and every trap enabled. -/
def flying (x : Word32) : InFlight := ⟨.vexp noTok 3 1 .rne .f32 1, 0, 0, 0, [zeroLanes.set 0 x], 1, 0x1F00, []⟩

/-- The state with that instruction in flight. -/
def inFlight (x : Word32) : State := onInst fun i => { i with hollyhock := some (flying x) }

/-- The flags of lane l of an instruction in flight, and the exceptions whose traps it has. -/
def raised (x : InFlight) (y : Settled) (l : Nat) : Flags :=
  (if active y.w x.mask l then (y.res l).2 else 0) &&& enabled (if y.force then x.fmode ||| 0x100 else x.fmode)

theorem witness_HollyhockSettles : ((inFlight 0).inst 0).hollyhock = some (flying 0) ∧
    ((flying 0).settled.map fun y => (List.range 512).all fun l => raised (flying 0) y l == 0) = some true ∧
    ((inFlight 0x7FA00000).inst 0).hollyhock = some (flying 0x7FA00000) ∧
    ((flying 0x7FA00000).settled.map fun y => raised (flying 0x7FA00000) y 0 != 0) = some true := by
  refine ⟨by simp [inFlight, onInst], ?_, by simp [inFlight, onInst], ?_⟩ <;> decide +kernel

/-- The executing word comes from engine ME, with one token from the CE and eight to the VE. -/
def meTokens : State := from' .me (onInst fun i =>
  { i with tokens := (i.tokens.set (fifo .ce .me) 1).set (fifo .me .ve) 8 })

theorem witness_EngineTokens : tokenRule (.meTkw noTok .ce) = some (noTok, false, .ce) ∧
    (meTokens.inst 0).tokensReady [fifo .ce .me] [] = true ∧ tokenRule (.meTks noTok .ve) = some (noTok, true, .ve) ∧
    (meTokens.inst 0).tokensReady [] [fifo .me .ve] = false := by decide +kernel

/-- Streams of the ME with a broken segment, and entries for the counts of loops. -/
def brokenMe : State := from' .me (onInst fun i =>
  { i with me := { i.me with seg := some broken }, qw := (i.qw.set 8 [3]).set 10 [0], vq := i.vq.set 2 [zeroLanes] })

theorem witness_EngineStreamControl :
    (from' .me base).tokReady noTok = true ∧ brokenMe.tokReady noTok = true ∧ ((from' .me base).inst 0).me.mismatch = false ∧
    (brokenMe.inst 0).me.mismatch = true ∧ (((from' .me base).inst 0).me.count 0).mismatch = false ∧
    ((brokenMe.inst 0).me.count 0).mismatch = true ∧ loopOk .ve (base.inst 0).ve 0 1023 = true ∧
    loopOk .me (base.inst 0).me 16380 1 = false ∧ loopOk .me (brokenMe.inst 0).me 0 1023 = true ∧
    (brokenMe.inst 0).vq[2] ≠ [] ∧ (base.inst 0).vq[2] = [] ∧ (brokenMe.inst 0).qw[8] = 3 :: [] ∧ (base.inst 0).qw[8] = [] ∧
    (brokenMe.inst 0).qw[10] = 0 :: [] ∧ (base.inst 0).qw[10] = [] ∧
    ((onInst fun i => { i with me := { i.me with held := true } }).inst 0).me.held = true ∧ (base.inst 0).handler = false := by
  and_intros <;> decide +kernel

/-- A stream of n elements in a buffer: SRC, WLOG and FMT in ctrl. -/
def zOf (ctrl : Word32) (n : BitVec 16) : Machine.ZReg :=
  { Machine.ZReg.reset with ctrl := ctrl, count := (Vector.replicate 6 1).set 0 n, stride := (Vector.replicate 6 0).set 0 1 }

/-- The kept positions 0 and 1 of every group of four: 1,024 bytes of 0x44 (09 R261). -/
def metadata : Bytes := Bytes.put [] 0 (List.replicate 1024 0x44)

/-- Streams of FP64, BF16 and FP32 in W and in A, and landed metadata. -/
def streams : State := from' .me (tiles.modInst 0 fun i =>
  { i with z := (((((i.z.set 1 (zOf 0x160 512)).set 2 (zOf 0x260 512)).set 3 (zOf 0x142 4096)).set 4 (zOf 0x242 8192)).set 5
             (zOf 0x151 64)).set 6 (zOf 0x251 64), mdq := [⟨0, metadata, true⟩] })

theorem keptOf_metadata : (keptOf metadata).isSome = true := by
  have get : ∀ a < 1024, metadata.get a = 0x44 := by
    intro a ha
    have h := get_put_in [] 0 a (List.replicate 1024 0x44) (by rw [List.length_replicate]; exact ha)
    rw [Nat.zero_add] at h
    rw [metadata, h, List.getD_eq_getElem?_getD, List.getElem?_replicate, if_pos ha]; rfl
  unfold keptOf
  rw [if_pos]
  · rfl
  · rw [List.all_eq_true]
    intro c hc
    have hc := List.mem_range.1 hc
    beta_reduce
    rw [get _ (by omega), get _ (by omega)]
    simp only [decide_eq_true_eq]
    have h : c % 2 = 0 ∨ c % 2 = 1 := by omega
    rcases h with h | h
    · rw [show 2 * c % 4 = 0 by omega, show (2 * c + 1) % 4 = 1 by omega]; decide
    · rw [show 2 * c % 4 = 2 by omega, show (2 * c + 1) % 4 = 3 by omega]; decide

theorem take_streams (n : Sys2Proof.ZReg) (e : Nat) : ∃ xs, (streams.inst 0).take n e = .ok xs := by
  have hw : (streams.inst 0).tagsW = [] := by decide +kernel
  have ha : (streams.inst 0).tagsA = [] := by decide +kernel
  exact take_plain (fun b => by cases b <;> simp [Inst.tags, hw, ha]) n e

theorem witness_MatrixProducts :
    ((mmaRule (.mmaF64 noTok 2 1 2 .rne true true true)).map fun r => (r.d, r.a, r.b, r.form, r.fa, r.fb, r.ea, r.eb, r.sparse))
      = some (2, 1, 2, .d64, 0, 0, 512, 512, false) ∧
    ((mmaRule (.mmas noTok 1 3 4 .bf16 .rne true true false)).map fun r => (r.d, r.a, r.b, r.form, r.fa, r.fb, r.ea, r.eb, r.sparse))
      = some (1, 3, 4, .d32, 2, 2, 4096, 8192, true) ∧
    (capvOf streams.cores[(0 : CoreNo)].rung).testBit 0 = true ∧ (capvOf streams.cores[(0 : CoreNo)].rung).testBit 7 = true ∧
    streams.matrixReady noTok true ∧ (tile 2).form = .d64 ∧ (tile 1).form = .d32 ∧
    streamIssue (streams.inst 0) 1 0 512 (some 2) = .ok () ∧ streamIssue (streams.inst 0) 2 0 512 none = .ok () ∧
    (streams.inst 0).slotReady 1 = true ∧ (streams.inst 0).slotReady 2 = true ∧
    streamIssue (streams.inst 0) 3 2 4096 (some 4) = .ok () ∧ streamIssue (streams.inst 0) 4 2 8192 none = .ok () ∧
    (streams.inst 0).slotReady 3 = true ∧ (streams.inst 0).slotReady 4 = true ∧
    (∀ n e, ∃ xs, (streams.inst 0).take n e = .ok xs) ∧ (keptOf metadata).isSome = true := by
  refine ⟨rfl, rfl, ?_, ?_, ?_, ?_, ?_, ?_, ?_, ?_, ?_, ?_, ?_, ?_, ?_, take_streams, keptOf_metadata⟩ <;>
    (try unfold State.matrixReady) <;> decide +kernel

/-- A core whose ME stands at rung 4. -/
def lost : State := base.modCore 0 fun c => { c with rung := 4 }

/-- The same with tiles. -/
def lostTiles : State := (from' .me tiles).modCore 0 fun c => { c with rung := 4 }

/-- Whether the checks of a classed word trap. -/
def resTraps (i : Instr) (s : State) : Option Bool := (classedOf i).map fun c => match c.res s with
  | .error (.trap _ _) => true
  | _ => false

theorem witness_LostClassAssists : (classedOf (.lrmul noTok 1 2 3)).map (·.cls) = some 1 ∧
    (capvOf lost.cores[(0 : CoreNo)].rung).testBit 1 = false ∧ (lost.inst 0).assist = none ∧
    resTraps (.lrmul noTok 1 2 3) lost = some true ∧ (lostTiles.inst 0).assist = none ∧ resTraps (.lrmul noTok 3 3 3) lostTiles = some false ∧
    (-1000 : Int).natAbs < 2 ^ (8 * 2 - 2) ∧ (∀ p ∈ [((-128 : Int), (255 : Int))], p.1.natAbs < 256 ∧ p.2.natAbs < 256) := by
  refine ⟨rfl, ?_, ?_, ?_, ?_, ?_, ?_, ?_⟩ <;> decide +kernel

/-- An entry in q8. -/
def ranked : State := streams.modInst 0 fun i => { i with qw := i.qw.set 8 [2] }

theorem witness_LowRankResults : (capvOf streams.cores[(0 : CoreNo)].rung).testBit 1 = true ∧ streams.matrixReady noTok false ∧
    ((tile 3).form = .lr ∧ (tile 4).form = .lr ∧ (tile 1).form ≠ .d64 ∧ (tile 3).factor = true ∧ (tile 4).factor = true) ∧
    (lrProduct (tile 3) (tile 3)).1.1.length ≤ (tile 3).cap ∧
    ((tile 3).factors.1 ++ (tile 3).factors.1).length ≤ (tile 4).cap ∧
    ((tile 4).rows.length = 64 ∧ ((tile 1).factor && (tile 3).factor) = false) ∧ (1 : TReg) ≠ 3 ∧
    (streams.inst 0).rowsUsed + 2 * (tile 4).rank ≤ (streams.inst 0).budget ∧
    (streamIssue (streams.inst 0) 5 1 (64 * (tile 3).cap) (some 6) = .ok () ∧
      streamIssue (streams.inst 0) 6 1 (64 * (tile 3).cap) none = .ok ()) ∧
    ((streams.inst 0).rankMode = 0 ∧ (tile 3).cap < (lrProduct (tile 4) (tile 4)).1.1.length) ∧
    (ranked.inst 0).qw[8] = 2 :: [] ∧ (tile 3).cap < 2 ∧ ¬((2 : Nat) = 64 ∧ (tile 3).rows.length = 64) ∧ ranked.tokReady noTok = true := by
  unfold State.matrixReady; and_intros <;> decide +kernel

theorem witness_TilePool : tiles.tokReady noTok = true ∧ (tiles.inst 0).tiles[(31 : TReg)] = none ∧
    (tiles.inst 0).rowsUsed + 128 ≤ (tiles.inst 0).budget ∧ (tiles.inst 0).budget < (tiles.inst 0).rowsUsed + 2047 ∧
    (tiles.inst 0).tiles[(3 : TReg)] = some (tile 3) ∧ (tile 3).form = .lr ∧ (tiles.inst 0).qr[9].length < 8 ∧
    (ranked.inst 0).tiles[(4 : TReg)] = some (tile 4) ∧ (ranked.inst 0).qw[8] = 2 :: [] ∧ 2 ≤ (tile 4).cap := by
  and_intros <;> decide +kernel

/-- Entries in vq0 and vq1, and the whole of C claimed. -/
def moving : State := from' .me (tiles.modInst 0 fun i =>
  { i with vq := (i.vq.set 0 (List.replicate 4 zeroLanes)).set 1 [zeroLanes], claimC := 1048576 })

theorem witness_TileMoves : moving.tokReady noTok = true ∧ (moving.inst 0).tiles[(1 : TReg)] = some (tile 1) ∧ (tile 1).form ≠ .lr ∧
    (tile 3).form = .lr ∧ (1 : Nat) < (tile 3).rows.length ∧
    (tiles.inst 0).vq[0].length < 4 ∧ (moving.inst 0).vq[0].length = 4 ∧ (moving.inst 0).vq[1] ≠ [] ∧
    claimCheck (moving.inst 0) .c (16384 * 63) 16384 = .ok () := by
  and_intros <;> decide +kernel

theorem witness_PipelinedLoop : mloopOk (base.inst 0).me 0 1008 63 = true ∧ (from' .me base).tokReady noTok = true ∧
    (brokenMe.inst 0).qw[8] = 3 :: [] := by
  and_intros <;> decide +kernel

/-- Pairs for the CE: 0x7000 and 256 bytes in c2 and c3, length 0 in c5, a W claim of 4 KiB, an overrun a1. -/
def pairs : State := from' .ce (onInst fun i =>
  { i with c := ((i.c.set 2 0x7000).set 3 256).set 4 0x7000, claimW := 4096, a := i.a.set 1 ⟨0xFFFFE000, true⟩ })

/-- A descriptor address in q3. -/
def collective : State := from' .q3 (onInst fun i => { i with qw := i.qw.set 3 [0x7000] })

theorem witness_CopyIssues : pairs.tokReady noTok = true ∧ pairs.cur.src ≠ .q3 ∧
    ((copyRule pairs (.cp noTok 0 2 5 .w .mem false 0)).map fun r => (decide (r.tk = noTok), r.ok, r.room, decide (r.spec.len ≠ 0)))
      = some (true, true, true, true) ∧ (pairs.inst 0).copies.length < 64 ∧
    ((copyRule pairs (.cp noTok 0 4 5 .w .mem false 0)).map fun r => (r.ok, r.spec.len)) = some (true, 0) ∧
    collective.cur.src = .q3 ∧ isColl (q3Instr 0x7000) = true ∧ (copyRule collective (q3Instr 0x7000)).isSome = true ∧
    (collective.inst 0).qw[3] = 0x7000 :: [] ∧ (collective.inst 0).copies.length < 64 ∧ collective.tokReady noTok = true := by
  and_intros <;> decide +kernel

theorem witness_CopyControl : pairs.tokReady noTok = true ∧ ((ceNowRule pairs (.acset noTok 2 63)).map fun r => r.2.1) = some true ∧
    ((ceNowRule pairs (.keep noTok 7 2)).map fun r => r.2.1) = some true ∧
    ((ceNowRule pairs (.acwait noTok 0)).map fun r => r.2.1) = some true ∧ ((pairs.inst 0).a[(1 : AReg)]).overrun = true := by
  and_intros <;> decide +kernel

/-- The header of a packet of one unit on ring r. -/
def pkt (r : Fin 256) : Pkt := ⟨r, 1, false⟩

/-- The record of the LAUNCH at ring 8 has been accepted. -/
def accepted : State := (spawner 0).modCmdRing 8 fun x => { x with accepted := 1 }

theorem witness_Packets : (spawner 0).rings[(8 : Fin 256)].grant ≠ .firmware ∧ (spawner 0).rings[(0 : Fin 256)].grant = .firmware ∧
    ((do let t ← (spawner 0).writeV none 1 0x7000 (leBytes 4 5); t.packetDone (pkt 8) : Except MemFault State).toBool = true) ∧
    ((do let t ← (spawner 0).storeWords 1 0x7000 [1, 2]; t.packetDone (pkt 8) : Except MemFault State).toBool = true) ∧
    ((do let r ← (spawner 0).storeWords 1 0x7000 [1]; let t ← r.writeV none 1 0x7008 (leBytes 8 5); t.packetDone (pkt 8)
        : Except MemFault State).toBool = true) ∧
    ((do let t ← (spawner 0).writeV none 1 0x7000 (leBytes 4 0); t.packetDone (pkt 8) : Except MemFault State).toBool = true) ∧
    ((spawner 0).packetDone (pkt 8)).toBool = true ∧
    ((spawner 0).readV none 1 0x7000 8).toOption.map leNat = some 0 ∧ monitorHolds .eq false 0 0 = true ∧
    monitorHolds .any false 0 0 = false ∧
    (match (spawner 0).readV none 1 0x40000000 8 with
      | .error (.pageR, _) => true
      | _ => false) = true ∧ (((spawner 0).invalidated 5 0 65536).packetDone (pkt 0)).toBool = true ∧
    ((spawner 0).nodes.filter fun n => n.stage == .armed).length < 4096 ∧
    (acceptRecords 8 1 0x7000 (1 - 1) 1 accepted).2 = true ∧ ((acceptRecords 8 1 0x7000 (1 - 1) 1 accepted).1.packetDone (pkt 8)).toBool = true ∧
    transformOf (.transformExpand ⟨8, 2, false⟩ 0 0 256 ⟨0, 0, 0⟩) = some ⟨8, 2, false⟩ ∧ (spawner 0).tasks.length < 1024 ∧
    (((spawner 0).acceptTransform (some 8) none 1 (.transformExpand ⟨8, 2, false⟩ 0 0 256 ⟨0, 0, 0⟩)).map fun y =>
      (y.packetDone ⟨8, 2, false⟩).toBool) = some true := by
  and_intros <;> decide +kernel

theorem witness_Mailbox : (base.inst 0).qr[5].length < 4 ∧ base.together 0 ≠ [] ∧ base.saveFits 0 = true ∧
    base.together 191 = [] ∧ (base.inst 191).qr[5].length < 4 := by
  and_intros <;> decide +kernel

/-- `csrw FMODE, s8` stands next, with 4 in s8. -/
def nextWrite : State := onInst fun i =>
  { i with s := i.s.set 8 4, scu := { i.scu with imem := cellsFrom 0 (leBytes 4 0xC4020043) } }

theorem witness_RegisterWrites : (nextWrite.inst 0).slot = none ∧ (4 : Word).toNat = (4 : Fin 5).val ∧
    nextWrite.cores[(0 : CoreNo)].rung < (4 : Fin 5) ∧ (0 : Word).toNat ≤ nextWrite.cores[(0 : CoreNo)].rung.val ∧
    decode .scu ((nextWrite.inst 0).scu.wordAt 0).toNat 0 = .ok (.csrw 8 0x043) ∧ nextWrite.readable 0 8 = true ∧
    nextWrite.readS 0 8 = 4 ∧ nextWrite.cores[(0 : CoreNo)].occupant.isSome = true ∧ (nextWrite.inst 0).scu.ended = false ∧
    (nextWrite.inst 0).freezing = false ∧ (nextWrite.inst 0).assist = none ∧ (nextWrite.inst 0).scu.held = false := by
  and_intros <;> decide +kernel

/-- The firmware context of core 0 at `add s9, q11, q11` and at `csrw FMODE, s8`, with 4 in its own s8; the frozen instance's q11 is
then seen. -/
def firmwareAt (assisted : Bool) : State := (onInst fun i => { i with
  qr := i.qr.set 11 [5, 7], assist := if assisted then some ⟨.meNop noTok, 0, 0, 0, true, 0, false⟩ else none }).modCore 0 fun c =>
  { c with fw := { c.fw with s := c.fw.s.set 8 4 } }

/-- What firmware's word leaves of the firmware context's registers and PC, of q11 and FMODE, and of the instance's PC. -/
def fwAfter (w : Word32) (s : State) (r : Fin 48) : Option (Word × Nat × List Word × Word × Nat) :=
  match execFirmware 0 w 0 s with
  | .next t => some (t.cores[(0 : CoreNo)].fw.s[r], t.cores[(0 : CoreNo)].fw.pc, (t.inst 0).qr[11], (t.inst 0).sys.fmode, (t.inst 0).scu.pc)
  | _ => none

theorem witness_RegisterWrites_firmware : (firmwareAt false).power = .d0 ∧ ((firmwareAt false).inst 0).slot = none ∧
    fwWord 0x049EFB00 = true ∧ fwWord 0xC4020043 = true ∧ ((firmwareAt true).inst 0).assist ≠ none ∧
    decode .scu 0x049EFB00 0 = .ok (.add 9 59 59) ∧ decode .scu (noQueues 0x049EFB00) 0 = .ok (.add 9 0 0) ∧
    fwWord 0x04000001 = true ∧ decode .scu 0x04000001 0 = .error .reserved ∧ 48 ≤ (63 : SReg).val := by
  and_intros <;> decide +kernel

-- 04 R139: s48 to s63 read zero in the firmware context, and name the instance's queues in an assist trap.
theorem test_firmware_words : fwAfter 0x049EFB00 (firmwareAt false) 9 = some (0, 4, [5, 7], 0, 0) ∧
    fwAfter 0x049EFB00 (firmwareAt true) 9 = some (10, 4, [7], 0, 0) ∧ fwAfter 0xC4020043 (firmwareAt false) 8 = some (4, 4, [5, 7], 4, 0) := by
  and_intros <;> decide +kernel

/-- A copy in flight: p and q at 0x7000. -/
def copyOf (instr : Instr) (len units : Nat) : Copy :=
  ⟨0, .ce, 0, 0, instr, 0x7000, 0x7000, len, 0, .reset, .reset, len, units, 0, 0, [], [], none, none, false, [], [], [], none, 0, [], [], [], none, false, none⟩

/-- That copy alone in flight. -/
def flight (c : Copy) : State := onInst fun i => { i with copies := [c] }

/-- That copy is the one with its id. -/
theorem flight_copy (c : Copy) (h : c.id = 0) : ((flight c).inst 0).copy 0 = some c := by
  simp [flight, onInst, Inst.copy, h]

/-- One unit from memory to W; the same from an address that no page maps; the same with its unit landed. -/
def cpUnit : Copy := copyOf (.cp noTok 0 2 5 .w .mem false 0) 256 1

def cpLost : Copy := { cpUnit with q := 0x40000000 }

def cpDone : Copy := { cpUnit with first := 1 }

/-- A datm.close.rep that has been answered, and a unit of a cprm that has been sent. -/
def closed : Copy := { copyOf (.datmClose noTok 0 5 true) 1 1 with first := 1, input := [7] }

def remote : Copy := { copyOf (.cprm noTok 0 2 5 1 false 0) 256 1 with sent := [0] }

/-- A lyt of one element. -/
def layout : Copy := copyOf (.lyt noTok 0 1 5 2 false) 1 1

/-- It is Larkspur's. -/
theorem flight_layout : ((flight layout).inst 0).larkspur = some layout := by
  have h : isLyt layout.instr = true := rfl
  simp [flight, onInst, Inst.larkspur, h]

/-- Queues with an entry each, and a wmon on the doubleword at 0x1000, which holds 0x2001. -/
def queues (b : Word) : State := onInst fun i =>
  { i with qw := (i.qw.set 6 [5]).set 4 [0x10020], vq := i.vq.set 3 [zeroLanes], wmon := some ⟨3, 0x1000, b, false, .eq, 0, 0, [], 0⟩ }

/-- The same while core 0 freezes for an assist. -/
def frozenWait : State := (queues 0).modInst 0 fun i => { i with assist := some ⟨.meNop noTok, 0, 0, 0, true, 0, false⟩ }

/-- A record of a cpatm with D = 1 on a core whose instance has left: no list takes its update. -/
def cpatmUnit : Copy := copyOf (.cpatm noTok 0 2 5 .add false true false .mem) 16 1

def unplaced : State := (({ base with roots := [(0xFFFF, 0x1000)] } : State).modCore 0 fun c => { c with occupant := none }).modInst 0 fun i => { i with copies := [cpatmUnit] }

/-- An atomic command in q2: add, at the doubleword at 0x1000. -/
def atomic (ctl : Word) : AtomicCmd := ⟨ctl, 0x1000, 1, 0⟩

def atomics (ctl : Word) (bad : Bool) : State :=
  let s := onInst fun i => { i with q2w := [atomic ctl] }
  if bad then s.poisonGranule 0x80 else s

theorem witness_QueueSteps :
    (((queues 0x2001).inst 0).qw[6] = [5] ∧ ((queues 0).inst 0).vq[2].length < 4) ∧
    (((queues 0).inst 0).vq[3].length = 1 ∧ ((queues 0).inst 0).qr[7].length < 8) ∧
    (((queues 0).inst 0).helper = none ∧ ((queues 0).inst 0).qw[4] = [0x10020] ∧ ((queues 0).inst 0).ceFaulted = false ∧
      ((queues 0).inst 0).pending = none ∧ ((queues 0).inst 0).handler = false ∧ ((queues 0).inst 0).assist.any (·.frozen) = false) ∧
    (((flight layout).inst 0).larkspur = some layout ∧ layout.started = false ∧ layout.fault = none ∧
      ((flight layout).inst 0).heldBack layout = false ∧ ((flight layout).readParts 0 layout (((flight layout).inst 0).placeOf layout.zq none) layout.zq.dist
        (((List.range (outCount layout.zq.counts layout.m)).filterMap (sourceElem layout.zq.counts layout.m)).map fun e =>
          (layout.zq.bitOf e, layout.zq.w))).toBool = true) ∧
    (((flight cpUnit).inst 0).copy 0 = some cpUnit ∧ cpUnit.fault = none ∧ cpUnit.open' 0 = true ∧
      ((flight cpUnit).inst 0).heldBack cpUnit = false ∧ ((flight cpUnit).landUnit 0 cpUnit 0).toBool = true) ∧
    (((flight cpLost).inst 0).copy 0 = some cpLost ∧ cpLost.fault = none ∧ cpLost.open' 0 = true ∧
      ((flight cpLost).inst 0).heldBack cpLost = false ∧ (match (flight cpLost).landUnit 0 cpLost 0 with
        | .error (.fault ca v) => ca == Cause.pageR && v == 0x40000000
        | _ => false) = true) ∧
    ((unplaced.inst 0).copy 0 = some cpatmUnit ∧ cpatmUnit.fault = none ∧ cpatmUnit.open' 0 = true ∧
      (unplaced.inst 0).heldBack cpatmUnit = false ∧ (match unplaced.landUnit 0 cpatmUnit 0 with
        | .error .stall => true
        | _ => false) = true) ∧
    (((flight cpDone).inst 0).copy 0 = some cpDone ∧ cpDone.landed = true ∧ isColl cpDone.instr = false) ∧
    (((flight closed).inst 0).copy 0 = some closed ∧ closed.landed = true ∧ ((flight closed).inst 0).qr[11].length < 8) ∧
    (((queues 0x2001).inst 0).wmon = some ⟨3, 0x1000, 0x2001, false, .eq, 0, 0, [], 0⟩ ∧ (queues 0x2001).wmonRuns 0 = true ∧
      (frozenWait.inst 0).wmon.isSome = true ∧ frozenWait.wmonRuns 0 = false ∧
      (({ queues 0x2001 with cur := ⟨0, .scu, 0, 0, 0, 0, false⟩ } : State).scalarLoad 0 0x1000 8).toOption.map (·.2) = some 0x2001 ∧
      monitorHolds .eq false 0x2001 0x2001 = true ∧ monitorHolds .eq false 0x2001 0 = false) ∧
    (((queues 0).inst 0).q2r.length < 16 ∧ ((atomics 0x40 true).inst 0).q2w = [atomic 0x40] ∧ AmoOp.ofCode ((0x40 : Word).toNat % 16) = some .add ∧
      (atomics 0x40 false).translate (some 0) ((atomics 0x40 false).ctxOf 0) 0x1000 .both = .ok 0x1000 ∧
      ({ atomics 0x40 false with roots := [] } : State).translate (some 0) 1 0x1000 .both = .error .pageW ∧
      (atomics 0x40 true).poisoned 0x1000 8 = true ∧ (atomics 0x40 false).poisoned 0x1000 8 = false ∧
      (0x40 : Word).getLsbD 5 = false ∧ (0x60 : Word).getLsbD 5 = true ∧ (0x60 : Word).getLsbD 4 = false ∧
      ((atomics 0x60 false).inst 0).q2w = [atomic 0x60] ∧ ((atomics 0x60 false).accept 0 1 0x1000 .add false 1 0 0).isSome = true) ∧
    (((flight remote).inst 0).copy 0 = some remote ∧ 0 ∈ remote.sent ∧ isRemote remote.instr = true ∧
      (255 : Fin 256).val < min 256 (remote.len - 256 * 0)) := by
  refine ⟨?_, ?_, ?_, ⟨flight_layout, ?_⟩, ⟨flight_copy _ rfl, ?_⟩, ⟨flight_copy _ rfl, ?_⟩,
    ⟨by simp [unplaced, Inst.copy, cpatmUnit, copyOf], ?_⟩, ⟨flight_copy _ rfl, ?_⟩, ⟨flight_copy _ rfl, ?_⟩, ?_, ?_, flight_copy _ rfl, ?_⟩ <;> and_intros <;> decide +kernel

theorem witness_ArrivalCounting : cpUnit.src ≠ .q3 ∧ counterOf cpUnit.instr = some 5 ∧
    (({ cpUnit with src := .q3 } : Copy).src = .q3 ∨ counterOf cpUnit.instr ≠ some 6) ∧ counterOf cpUnit.instr ≠ some 63 := by decide

/-- A trap that waits: its cause, route and whether firmware has served it. -/
def waiting (c : Cause) (r : Route) (done : Bool) : Pending := ⟨c, 0x7000, 0, .scu, 0, false, 0, r, done, none, none, false, none⟩

/-- A segment mismatch that firmware has not taken, with the values that SEGCNT and SEGSIG are to hold, and one that it has. -/
def mismatched (done : Bool) : Pending :=
  { waiting .segMismatch .segment done with seg := if done then none else some (1, 2) }

def traps (c : Cause) (r : Route) : State := onInst fun i => { i with pending := some (waiting c r false) }

def mismatches (done : Bool) : State := onInst fun i => { i with pending := some (mismatched done) }

/-- The same with a task that replays and a checkpoint of its instance 0. -/
def replays : State :=
  { mismatches true with tasks := [{ task0 with replay := true }], checkpoints := [⟨0, 0, .reset, false, true⟩] }

/-- A copy that has met a fault, alone in flight. -/
def faulted : State := flight { cpUnit with fault := some (.pageR, 0x7000) }

/-- lrset of tile t3 from streams 5 and 6 at the PC of the ME, where unit 0 of W is tagged and bad. -/
def lrsetInstr : Instr := .lrset noTok 3 5 6 false

def badUnit : State := streams.modInst 0 fun i =>
  { i with me := { i.me with imem := cellsFrom 0 (leBytes 4 0x071AB000) }, tagsW := [(0, 0)] }

/-- Its assist, frozen or not. -/
def assisted (frozen : Bool) : State := streams.modInst 0 fun i =>
  { i with assist := some ⟨lrsetInstr, 0, 0x071AB000, 0, frozen, 0, false⟩ }

/-- The state in which its word, or its assist's, executes. -/
def atLrset (s : State) (n : Nat) : State := { s with cur := ⟨0, .me, 0, 0x071AB000, 0, n, false⟩ }

theorem witness_TrapSteps : base.cores[(0 : CoreNo)].occupant = some ⟨0, 0⟩ ∧
    (((traps .illegal .user).inst 0).handler = false ∧ ((traps .illegal .user).inst 0).boundary = true ∧
      ((traps .illegal .user).inst 0).assist.any (·.frozen) = false ∧
      ((traps .illegal .user).inst 0).pending = some (waiting .illegal .user false) ∧ (waiting .illegal .user false).route = .user) ∧
    ((faulted.inst 0).pending = none ∧ (faulted.inst 0).ceFaulted = true ∧ (faulted.inst 0).ceSettled = true ∧
      (faulted.inst 0).boundary = true ∧ (faulted.ceTrap 0).isSome = true) ∧
    (((traps .pageR .firmware).inst 0).pending = some (waiting .pageR .firmware false) ∧ Cause.pageR ≠ .poison ∧
      ((traps .poison .firmware).inst 0).pending = some (waiting .poison .firmware false)) ∧
    (((traps .poison .firmware).lookup (some 0) ((traps .poison .firmware).ctxOf 0) 0x7000).isSome = true ∧ (waiting .poison .firmware false).copy = none) ∧
    (((mismatches false).inst 0).pending = some (mismatched false) ∧ (mismatched false).served = false ∧ (mismatched false).seg = some (1, 2)) ∧
    (((mismatches true).inst 0).pending = some (mismatched true) ∧ (mismatched true).served = true ∧ ((mismatches true).inst 0).boundary = true ∧
      ((mismatches true).taskOn 0).map (·.replay) = some false ∧ replays.cores[(191 : CoreNo)].free = true ∧
      (((replays.taskOn 0).bind Task.image).map fun im =>
        replays.chooseCores im (fun _ => Inst.reset.sys.capreq.setWidth 16) [[0]] 191 (replays.unitDie 0 im)) = some (some [(0, 191)]) ∧ (replays.taskOn 0).map (·.replay) = some true ∧
      (replays.checkpoints.find? fun x => x.task == 0 && x.ordinal == 0).isSome = true) ∧
    ((classedOf lrsetInstr).map fun c => (c.cls, c.se, c.sparse, c.streams)) = some (1, false, false, [5, 6]) ∧
    (match badUnit.fetch 0 .me with
      | .run cur i => decide (cur = (atLrset badUnit 0).cur) && (classedOf i).map (·.streams) == some [5, 6] && encode i == [0x071AB000]
      | _ => false) = true ∧
    (((classedOf lrsetInstr).bind fun c => match c.res (atLrset badUnit 0) with
      | .error (.late .decode v) => some v
      | _ => none).isSome = true ∧ (capvOf badUnit.cores[(0 : CoreNo)].rung).testBit 1 = true ∧ (atLrset badUnit 0).matrixReady noTok false) ∧
    (((assisted false).inst 0).assist = some ⟨lrsetInstr, 0, 0x071AB000, 0, false, 0, false⟩ ∧ ((assisted false).inst 0).pending = none ∧
      ((assisted false).inst 0).handler = false ∧ ((assisted false).inst 0).boundary = true ∧
      (atLrset (assisted false) 0).tokReady noTok = true ∧ ∀ z ∈ [5, 6], ((assisted false).inst 0).slotReady z = true) ∧
    (((assisted true).inst 0).assist = some ⟨lrsetInstr, 0, 0x071AB000, 0, true, 0, false⟩ ∧
      let t := ((assisted true).atAssist 0 ⟨lrsetInstr, 0, 0x071AB000, 0, true, 0, false⟩).modCore 0 fun x =>
        { x with inst := { x.inst with assist := none }, aux := .used 0, fw := { x.fw with cause := 0x14 },
                 watchdog := x.watchdog + (Config.clock (assisted true).tick - max 0 x.watchdog) }
      t.matrixReady noTok false ∧ ((classedOf lrsetInstr).map fun c => (c.res t).toBool) = some true) := by
  unfold State.matrixReady; and_intros <;> decide +kernel

/-- All four streams have ended. -/
def ended : State := onInst fun i =>
  { i with scu := { i.scu with ended := true }, ve := { i.ve with ended := true }, me := { i.me with ended := true },
           ce := { i.ce with ended := true } }

/-- A task of two passes. -/
def passes2 : Image := ⟨false, 0, 8, [⟨2, 0⟩], 0, 64, 64, 64, [], [], [], [], [], [], []⟩

def ended2 : State := { ended with tasks := [{ task0 with work := .image passes2 }] }

/-- Nothing placed, and a dispatched task. -/
def idle : State := { State.reset with tasks := [{ task0 with next := 0 }] }

/-- Instance 0 in the shadow bank of core 0. -/
def shadowed (busy : Bool) : State := (if busy then base else idle).modCore 0 fun c => { c with shadow := some ⟨0, 0⟩ }

/-- A saved context of instance 0, which stands nowhere. -/
def context : State := { idle with saved := [⟨0, 0, .reset, false, false⟩] }

/-- An instance that has held at safe points in every stream, with a request pending. -/
def held : State := (ended.modInst 0 fun i => { i with scu := { i.scu with ended := false, held := true } }).modCore 0
  fun c => { c with request := some .slice }

/-- A store with no room: a checkpoint of an instance with claims beyond it. -/
def full : State := { base with checkpoints := [⟨1, 0, { Inst.reset with claimW := 2 ^ 40 }, false, true⟩] }

/-- An interval of 0. -/
def dog : State := onInst fun i => { i with sys := { i.sys with wdog := 0 } }

theorem witness_InstanceSteps :
    (ended.cores[(0 : CoreNo)].occupant = some ⟨0, 0⟩ ∧ ((ended.taskOn 0).bind Task.image).map (fun im => (im.passes, im.instances)) = some (1, 1) ∧
      (ended.inst 0).allEnded = true ∧ (ended.inst 0).outstanding = false ∧ (ended.inst 0).pending = none ∧ (ended.inst 0).handler = false ∧
      (ended.inst 0).assist = none ∧ (ended.inst 0).hollyhock = none ∧ passOf passes2 (ended2.inst 0).sys.idl + 1 < passes2.passes ∧
      ((ended2.taskOn 0).bind Task.image).map (·.passes) = some 2) ∧
    (((idle.task 0).map fun t => (t.id, decide (t.phase = .dispatched), t.returned, t.next)) = some (0, true, [], 0) ∧
      ((idle.task 0).bind Task.image).map (fun im => (im.coResident, im.hasD, im.instances, im.spill, im.contextMax)) =
        some (false, false, 1, 0, 196608) ∧
      idle.saved = [] ∧ idle.reserve + 196608 ≤ idle.storeFree ∧ idle.noPlacement = false ∧ ((idle.task 0).bind fun t => t.image.bind fun im => idle.newLocks t im [0]) = some [] ∧
      idle.cores[(5 : CoreNo)].free = true ∧
      ((idle.task 0).bind Task.image).map (fun im => (idle.cores[(5 : CoreNo)].holds im, idle.cores[(5 : CoreNo)].covers im.capreq)) = some (true, true)) ∧
    ((shadowed false).cores[(0 : CoreNo)].shadow = some ⟨0, 0⟩ ∧ (shadowed false).cores[(0 : CoreNo)].occupant = none) ∧
    ((base.task 0).map (fun t => match t.phase with
      | .done _ _ => false
      | _ => true) = some true) ∧
    (base.together 0 = [0] ∧ base.saveFits 0 = true ∧ held.together 0 = [0] ∧ held.saveFits 0 = true ∧ held.cores[(0 : CoreNo)].saveable = true) ∧
    ((context.saved[0]?.map fun x => (x.task, x.ordinal)) = some (0, 0) ∧ context.saved.length = 1 ∧
      ((context.task 0).bind Task.image).isSome = true ∧ context.cores[(191 : CoreNo)].free = true) ∧
    (dog.cores[(0 : CoreNo)].occupant = some ⟨0, 0⟩ ∧ (dog.inst 0).assist.any (·.frozen) = false ∧
      dog.cores[(0 : CoreNo)].watchdog + (dog.inst 0).sys.wdog.toNat * 1024 ≤ Config.clock dog.tick) ∧
    (idle.cores[(0 : CoreNo)].occupant = none ∧ idle.cores[(0 : CoreNo)].shadow = none) ∧
    base.cores[(0 : CoreNo)].occupant ≠ none ∧ base.cores[(0 : CoreNo)].shadow = none := by
  have h : dog.cores[(0 : CoreNo)].watchdog + (dog.inst 0).sys.wdog.toNat * 1024 = 0 := by decide +kernel
  rw [h]
  and_intros <;> first | exact Nat.zero_le _ | decide +kernel

theorem witness_InstanceSteps_restore :
    ((context.task 0).bind fun t => t.image.map fun im => (context.comeback t im, context.newLocks t im [0])) = some ([0], some []) ∧
    (context.saved.find? fun y => y.task == 0 && y.ordinal == 0) = some ⟨0, 0, .reset, false, false⟩ ∧
    ({ context.restoreOn ⟨0, 0, .reset, false, false⟩ 191 with saved := [] } : State).reserve
      ≤ ({ context.restoreOn ⟨0, 0, .reset, false, false⟩ 191 with saved := [] } : State).storeFree := by
  and_intros
  · decide +kernel
  · rfl
  · decide +kernel

theorem witness_InstanceSteps_leaving :
    (full.cores[(0 : CoreNo)].occupant ≠ none ∧ full.cores[(0 : CoreNo)].shadow = none ∧
      (full.modCore 0 fun x => { x with leaving := true }).saveFits 0 = false) ∧
    ((base.modCore 0 fun x => { x with leaving := true }).saveFits 0 = true ∧
      (base.modCore 0 fun x => { x with leaving := true }).cores[(0 : CoreNo)].leaving = true) ∧
    (((shadowed false).modCore 0 fun x => { x with shadow := none }).occupy 0 ⟨0, 0⟩).together 0 = [0] ∧
    (((shadowed false).modCore 0 fun x => { x with shadow := none }).occupy 0 ⟨0, 0⟩).cores[(0 : CoreNo)].request = none := by
  and_intros <;> decide +kernel

/-- Core 0 freezes for an assist. -/
def frozen : State := onInst fun i => { i with assist := some ⟨.meNop noTok, 0, 0, 0, true, 0, false⟩ }

/-- Channel 1023 at rung 1, and its reduction posted. -/
def halved (posted : Bool) : State :=
  { State.reset with
    quiescing := true
    rings := State.reset.rings.map fun r : CmdRing => { r with st := .parked }
    channels := State.reset.channels.set 1023 1
    reduction := if posted then some 1023 else none }

/-- Line 0 dirty in L2, written by context 0 or by one that has no root, and granule 0 partly poisoned. -/
def dirty (writer : Nat) : State := { State.reset with l2 := [⟨0, 0, 0, 0, 0xF, 1, writer, none, none, false⟩], poison := [⟨0, 1, 0⟩] }

/-- A spill area of 512 bytes. -/
def spilled : State := onInst fun i => { i with spillLen := 512 }

theorem witness_AgeingSteps : base.power = .d0 ∧ unitCore (.me 191) = some 191 ∧ base.cores[(191 : CoreNo)].empty = true ∧
    (unitCore (.bank 0 .a 15) = some 0 ∧ base.cores[(0 : CoreNo)].empty = false ∧ (base.inst 0).assist.any (·.frozen) = false) ∧
    ((frozen.inst 0).assist.any (·.frozen) = true ∧ frozen.cores[(0 : CoreNo)].empty = false) ∧
    (base.channels[(1023 : Fin 1024)] = 0 ∧ (halved false).channels[(1023 : Fin 1024)] = 1 ∧ (halved false).reduction = none) ∧
    ((halved true).reduction = some 1023 ∧ (halved true).quiet = true ∧ 4 ≤ (halved true).liveChannels ∧ base.quiet = false) ∧
    (32 * 0 < (dirty 0).paTop ∧ 32 * 29796335615 < (dirty 0).paTop) ∧
    ((dirty 0).dirtyLine 0 = true ∧ ((dirty 0).poison.any fun e => e.granule == 0 && (e.l2 ||| e.l1) != 0) = true ∧ (dirty 0).lastWriter 0 = 0 ∧
      (dirty 5).lastWriter 1 = 5 ∧ (dirty 5).roots.lookup 5 = none ∧ (dirty 0).dirtyLine 8 = false ∧ (dirty 0).cachedLine 8 = false ∧
      (dirty 0).dirtyLine 2 = false ∧ (dirty 0).cachedLine 2 = true ∧ (dirty 0).poisoned (32 * 2) 32 = false) ∧
    spilled.cores[(0 : CoreNo)].occupant.isSome = true ∧ 32 * 15 < (spilled.inst 0).spillLen := by
  and_intros <;> decide +kernel

/-- Another state of power. -/
def powered (p : Power) : State := { State.reset with power := p }

theorem witness_PowerSteps : ((powered .tripped).power ≠ .d0 ∧ (powered .tripped).power ≠ .d3hot) ∧ State.reset.power ≠ .d3cold ∧
    (1500 ≤ 3400 ∧ ¬(1500 ≤ 1499)) ∧ (State.reset.power = .d0 ∧ State.reset.bringUp = 7 ∧
      (∀ g : CoreNo, State.reset.cores[g].occupant = none ∧ State.reset.cores[g].shadow = none) ∧
      ∀ r : Fin 256, State.reset.rings[r].st = .idle ∨ State.reset.rings[r].st = .parked) ∧ (powered .d3hot).power = .d3hot := by
  and_intros <;> decide +kernel

/-- Ring 8 in a state, with a packet at its RIDX. -/
def ringed (st : RingState) (waits : Bool) (packet : Bytes) : State :=
  { (spawner 0x10).modCmdRing 8 fun x => { x with st := st, waiting := waits } with mem := (spawner 0x10).mem ++ packet }

/-- WAIT for 0x2001 at an address whose second and fourth bytes are given. -/
def waitPacket (b1 b3 : Byte) : Bytes :=
  cellsFrom 0x6000 [2, 0, 1, 0, 0, 0, 0, 0, 0, b1, 0, b3, 0, 0, 0, 0, 1, 0x20]

/-- Whether the packet of ring 8 is that WAIT. -/
def isWait (s : State) (a : Word) : Bool :=
  match s.published 8 s.rings[(8 : Fin 256)] with
  | .ok (some bs) => match decodePacket 8 bs with
    | .ok (.wait _ x v c w) => x == a && v == 0x2001 && c == .eq && !w
    | _ => false
  | _ => false

/-- A task that waits, one transform that waits, and one that has completed with result 1 and detail 3. -/
def waits : State := { idle with tasks := [{ task0 with phase := .waiting }] }

def transforms : State :=
  { idle with tasks := [{ task0 with phase := .waiting, work := .transform (.transformExpand ⟨8, 2, false⟩ 0 0 256 ⟨0, 0, 0⟩) }] }

def finished : State := { base with tasks := [{ task0 with phase := .done 1 3, status := 0x7000, sigAddr := 0x7008, sigVal := 5 }] }

/-- An armed node of context 1: its counter at 0x7100 reads 0, its payload lies at 0x6000, one successor at 0x7108. -/
def node8 : Node := ⟨1, 8, 1, 0x7100, 0x6000, [0x7108], .armed⟩

def armed (payload : Bytes) : State := { ringed .idle false payload with nodes := [node8] }

/-- LAUNCH of one record at 0x7000, and EXPAND of 256 bytes from 0 to 0. -/
def launchPacket : Bytes := cellsFrom 0x6000 [1, 0, 1, 0, 0, 0, 0, 0, 0, 0x70, 0, 0, 0, 0, 0, 0, 1]

def expandPacket : Bytes := cellsFrom 0x6000 ([6, 0, 2] ++ List.replicate 22 0 ++ [1] ++ List.replicate 6 0 ++ [1])

theorem witness_RingAndTaskSteps :
    ((spawner 0x10).rings[(8 : Fin 256)].st = .idle ∧ (spawner 0x10).rings[(8 : Fin 256)].grant ≠ .none ∧
      (match (spawner 0x10).blockWord (spawner 0x10).rings[(8 : Fin 256)] 0 with
        | .ok w => w == 4096 && w != (spawner 0x10).rings[(8 : Fin 256)].ridx
        | _ => false) = true ∧ (spawner 0x10).power = .d0 ∧ (spawner 0x10).bringUp = 7 ∧ (spawner 0x10).quiescing = false ∧
      (ringed .ready false []).rings[(8 : Fin 256)].st = .ready ∧ ({ ringed .parked false [] with quiescing := true } : State).quiescing = true ∧
      (0x6000 : Word).toNat % 2 ^ 12 = 0 ∧ (0x5000 : Word).toNat % 64 = 0 ∧ ((spawner 0x10).readV none 1 (0x5000 + 8) 8).toBool = true ∧
      0x1000 % 4096 = 0 ∧ 0x1000 < (spawner 0x10).paTop ∧
      ((spawner 0x10).rings.toList.filter fun y => y.st == .active).length < 64) ∧
    ((ringed .active true []).rings[(8 : Fin 256)].st = .active ∧ (ringed .active true []).rings[(8 : Fin 256)].accepted = 0 ∧
      (ringed .active true []).rings[(8 : Fin 256)].begun = false ∧
      (ringed .active true []).rings[(8 : Fin 256)].waiting = true) ∧
    (isWait (ringed .active true (waitPacket 0x10 0)) 0x1000 = true ∧ isWait (ringed .active true (waitPacket 0x11 0)) 0x1100 = true ∧
      ((ringed .active true (waitPacket 0x10 0)).readV none 1 0x1000 8).toOption.map leNat = some 0x2001 ∧
      ((ringed .active true (waitPacket 0x11 0)).readV none 1 0x1100 8).toOption.map leNat = some 0 ∧
      monitorHolds .eq false 0x2001 0x2001 = true ∧ monitorHolds .eq false 0 0x2001 = false ∧
      ((ringed .active true (waitPacket 0x10 0)).packetDone (pkt 8)).toBool = true ∧ isWait (ringed .parked false (waitPacket 0x10 0)) 0x1000 = true ∧
      ((ringed .parked false (waitPacket 0x10 0)).translate none 1 0x1000 .read).toBool = true ∧
      isWait (ringed .parked false (waitPacket 0 0x40)) 0x40000000 = true ∧
      (ringed .parked false (waitPacket 0 0x40)).translate none 1 0x40000000 .read = .error .pageR) ∧
    ((ringed .stopped false []).rings[(8 : Fin 256)].st = .stopped ∧ (match (ringed .stopped false []).writeV none 1 0x5008 (leBytes 8 64) with
      | .ok t => (match t.blockWord (ringed .stopped false []).rings[(8 : Fin 256)] 0 with
        | .ok w => w == 4096
        | _ => false)
      | .error _ => false) = true) ∧
    ((waits.task 0).map (fun t => (t.id, decide (t.phase = .waiting), t.deps)) = some (0, true, []) ∧ waits.noPlacement = false ∧
      ((waits.task 0).map fun t => (waits.writeV none t.ctx t.data.toNat []).toBool) = some true ∧
      (transforms.task 0).map (fun t => (decide (t.phase = .waiting), t.deps)) = some (true, []) ∧ transforms.cores[(0 : CoreNo)].free = true) ∧
    ((finished.task 0).map (fun t => (t.id, decide (t.phase = .done 1 3))) = some (0, true) ∧
      (match ({ finished with tasks := [] } : State).writeV none 1 0x7000 (leBytes 8 0x301) with
        | .ok u => (u.writeV none 1 0x7008 (leBytes 8 5)).toBool
        | .error _ => false) = true) ∧
    (((armed []).nodes.find? fun y => y.id == node8.id) = some node8 ∧ node8.stage = .armed ∧
      ((armed []).readV none 1 0x7100 8).toOption.map leNat = some 0 ∧ (BitVec.ofNat 64 0 : Word).toInt ≤ 0 ∧
      (match (armed launchPacket).payload node8 with
        | .ok (some (.launch _ first count)) => first == 0x7000 && count == 1 && (match (armed launchPacket).readV none 1 0x7000 64 with
          | .ok bs => ((armed launchPacket).acceptRecord none (some 1) 1 (opRecordOf bs)).isSome
          | _ => false)
        | _ => false) = true ∧ (armed launchPacket).tasks.length < 1024 ∧
      (match (armed expandPacket).payload node8 with
        | .ok (some i) => (transformOf i).isSome && ((armed expandPacket).acceptTransform none (some 1) 1 i).isSome
        | _ => false) = true ∧
      (match (armed []).payload node8 with
        | .ok none => true
        | _ => false) = true) := by
  and_intros <;> decide +kernel

/-- EXPAND of one tile, dispatched, with a piece of it that stands on core 0; a node that waits for its task. -/
def expand1 : Instr := .transformExpand ⟨8, 2, false⟩ 0x7000 0x100000 256 ⟨0, 0, 0⟩

def pieced (part : Nat) : State :=
  { idle with
    mem := base.mem ++ [(0x7000, 1), (0x7004, 1), (0x7008, 96)], roots := base.roots
    tasks := [{ task0 with work := .transform expand1, next := 0, node := some 1 }]
    nodes := [{ node8 with stage := .running }]
    cores := idle.cores.set 0 { idle.cores[(0 : CoreNo)] with piece := some ⟨0, 0, part⟩ } }

theorem witness_RingAndTaskSteps_pieces :
    (((pieced 0).task 0).map (fun t => (t.id, decide (t.phase = .dispatched), t.next)) = some (0, true, 0) ∧
      0 < ((pieced 0).transformSize 1 expand1).1 ∧ 0 < (((pieced 0).transformSize 1 expand1).1 + ((pieced 0).transformSize 1 expand1).2 - 1)
        / ((pieced 0).transformSize 1 expand1).2 ∧ (pieced 0).cores[(5 : CoreNo)].free = true ∧ (pieced 0).noPlacement = false ∧
      (pieced 0).cores[(0 : CoreNo)].piece = some ⟨0, 0, 0⟩ ∧ (pieced 9).cores[(0 : CoreNo)].piece = some ⟨0, 0, 9⟩ ∧
      ((pieced 0).pieceWork 0 ⟨0, 0, 0⟩ expand1).toBool = true ∧ ((pieced 0).transformSize 1 expand1).1 ≤ 9) ∧
    ((pieced 0).nodes.find? (fun y => y.id == 1 && y.stage == .running) = some { node8 with stage := .running } ∧
      (pieced 0).tasks.map (·.node) = [some 1]) ∧
    (base.translate none 1 0x7100 .both = .ok 0x7100 ∧ 0x7100 % 8 = 0 ∧ base.poisoned 0x7100 8 = false ∧
      base.translate none 1 0x40000000 .both = .error .pageW ∧ ({ base with owed := [(1, 0x7100)] } : State).owed = [(1, 0x7100)]) := by
  and_intros <;> decide +kernel

/-- Link 0 in another state. -/
def linked (f : Link → Link) : State := State.reset.modLink 0 f

/-- A good flit with the SEQ expected, and one with another. -/
def flit (n : BitVec 16) : Flit := ⟨true, n, 0xFFFF, 0, [⟨1, 0, (0, 0, 0), .sigSt 1 0x7000 false 5⟩]⟩

/-- A collective with a valid descriptor at 0x7000, of group 0: of one module, this one, bound to context 1, to a second page, which maps
the same memory; or with its descriptor where no page lies. -/
def collCopy (p : Word) : Copy := { copyOf (.collAr noTok 0 5 false) 1 1 with p := p }

def coll (p : Word) : State :=
  { flight (collCopy p) with
    groups := State.reset.groups.set 0 ⟨1, [0], 1, 0, some 1⟩
    mem := base.mem ++ [(0x2008, 0x0F), (0x7001, 0x80), (0x7009, 0x90), (0x700B, 0x40), (0x7010, 1)] }

/-- BAR1's window over the end of device memory. -/
def topBar : State := { State.reset with bar1 := State.reset.paTop - 2 ^ 35 }

theorem witness_LinkAndHostSteps : State.reset.power = .d0 ∧
    (State.reset.links[(0 : Fin 16)].up = true ∧ (flit 0).good = true ∧ (flit 0).seq = State.reset.links[(0 : Fin 16)].recvSeq ∧
      (flit 0).msgs ≠ [] ∧ (flit 1).seq ≠ State.reset.links[(0 : Fin 16)].recvSeq) ∧
    ((linked fun x => { x with unacked := 3 }).links[(0 : Fin 16)].unacked ≠ 0 ∧ (linked fun x => { x with unacked := 3 }).links[(0 : Fin 16)].up = true) ∧
    ((linked fun x => { x with retraining := true }).links[(0 : Fin 16)].retraining = true) ∧
    (State.reset.links[(0 : Fin 16)].rung ≠ 3 ∧ State.reset.links[(0 : Fin 16)].lanes &&& ~~~State.reset.links[(0 : Fin 16)].intact = 0 ∧
      State.reset.links[(0 : Fin 16)].lanes.getLsbD 15 = true) ∧
    ((linked fun x => { x with rung := 1, lanes := 0xFF, half := some false }).links[(0 : Fin 16)].lanes.getLsbD 15 = false) ∧
    ((linked fun x => { x with rung := 3, lanes := 0 }).links[(0 : Fin 16)].rung = 3) ∧
    (((coll 0x7000).inst 0).copy 0 = some (collCopy 0x7000) ∧ isColl (collCopy 0x7000).instr = true ∧ (collCopy 0x7000).fault = none ∧
      ((coll 0x7000).inst 0).heldBack (collCopy 0x7000) = false ∧ ((coll 0x7000).commitColl 0 (collCopy 0x7000) [] true).toBool = true ∧
      ((coll 0x80000000).inst 0).copy 0 = some (collCopy 0x80000000) ∧ ((coll 0x80000000).inst 0).heldBack (collCopy 0x80000000) = false ∧
      (match (coll 0x80000000).commitColl 0 (collCopy 0x80000000) [] true with
        | .error (.fault ca v) => ca == Cause.pageR && v == 0x80000000
        | _ => false) = true) ∧
    ((0 : Fin 64).val < (coll 0).groups[(0 : Fin 64)].size ∧ (coll 0).groups[(0 : Fin 64)].live.getLsbD 0 = true) ∧
    (State.reset.bringUp = 7 ∧ State.reset.quiescing = false ∧ topBar.bar1 ≤ State.reset.paTop - 8 ∧
      State.reset.paTop - 8 + 16 ≤ topBar.bar1 + 2 ^ 36 ∧ topBar.bringUp = 7 ∧ topBar.quiescing = false ∧ topBar.paTop = State.reset.paTop ∧
      State.reset.paTop - 8 + [1, 2, 3, 4, 5, 6, 7, (8 : Byte)].length ≤ State.reset.paTop ∧
      State.reset.paTop < State.reset.paTop + [(1 : Byte)].length ∧ State.reset.paTop - 8 + 8 ≤ State.reset.paTop ∧
      (State.reset.paTop - 8) % 8 = 0 ∧ State.reset.poisoned (State.reset.paTop - 8) 8 = false ∧
      State.reset.paTop < State.reset.paTop - 4 + 8) := by
  refine ⟨?_, ?_, ?_, ?_, ?_, ?_, ?_, ⟨flight_copy _ rfl, ?_, ?_, ?_, ?_, flight_copy _ rfl, ?_⟩, ?_, ?_⟩ <;> and_intros <;> decide +kernel

/-- An instruction goes on to a next state that satisfies a test and is not that of a trap. -/
def runsTo (i : Instr) (s : State) (p : State → Bool) : Bool :=
  match exec i s with
  | .next t => !s.cur.fw && t.cores[s.cur.core].occupant.isSome && !(t.inst s.cur.core).handler && (t.inst s.cur.core).pending.isNone && p t
  | _ => false

theorem runs {i : Instr} {s : State} (p : State → Bool) (h : runsTo i s p = true) :
    ∃ t, exec i s = .next t ∧ ¬s.trapped t ∧ p t = true := by
  unfold runsTo at h
  split at h
  · simp only [Bool.and_eq_true, Bool.not_eq_true', Option.isNone_iff_eq_none] at h
    exact ⟨_, ‹_›, not_trapped h.1.1.1.1 h.1.1.1.2 h.1.1.2 h.1.2, h.2⟩
  · cases h

theorem witness_ScalarFrame :
    (scuForm (.add 3 1 2) = some ([1, 2], some 3) ∧
      ∃ t, exec (.add 3 1 2) (regs 5 7 0) = .next t ∧ ¬(regs 5 7 0).trapped t ∧ (t.readS 0 3 == 12) = true) ∧
    (scuForm (.stw 1 2 0) = some ([2, 1], none) ∧
      ∃ t, exec (.stw 1 2 0) (regs 0xABCD 0x7000 0) = .next t ∧ ¬(regs 0xABCD 0x7000 0).trapped t ∧ (t.mem.get 0x7001 == 0xAB) = true) ∧
    (scuForm (.jal 1) = some ([], some 47) ∧ ∃ t, exec (.jal 1) base = .next t ∧ ¬base.trapped t ∧ (t.inst 0).slot.isSome = true) ∧
    (scuForm (.csrw 1 0x043) = some ([1], none) ∧
      ∃ t, exec (.csrw 1 0x043) modes = .next t ∧ ¬modes.trapped t ∧ ((t.inst 0).sys.fmode == 4) = true) := by
  refine ⟨⟨rfl, runs _ ?_⟩, ⟨rfl, runs _ ?_⟩, ⟨rfl, runs _ ?_⟩, rfl, runs _ ?_⟩ <;> decide +kernel

theorem witness_VectorFrame :
    (vecForm (.viadd noTok 3 1 1 .i32 0) = some ([1, 1], [3], none, false) ∧ infinite.cur.src = .ve ∧
      ∃ t, exec (.viadd noTok 3 1 1 .i32 0) infinite = .next t ∧ ¬infinite.trapped t ∧ ((t.inst 0).v[3][511] == 0xFF000000) = true) ∧
    (vecForm (.vst noTok 1 2 0 .f32 1) = some ([2, 1], [], none, false) ∧ bases.cur.src = .ve ∧
      ∃ t, exec (.vst noTok 1 2 0 .f32 1) bases = .next t ∧ ¬bases.trapped t ∧ ((t.inst 0).ve.pc == 4) = true) := by
  refine ⟨⟨rfl, rfl, runs _ ?_⟩, rfl, rfl, runs _ ?_⟩ <;> decide +kernel

theorem witness_MatrixFrame :
    (matForm (.tfree noTok 3) = some (some 3, [], false) ∧ (from' .me tiles).cur.src = .me ∧
      ∃ t, exec (.tfree noTok 3) (from' .me tiles) = .next t ∧ ¬(from' .me tiles).trapped t ∧ ((t.inst 0).tiles[3]).isNone = true) ∧
    (matForm lrsetInstr = some (some 3, [5, 6], false) ∧ streams.cur.src = .me ∧
      ∃ t, exec lrsetInstr streams = .next t ∧ ¬streams.trapped t ∧ ((t.inst 0).me.pc == 4) = true) := by
  refine ⟨⟨rfl, rfl, runs _ ?_⟩, rfl, rfl, runs _ ?_⟩ <;> decide +kernel

/-- The next step is that of an agent, with words in its instruction memory. -/
def next (a : Action) (s : State) : State := { s with agenda := [a] }

/-- The ME and the CE at their words, the helper at its own, and entries in q0, q1 and q3. -/
def words (w : Word32) : State := onInst fun i =>
  let m := cellsFrom 0 (leBytes 4 w.toNat)
  { i with scu := { i.scu with imem := m }, me := { i.me with imem := m }, ce := { i.ce with imem := m }, helper := some ⟨0, 7⟩,
           qw := ((i.qw.set 0 [0x0F000400]).set 1 [0x10000000, 0]).set 3 [0x7002] }

/-- A PC outside the memory, and a seg whose second word is. -/
def outside (pc : Nat) : State := onInst fun i => { i with scu := { i.scu with pc := pc } }

/-- A seg in the last word of the instruction memory of the SCU. -/
def lastSeg : State := onInst fun i => { i with scu := { i.scu with pc := 65532, imem := cellsFrom 65532 (leBytes 4 0xE800ABC1) } }

/-- A tmov of t0 to t1 whose element (0, 0) of t0 was read ahead, as 7; a vtwr has written 5 there since. -/
def readAhead : State := onInst fun i =>
  { i with me := { i.me with imem := cellsFrom 0 (leBytes 4 0x14080000) }, doneMe := [(0, [(0, 0, 7)])],
           tiles := (i.tiles.set 0 (some ⟨.d32, List.replicate 64 (Vector.replicate 64 5), 0⟩)).set 1
             (some ⟨.d32, List.replicate 64 (Vector.replicate 64 0), 0⟩) }

theorem witness_StepRunsDecoded :
    ((readAhead.inst 0).doneMe ≠ [] ∧ (readAhead.inst 0).mayIssue false .me = true ∧
      decode .me ((readAhead.inst 0).me.wordAt 0).toNat 0 = .ok (.tmov noTok 1 0)) ∧
    ((lastSeg.inst 0).nextPc .scu < imemSize .scu ∧ isSegWord .scu ((lastSeg.inst 0).scu.wordAt 65532).toNat = true ∧
      imemSize .scu ≤ (lastSeg.inst 0).nextPc .scu + 4 ∧ (lastSeg.inst 0).mayIssue (lastSeg.asked 0) .scu = true) ∧
    ((next (.issue 0 .scu) (words 0x40513FFD)).power = .d0 ∧ (words 0x40513FFD).cores[(0 : CoreNo)].occupant.isSome = true ∧
      ((words 0x40513FFD).inst 0).mayIssue false .scu = true ∧ ((words 0x40513FFD).inst 0).nextPc .scu < imemSize .scu ∧
      (((words 0x40513FFD).inst 0).scu.wordAt 0) = 0x40513FFD ∧ isSegWord .scu 0x40513FFD = false ∧
      decode .scu 0x40513FFD 0 = .ok (.addi 5 4 0x3FFD)) ∧
    (((words 0x23000000).inst 0).mayIssue false .me = true ∧ decode .me 0x23000000 0 = .error (.absentClass 11)) ∧
    (((words 0x14000000).inst 0).mayIssue false .ce = true ∧ helperOnly (majorOf .ce 0x14000000) = true ∧
      ((words 0x14000000).inst 0).mayIssue false .helper = true ∧ helperMajor (majorOf .ce 0x14000000) = true ∧
      ¬2 ^ 30 ≤ (0x14000000 : Nat) ∧ (decode .ce 0x14000000 0).toBool = true ∧ helperMajor (majorOf .ce 0x1E000000) = false) ∧
    ((decode .scu 0xFF000000 0).toBool = false) ∧
    (imemSize .scu ≤ ((outside 65536).inst 0).nextPc .scu ∧ ((outside 65536).inst 0).mayIssue false .scu = true) ∧
    (((words 0).inst 0).mayIssue false .q0 = true ∧ ((words 0).inst 0).qw[0] = [0x0F000400] ∧
      decode .ce ((0x0F000400 : Word).setWidth 32).toNat 0 = .ok (.acwait noTok 1)) ∧
    (((words 0).inst 0).mayIssue false .q1 = true ∧ ((words 0).inst 0).qw[1] = [0x10000000, 0] ∧
      (decode .ce ((0x10000000 : Word).setWidth 32).toNat 0).toBool = true) ∧
    (((words 0).inst 0).mayIssue false .q3 = true ∧ ((words 0).inst 0).qw[3] = [0x7002] ∧ isColl (q3Instr 0x7002) = true) ∧
    ((ended.inst 0).mayIssue false .ve = false ∧ State.reset.cores[(0 : CoreNo)].occupant = none) ∧
    ((match (ringed .active false launchPacket).turn 8 with
        | .inr (.launch _ first _) => first == 0x7000
        | _ => false) = true ∧ (match (ringed .idle false launchPacket).turn 8 with
        | .inl t => t.agenda.isEmpty
        | _ => false) = true) ∧
    ((match (onInst fun i => { i with qw := i.qw.set 5 [0x100] }).mailTurn 0 with
        | .inr (.echo g x) => g == 0 && x == 1
        | _ => false) = true ∧ (match base.mailTurn 0 with
        | .inl t => t.agenda.isEmpty
        | _ => false) = true) ∧
    (next (.event .d3hotExit) base).agenda = [.event .d3hotExit] ∧ ownStep .d3hotExit = true ∧ ownStep (.meNop noTok) = false ∧ base.agenda = [] := by
  and_intros <;> decide +kernel

theorem witness_EncodingRoundTrip : engineOf (.scuSeg 0xFFFFFF 0xFFFF) = some .scu ∧ wellFormed (.scuSeg 0xFFFFFF 0xFFFF) = true ∧
    engineOf (.collBc noTok 15 63 true) = some .ce ∧ wellFormed (.collBc noTok 15 63 true) = true := by decide +kernel

theorem witness_ResetAndStart : (base.task (⟨0, 5⟩ : Occupant).task).isSome = true ∧ ((base.task 0).bind Task.image).isSome = true ∧
    3 < (47 : Fin 48).val ∧ 0 < (15 : Fin 16).val ∧
    (∀ e ∈ (((base.task 0).bind Task.image).map (·.streams)).getD [], e.1 ≠ (15 : Fin 16)) ∧
    ({ passes2 with streams := [(3, zOf 0x151 64)] } : Image).streams = [(3, zOf 0x151 64)] := by
  and_intros <;> first | rfl | decide +kernel

/-- A step of its own comes next. -/
def own (i : Instr) : State := next (.event i) base

/-- What a test reads of the next state. -/
def after {α : Type} (o : Outcome State Fault Refusal) (p : State → α) : Option α :=
  match o with
  | .next t => some (p t)
  | _ => none

/-- The tests of a step's outcome. -/
def goes (s : State) : Bool :=
  match step s with
  | .next _ => true
  | _ => false

theorem witness_StepKeepsMemory : Memory.wf (own (.hostBar1Write 0x7000 [1])).mem = true ∧
    after (step (own (.hostBar1Write 0x7000 [1]))) (fun t => t.mem.get 0x7000) = some 1 := by decide +kernel

theorem witness_RungsOnlyStepDown : goes (own (.marginTest (.me 191) true true)) = true ∧
    goes (own (.foxglove (.channel 5) true)) = true := by decide +kernel

/-- 06 R193: the tmov copies the element that it read, and t0 keeps the one that the vtwr wrote. -/
theorem test_tile_read_ahead : (match step (next (.issue 0 .me) readAhead) with
    | .next t => ((t.inst 0).tiles[1]).map (fun x => (x.word 0 0, x.word 0 1)) == some (7, 5) &&
        ((t.inst 0).tiles[0]).map (fun x => x.word 0 0) == some 5 && (t.inst 0).doneMe.isEmpty
    | _ => false) = true := by decide +kernel

theorem witness_StepNeverRefuses : (match step (next (.event (.hostBar1Write State.reset.paTop [1])) topBar) with
    | .fault f => decide (f = .outsideMemory State.reset.paTop)
    | _ => false) = true := by decide +kernel

/-- The blocks of 07's worked predicate, instances 0 and 1: coordinates, then indices. -/
def pairOf (x y : Nat) : Lanes :=
  (((zeroLanes.set 0 (BitVec.ofNat 32 x)).set 1 (BitVec.ofNat 32 (x / 2 ^ 32))).set 2 (BitVec.ofNat 32 y)).set 3 (BitVec.ofNat 32 (y / 2 ^ 32))

def worked (t : Bool) : InFlight :=
  let one := 0x3FF0000000000000
  let two := 0x4000000000000000
  ⟨.vorient2 noTok 1 2 (if t then 8 else 0) t false .f64 1, 0, 0, 0,
    [pairOf 0 0, pairOf 0 0, pairOf one one, pairOf one 0, pairOf two 0, pairOf two one] ++
      (if t then [pairOf 7 0, pairOf 3 1, pairOf 12 2] else []), 3, 0, []⟩

-- Further clauses of the statements.

theorem witness_WriteDestination_more : queueNo 50 = some 2 ∧ queueNo 60 = some 12 ∧ queueNo 63 = some 15 ∧ neighbour 6 12 = some 0 ∧
    neighbour 1 15 = some 0 ∧ (base.modCore 6 fun c => { c with occupant := some ⟨0, 1⟩ }).hasRoom 6 60 = true ∧
    (base.inst 0).asm.pos = 0 ∧ ((9 : Word).toNat % 16 < 10 ∧ (9 : Word).toNat < 4096 ∧ (9 : Word).getLsbD 5 = false) ∧
    ¬((10 : Word).toNat % 16 < 10) ∧ (0x20 : Word).getLsbD 5 = true ∧ base.windowOpenFor 0 0 = false ∧
    ((assembling.inst 0).asm.pos = 1 ∧ (0x1004 : Word).toNat % 8 ≠ 0 ∧ (0x1008 : Word).toNat % 8 = 0 ∧
      assembling.translate (some 0) 1 0x1008 .both = .ok 0x1008 ∧ assembling.translate (some 0) 1 0x40000000 .both = .error .pageW) ∧
    (∀ n ∈ [4, 5], ((onInst fun i => { i with asm := ⟨2, 0, 0x1000⟩, q2w := List.replicate n (atomic 0) }).inst 0).q2w.length = n) ∧
    (onInst fun i => { i with asm := ⟨2, 0x20, 0x1000⟩ }).windowOpenFor 0 0 = false := by
  and_intros <;> decide +kernel

theorem witness_MonitorWaits_waits : ((queues 0).inst 0).wmon.isSome = true := rfl

theorem witness_ScalarStreamControl_end : (brokenScu.inst 0).slot = none ∧ (brokenScu.inst 0).asm.pos = 0 ∧
    ((brokenScu.inst 0).scu.count 0).mismatch = true ∧ (handling 0 false).cur.fw = false := by decide +kernel

theorem witness_ConditionalStreams_stops : vOperandChecks [] (some 3) = .ok () ∧
    ¬(slots (List.replicate 2048 (⟨false, 0⟩ : Record)) + 1 * 1 ≤ 2048) ∧
    (∃ r ∈ ((records.inst 0).cond 28).take 1, r.wide ≠ false) ∧ ((records.inst 0).cond 29).length < 1 := by
  and_intros
  · decide +kernel
  · decide +kernel
  · exact ⟨⟨true, 5⟩, by decide +kernel, by decide⟩
  · decide +kernel

theorem witness_HollyhockSettles_rules :
    specialRule (flying 0).instr .f32 (elemAt .e32 ((flying 0).srcs.headD zeroLanes) 0) = some (0x3F800000, 0) ∧
    specialRule (flying 0x7FA00000).instr .f32 (elemAt .e32 ((flying 0x7FA00000).srcs.headD zeroLanes) 0) = some (0x7FC00000, 1) ∧
    (signRule (worked false).instr).map (fun r => (r.1, r.2.1, r.2.2.2.1, r.2.2.2.2.1)) = some (false, false, 2, 3) ∧
    (worked false).srcs.length = 2 * 3 ∧ (signRule (worked true).instr).map (fun r => r.1) = some true ∧ (worked true).srcs.length = (2 + 1) * 3 ∧
    (decodeF (HFmt.fmt .f64) (elemAt .e64 ((worked true).srcs.getD 0 zeroLanes) 1)).isFin = true ∧
    (decodeF (HFmt.fmt .f64) (elemAt .e64 (pairOf 0x7FF0000000000000 0) 0)).isFin = false := by
  and_intros <;> decide +kernel

theorem witness_EngineStreamControl_counts : 0 < (1 : Fin 8192).val ∧ 0 < (127 : Fin 128).val ∧
    loopOk .me (brokenMe.inst 0).me 0 1 = true ∧ (from' .me base).tokReady noTok = true := by decide +kernel

theorem witness_TilePool_stops : (tiles.inst 0).tiles[(31 : TReg)] = none ∧ (tiles.inst 0).tiles[(1 : TReg)] = some (tile 1) ∧
    (tile 1).form ≠ .lr ∧ (tiles.inst 0).tiles[(2 : TReg)] = some (tile 2) ∧ (tile 1).form ≠ (tile 2).form ∧
    (tile 3).form = (tile 4).form ∧ (tile 3).rows.length ≠ (tile 4).rows.length := by
  and_intros <;> decide +kernel

/-- A unit whose word at 0x2000 of W is still to be written. -/
def cpBegun : Copy := { cpUnit with begun := some (0, [⟨1, [(0x2000, 5)]⟩]) }

theorem witness_QueueSteps_begun : ((flight cpBegun).inst 0).copy 0 = some cpBegun ∧
    ((flight layout).inst 0).larkspur = some layout ∧ (queues 0).wmonRuns 0 = true ∧ monitorHolds .eq false 0x2001 0 = false :=
  ⟨flight_copy _ rfl, flight_layout, by decide +kernel, by decide⟩

/-- Copies of each kind that ArrivalCounting speaks of: cp into memory, spill, fill, cpx of a stored tile and of a plain one, cpn from W to A
and to memory. -/
def cpMem : Copy := { copyOf (.cp noTok 0 2 5 .mem .mem false 0) 8 1 with p := 0x7100 }

def spillUnit : Copy := { copyOf (.spill noTok 0 2 5 .w false) 8 1 with p := 0, q := 0 }

def fillUnit : Copy := { copyOf (.fill noTok 0 2 5 .a false) 8 1 with p := 0, q := 0 }

def cpxTile : Copy := { copyOf (.cpx noTok 0 2 5 .a false 0) 256 1 with p := 0 }

def cpnUnit (ctrl : Word32) : Copy := { copyOf (.cpn noTok 1 2 5 false) 4 1 with zp := zOf ctrl 1, zq := zOf 0x151 1 }

/-- A compressed buffer of one tile at 0x7000: its tile a zero tile, or stored in 5 bytes. -/
def packed (exp : Byte) (stored : Bool) : State :=
  { flight cpxTile with mem := base.mem ++ cellsFrom 0x7000 ([1, 0, exp, 0, 1, 0, 0, 0, 96] ++
      if stored then [0, 0, 0, 6] ++ List.replicate 51 0 ++ [6, 0, 0, 0x40] ++ List.replicate 28 0 ++ [1, 0, 0, 0, 1, 7] else []) }

/-- What unit 0 of a cpx reads of its tile. -/
def tileForm (s : State) : Option (Nat × Option (List Byte)) :=
  match s.readTile 0 cpxTile 0x7000 256 0 0 with
  | .ok (_, h, .plain _) => some (h.exp, none)
  | .ok (_, h, .stored bs _) => some (h.exp, some bs)
  | _ => none

theorem witness_ArrivalCounting_units :
    (cpUnit.ahead = [] ∧ cpUnit.kept = [] ∧ ((flight cpUnit).inst 0).copy 0 = some cpUnit ∧ ((flight cpUnit).readV (some 0) 1 0x7000 256).toBool = true ∧
      (((flight cpUnit).inst 0).bufRead .w 0x7000 4).toBool = true ∧ ((flight cpUnit).inst 0).tags .w = []) ∧
    (cpUnit.cpFrom .mem 0 = some (0, 0x7000) ∧ ((flight cpUnit).cpBytes 0 cpUnit .mem 0 0 0 256).toBool = true ∧ ((flight cpUnit).inst 0).copyDst cpUnit = some .w ∧
      cpMem.slot = none ∧ ((flight cpMem).cpBytes 0 cpMem .mem 0 0 0 8).toBool = true ∧
      ((flight cpMem).writeV (some 0) 1 0x7100 (List.replicate 8 0)).toBool = true) ∧
    (((flight spillUnit).sourceBytes 0 spillUnit 1 0 8 0).toBool = true ∧ ((flight fillUnit).inst 0).tags .a = [] ∧
      ((flight fillUnit).inst 0).spillBad = []) ∧
    (((packed 0 false).inst 0).copyDst cpxTile = some .a ∧ ((packed 0 false).inst 0).tags .a = [] ∧ 0 % 256 = 0 ∧
      tileForm (packed 0 false) = some (0, none) ∧ tileForm (packed 3 true) = some (3, some [1, 0, 0, 0, 1, 7]) ∧
      tileForm (packed 0 true) = some (0, some [1, 0, 0, 0, 1, 7])) ∧
    (((flight (cpnUnit 0x251)).readParts 0 (cpnUnit 0x251) (((flight (cpnUnit 0x251)).inst 0).placeOf (cpnUnit 0x251).zq none) 0
        ((unitParts 0 (cpnUnit 0x251).parts 0).map fun e => (e.1, e.2.2))).toBool = true ∧
      (((flight (cpnUnit 0x251)).inst 0).placeOf (cpnUnit 0x251).zp none).buf = some .a ∧
      (((flight (cpnUnit 0x51)).inst 0).placeOf (cpnUnit 0x51).zp none).buf = none ∧ (unitParts 0 (cpnUnit 0x251).parts 0).length = 1) ∧
    ((0 : Int) % 8 = 0 ∧ (base.writeV (some 0) 1 0 (leBytes 4 5)).toBool = true ∧ base.translate (some 0) 1 0 .write = .ok 0 ∧
      base.poisoned 0 64 = false) := by
  refine ⟨⟨rfl, rfl, flight_copy _ rfl, ?_⟩, ?_, ?_, ?_, ?_, ?_⟩ <;> and_intros <;> decide +kernel

theorem witness_TrapSteps_leaving : (replays.cores[(0 : CoreNo)].leaving = false ∧
      (replays.modCore 0 fun c => { c with leaving := true }).cores[(0 : CoreNo)].leaving = true ∧
      replays.cores[(191 : CoreNo)].free = true) ∧
    ((((replays.vacate 0).foxTest (.me 0) true).taskOn 0).isNone = true ∧
      (((replays.taskOn 0).bind Task.image).map fun im =>
        replays.chooseCores im (fun _ => Inst.reset.sys.capreq.setWidth 16) [[0]] 191 (((replays.vacate 0).foxTest (.me 0) true).unitDie 0 im))
        = some (some [(0, 191)])) := by
  and_intros <;> decide +kernel

theorem witness_InstanceSteps_pieces : (idle.cores[(0 : CoreNo)].piece = none ∧ (pieced 0).cores[(0 : CoreNo)].occupant = none ∧
      (pieced 0).cores[(0 : CoreNo)].shadow = none ∧ (pieced 0).cores[(0 : CoreNo)].piece ≠ none) ∧
    ((idle.task 0).bind fun t => t.image.bind fun im => idle.newLocks t im [0]) = some [] := by
  and_intros <;> decide +kernel

/-- Core 0 with an assist that is abandoned. -/
def abandoned : State := onInst fun i => { i with assist := some ⟨.meNop noTok, 0, 0, 0, true, 0, true⟩ }

/-- Line 0 in the L1D of core 0, and the granule of a partial write past the caches. -/
def cachedAt (d : BitVec 4) : State := { State.reset with l1 := [⟨0, 0, 0, 0, 0xF, d, 0⟩], partials := [(5, 0)] }

theorem witness_AgeingSteps_sites : (abandoned.cores[(0 : CoreNo)].empty = false ∧ (abandoned.inst 0).assist.any (·.abandoned) = true ∧
      (frozen.inst 0).assist.any (·.abandoned) = false) ∧ ((halved true).quiet = true ∧ base.quiet = false) ∧
    ((cachedAt 1).cacheCopy 0 (.l1d 0) = some (true, 0) ∧ (cachedAt 0).cacheCopy 0 (.l1d 0) = some (false, 0) ∧
      (dirty 0).cacheCopy 0 .l2 = some (true, 0) ∧ (dirty 0xFFFF).cacheCopy 0 .l2 = some (true, 0xFFFF) ∧ (dirty 0).cacheCopy 2 .l2 = some (false, 0)) ∧
    ((dirty 0).l2Sector 0).isSome = true ∧ ((cachedAt 0).partWrite 5 = true ∧ (cachedAt 0).dirtyLine 5 = false) := by
  and_intros <;> decide +kernel

/-- The module in D3cold with a certificate of its own keys; with images below the rollback floor; without helper data. -/
def cold (floor : Nat) (h : Option Nat) : State :=
  { powered .d3cold with flash := { Flash.reset with floor := floor, helper := h, certificate := (Config.rootKeys 0).identity } }

theorem witness_PowerSteps_roots : (∃ h, (cold 0 (some 0)).flash.helper = some h ∧ (Config.rootKeys h).identity = (cold 0 (some 0)).flash.certificate) ∧
    (¬∃ h, (cold 0 none).flash.helper = some h ∧ (Config.rootKeys h).identity = (cold 0 none).flash.certificate) ∧
    (∀ k : Fin 2, ¬(cold 2 (some 0)).flash.floor ≤ (cold 2 (some 0)).flash.slots[k].version) ∧
    trainPort ⟨true, 640, 2⟩ = none ∧ trainPort ⟨true, 640, 8⟩ = some (640, 8) ∧ (halved false).idle = true ∧ base.idle = false := by
  refine ⟨⟨0, rfl, rfl⟩, ?_, ?_, ?_, ?_, ?_, ?_⟩
  · rintro ⟨h, h1, _⟩; cases h1
  all_goals decide +kernel

/-- What lies in the inbox of link 0: a message for this module, an answer, one to be forwarded. -/
def inboxed (dest : Nat) (m : Message) : State :=
  { linked fun x => { x with inbox := [⟨1, dest, (0, 0, 0), m⟩] } with
    mem := base.mem, roots := base.roots, routes := [(1, [0]), (2, [1])] }

/-- A collective that has committed, its STATUS at 0x7100. -/
def committed : State := flight { collCopy 0x7000 with committed := some ⟨0x7100, none⟩ }

theorem witness_LinkAndHostSteps_messages :
    ((inboxed 0 (.answer .landed)).pod = 0 ∧ (inboxed 0 (.answer .landed)).links[(0 : Fin 16)].inbox = [⟨1, 0, (0, 0, 0), .answer .landed⟩] ∧
      ((inboxed 0 (.unit 1 0x7000 [1])).writeV none 1 0x7000 [1]).toBool = true ∧
      (match (inboxed 0 (.unit 0xFFFF 0x7000 [1])).writeV none 7 0x7000 [1] with
        | .error (c, _) => c == .pageW
        | .ok _ => false) = true ∧
      ((inboxed 2 (.unit 1 0x7000 [1])).route 2 = some 1 ∧
        ((inboxed 2 (.unit 1 0x7000 [1])).send 1 ⟨1, 2, (0, 0, 0), .unit 1 0x7000 [1]⟩).isSome = true) ∧
      (inboxed 3 (.answer .landed)).route 3 = none) ∧
    ((linked fun x => { x with far := some 1, rung := 3 }).links[(0 : Fin 16)].far = some 1 ∧ (0 : Nat) < 240) ∧
    (committed.finishColl 0 { collCopy 0x7000 with committed := some ⟨0x7100, none⟩ } ⟨0x7100, none⟩).toBool = true ∧
    ({ coll 0 with failed := [1] } : State).lostModule 1 = true ∧ (coll 0).lostModule 0 = false ∧ (coll 0).lostModule 5 = true := by
  and_intros <;> decide +kernel

theorem witness_LinkAndHostSteps_commit :
    ((committed.inst 0).copy 0 = some { collCopy 0x7000 with committed := some ⟨0x7100, none⟩ }) ∧
    (match (coll 0x7000).commitColl 0 (collCopy 0x7000) [] true with
      | .ok (t, m) => ((t.modInst 0 fun i => i.modCopy 0 fun y => { y with committed := some m }).finishColl 0
          { collCopy 0x7000 with committed := some m } m).toBool
      | .error _ => false) = true := ⟨flight_copy _ rfl, by decide +kernel⟩

/-- The VE with what it needs for the rest of its words: a tile, a record in stream A, Hollyhock idle. -/
def lanes : State := from' .ve (tiles.modInst 0 fun i => { i with condA := [⟨true, 5⟩], k := i.k.set 1 1 })

theorem witness_VectorFrame_more :
    (vecForm (.vtwr noTok 1 1 .row 0 .f32 1) = some ([1], [], none, false) ∧ vecTile (.vtwr noTok 1 1 .row 0 .f32 1) = some 1 ∧
      ∃ t, exec (.vtwr noTok 1 1 .row 0 .f32 1) lanes = .next t ∧ ¬lanes.trapped t ∧ ((t.inst 0).ve.pc == 4) = true) ∧
    (vecForm (.vpopExp noTok 3 28 .b64 1) = some ([], [3], none, false) ∧ vecCond (.vpopExp noTok 3 28 .b64 1) = some 28 ∧
      ∃ t, exec (.vpopExp noTok 3 28 .b64 1) lanes = .next t ∧ ¬lanes.trapped t ∧ ((t.inst 0).condA == []) = true) ∧
    (vecForm (.vexp noTok 3 1 .rne .f32 1) = some ([1], [], none, false) ∧
      ∃ t, exec (.vexp noTok 3 1 .rne .f32 1) bases = .next t ∧ ¬bases.trapped t ∧ (t.inst 0).hollyhock.isSome = true) ∧
    (vecForm (.vflgCtm noTok) = some ([], [], none, false) ∧
      ∃ t, exec (.vflgCtm noTok) bases = .next t ∧ ¬bases.trapped t ∧ ((t.inst 0).trapMask == 0) = true) := by
  refine ⟨⟨rfl, rfl, runs _ ?_⟩, ⟨rfl, rfl, runs _ ?_⟩, ⟨rfl, runs _ ?_⟩, rfl, runs _ ?_⟩ <;> decide +kernel

theorem witness_MatrixFrame_more :
    (matForm (.mrd noTok 3 .row 0) = some (none, [], false) ∧
      ∃ t, exec (.mrd noTok 3 .row 0) (from' .me tiles) = .next t ∧ ¬(from' .me tiles).trapped t ∧ ((t.inst 0).vq[0].length == 1) = true) ∧
    (matForm (.lrrank noTok 3) = some (none, [], false) ∧
      ∃ t, exec (.lrrank noTok 3) (from' .me tiles) = .next t ∧ ¬(from' .me tiles).trapped t ∧ ((t.inst 0).qr[9] == [1]) = true) ∧
    ((ceForm (.acset noTok 2 63)).isSome = true ∧ pairs.cur.src.engine = .ce ∧
      ∃ t, exec (.acset noTok 2 63) pairs = .next t ∧ ¬pairs.trapped t ∧ ((t.inst 0).a[63].value == 0x7000) = true) ∧
    ((ceForm (.cp noTok 0 2 5 .w .mem false 0)).isSome = true ∧
      ∃ t, exec (.cp noTok 0 2 5 .w .mem false 0) pairs = .next t ∧ ¬pairs.trapped t ∧ ((t.inst 0).ce.pc == 4) = true) := by
  refine ⟨⟨rfl, runs _ ?_⟩, ⟨rfl, runs _ ?_⟩, ⟨rfl, rfl, runs _ ?_⟩, rfl, runs _ ?_⟩ <;> decide +kernel

theorem witness_ResetAndStart_tables :
    (([((3 : Fin 16), zOf 0x151 64), (3, zOf 0x251 64)].filter fun e => e.1 == 3).getLast?).map (·.2) = some (zOf 0x251 64) ∧
    (ringVector [⟨0, 7, 4, 256, 512⟩] 0)[(7 : Fin 8)] = some ⟨256, 512, 4, 0, 0, 0, []⟩ := by decide +kernel

/-! Decoding: words written out from the encoding tables of 02, 06, 07 and 08. -/

theorem test_decode_scu_1 : decode .scu 0x06AAEC00 0 = .ok (.add 42 43 44) ∧
    decode .scu 0x0AAAEC00 0 = .ok (.sub 42 43 44) ∧
    decode .scu 0x0EAAEC00 0 = .ok (.and 42 43 44) ∧
    decode .scu 0x12AAEC00 0 = .ok (.or 42 43 44) ∧
    decode .scu 0x16AAEC00 0 = .ok (.xor 42 43 44) ∧
    decode .scu 0x1AAAEC00 0 = .ok (.shl 42 43 44) ∧
    decode .scu 0x1EAAEC00 0 = .ok (.shr 42 43 44) ∧
    decode .scu 0x22AAEC00 0 = .ok (.sar 42 43 44) ∧
    decode .scu 0x26AAEC00 0 = .ok (.slt 42 43 44) ∧
    decode .scu 0x26AAEC01 0 = .ok (.sltu 42 43 44) ∧
    decode .scu 0x2AAAEC00 0 = .ok (.mul 42 43 44) ∧
    decode .scu 0x2EAAEC00 0 = .ok (.mulh 42 43 44) ∧
    decode .scu 0x2EAAEC01 0 = .ok (.mulhu 42 43 44) ∧
    decode .scu 0x32AAEC00 0 = .ok (.div 42 43 44) ∧
    decode .scu 0x32AAEC01 0 = .ok (.divu 42 43 44) ∧
    decode .scu 0x36AAEC00 0 = .ok (.rem 42 43 44) ∧
    decode .scu 0x36AAEC01 0 = .ok (.remu 42 43 44) ∧
    decode .scu 0x3AAAEC00 0 = .ok (.min 42 43 44) := by
  and_intros <;> decide +kernel

theorem test_decode_scu_2 : decode .scu 0x3AAAEC01 0 = .ok (.minu 42 43 44) ∧
    decode .scu 0x3EAAEC00 0 = .ok (.max 42 43 44) ∧
    decode .scu 0x3EAAEC01 0 = .ok (.maxu 42 43 44) ∧
    decode .scu 0x42AAC429 0 = .ok (.addi 42 43 1065) ∧
    decode .scu 0x46AAC6FF 0 = .ok (.andi 42 43 1791) ∧
    decode .scu 0x4AAAC9D7 0 = .ok (.ori 42 43 2519) ∧
    decode .scu 0x4EAACCAD 0 = .ok (.xori 42 43 3245) ∧
    decode .scu 0x52AAC02C 0 = .ok (.shli 42 43 44) ∧
    decode .scu 0x56AAC02C 0 = .ok (.shri 42 43 44) ∧
    decode .scu 0x5AAAC02C 0 = .ok (.sari 42 43 44) ∧
    decode .scu 0x5EAAD809 0 = .ok (.slti 42 43 6153) ∧
    decode .scu 0x62AADAE1 0 = .ok (.sltui 42 43 6881) ∧
    decode .scu 0x66A05AE1 0 = .ok (.lui 42 23265) ∧
    decode .scu 0x6AA05DB7 0 = .ok (.pcadd 42 23991) ∧
    decode .scu 0x6EAAE365 0 = .ok (.ldb 42 43 9061) ∧
    decode .scu 0x72AAE63D 0 = .ok (.ldbu 42 43 9789) ∧
    decode .scu 0x76AAE913 0 = .ok (.ldh 42 43 10515) ∧
    decode .scu 0x7AAAEBEB 0 = .ok (.ldhu 42 43 11243) := by
  and_intros <;> decide +kernel

theorem test_decode_scu_3 : decode .scu 0x7EAAEEC1 0 = .ok (.ldw 42 43 11969) ∧
    decode .scu 0x82AAF199 0 = .ok (.ldwu 42 43 12697) ∧
    decode .scu 0x86AAF46F 0 = .ok (.ldd 42 43 13423) ∧
    decode .scu 0x8AAAF747 0 = .ok (.stb 42 43 14151) ∧
    decode .scu 0x8EAAFA1D 0 = .ok (.sth 42 43 14877) ∧
    decode .scu 0x92AAFCF5 0 = .ok (.stw 42 43 15605) ∧
    decode .scu 0x96AAFFCB 0 = .ok (.std 42 43 16331) ∧
    decode .scu 0x9AAAC2A3 0 = .ok (.beq 42 43 675) ∧
    decode .scu 0x9EAAC579 0 = .ok (.bne 42 43 1401) ∧
    decode .scu 0xA2AAC851 0 = .ok (.blt 42 43 2129) ∧
    decode .scu 0xA6AACB27 0 = .ok (.bge 42 43 2855) ∧
    decode .scu 0xAAAACDFF 0 = .ok (.bltu 42 43 3583) ∧
    decode .scu 0xAEAAD0D5 0 = .ok (.bgeu 42 43 4309) ∧
    decode .scu 0xB0008DFF 0 = .ok (.j 36351) ∧
    decode .scu 0xB40090D5 0 = .ok (.jal 37077) ∧
    decode .scu 0xBAAAC000 0 = .ok (.jalr 42 43) ∧
    decode .scu 0xBC0A995B 0 = .ok (.scuLoop 42 6491) ∧
    decode .scu 0xC2A01C31 0 = .ok (.csrr 42 7217) := by
  and_intros <;> decide +kernel

theorem test_decode_scu_4 : decode .scu 0xC40A9F09 0 = .ok (.csrw 42 7945) ∧
    decode .scu 0xCAAAEC0C 0 = .ok (.wmon 42 43 44 true .ltu) ∧
    decode .scu 0xCEAAEC58 0 = .ok (.amo 42 43 44 .rel true .swap) ∧
    decode .scu 0xD2AAEC40 0 = .ok (.cas 42 43 44 .rel false) ∧
    decode .scu 0xD400000E 0 = .ok (.fence .pod .all) ∧
    decode .scu 0xD8000008 0 = .ok (.scuTkw .me) ∧
    decode .scu 0xDC000002 0 = .ok (.scuTks .me) ∧
    decode .scu 0xE2AAEC00 0 = .ok (.spawn 42 43 44) ∧
    decode .scu 0xE4000000 0 = .ok (.scuSafe) ∧
    decode .scu 0xE800ABC1 0x00001021 = .ok (.scuSeg 0x00ABC1 0x1021) ∧
    decode .scu 0xEC000000 0 = .ok (.scuEnd) ∧
    decode .scu 0xF000BB6F 0 = .ok (.trap 47983) ∧
    decode .scu 0xF4000000 0 = .ok (.eret) := by
  and_intros <;> decide +kernel

theorem test_decode_ve_1 : decode .ve 0xC14364D5 0 = .ok (.vadd ⟨true, true⟩ 8 13 18 .rdn .bf16 5) ∧
    decode .ve 0x024364D5 0 = .ok (.vsub ⟨false, false⟩ 8 13 18 .rdn .bf16 5) ∧
    decode .ve 0x834364D5 0 = .ok (.vmul ⟨true, false⟩ 8 13 18 .rdn .bf16 5) ∧
    decode .ve 0x444364D5 0 = .ok (.vdiv ⟨false, true⟩ 8 13 18 .rdn .bf16 5) ∧
    decode .ve 0xC54340D7 0 = .ok (.vsqrt ⟨true, true⟩ 8 13 .rdn .bf16 7) ∧
    decode .ve 0x064364D5 0 = .ok (.vfma ⟨false, false⟩ 8 13 18 .rdn .bf16 5) ∧
    decode .ve 0x874364D5 0 = .ok (.vfms ⟨true, false⟩ 8 13 18 .rdn .bf16 5) ∧
    decode .ve 0x484364D5 0 = .ok (.vfnma ⟨false, true⟩ 8 13 18 .rdn .bf16 5) ∧
    decode .ve 0xC9436417 0 = .ok (.vmin ⟨true, true⟩ 8 13 18 .bf16 7) ∧
    decode .ve 0x0A436417 0 = .ok (.vmax ⟨false, false⟩ 8 13 18 .bf16 7) ∧
    decode .ve 0x8B434016 0 = .ok (.vsgnNeg ⟨true, false⟩ 8 13 .bf16 6) ∧
    decode .ve 0x4B434056 0 = .ok (.vsgnAbs ⟨false, true⟩ 8 13 .bf16 6) ∧
    decode .ve 0xCB436497 0 = .ok (.vsgnCp ⟨true, true⟩ 8 13 18 .bf16 7) ∧
    decode .ve 0x0B4364D7 0 = .ok (.vsgnXs ⟨false, false⟩ 8 13 18 .bf16 7) ∧
    decode .ve 0x8B434116 0 = .ok (.vsgnExp ⟨true, false⟩ 8 13 .bf16 6) ∧
    decode .ve 0x4C436437 0 = .ok (.viadd ⟨false, true⟩ 8 13 18 .i64 7) ∧
    decode .ve 0xCD436437 0 = .ok (.visub ⟨true, true⟩ 8 13 18 .i64 7) ∧
    decode .ve 0x0E436437 0 = .ok (.vimul ⟨false, false⟩ 8 13 18 .i64 7) := by
  and_intros <;> decide +kernel

theorem test_decode_ve_2 : decode .ve 0x8F436437 0 = .ok (.vand ⟨true, false⟩ 8 13 18 .i64 7) ∧
    decode .ve 0x50436437 0 = .ok (.vor ⟨false, true⟩ 8 13 18 .i64 7) ∧
    decode .ve 0xD1436437 0 = .ok (.vxor ⟨true, true⟩ 8 13 18 .i64 7) ∧
    decode .ve 0x12436437 0 = .ok (.vshl ⟨false, false⟩ 8 13 18 .i64 7) ∧
    decode .ve 0x93436437 0 = .ok (.vshr ⟨true, false⟩ 8 13 18 .i64 7) ∧
    decode .ve 0x54436437 0 = .ok (.vsar ⟨false, true⟩ 8 13 18 .i64 7) ∧
    decode .ve 0xD5436437 0 = .ok (.vimin ⟨true, true⟩ 8 13 18 .i64 7) ∧
    decode .ve 0x16436437 0 = .ok (.vimax ⟨false, false⟩ 8 13 18 .i64 7) ∧
    decode .ve 0x97336595 0 = .ok (.vcmp ⟨true, false⟩ 6 13 18 .un .bf16 5) ∧
    decode .ve 0x58336575 0 = .ok (.vicmp ⟨false, true⟩ 6 13 18 .ge .i64 5) ∧
    decode .ve 0xD94362DE 0 = .ok (.vcvt ⟨true, true⟩ 8 13 true .f64 .rdn .f16 6) ∧
    decode .ve 0x1A4340CF 0 = .ok (.vqnt ⟨false, false⟩ 8 13 .rdn .e5 7) ∧
    decode .ve 0x9B436427 0 = .ok (.vxacc ⟨true, false⟩ 8 13 18 .i32 7) ∧
    decode .ve 0x5C4324CD 0 = .ok (.vxrnd ⟨false, true⟩ 8 12 18 .rdn .f64 5) ∧
    decode .ve 0xDD43640F 0 = .ok (.vperm ⟨true, true⟩ 8 13 18 .b64 7) ∧
    decode .ve 0x1E43590F 0 = .ok (.vbcast ⟨false, false⟩ 8 13 200 .b64 7) ∧
    decode .ve 0x9F43656F 0 = .ok (.vslide ⟨true, false⟩ 8 13 18 45 7) ∧
    decode .ve 0x6043640F 0 = .ok (.vsel ⟨false, true⟩ 8 13 18 .b64 7) := by
  and_intros <;> decide +kernel

theorem test_decode_ve_3 : decode .ve 0xE14340CF 0 = .ok (.vredsum ⟨true, true⟩ 8 13 .rdn .f64 7) ∧
    decode .ve 0x2243402E 0 = .ok (.vredmin ⟨false, false⟩ 8 13 .u32 6) ∧
    decode .ve 0xA243406E 0 = .ok (.vredmax ⟨true, false⟩ 8 13 .u32 6) ∧
    decode .ve 0x63434036 0 = .ok (.viredsum ⟨false, true⟩ 8 13 .i64 6) ∧
    decode .ve 0xE443415F 0 = .ok (.vld ⟨true, true⟩ 8 13 5 .f16 7) ∧
    decode .ve 0x2543415F 0 = .ok (.vst ⟨false, false⟩ 8 13 5 .f16 7) ∧
    decode .ve 0xA643659D 0 = .ok (.vlds ⟨true, false⟩ 8 13 18 6 .f16 5) ∧
    decode .ve 0x6743659D 0 = .ok (.vsts ⟨false, true⟩ 8 13 18 6 .f16 5) ∧
    decode .ve 0xE843659D 0 = .ok (.vgath ⟨true, true⟩ 8 13 18 6 .f16 5) ∧
    decode .ve 0x2943659D 0 = .ok (.vscat ⟨false, false⟩ 8 13 18 6 .f16 5) ∧
    decode .ve 0xAA44FB65 0 = .ok (.vtrd ⟨true, false⟩ 8 19 .anti 45 .i32 5) ∧
    decode .ve 0x6B44FB65 0 = .ok (.vtwr ⟨false, true⟩ 8 19 .anti 45 .i32 5) ∧
    decode .ve 0xEC400007 0 = .ok (.vflgRd ⟨true, true⟩ 8 7) ∧
    decode .ve 0x2C048047 0 = .ok (.vflgClr ⟨false, false⟩ 18 7) ∧
    decode .ve 0xAC020087 0 = .ok (.vflgWr ⟨true, false⟩ 8 7) ∧
    decode .ve 0x6C34C0C5 0 = .ok (.vflgAny ⟨false, true⟩ 6 19 5) ∧
    decode .ve 0xEC300100 0 = .ok (.vflgTm ⟨true, true⟩ 6) ∧
    decode .ve 0x2C000140 0 = .ok (.vflgCtm ⟨false, false⟩) := by
  and_intros <;> decide +kernel

theorem test_decode_ve_4 : decode .ve 0xAD43400E 0 = .ok (.vpush ⟨true, false⟩ 8 13 .b64 6) ∧
    decode .ve 0x6E434A08 0 = .ok (.vpopPack ⟨false, true⟩ 8 13 5 .b64) ∧
    decode .ve 0xEE43404E 0 = .ok (.vpopExp ⟨true, true⟩ 8 13 .b64 6) ∧
    decode .ve 0x2F4340CF 0 = .ok (.vexp ⟨false, false⟩ 8 13 .rdn .f64 7) ∧
    decode .ve 0xB04340CF 0 = .ok (.vlog ⟨true, false⟩ 8 13 .rdn .f64 7) ∧
    decode .ve 0x714340CF 0 = .ok (.verf ⟨false, true⟩ 8 13 .rdn .f64 7) ∧
    decode .ve 0xF240E50E 0 = .ok (.vorient2 ⟨true, true⟩ 8 3 18 true false .f64 6) ∧
    decode .ve 0x3340E58E 0 = .ok (.vorient3 ⟨false, false⟩ 8 3 18 true true .f64 6) ∧
    decode .ve 0xB440E50E 0 = .ok (.vincirc ⟨true, false⟩ 8 3 18 true false .f64 6) ∧
    decode .ve 0x7540E58E 0 = .ok (.vinsph ⟨false, true⟩ 8 3 18 true true .f64 6) ∧
    decode .ve 0xF640E50E 0 = .ok (.vsegx ⟨true, true⟩ 8 3 18 true false .f64 6) ∧
    decode .ve 0x3731CA06 0 = .ok (.vmskAnd ⟨false, false⟩ 6 7 5 6) ∧
    decode .ve 0xB731CA46 0 = .ok (.vmskOr ⟨true, false⟩ 6 7 5 6) ∧
    decode .ve 0x7731CA86 0 = .ok (.vmskXor ⟨false, true⟩ 6 7 5 6) ∧
    decode .ve 0xF731CAC6 0 = .ok (.vmskAndn ⟨true, true⟩ 6 7 5 6) ∧
    decode .ve 0x3741C105 0 = .ok (.vmskTov ⟨false, false⟩ 8 7 5) ∧
    decode .ve 0xB7334145 0 = .ok (.vmskFromv ⟨true, false⟩ 6 13 5) ∧
    decode .ve 0x7741C185 0 = .ok (.vmskCnt ⟨false, true⟩ 8 7 5) := by
  and_intros <;> decide +kernel

theorem test_decode_ve_5 : decode .ve 0xF741C1C5 0 = .ok (.vmskFirst ⟨true, true⟩ 8 7 5) ∧
    decode .ve 0x3843400E 0 = .ok (.vmov ⟨false, false⟩ 8 13 .b64 6) ∧
    decode .ve 0xB9400025 0 = .ok (.viota ⟨true, false⟩ 8 .i32 5) ∧
    decode .ve 0x7A000009 0 = .ok (.veTkw ⟨false, true⟩ .me) ∧
    decode .ve 0xFB000006 0 = .ok (.veTks ⟨true, true⟩ .me) ∧
    decode .ve 0x3C094201 0 = .ok (.veLoop ⟨false, false⟩ 37 false 513) ∧
    decode .ve 0xBD00ABC1 0x00001021 = .ok (.veSeg ⟨true, false⟩ 0x00ABC1 0x1021) ∧
    decode .ve 0x7E000000 0 = .ok (.veSafe ⟨false, true⟩) ∧
    decode .ve 0xFF000000 0 = .ok (.veEnd ⟨true, true⟩) := by
  and_intros <;> decide +kernel

theorem test_decode_me_1 : decode .me 0x0195E072 0 = .ok (.mmaF64 ⟨false, false⟩ 18 11 12 .rdn true false true) ∧
    decode .me 0x8295E172 0 = .ok (.mmaB16 ⟨true, false⟩ 18 11 12 .f16 .rdn true false true) ∧
    decode .me 0x4295E16C 0 = .ok (.mmas ⟨false, true⟩ 18 11 12 .f16 .rdn false true false) ∧
    decode .me 0xC395E272 0 = .ok (.mmaF8 ⟨true, true⟩ 18 11 12 2 .rdn true false true) ∧
    decode .me 0x0495E212 0 = .ok (.mmaI8 ⟨false, false⟩ 18 11 12 2 true false true) ∧
    decode .me 0x8595E068 0 = .ok (.mmaF4 ⟨true, false⟩ 18 11 12 .rdn false true false) ∧
    decode .me 0x4695E212 0 = .ok (.mmaI4 ⟨false, true⟩ 18 11 12 2 true false true) ∧
    decode .me 0xC795E002 0 = .ok (.lrset ⟨true, true⟩ 18 11 12 true) ∧
    decode .me 0x0894E800 0 = .ok (.lrmul ⟨false, false⟩ 18 19 20) ∧
    decode .me 0x8994E801 0 = .ok (.lradd ⟨true, false⟩ 18 19 20 true) ∧
    decode .me 0x4A94C000 0 = .ok (.lrcmp ⟨false, true⟩ 18 19) ∧
    decode .me 0xCB94C000 0 = .ok (.lrden ⟨true, true⟩ 18 19 false) ∧
    decode .me 0x0C048000 0 = .ok (.lrrank ⟨false, false⟩ 18) ∧
    decode .me 0x8C900001 0 = .ok (.lrrankSet ⟨true, false⟩ 18) ∧
    decode .me 0x4D976000 0 = .ok (.mrd ⟨false, true⟩ 18 .anti 44) ∧
    decode .me 0xCE976000 0 = .ok (.mwr ⟨true, true⟩ 18 .anti 44) ∧
    decode .me 0x0F976541 0 = .ok (.mldc ⟨false, false⟩ 18 .anti 44 21 true) ∧
    decode .me 0x90976540 0 = .ok (.mstc ⟨true, false⟩ 18 .anti 44 21 false) := by
  and_intros <;> decide +kernel

theorem test_decode_me_2 : decode .me 0x51908001 0 = .ok (.talloc ⟨false, true⟩ 18 128 .d64) ∧
    decode .me 0xD2900000 0 = .ok (.tfree ⟨true, true⟩ 18) ∧
    decode .me 0x13900000 0 = .ok (.tclr ⟨false, false⟩ 18) ∧
    decode .me 0x9494C000 0 = .ok (.tmov ⟨true, false⟩ 18 19) ∧
    decode .me 0x55060664 0 = .ok (.mloop ⟨false, true⟩ 24 6 false 100) ∧
    decode .me 0xD6094201 0 = .ok (.meLoop ⟨true, true⟩ 37 false 513) ∧
    decode .me 0x17000006 0 = .ok (.meTkw ⟨false, false⟩ .ve) ∧
    decode .me 0x98000009 0 = .ok (.meTks ⟨true, false⟩ .ve) ∧
    decode .me 0x5900ABC1 0x00001021 = .ok (.meSeg ⟨false, true⟩ 0x00ABC1 0x1021) ∧
    decode .me 0xDA000000 0 = .ok (.meSafe ⟨true, true⟩) ∧
    decode .me 0x1B000000 0 = .ok (.meEnd ⟨false, false⟩) ∧
    decode .me 0x9C000000 0 = .ok (.meNop ⟨true, false⟩) := by
  and_intros <;> decide +kernel

theorem test_decode_ce_1 : decode .ce 0x41A6B336 0 = .ok (.cp ⟨false, true⟩ 10 6 44 .ring .c false 6) ∧
    decode .ce 0xC2ABB008 0 = .ok (.cpn ⟨true, true⟩ 10 11 44 true) ∧
    decode .ce 0x03A6B10D 0 = .ok (.cpx ⟨false, false⟩ 10 6 44 .a true 5) ∧
    decode .ce 0x84A6B2D5 0 = .ok (.cprm ⟨true, false⟩ 10 6 44 45 false 5) ∧
    decode .ce 0x45060005 0 = .ok (.pf ⟨false, true⟩ 6 false 5) ∧
    decode .ce 0xC6660000 0 = .ok (.keep ⟨true, true⟩ 6 6) ∧
    decode .ce 0x0666B001 0 = .ok (.keepF ⟨false, false⟩ 6 6 44) ∧
    decode .ce 0x87600000 0 = .ok (.unkeep ⟨true, false⟩ 6) ∧
    decode .ce 0x4806AC01 0 = .ok (.cflush ⟨false, true⟩ 6 43 true) ∧
    decode .ce 0xC906AC00 0 = .ok (.cinv ⟨true, true⟩ 6 43) ∧
    decode .ce 0x0AA6B239 0 = .ok (.cpatm ⟨false, false⟩ 10 6 44 .swap true true true .w) ∧
    decode .ce 0x8BA0AC00 0 = .ok (.collAr ⟨true, false⟩ 10 43 false) ∧
    decode .ce 0x4BA0AD08 0 = .ok (.collRs ⟨false, true⟩ 10 43 true) ∧
    decode .ce 0xCBA0AE00 0 = .ok (.collAg ⟨true, true⟩ 10 43 false) ∧
    decode .ce 0x0BA0AF08 0 = .ok (.collBc ⟨false, false⟩ 10 43 true) ∧
    decode .ce 0x8CA6B2D4 0 = .ok (.sigSt ⟨true, false⟩ 10 6 44 45 false true) ∧
    decode .ce 0x4CA6B2D9 0 = .ok (.sigAdd ⟨false, true⟩ 10 6 44 45 true false) ∧
    decode .ce 0xCD06AC00 0 = .ok (.acset ⟨true, true⟩ 6 43) := by
  and_intros <;> decide +kernel

theorem test_decode_ce_2 : decode .ce 0x0E06AC00 0 = .ok (.acadd ⟨false, false⟩ 6 43) ∧
    decode .ce 0x8F00A800 0 = .ok (.acwait ⟨true, false⟩ 42) ∧
    decode .ce 0x50ABB348 0 = .ok (.lyt ⟨false, true⟩ 10 11 44 13 true) ∧
    decode .ce 0xD1A60000 0 = .ok (.scfg ⟨true, true⟩ 10 6) ∧
    decode .ce 0x12A00000 0 = .ok (.cgetPop ⟨false, false⟩ 10) ∧
    decode .ce 0x92A10000 0 = .ok (.cgetC ⟨true, false⟩ 10) ∧
    decode .ce 0x52A20000 0 = .ok (.cgetCur ⟨false, true⟩ 10) ∧
    decode .ce 0xD2A30000 0 = .ok (.cgetScale ⟨true, true⟩ 10) ∧
    decode .ce 0x1204A800 0 = .ok (.cgetAc ⟨false, false⟩ 42) ∧
    decode .ce 0x92A54BD9 0 = .ok (.cgetLi ⟨true, false⟩ 10 19417) ∧
    decode .ce 0x53A65187 0 = .ok (.cadd ⟨false, true⟩ 10 6 20871) ∧
    decode .ce 0x140000B1 0 = .ok (.hret 177) ∧
    decode .ce 0x15A60000 0 = .ok (.hflag 10 6) ∧
    decode .ce 0x96A6B300 0 = .ok (.spill ⟨true, false⟩ 10 6 44 .c false) ∧
    decode .ce 0x57A6B308 0 = .ok (.fill ⟨false, true⟩ 10 6 44 .c true) ∧
    decode .ce 0xD8A60000 0 = .ok (.datmOpen ⟨true, true⟩ 10 6 false) ∧
    decode .ce 0x18A0AC03 0 = .ok (.datmClose ⟨false, false⟩ 10 43 true) ∧
    decode .ce 0x99094201 0 = .ok (.ceLoop ⟨true, false⟩ 37 false 513) := by
  and_intros <;> decide +kernel

theorem test_decode_ce_3 : decode .ce 0x5A00000B 0 = .ok (.ceTkw ⟨false, true⟩ .me) ∧
    decode .ce 0xDB00000E 0 = .ok (.ceTks ⟨true, true⟩ .me) ∧
    decode .ce 0x1C00ABC1 0x00001021 = .ok (.ceSeg ⟨false, false⟩ 0x00ABC1 0x1021) ∧
    decode .ce 0x9D000000 0 = .ok (.ceSafe ⟨true, false⟩) ∧
    decode .ce 0x5E000000 0 = .ok (.ceEnd ⟨false, true⟩) ∧
    decode .ce 0xDF000000 0 = .ok (.ceNop ⟨true, true⟩) := by
  and_intros <;> decide +kernel

/-! Worked examples and ill-formed terms. -/

-- 02, worked encodings: `addi s5, s4, -3` at the PC of core 0, run by one step after reset.
theorem test_step_addi : after (step (State.reset.withFetchWord 32 0x40513FFD)) (fun t => (t.readS 0 5, (t.inst 0).scu.pc)) =
    some (0xFFFFFFFFFFFFFFFD, 4) := by decide +kernel

-- 04, the example of R114: lui s5, 0x48D1 leaves 0x12344000.
theorem test_lui : after (exec (.lui 5 0x48D1) base) (fun t => t.readS 0 5) = some 0x12344000 := by decide +kernel

-- 05, the example of R152: q11 holds 5, then 7; add s9, q11, q11 leaves 10 and 7 in q11.
theorem test_add_queue_once : after (exec (.add 9 59 59) (onInst fun i => { i with qr := i.qr.set 11 [5, 7] }))
    (fun t => (t.readS 0 9, (t.inst 0).qr[11])) = some (10, [7]) := by decide +kernel

-- 02, R50: a shift takes the low six bits of its count; arithmetic on the sign.
theorem test_sar : after (exec (.sar 3 1 2) (regs 0x8000000000000000 0x43 0)) (fun t => t.readS 0 3) = some 0xF000000000000000 := by
  decide +kernel

-- 04 R110: the high word of (-1) x (-1), signed.
theorem test_mulh : after (exec (.mulh 3 1 1) (regs (BitVec.allOnes 64) 0 0)) (fun t => t.readS 0 3) = some 0 := by decide +kernel

-- 04 R115: ldb of 0xFF is -1, from the second byte of a stored halfword.
theorem test_store_load : (after (exec (.sth 1 2 0) (regs 0xFF01 0x7000 0)) fun t => (t.mem.get 0x7000, t.mem.get 0x7001)) =
    some (0x01, 0xFF) := by decide +kernel

/-- The slot of 04's example: `beq` at 0x200 awaits its slot at 0x204, which reads through s4 where no page is. -/
def slotTrap : State := atPc 0x204 (onInst fun i =>
  { i with s := i.s.set 4 0x40000000, slot := some ⟨0x200, 0x98300000, 0x300, true, none, []⟩, scu := { i.scu with pc := 0x204 } })

-- 04, the example of R121: the trap of a slot has TPC of its branch, DS = 1, TVAL = s4; no slot stands any more.
theorem test_slot_trap : after (exec (.ldd 9 4 0) slotTrap)
    (fun t => ((t.inst 0).pending.map fun p => (p.cause, p.tpc, p.ds, p.tval), (t.inst 0).slot.isNone)) =
    some (some (.pageR, 0x200, true, 0x40000000), true) := by decide +kernel

/-- The state of 16's example, when firmware has made the page resident. -/
def paged : State := onInst fun i =>
  { i with sys := { i.sys with tvec := 0x0803 }, scu := { i.scu with pc := 0x200 },
           pending := some ⟨.pageR, 0x7F0000200000, 0x40, .ve, 0, false, 0, .firmware, false, none, none, false, none⟩ }

-- 16, the example at its end: TCAUSE 0x05, TPC 0x40, TSTAT 0x0200_0288, and the handler at 0x800.
theorem test_page_trap : after (exec (.firmwareFirstService 0 (.served [])) paged)
    (fun t => ((t.inst 0).sys.tcause, (t.inst 0).sys.tpc, (t.inst 0).sys.tval, (t.inst 0).sys.tstat, (t.inst 0).scu.pc)) =
    some (0x05, 0x40, 0x7F0000200000, 0x02000288, 0x800) := by decide +kernel

-- 08, the example of R233: one bank of W retired.
theorem test_bufszw : (base.modCore 0 fun c => { c with bankW := c.bankW.set 9 2 }).csr 0 0x060 = some 0x0000000F001E0000 := by decide +kernel

-- 08, Table 8.8, steps 4 and 5: c1 lands before c0.
theorem test_ring_counters : ((markLanded (markLanded ⟨0x10000, 8192, 4, 0, 0, 4, []⟩ 1) 0).tail,
    (markLanded ⟨0x10000, 8192, 4, 0, 0, 4, []⟩ 1).tail) = (2, 0) := by decide +kernel

-- 01, the example of R19: planes 0 to 2 of 0xB3 are -3; all eight are -77.
theorem test_plane_nested : (intOperand (zOf 0x3022A 1) (5, 127), intOperand (zOf 0x8023A 1) (0xB3, 127)) = (-3, -77) := by decide +kernel

-- 01, the example of R38: the third product truncates to the grid, NX.
theorem test_group_rule : groupSum fmtF32 .rne [(product (decodeF fmtBF16 0x4480) (decodeF fmtBF16 0x4480)).1,
    (product (decodeF fmtBF16 0xC480) (decodeF fmtBF16 0x4480)).1, (product (decodeF fmtBF16 0x3840) (decodeF fmtBF16 0x3880)).1]
    (some (decodeF fmtF32 0)) = (0x31000000, flagNX) := by decide +kernel

/-- The group of 11's example: row values 1.5 and x in BF16 and six zeros, all B values 1. -/
def row11 (x : Nat) : List (Machine.Num × Machine.Num) :=
  ([0x3FC0, x] ++ List.replicate 6 0).map fun a => (decodeF fmtBF16 a, decodeF fmtBF16 0x3F80)

-- 11, the example of R314 to R316: qA = -13 and the digits of 12,288 and 8; with 0x3A81 the group falls back.
theorem test_slices : ((slicePath 8 2 2 fmtF32 (row11 0x3A80) none).map (·.1)) = some (-13) ∧ balanced 8 2 12288 = [0, 48] ∧
    balanced 8 2 8 = [8, 0] ∧ (slicePath 8 2 2 fmtF32 (row11 0x3A81) none).isNone = true := by decide +kernel

/-- Lanes 0 to 3 of v12, in a mask of their own. -/
def lanes4 (a b c d : Word32) : State := from' .ve (onInst fun i =>
  { i with v := i.v.set 12 ((((zeroLanes.set 0 a).set 1 b).set 2 c).set 3 d), k := i.k.set 1 0xF })

-- 06, the example of R172: the exponent of the smallest subnormal is -149, of a NaN 0x7FFFFFFF.
theorem test_vsgn_exp : after (exec (.vsgnExp noTok 3 12 .f32 1) (lanes4 1 0x7FC00000 0 0)) (fun t =>
    ((t.inst 0).v[3][0], (t.inst 0).v[3][1])) = some (0xFFFFFF6B, 0x7FFFFFFF) := by decide +kernel

-- 06, the example of R178: the elements of block 0 with their flags, and its scale.
theorem test_vqnt : let r := quantBlock .e4 .rne (([0x40600000, 0x3E980000, 0xBA800000, 0x40700000] ++ List.replicate 28 0).map fun x => (x, true))
    (r.1.take 4, r.2) = ([(0x7E, 0), (0x62, flagNX), (0xA0, 0), (0x7E, flagOF ||| flagNX)], 0x78) := by decide +kernel

-- 07, the example of R213: lanes 0, 1 and 2 of the exponential.
theorem test_vexp : ((⟨.vexp noTok 9 8 .rne .f32 1, 0, 0, 0, [((zeroLanes.set 0 0x3F800000).set 1 0).set 2 0xFF800000], 7, 0, []⟩ :
    InFlight).settled.map fun y => [y.res 0, y.res 1, y.res 2]) =
    some [(0x402DF854, flagNX), (0x3F800000, 0), (0, 0)] := by decide +kernel

-- 07, the worked predicate: +1 and +1 with ties broken, 0 and +1 without.
theorem test_vorient2 : ((worked true).settled.map fun y => [y.res 0, y.res 1], (worked false).settled.map fun y => [y.res 0, y.res 1]) =
    (some [(1, 0), (1, 0)], some [(0, 0), (1, 0)]) := by decide +kernel

-- 12, Table 12.4: cget.li c7, -64.
theorem test_cget_li : after (exec (.cgetLi noTok 7 0xFFC0) (from' .ce base)) (fun t => (t.inst 0).c[7]) = some 0xFFFFFFFFFFFFFFC0 := by
  decide +kernel

-- 12, the example of R354: element 0 of the second panel is column 8 of row 0; element 8 of the first is column 0 of row 1.
theorem test_layout_map : (outCount [64, 64, 1, 1, 1, 1] 0xFFFFFFFFFF980118, sourceElem [64, 64, 1, 1, 1, 1] 0xFFFFFFFFFF980118 512,
    sourceElem [64, 64, 1, 1, 1, 1] 0xFFFFFFFFFF980118 8) = (4096, some 8, some 64) := by decide +kernel

-- 14, the example of R391: X ends at 0x33800000 whatever the order of arrival, and the window is Idle.
theorem test_window_apply : after (exec (.windowApply 0 6) windowed) (fun t => (t.mem.word32 0x7000, t.tasks.map fun x => x.windows.length)) =
    some (0x33800000, [0]) := by decide +kernel

-- 15, the example of R393: with one channel retired, PA line 2,046 lies in Live(0).
theorem test_one_channel_less : let s : State := { State.reset with channels := State.reset.channels.set 1023 2 }
    (s.capacity, s.channelOf 2046) = (906376, 0) := by decide +kernel

/-- Tile 0 of 15's example. -/
def tile15 : List Byte := [5] ++ List.replicate 99 0 ++ [0xFE, 0x01] ++ List.replicate 153 0 ++ [0x7F]

-- 15, the example of R407: method 1 in 21 bytes, which expand again; tile 1 is a zero tile.
theorem test_compress : compressTile tile15 = some ([0x01, 0x01, 0, 0, 0x02, 0, 0, 0, 0x80, 5, 0, 0, 0, 0xFE, 0x01, 0, 0, 0, 0, 0, 0x7F]) ∧
    (compressTile tile15).bind expandTile = some tile15 ∧ compressTile (List.replicate 256 0) = some [] := by decide +kernel

-- 17, the example of R442: a header with the SEQ of an earlier lap is not published; spawn's header is as the example gives it.
theorem test_spawn_header : leNat (leBytes 4 0x00010002 ++ leBytes 4 (0x20080 / 64)) = 0x0000080200010002 := by decide

-- 18, the example of R473: 1, 2, 4 and 8 give the mean 3.75; with slot 3 removed 7 / 3 in RNE.
theorem test_collective : (reduceElem 0 1 4 ([some 0x3F800000, some 0x40000000, some 0x40800000, some 0x41000000] ++ List.replicate 60 none),
    reduceElem 0 1 3 ([some 0x3F800000, some 0x40000000, some 0x40800000] ++ List.replicate 61 none),
    collStatus 0 4 1, collStatus 0 3 2) = (0x40700000, 0x40155555, 0x0000000100000400, 0x0000000200000300) := by decide +kernel

/-- The levels of 03's worked placement. -/
def levels3 : Image := ⟨false, 4, 0, [⟨2, 2⟩, ⟨3, 1⟩, ⟨4, 0⟩], 0, 0, 0, 0, [], [], [], [], [], [], []⟩

-- 03, Table 3.9: N, the passes, the coordinates of ordinal 5 at pass 2, and the ordinals of die group 1.
theorem test_placement : (levels3.instances, levels3.passes, levels3.coords 5 2, levels3.unit 1) = (6, 4, [1, 2, 2], [3, 4, 5]) := by
  decide +kernel

-- An ill-formed instruction for each check of `wellFormed`.

theorem test_ill_formed_scu : ∀ i ∈ ([.scuLoop 1 0, .scuTkw .scu, .scuTks .scu] : List Instr), wellFormed i = false := by decide

theorem test_ill_formed_ve : ∀ i ∈ ([.vcmp noTok 0 1 2 .eq .f32 0, .vicmp noTok 0 1 2 .eq .i32 0, .vmskAnd noTok 0 1 2 0,
    .vmskOr noTok 0 1 2 0, .vmskXor noTok 0 1 2 0, .vmskAndn noTok 0 1 2 0, .vmskFromv noTok 0 1 0, .vflgAny noTok 0 1 0,
    .vflgTm noTok 0, .vpopPack noTok 1 28 0 .b32, .vcvt noTok 1 2 false .f32 .rne .f32 0, .vcvt noTok 1 2 true .f32 .rne .i32 0,
    .vbcast noTok 1 2 256 .b64 0, .vxacc noTok 1 2 3 .f32 0, .vxacc noTok 24 2 3 .f32 0, .vxrnd noTok 1 2 3 .rne .f32 0,
    .vorient2 noTok 1 19 0 false false .f64 0, .vorient2 noTok 1 2 22 true false .f64 0, .vorient2 noTok 1 2 1 false false .f64 0,
    .vorient3 noTok 1 13 0 false false .f64 0, .vincirc noTok 1 17 0 false false .f64 0, .vinsph noTok 1 10 0 false false .f64 0,
    .vsegx noTok 1 17 0 false false .f64 0, .veLoop noTok 0 false 1, .veLoop noTok 1 false 0, .veLoop noTok 1 true 1,
    .veTkw noTok .ve, .veTks noTok .ve] : List Instr), wellFormed i = false := by decide

theorem test_ill_formed_me : ∀ i ∈ ([.talloc noTok 1 65 .d32, .talloc noTok 1 64 .d64, .talloc noTok 1 3 .lr, .talloc noTok 1 66 .lr,
    .mloop noTok 4 0 false 1, .mloop noTok 5 2 false 1, .mloop noTok 34 2 false 1, .mloop noTok 4 2 false 0, .mloop noTok 4 2 true 1,
    .meLoop noTok 0 false 1, .meTkw noTok .me, .meTks noTok .me] : List Instr), wellFormed i = false := by decide

theorem test_ill_formed_ce : ∀ i ∈ ([.cp noTok 0 15 0 .w .mem false 0, .cp noTok 1 2 0 .mdq .mem false 0, .cp noTok 1 2 0 .ve .mem false 0,
    .cp noTok 0 2 0 .ve .ve false 0, .cpx noTok 0 15 0 .w false 0, .cprm noTok 0 15 0 1 false 0, .pf noTok 15 false 0, .keep noTok 0 15,
    .keepF noTok 0 15 0, .cflush noTok 15 0 false, .cinv noTok 15 0, .cpatm noTok 0 15 0 .add false true false .mem,
    .cpatm noTok 1 2 0 .add false false false .mem, .spill noTok 0 15 0 .w false, .fill noTok 0 15 0 .w false, .ceLoop noTok 0 false 1,
    .ceTkw noTok .ce, .ceTks noTok .ce] : List Instr), wellFormed i = false := by decide

theorem test_ill_formed_packets : ∀ i ∈ ([.launch (pkt 8) 1 1, .launch (pkt 8) 0 0, .launch (pkt 8) 0 257, .wait (pkt 8) 4 0 .eq false,
    .signal (pkt 8) 2 0 true, .write (pkt 8) 4 [0], .write (pkt 8) 0 [], .writeSignal (pkt 8) 0 [0] 4 0,
    .transformCompress (pkt 8) 0 0 255 0 ⟨0, 0, 0⟩, .transformQuant (pkt 8) 0 0 256 .e4 .rne ⟨0, 0, 0⟩,
    .transformQuant (pkt 8) 0 0 2048 .e4 .dyn ⟨0, 0, 0⟩, .node (pkt 8) 4 0 [], .node (pkt 8) 0 8 [], .node (pkt 8) 0 0 [0, 0, 0, 0, 0, 0],
    .mark (pkt 8) 4, .inval (pkt 0) 65536 0 0, .inval (pkt 0) 0 1 0, .inval (pkt 0) 0 0 1] : List Instr), wellFormed i = false := by decide

-- 17 Tables 17.4 and 17.8, R459: packets and mailbox requests.

/-- A packet of n units from its first bytes. -/
def packetOf (n : Nat) (bs : List Byte) : List Byte := bs ++ List.replicate (64 * n - bs.length) 0

theorem test_decode_packets :
    decodePacket 8 (packetOf 1 [8, 1, 1, 0, 0, 0, 0, 0, 0, 0x70]) = .ok (.mark ⟨8, 1, true⟩ 0x7000) ∧
    decodePacket 8 (packetOf 1 [3, 0, 1, 0, 0, 0, 0, 0, 0, 0x70, 0, 0, 0, 0, 0, 0, 5, 0, 0, 0, 0, 0, 0, 0, 1]) =
      .ok (.signal ⟨8, 1, false⟩ 0x7000 5 true) ∧
    decodePacket 8 (packetOf 1 [0]) = .error .header ∧ decodePacket 8 (packetOf 1 [10, 0, 1]) = .error .header ∧
    decodePacket 8 (packetOf 2 [8, 0, 2, 0, 0, 0, 0, 0, 4]) = .error .body ∧ decodePacket 8 (packetOf 2 [1, 0, 2]) = .error .length ∧
    decodePacket 8 (packetOf 1 [8, 0, 1, 0, 0, 0, 0, 0, 4]) = .error .body := by
  and_intros <;> decide +kernel

theorem test_decode_mailbox : decodeMailbox 3 0x1234500 = .echo 3 0x12345 ∧ decodeMailbox 3 4 = .inServiceCoreCount 3 0 ∧
    decodeMailbox 3 0x1FF = .unknownService 3 0xFF 1 := by decide +kernel

/-- A unit column. -/
def unitRow (n : Fin 64) : Row := (Vector.replicate 64 (0 : Word32)).set n 0x3F800000

/-- The tiles of 10's example, with a budget of 74 and MODE 2. -/
def lowRank : State := from' .me (onInst fun i =>
  { i with budget := 74, sys := { i.sys with mrmode := 2 },
           tiles := (((i.tiles.set 1 (some ⟨.lr, [unitRow 0, unitRow 0], 1⟩)).set 2 (some ⟨.lr, [unitRow 0, unitRow 1], 1⟩)).set 3
             (some ⟨.lr, List.replicate 2 (Vector.replicate 64 0), 0⟩)).set 4 (some ⟨.d32, List.replicate 64 (Vector.replicate 64 0), 0⟩) })

-- 10, the example of R291: t3 has rank 1, U' = -2c e0, V' = -c (e0 + e1).
theorem test_lradd : after (exec (.lradd noTok 3 1 2 false) lowRank) (fun t => ((t.inst 0).tiles[3]).map fun x =>
    (x.rank, x.rows.map fun r => (r[0], r[1]))) = some (some (1, [(0xBFB504F3, 0), (0xBF3504F3, 0xBF3504F3)])) := by decide +kernel

end Sys2Proof.Tests
end

section
/-! The runs of the vector and matrix engines when nothing stands in the way, in the words of the statements: `vecReady`, `matrixReady`, and
no exception whose trap is enabled. -/

namespace Sys2Proof.Machine

open Host

/-- Lanes that raise no enabled exception leave nothing for an FPX trap (01 R32). -/
theorem fpxUnion_of_quiet {en : Flags} {f : Nat → Flags} (h : ∀ l < 512, f l &&& en = 0) : fpxUnion en f = 0 := by
  have foldl_zero : ∀ ls : List Nat, (∀ l ∈ ls, l < 512) → ls.foldl (fun u l => u ||| (f l &&& en)) 0 = 0 := by
    intro ls
    induction ls with
    | nil => intro _; rfl
    | cons l ls ih =>
      intro hl
      obtain ⟨hlt, hls⟩ := List.forall_mem_cons.mp hl
      simpa [h l hlt] using ih hls
  exact foldl_zero _ fun l hl => List.mem_range.mp hl

/-- Where no enabled exception arises there is no FPX trap (01 R32). -/
theorem fpxOf_of_quiet {i : Inst} {f : Nat → Flags} (h : i.quiet f) : fpxOf i.sys.fmode f = none := by
  unfold fpxOf
  rw [fpxUnion_of_quiet h]
  simp

/-- The preparation of a vector word whose operands are ready and whose own checks hold is its effect on what it reads. -/
theorem vecPrep_ready {s : State} {tk : Tok} {srcs : List VReg} {d : VReg} {late : Bool}
    {f : Inst → List Lanes → Lanes → Res VecEffect} {e : VecEffect} (h : s.vecReady tk srcs (some d))
    (hf : f (s.inst s.cur.core) (srcs.map (s.inst s.cur.core).readV) ((s.inst s.cur.core).oldV d) = .ok e) :
    s.vecPrep srcs (some d) late (.ok ()) f = .ok e := by
  obtain ⟨hops, hsrcs, hdst, -⟩ := h
  unfold State.vecPrep
  cases late <;> simp [hf, hops, hsrcs, hdst, bind, Except.bind]

/-- A vector word with a destination whose operands are ready and that raises no enabled exception completes with its effect. -/
theorem vecRun_done {s : State} {tk : Tok} {srcs : List VReg} {d : VReg} {late : Bool}
    {f : Inst → List Lanes → Lanes → Res VecEffect} {e : VecEffect} (h : s.vecReady tk srcs (some d))
    (hf : f (s.inst s.cur.core) (srcs.map (s.inst s.cur.core).readV) ((s.inst s.cur.core).oldV d) = .ok e)
    (hquiet : ∀ fl, e.flags = some fl → (s.inst s.cur.core).quiet fl) :
    vecRun s tk srcs (some d) late (.ok ()) f = .next (s.wordDone (s.vecCommit srcs (some d) e) tk) := by
  have hprep := vecPrep_ready (late := late) h hf
  obtain ⟨-, -, -, htok⟩ := h
  exact vecRun_ok hprep (fun fl hfl => fpxOf_of_quiet (hquiet fl hfl)) htok

/-- A matrix word whose tokens are there and that closes no broken segment completes with its effect. -/
theorem engineRun_done {s t : State} {tk : Tok} {close : Bool} {f : Res State} (h : s.matrixReady tk close) (hf : f = .ok t) :
    engineRun s tk [] [] close f = .next (s.matrixDone t tk close) := by
  obtain ⟨htok, hseg⟩ := h
  unfold engineRun
  rw [engineRunThen_ok hf (by simpa [State.tokReady] using htok) hseg]
  simp [State.matrixDone, State.wordDone]

end Sys2Proof.Machine
end

section
/-! Reductions (01 R42, 06 R185, R186). -/

namespace Sys2Proof.Machine

open Host

/-- A reduction completes with its result in every element of its destination and its flags in lane 0. -/
theorem vecReduce_done {s : State} {tk : Tok} {d a : VReg} {k : KReg} {w : Elem} {fp : Bool}
    {red : Inst → List (Option Nat) → Nat × Flags} (h : s.vecReady tk [a] (some d)) :
    let j := s.inst s.cur.core
    let r := red j ((List.range w.count).map fun n =>
      if (j.mask k).getLsbD n then some (elemAt w (j.readV a) n) else none)
    let fl := if fp then some fun l => if l = 0 then r.2 else 0 else none
    (∀ f, fl = some f → j.quiet f) →
    vecReduce s tk d a k w fp red = .next (s.wordDone (s.vecCommit [a] (some d)
      ⟨setElems w (j.oldV d) (fun n => decide (n < w.count)) fun _ => r.1, fl, id⟩) tk) :=
  fun hquiet => vecRun_done h rfl hquiet

/-- An instruction with an entry of `reduceRule` is that reduction, run by the shared operation. -/
theorem exec_eq_vecReduce {i : Instr} {s : State} {tk : Tok} {d a : VReg} {k : KReg} {w : Elem} {fp : Bool}
    {red : Word → List (Option Nat) → Nat × Flags} (h : reduceRule i = some (tk, d, a, k, w, fp, red)) :
    exec i s = vecReduce s tk d a k w fp fun j => red j.sys.fmode := by
  cases i
  case vredsum | vredmin | vredmax | viredsum => cases h; rfl
  all_goals cases h

/-- Settles O22: every reduction is the shared `vecReduce` with its entry's result, and that run completes. -/
theorem reductionResults : Obligations.ReductionResults := by
  intro i s tk d a k w fp red hrule hready
  rw [exec_eq_vecReduce hrule]
  exact vecReduce_done (red := fun j => red j.sys.fmode) hready

end Sys2Proof.Machine
end

section
/-! Multiply-accumulate (01 R36 to R40, 09 R256 to R262): the shared operation `maResult` succeeds where the operands are ready, and the
element rules of `mmaRule` are the ones that the words compute. -/

namespace Sys2Proof.Machine

open Host

/-- td of an ME instruction passes its check when it is a tile of the form. -/
theorem tdCheck_ok {i : Inst} {d : TReg} {t : Tile} (h : i.tiles[d] = some t) : tdCheck i d t.form = .ok t := by
  simp [tdCheck, Inst.tileAt, h, bind, Except.bind]

/-- A multiply-accumulate whose operands are readable, with landed metadata where it pops some, has its effect (09 R259 to R262). -/
theorem maResult_ok {s : State} {d : TReg} {a b : Sys2Proof.ZReg} {t : Tile} {fa fb ea eb : Nat} {sparse : Bool}
    {xa xb : Array (Nat × Nat)} {kept : Array Nat}
    (f : Tile → Array (Nat × Nat) → Array (Nat × Nat) → Array Nat → Tile × Word)
    (htile : (s.inst s.cur.core).tiles[d] = some t)
    (hstreams : streamsReady (s.inst s.cur.core) a b fa fb ea eb xa xb)
    (hsparse : sparse = true → ∃ e rest, (s.inst s.cur.core).mdq = e :: rest ∧ e.landed = true ∧ keptOf e.data = some kept)
    (hdense : sparse = false → kept = #[]) :
    maResult s d a b t.form fa fb ea eb sparse f = .ok (s.modInst s.cur.core fun y =>
      let y1 := (((y.setTile d (some (f t xa xb kept).1)).orMflg (f t xa xb kept).2).consume ea a).consume eb b
      if sparse then { y1 with mdq := y1.mdq.tail } else y1) := by
  obtain ⟨hia, hib, hsa, hsb, hxa, hxb⟩ := hstreams
  unfold maResult
  simp only [hia, hib, tdCheck_ok htile, hsa, hsb, hxa, hxb, Bool.and_self, need_true, bind, Except.bind]
  cases sparse with
  | false => cases hdense rfl; rfl
  | true =>
    obtain ⟨e, rest, hmdq, hlanded, hkept⟩ := hsparse rfl
    simp [hmdq, hlanded, hkept]

/-- A word of a class that the core has, whose effect succeeds and which may complete, completes with it (09 R256). -/
theorem classed_native {s t : State} {cls : Nat} {i : Instr} {tk : Tok} {se : Bool} {res : Res State}
    (hclass : (capvOf s.cores[s.cur.core].rung).testBit cls = true) (hready : s.matrixReady tk se) (hres : res = .ok t) :
    classed s cls i tk se res = .next (s.matrixDone t tk se) := by
  unfold classed
  rw [if_pos hclass]
  exact engineRun_done hready hres

-- The element rules.

/-- A floating-point class computes `fpElem` in every element (01 R36 to R38). -/
theorem fpResult_eq (s : State) (d : TReg) (a b : Sys2Proof.ZReg) (form : TileForm) (fa fb k : Nat) (f : Fmt) (g : Nat) (r : Rounding)
    (acc bt : Bool) :
    fpResult s d a b form fa fb k f g r acc bt = maResult s d a b form fa fb (64 * k) (64 * k) false fun t xa xb _ =>
      tileOf t (fpElem f fa fb k g r acc bt (s.inst s.cur.core).sys.fmode t xa xb) := by
  unfold fpResult fpTile
  refine congrArg (maResult s d a b form fa fb (64 * k) (64 * k) false) ?_
  funext t xa xb kept
  refine congrArg (tileOf t) ?_
  funext i j
  simp only [fpElem, denseTerms, bIndex, Array.getElem?_map, List.length_map, List.length_range]

/-- A two's-complement encoding depends on the residue alone: an encoded summand may be decoded again. -/
theorem twos_intOf_twos_add (x y : Int) : twos 32 (intOf true 32 (twos 32 x) + y) = twos 32 (x + y) := by
  simp only [twos, intOf, Bool.true_and]
  split <;> omega

/-- A chain of integer additions, each wrapped to INT32, ends at the whole sum modulo 2^32 (01 R40). -/
theorem intChain_sum (ps : List Int) (x : Int) (ov : Bool) : twos 32 (intChain ps x ov).1 = twos 32 (x + ps.sum) := by
  induction ps generalizing x ov with
  | nil => simp [intChain]
  | cons p ps ih =>
    simp only [intChain, List.sum_cons]
    rw [ih, twos_intOf_twos_add, Int.add_assoc]

/-- An integer class computes `intElem` in every element (01 R40). -/
theorem intResult_eq (s : State) (d : TReg) (a b : Sys2Proof.ZReg) (fa fb k : Nat) (acc bt : Bool) :
    intResult s d a b fa fb k acc bt = maResult s d a b .d32 fa fb (64 * k) (64 * k) false fun t xa xb _ =>
      tileOf t (intElem k acc bt (s.inst s.cur.core).z[a] (s.inst s.cur.core).z[b] t xa xb) := by
  unfold intResult
  refine congrArg (maResult s d a b .d32 fa fb (64 * k) (64 * k) false) ?_
  funext t xa xb kept
  refine congrArg (tileOf t) ?_
  funext i j
  simp only [intChain_sum, Array.getElem?_map, bIndex]
  rfl

/-- FMT of a 16-bit operand format, as the rule writes it. -/
theorem b16Code_eq (f : B16Fmt) : b16Code f = if f = .bf16 then 2 else 3 := by cases f <;> rfl

/-- A format bit chooses between two neighbouring codes (02 Table 2.10). -/
theorem add_toNat_eq_ite (n : Nat) (b : Bool) : n + b.toNat = if b then n + 1 else n := by cases b <;> rfl

/-- What a multiply-accumulate computes by its rule: every element of its tile and the bits for MFLG. -/
def MmaRule.tile (r : MmaRule) (i : Inst) (t : Tile) (xa xb : Array (Nat × Nat)) (kept : Array Nat) : Tile × Word :=
  tileOf t (r.elem i.sys.fmode i.z[r.a] i.z[r.b] t xa xb kept)

/-- The run of a multiply-accumulate by its rule. -/
def MmaRule.run (r : MmaRule) (i : Instr) (s : State) : Outcome State Fault Refusal :=
  classed s r.cls i r.tk r.se
    (maResult s r.d r.a r.b r.form r.fa r.fb r.ea r.eb r.sparse (r.tile (s.inst s.cur.core)))

/-- An instruction with an entry of `mmaRule` runs as the entry says. -/
theorem exec_eq_mmaRun {i : Instr} {r : MmaRule} (s : State) (h : mmaRule i = some r) : exec i s = r.run i s := by
  cases i
  case mmaF64 | mmaF4 =>
    cases h
    simp only [exec_mmaF64, exec_mmaF4, execMmaF64, execMmaF4, resMmaF64, resMmaF4, fpResult_eq]
    rfl
  case mmaB16 =>
    cases h
    simp only [exec_mmaB16, execMmaB16, resMmaB16, fpResult_eq, b16Code_eq]
    rfl
  case mmaF8 =>
    cases h
    simp only [exec_mmaF8, execMmaF8, resMmaF8, fpResult_eq, add_toNat_eq_ite]
    rfl
  case mmaI8 | mmaI4 =>
    cases h
    simp only [exec_mmaI8, exec_mmaI4, execMmaI8, execMmaI4, resMmaI8, resMmaI4, intResult_eq, add_toNat_eq_ite]
    rfl
  case mmas =>
    cases h
    simp only [exec_mmas, execMmas, resMmas, fpTile, bIndex, b16Code_eq, Array.getElem?_map, List.length_map, List.length_range]
    rfl
  all_goals cases h

/-- Settles O32: a multiply-accumulate runs as its rule says, `maResult` succeeds on readable operands, and the word completes. -/
theorem matrixProducts : Obligations.MatrixProducts := by
  intro i s r t xa xb kept hrule g j hclass hready htile hform hstreams hsparse hdense x
  rw [exec_eq_mmaRun s hrule]
  unfold MmaRule.run
  rw [← hform]
  exact classed_native hclass hready (maResult_ok (r.tile j) htile hstreams hsparse hdense)

end Sys2Proof.Machine
end

section
/-! System registers as firmware writes them, and the words of the firmware context (01 R22, R35, 03 R106, R107, 04 R139, R140, 05 R158,
10 R277, R278, 11 R298, R302). -/

namespace Sys2Proof.Machine

open Host

-- Firmware's write as a step of its own.

/-- Between two user instructions an accepted write of firmware has its effect. -/
theorem fwStep_of_ok {s t : State} {g : CoreNo} {n : Nat} {v : Word} (hslot : (s.inst g).slot = none)
    (h : s.fwWrite g n v = .ok t) : s.fwStep g n v = t := by
  simp [State.fwStep, State.betweenUser, hslot, h]

/-- A refused one goes to firmware's own trap state (00 R7). -/
theorem fwStep_of_trap {s : State} {g : CoreNo} {n : Nat} {v x : Word} {c : Cause} (hslot : (s.inst g).slot = none)
    (h : s.fwWrite g n v = .error (.trap c x)) : s.fwStep g n v = s.fwTrap g c.code x := by
  simp [State.fwStep, State.betweenUser, hslot, h]

/-- One that has to wait changes nothing. -/
theorem fwStep_of_wait {s : State} {g : CoreNo} {n : Nat} {v : Word} (hslot : (s.inst g).slot = none)
    (h : s.fwWrite g n v = .error .wait) : s.fwStep g n v = s := by
  simp [State.fwStep, State.betweenUser, hslot, h]

/-- Firmware's write of a register other than RUNG: a value that the register accepts is written, another one is ILLEGAL (04 R140, 00 R7). -/
theorem fwStep_register {s : State} {g : CoreNo} {n : Nat} {v : Word} {accepted : Prop} [Decidable accepted] {put : SysRegs → SysRegs}
    (hslot : (s.inst g).slot = none) (hn : n ≠ 0x001) (hvalue : fwValueOk n v = decide accepted) (hput : ∀ y, y.fwWrite n v = put y) :
    s.fwStep g n v = if accepted then s.modInst g fun i => { i with sys := put i.sys } else s.fwTrap g 0x01 v := by
  split
  case isTrue hok =>
    exact fwStep_of_ok hslot (by simp [State.fwWrite, hn, hvalue, hok, hput, bind, Except.bind, Inst.modSys])
  case isFalse hno =>
    exact fwStep_of_trap (c := .illegal) hslot (by simp [State.fwWrite, hn, hvalue, hno, check, bind, Except.bind])

/-- RUNG steps down to at most 4, with its record, when no matrix instruction is in progress, and waits otherwise (11 R298, R302). -/
theorem fwStep_rung_down {s : State} {g : CoreNo} {v : Word} {r : Fin 5} (hslot : (s.inst g).slot = none)
    (hv : v.toNat = r.val) (hr : s.cores[g].rung.val < r.val) :
    s.fwStep g 0x001 v = if s.assisting g then s else (s.modCore g fun c => { c with rung := r }).writeRecord 0 := by
  have hdown : s.cores[g].rung.val < v.toNat ∧ v.toNat < 5 := ⟨hv ▸ hr, hv ▸ r.isLt⟩
  have hfin : (⟨v.toNat, hdown.2⟩ : Fin 5) = r := Fin.ext hv
  split
  case isTrue ha => exact fwStep_of_wait hslot (by simp only [State.fwWrite, if_true, dif_pos hdown, ha]; rfl)
  case isFalse ha =>
    rw [Bool.not_eq_true] at ha
    exact fwStep_of_ok hslot (by simp only [State.fwWrite, if_true, dif_pos hdown, ha, hfin]; rfl)

/-- RUNG takes no value that is not above its own, nor one above 4 (11 R298). -/
theorem fwStep_rung_refused {s : State} {g : CoreNo} {v : Word} (hslot : (s.inst g).slot = none)
    (h : v.toNat ≤ s.cores[g].rung.val ∨ 5 ≤ v.toNat) : s.fwStep g 0x001 v = s.fwTrap g 0x01 v := by
  have hno : ¬ (s.cores[g].rung.val < v.toNat ∧ v.toNat < 5) := by omega
  exact fwStep_of_trap (c := .illegal) hslot (by simp only [State.fwWrite, if_true, dif_neg hno])

/-- FSHARE stores 1 for 0 and 64 for more (03 R107). -/
theorem fshare_clamped (v : Word) : (if v.toNat = 0 then 1 else if 64 < v.toNat then 64 else v) = BitVec.ofNat 64 (max 1 (min 64 v.toNat)) := by
  apply BitVec.eq_of_toNat_eq
  split
  case isTrue h => simp [h]
  case isFalse h =>
    split
    case isTrue h64 => rw [min_eq_left h64.le]; rfl
    case isFalse h64 =>
      have := v.isLt
      rw [min_eq_right (by omega), max_eq_right (by omega)]
      simp

/-- WDOG stores at least 293 (05 R158). -/
theorem wdog_clamped (v : Word) : (if v.toNat < 293 then 293 else v) = BitVec.ofNat 64 (max 293 v.toNat) := by
  split
  case isTrue h => rw [max_eq_left h.le]; rfl
  case isFalse h => rw [max_eq_right (by omega), BitVec.ofNat_toNat, BitVec.setWidth_eq]

/-- Firmware's writes of FMODE, MFLG, MTOL, MRMODE, FSHARE and WDOG between two user instructions: the value rule of each register and what
it stores (01 R22, R35, 03 R107, 05 R158, 10 R277, R278). -/
theorem fwStep_values {s : State} {g : CoreNo} (v : Word) (hslot : (s.inst g).slot = none) :
    let put := fun f : SysRegs → SysRegs => s.modInst g fun i => { i with sys := f i.sys }
    let illegal := s.fwTrap g 0x01 v
    s.fwStep g 0x043 v = (if valueOk 0x043 v then put fun y => { y with fmode := v } else illegal) ∧
    s.fwStep g 0x042 v = (if v.toNat < 64 then put fun y => { y with mflg := v } else illegal) ∧
    s.fwStep g 0x040 v = (if valueOk 0x040 v then put fun y => { y with mtol := v } else illegal) ∧
    s.fwStep g 0x041 v = (if v.toNat ≤ 2 then put fun y => { y with mrmode := v } else illegal) ∧
    s.fwStep g 0x020 v =
      (if v.toNat < 128 then put fun y => { y with fshare := BitVec.ofNat 64 (max 1 (min 64 v.toNat)) } else illegal) ∧
    s.fwStep g 0x032 v =
      (if v.toNat < 2 ^ 32 then put fun y => { y with wdog := BitVec.ofNat 64 (max 293 v.toNat) } else illegal) := by
  intro put illegal
  exact ⟨fwStep_register hslot (by decide) Bool.decide_eq_true.symm fun _ => rfl,
    fwStep_register hslot (by decide) rfl fun _ => rfl,
    fwStep_register hslot (by decide) Bool.decide_eq_true.symm fun _ => rfl,
    fwStep_register hslot (by decide) rfl fun _ => rfl,
    fwStep_register (n := 0x020) (put := fun y => { y with fshare := BitVec.ofNat 64 (max 1 (min 64 v.toNat)) }) hslot (by decide) rfl
      fun _ => by simp only [SysRegs.fwWrite, fshare_clamped],
    fwStep_register (n := 0x032) (put := fun y => { y with wdog := BitVec.ofNat 64 (max 293 v.toNat) }) hslot (by decide) rfl
      fun _ => by simp only [SysRegs.fwWrite, wdog_clamped]⟩

/-- A write of a user's register by the user's csrw that stands next in its stream and may issue is that csrw (04 R128). -/
theorem regWrite_instance {s : State} {g : CoreNo} {n : Fin 16384} {v : Word} {a : SReg}
    (hdec : decode .scu ((s.inst g).scu.wordAt (s.inst g).scu.pc).toNat 0 = .ok (.csrw a n))
    (hread : s.readable g a = true) (hval : s.readS g a = v) (hocc : s.cores[g].occupant.isSome = true)
    (hend : (s.inst g).scu.ended = false) (hfrz : (s.inst g).freezing = false)
    (hheld : ((s.inst g).scu.held && s.asked g && !(s.inst g).handler) = false) :
    regWrite g false n v s = exec (.csrw a n)
      { s with cur := ⟨g, .scu, (s.inst g).scu.pc, (s.inst g).scu.wordAt (s.inst g).scu.pc, 0, s.tick, false⟩ } := by
  simp only [regWrite, hdec, Bool.false_eq_true, if_false]
  have hfree : ¬ ((s.inst g).scu.held ∧ s.asked g ∧ !(s.inst g).handler) := by simpa [and_assoc] using hheld
  exact if_pos ⟨trivial, hread, hval, hocc, by simp [hend], by simp [hfrz], by rw [decide_eq_false hfree]; rfl⟩

/-- The rows of the opcode table that are a user's write of a user's register are `regWrite` of that register. -/
theorem exec_instanceWrite {g : CoreNo} {v : Word} {i : Instr} {n : Fin 16384} (s : State)
    (h : (i, n) ∈ [(.fmodeWrite g false v, 0x043), (.mflgWrite g false v, 0x042), (.mtolWrite g false v, 0x040),
      (.mrmodeWrite g false v, 0x041)]) : exec i s = regWrite g false n v s := by
  simp only [List.mem_cons, List.not_mem_nil, Prod.mk.injEq, or_false] at h
  rcases h with ⟨rfl, rfl⟩ | ⟨rfl, rfl⟩ | ⟨rfl, rfl⟩ | ⟨rfl, rfl⟩ <;> rfl

/-- A state chosen by a condition, as the outcome of a step. -/
theorem next_of_eq_ite {c : Prop} [Decidable c] {t x y : State} (h : t = if c then x else y) :
    (Outcome.next t : Outcome State Fault Refusal) = if c then .next x else .next y :=
  h ▸ apply_ite Outcome.next c x y

-- The words of the firmware context.

/-- The state in which firmware's word runs on core g. -/
def State.fwBegun (s : State) (g : CoreNo) (w w1 : Word32) : State :=
  { s with cur := ⟨g, .scu, s.cores[g].fw.pc, w, w1, s.tick, true⟩ }

/-- The state after firmware's word: the words of the user go on. -/
def State.fwLeft (t : State) : State := { t with cur := { t.cur with fw := false } }

/-- The scalar word that the firmware context sees: in an assist with its queues, otherwise without (04 R139). -/
def State.fwSeen (s : State) (g : CoreNo) (w : Word32) : Nat :=
  if s.cores[g].inst.assist.any (·.frozen) then w.toNat else noQueues w.toNat

/-- A word of the scalar stream that decodes is run. -/
theorem judge_scu_ok {cur : Cur} {i : Instr} (hsrc : cur.src = .scu) (h : decode .scu cur.word.toNat cur.word1.toNat = .ok i) :
    judge cur .scu = .run cur i := by
  simp [judge, hsrc, h]

/-- A word of the scalar stream that does not decode is ILLEGAL, with its bits in TVAL (02 R65). -/
theorem judge_scu_illegal {cur : Cur} {r : Reject} (hsrc : cur.src = .scu) (h : decode .scu cur.word.toNat cur.word1.toNat = .error r)
    (hclass : ∀ n, r ≠ .absentClass n) :
    judge cur .scu = .trap cur .illegal
      (BitVec.ofNat 64 (cur.word.toNat + if isSegWord .scu cur.word.toNat then cur.word1.toNat * 2 ^ 32 else 0)) := by
  cases r
  case absentClass n => exact absurd rfl (hclass n)
  all_goals simp [judge, hsrc, h]

/-- ILLEGAL of firmware's word goes to firmware's own trap state and changes nothing else (00 R7; LOG 82). -/
theorem raise_illegal_firmware {s : State} (hfw : s.cur.fw = true) (v : Word) :
    s.raise .illegal v = s.fwTrap s.cur.core 0x01 v := by
  simp only [State.raise, State.raiseAs, State.noteFailed, hfw, if_true, reduceCtorEq, or_self, if_false, ite_self]
  rfl

/-- Nothing keeps firmware from a word of its own between two user instructions. -/
theorem execFirmware_guard {s : State} {g : CoreNo} {w : Word32} (hpower : s.power = .d0) (hslot : (s.inst g).slot = none)
    (hword : fwWord w.toNat = true) : ¬ (s.power ≠ .d0 ∨ !s.betweenUser g ∨ !fwWord w.toNat) := by
  simp [hpower, State.betweenUser, hslot, hword]

/-- A word that firmware may execute, between two user instructions, runs on firmware's own registers; what it leaves goes back to
the firmware context and to the user (03 R106, 04 R139, R140). -/
theorem execFirmware_run {s t : State} {g : CoreNo} {w w1 : Word32} {i i' : Instr} (hpower : s.power = .d0)
    (hslot : (s.inst g).slot = none) (hword : fwWord w.toNat = true) (hdec : decode .scu w.toNat w1.toNat = .ok i')
    (hseen : decode .scu (s.fwSeen g w) w1.toNat = .ok i)
    (hexec : exec i ((s.fwBegun g w w1).modCore g fun x => { x with inst := x.fw.view x.inst }) = .next t)
    (hwmon : (t.inst g).wmon = none) :
    execFirmware g w w1 s = .next (t.modCore g fun x => x.leaveFirmware s.cores[g].inst).fwLeft := by
  unfold State.fwSeen at hseen
  unfold State.fwBegun at hexec
  unfold execFirmware
  simp only [if_neg (execFirmware_guard hpower hslot hword),
    judge_scu_ok (cur := ⟨g, .scu, s.cores[g].fw.pc, w, w1, s.tick, true⟩) rfl hdec, hseen, hexec, hwmon]
  rfl

/-- A word that firmware may execute and that does not decode is ILLEGAL in firmware's own trap state (00 R7). -/
theorem execFirmware_illegal {s : State} {g : CoreNo} {w w1 : Word32} {r : Reject} (hpower : s.power = .d0)
    (hslot : (s.inst g).slot = none) (hword : fwWord w.toNat = true) (hdec : decode .scu w.toNat w1.toNat = .error r)
    (hclass : ∀ n, r ≠ .absentClass n) :
    execFirmware g w w1 s = .next ((s.fwBegun g w w1).fwTrap g 0x01
      (BitVec.ofNat 64 (w.toNat + if isSegWord .scu w.toNat then w1.toNat * 2 ^ 32 else 0))).fwLeft := by
  unfold execFirmware
  simp only [if_neg (execFirmware_guard hpower hslot hword),
    judge_scu_illegal (cur := ⟨g, .scu, s.cores[g].fw.pc, w, w1, s.tick, true⟩) rfl hdec hclass]
  exact congrArg (fun t : State => Outcome.next t.fwLeft) (raise_illegal_firmware (s := s.fwBegun g w w1) rfl _)

/-- Outside an assist a register number that names a queue is read as s0, as a source and as a destination (04 R139). -/
theorem decode_noQueues_addi : ∀ r : SReg, 48 ≤ r.val →
    decode .scu (noQueues ((encode (.addi 5 r 1)).headD 0).toNat) 0 = .ok (.addi 5 0 1) ∧
    decode .scu (noQueues ((encode (.addi r 5 1)).headD 0).toNat) 0 = .ok (.addi 0 5 1) := by
  decide

/-- Settles O42: firmware's own steps by `fwStep_values` and the two lemmas on RUNG, a user's by its csrw, and firmware's words by the
two lemmas on `execFirmware`. -/
theorem registerWrites : Obligations.RegisterWrites := by
  refine ⟨?_, ?_, decode_noQueues_addi⟩
  · intro g v s hslot put illegal rung
    obtain ⟨hfmode, hmflg, hmtol, hmrmode, hfshare, hwdog⟩ := fwStep_values v hslot
    refine ⟨next_of_eq_ite hfmode, next_of_eq_ite hmflg, next_of_eq_ite hmtol, next_of_eq_ite hmrmode, ?rungDown, ?rungRefused,
      next_of_eq_ite hfshare, next_of_eq_ite hwdog, ?instanceWrite⟩
    case rungDown =>
      intro r hv hr
      have hstep : exec (.rungWrite g v) s = .next (s.fwStep g 0x001 v) := rfl
      rw [hstep, fwStep_rung_down hslot hv hr]
      exact ⟨fun ha => by rw [ha]; rfl, fun ha => by rw [ha]; rfl⟩
    case rungRefused => exact fun h => congrArg Outcome.next (fwStep_rung_refused hslot h)
    case instanceWrite =>
      intro i n a hmem st w hdec hread hval hocc hend hfrz hheld
      rw [exec_instanceWrite s hmem]
      exact regWrite_instance hdec hread hval hocc hend hfrz hheld
  · intro g w w1 s hpower hslot hword c assisting seen begun left
    exact ⟨fun _ _ _ hdec hseen hexec hwmon => execFirmware_run hpower hslot hword hdec hseen hexec hwmon,
      fun _ hdec hclass => execFirmware_illegal hpower hslot hword hdec hclass⟩

end Sys2Proof.Machine
end

section
/-!
# Reading the fields of a word

An encoded word is a sum: the fixed bits, and each operand's code at its field's lowest bit. The formats are a list of fields (lowest
bit, number of values). Where the fields stand apart, every field reads back its code and a reserved field reads 0.
-/

namespace Sys2Proof

variable {w base lo n hi k l m v : Nat} {sh : List (Nat × Nat)} {vs : List Nat}

/-- No bit of field f is one of n values at bit lo: the two begin at different bits, and one stands above the other. -/
def apart (f : Nat × Nat) (lo n : Nat) : Bool := f.1 != lo && (decide (2 ^ lo * n ∣ 2 ^ f.1) || decide (2 ^ f.1 * f.2 ∣ 2 ^ lo))

/-- The fields stand apart from one another, and the base has zeros there. -/
def shapeOk (base : Nat) : List (Nat × Nat) → Bool
  | [] => true
  | (lo, n) :: sh => base / 2 ^ lo % n == 0 && sh.all (fun f => apart (lo, n) f.1 f.2) && shapeOk base sh

/-- Each value is one of its field's. -/
inductive Placed : List (Nat × Nat) → List Nat → Prop
  | none : Placed [] []
  | field {n v : Nat} {sh : List (Nat × Nat)} {vs : List Nat} (lo : Nat) (h : v < n) (t : Placed sh vs) :
      Placed ((lo, n) :: sh) (v :: vs)

/-- The values at their fields' lowest bits, as `word` takes them. -/
def place (sh : List (Nat × Nat)) (vs : List Nat) : List (Nat × Nat) := List.zipWith (fun f v => (v, f.1)) sh vs

/-- The number whose low 32 bits `word` takes. -/
def wordNat (base : Nat) (fields : List (Nat × Nat)) : Nat := fields.foldl (fun n f => n + f.1 * 2 ^ f.2) base

/-- What stands at bit lo: the value of the field there, and the base's bits where there is none. -/
def valueAt (base : Nat) : List (Nat × Nat) → List Nat → Nat → Nat → Nat
  | f :: sh, v :: vs, lo, n => if f.1 = lo then v else valueAt base sh vs lo n
  | _, _, lo, n => base / 2 ^ lo % n

theorem valueAt_same : valueAt base ((lo, m) :: sh) (v :: vs) lo n = v := if_pos rfl

theorem valueAt_next (h : l ≠ lo) : valueAt base ((l, m) :: sh) (v :: vs) lo n = valueAt base sh vs lo n := if_neg h

theorem valueAt_nil : valueAt base [] [] lo n = base / 2 ^ lo % n := rfl

/-- The n values at bit lo of a word are those of one field, or share no bit with any. -/
def readable (sh : List (Nat × Nat)) (lo n : Nat) : Bool :=
  decide (2 ^ lo * n ∣ 2 ^ 32) && sh.all fun f => f == (lo, n) || apart f lo n

/-- Whatever is read of word w is what stands there. -/
def Reads (w base : Nat) (sh : List (Nat × Nat)) (vs : List Nat) : Prop :=
  ∀ lo n, readable sh lo n = true → w / 2 ^ lo % n = valueAt base sh vs lo n

/-- No field has any of the bits [hi:lo], and the base has zeros there. -/
def allZero (base : Nat) (sh : List (Nat × Nat)) (hi lo : Nat) : Bool :=
  readable sh lo (2 ^ (hi + 1 - lo)) && sh.all (fun f => apart f lo (2 ^ (hi + 1 - lo))) && bits base hi lo == 0

theorem apart_ne {f : Nat × Nat} (h : apart f lo n = true) : f.1 ≠ lo := by
  simp only [apart, Bool.and_eq_true, bne_iff_ne] at h
  exact h.1

theorem div_mod_add_same (hfree : w / 2 ^ l % m = 0) (hv : v < m) : (w + v * 2 ^ l) / 2 ^ l % m = v := by
  rw [Nat.add_mul_div_right _ _ (by positivity), Nat.add_mod, hfree, Nat.zero_add, Nat.mod_mod, Nat.mod_eq_of_lt hv]

theorem div_mod_add_apart (hfree : w / 2 ^ l % m = 0) (hv : v < m) (ha : apart (l, m) lo n = true) :
    (w + v * 2 ^ l) / 2 ^ lo % n = w / 2 ^ lo % n := by
  simp only [apart, Bool.and_eq_true, Bool.or_eq_true, decide_eq_true_eq] at ha
  obtain ⟨-, ⟨c, hc⟩ | ⟨c, hc⟩⟩ := ha
  · rw [hc, show w + v * (2 ^ lo * n * c) = w + 2 ^ lo * (n * (v * c)) by ring, Nat.add_mul_div_left _ _ (by positivity),
      Nat.add_mul_mod_self_left]
  · have hdiv : (w + v * 2 ^ l) / 2 ^ l / m = w / 2 ^ l / m := by
      rw [Nat.add_mul_div_right _ _ (by positivity), Nat.add_div (by omega), hfree, Nat.div_eq_of_lt hv, Nat.mod_eq_of_lt hv]
      simp; omega
    simp only [hc, ← Nat.div_div_eq_div_mul, hdiv]

/-- A field's code in the base leaves the other fields' bits zero. -/
theorem shapeOk_add (hfree : base / 2 ^ l % m = 0) (hv : v < m) :
    ∀ {sh}, sh.all (fun f => apart (l, m) f.1 f.2) = true → shapeOk base sh = true → shapeOk (base + v * 2 ^ l) sh = true
  | [], _, _ => rfl
  | (lo, n) :: sh, ha, hs => by
    simp only [List.all_cons, Bool.and_eq_true] at ha
    simp only [shapeOk, Bool.and_eq_true] at hs ⊢
    exact ⟨⟨div_mod_add_apart hfree hv ha.1 ▸ hs.1.1, hs.1.2⟩, shapeOk_add hfree hv ha.2 hs.2⟩

theorem valueAt_congr {b b' : Nat} (h : b / 2 ^ lo % n = b' / 2 ^ lo % n) :
    ∀ sh vs, valueAt b sh vs lo n = valueAt b' sh vs lo n
  | [], _ => h
  | _ :: _, [] => h
  | f :: sh, v :: vs => by simp only [valueAt, valueAt_congr h sh vs]

theorem valueAt_of_ne : ∀ {sh vs}, (∀ f ∈ sh, f.1 ≠ lo) → valueAt base sh vs lo n = base / 2 ^ lo % n
  | [], _, _ => rfl
  | _ :: _, [], _ => rfl
  | f :: sh, v :: vs, h => by
    obtain ⟨hne, hrest⟩ := List.forall_mem_cons.1 h
    rw [valueAt_next hne, valueAt_of_ne hrest]

theorem reads_wordNat (hp : Placed sh vs) (hs : shapeOk base sh = true) : Reads (wordNat base (place sh vs)) base sh vs := by
  induction hp generalizing base with
  | none => exact fun _ _ _ => rfl
  | @field m v sh vs l hv t ih =>
    simp only [shapeOk, Bool.and_eq_true, beq_iff_eq] at hs
    obtain ⟨⟨hfree, hapart⟩, hrest⟩ := hs
    intro lo n hr
    simp only [readable, List.all_cons, Bool.and_eq_true, Bool.or_eq_true, beq_iff_eq, Prod.mk.injEq] at hr
    obtain ⟨hdvd, hhere, hothers⟩ := hr
    have hread : wordNat base (place ((l, m) :: sh) (v :: vs)) / 2 ^ lo % n = valueAt (base + v * 2 ^ l) sh vs lo n :=
      ih (shapeOk_add hfree hv hapart hrest) lo n (by rw [readable, hdvd, hothers]; rfl)
    rw [hread]
    rcases hhere with ⟨rfl, rfl⟩ | ha
    · have hne : ∀ f ∈ sh, f.1 ≠ l := fun f hf => (apart_ne (List.all_eq_true.1 hapart f hf)).symm
      rw [valueAt_of_ne hne, div_mod_add_same hfree hv, valueAt_same]
    · rw [valueAt_next (apart_ne ha), valueAt_congr (div_mod_add_apart hfree hv ha)]

theorem Reads.mod (h : Reads w base sh vs) : Reads (w % 2 ^ 32) base sh vs := by
  intro lo n hr
  obtain ⟨c, hc⟩ : 2 ^ lo * n ∣ 2 ^ 32 := by
    simp only [readable, Bool.and_eq_true, decide_eq_true_eq] at hr
    exact hr.1
  rw [hc, mul_assoc, Nat.mod_mul_right_div_self, Nat.mod_mul_right_mod, h lo n hr]

theorem reads_word (hp : Placed sh vs) (hs : shapeOk base sh = true) (rest : List Word32) :
    Reads ((word base (place sh vs) ++ rest).headD 0).toNat base sh vs := by
  have hw : ((word base (place sh vs) ++ rest).headD 0).toNat = wordNat base (place sh vs) % 2 ^ 32 := BitVec.toNat_ofNat ..
  exact hw ▸ (reads_wordNat hp hs).mod

theorem Reads.fld [NeZero n] (h : Reads w base sh vs) (hr : readable sh lo n = true) :
    fld n w lo = Fin.ofNat n (valueAt base sh vs lo n) := by
  rw [← h lo n hr]
  exact Fin.ext (Nat.mod_mod ..).symm

theorem Reads.flag (h : Reads w base sh vs) (hr : readable sh lo 2 = true) : flag w lo = (valueAt base sh vs lo 2 == 1) := by
  rw [Sys2Proof.flag, h lo 2 hr]

theorem Reads.bits (h : Reads w base sh vs) (hr : readable sh lo (2 ^ (hi + 1 - lo)) = true) :
    bits w hi lo = valueAt base sh vs lo (2 ^ (hi + 1 - lo)) := h lo _ hr

theorem Reads.tok (h : Reads w base sh vs) (hr : readable sh 31 2 = true) (hr' : readable sh 30 2 = true) :
    tok w = ⟨valueAt base sh vs 31 2 == 1, valueAt base sh vs 30 2 == 1⟩ := by
  rw [Sys2Proof.tok, h.flag hr, h.flag hr']

theorem Reads.imm (h : Reads w base sh vs) (hr : readable sh lo (2 ^ k) = true) :
    BitVec.ofNat k (w / 2 ^ lo) = BitVec.ofNat k (valueAt base sh vs lo (2 ^ k)) := by
  rw [← h lo _ hr]
  exact BitVec.eq_of_toNat_eq (by simp)

theorem Reads.low (h : Reads w base sh vs) (hr : readable sh 0 (2 ^ k) = true) :
    BitVec.ofNat k w = BitVec.ofNat k (valueAt base sh vs 0 (2 ^ k)) := by
  rw [← h.imm hr, pow_zero, Nat.div_one]

theorem Reads.zero (h : Reads w base sh vs) (hc : allZero base sh hi lo = true) : zero w hi lo = .ok () := by
  simp only [allZero, Bool.and_eq_true, beq_iff_eq] at hc
  obtain ⟨⟨hr, hapart⟩, hbase⟩ := hc
  refine if_pos ?_
  rw [h.bits hr, valueAt_of_ne fun f hf => apart_ne (List.all_eq_true.1 hapart f hf)]
  exact hbase

/-- The words of i are read as i. -/
def Parses (e : Engine) (i : Instr) : Prop :=
  parse e ((encode i).headD 0).toNat (((encode i).drop 1).headD 0).toNat = .ok i

section
variable {e : Engine} {i : Instr} {tk : Tok} {rest : List Word32}

/-- An encoding is read back when its first word is made of fields that stand apart and whatever reads them gets the instruction. -/
theorem Parses.words (hp : Placed sh vs) (henc : encode i = word base (place sh vs) ++ rest) (hs : shapeOk base sh = true)
    (h : ∀ w, Reads w base sh vs → parse e w (rest.headD 0).toNat = .ok i) : Parses e i := by
  rw [Parses, henc]
  exact h _ (reads_word hp hs rest)

/-- The token bits are two fields more. -/
theorem tword_eq_word (fields : List (Nat × Nat)) :
    tword base tk fields = word base ((tk.tw.toNat, 31) :: (tk.ts.toNat, 30) :: fields) := by
  simp only [tword, word, List.foldl_cons, Tok.bits, Nat.add_assoc]

theorem Parses.twords (hp : Placed sh vs) (henc : encode i = tword base tk (place sh vs) ++ rest)
    (hs : shapeOk base ((31, 2) :: (30, 2) :: sh) = true)
    (h : ∀ w, Reads w base ((31, 2) :: (30, 2) :: sh) (tk.tw.toNat :: tk.ts.toNat :: vs) → parse e w (rest.headD 0).toNat = .ok i) :
    Parses e i :=
  .words (.field 31 (Bool.toNat_lt _) (.field 30 (Bool.toNat_lt _) hp)) (by rw [henc, tword_eq_word]; rfl) hs h

theorem Parses.word (hp : Placed sh vs) (henc : encode i = word base (place sh vs)) (hs : shapeOk base sh = true)
    (h : ∀ w, Reads w base sh vs → parse e w 0 = .ok i) : Parses e i :=
  .words (rest := []) hp (by rw [henc, List.append_nil]) hs h

theorem Parses.tword (hp : Placed sh vs) (henc : encode i = tword base tk (place sh vs))
    (hs : shapeOk base ((31, 2) :: (30, 2) :: sh) = true)
    (h : ∀ w, Reads w base ((31, 2) :: (30, 2) :: sh) (tk.tw.toNat :: tk.ts.toNat :: vs) → parse e w 0 = .ok i) : Parses e i :=
  .twords (rest := []) hp (by rw [henc, List.append_nil]) hs h

end

-- The second word of a seg (02 R55): the CRC, below 16 reserved bits.

theorem reads_segCrc (crc : BitVec 16) :
    Reads ((word 0 [(crc.toNat, 0)]).headD 0).toNat 0 [(0, 2 ^ 16)] [crc.toNat] :=
  reads_word (.field 0 crc.isLt .none) (by decide) []

theorem zero_segCrc (crc : BitVec 16) : zero ((word 0 [(crc.toNat, 0)]).headD 0).toNat 31 16 = .ok () :=
  (reads_segCrc crc).zero (by decide)

theorem ofNat_segCrc (crc : BitVec 16) : BitVec.ofNat 16 ((word 0 [(crc.toNat, 0)]).headD 0).toNat = crc := by
  rw [(reads_segCrc crc).low (by decide), valueAt_same, BitVec.ofNat_toNat, BitVec.setWidth_eq]

end Sys2Proof
end

section
/-!
# Decoding what `encode` writes (02 R51 to R61)

For each operand format of an engine, the fields it writes; what `parse` reads of such a word is then the instruction.
-/

namespace Sys2Proof

theorem ok_bind {ε α β : Type} (a : α) (f : α → Except ε β) : (Except.ok a >>= f) = f a := rfl

theorem pure_eq_ok {ε α : Type} (a : α) : (pure a : Except ε α) = .ok a := rfl

theorem toNat_beq_one (b : Bool) : (b.toNat == 1) = b := by cases b <;> rfl

theorem Rounding.codes (x : Rounding) : x.code < 8 ∧ enum Rounding.ofCode x.code = .ok x := by
  cases x <;> exact ⟨by decide, rfl⟩

theorem FpFmt.codes (x : FpFmt) : x.code < 8 ∧ enum FpFmt.ofCode x.code = .ok x := by
  cases x <;> exact ⟨by decide, rfl⟩

theorem IntFmt.codes (x : IntFmt) : x.code < 8 ∧ enum IntFmt.ofCode x.code = .ok x := by
  cases x <;> exact ⟨by decide, rfl⟩

theorem VFmt.codes (x : VFmt) : x.code < 8 ∧ enum VFmt.ofCode x.code = .ok x := by
  cases x <;> exact ⟨by decide, rfl⟩

theorem LaneW.codes (x : LaneW) : x.code < 8 ∧ enum LaneW.ofCode x.code = .ok x := by
  cases x <;> exact ⟨by decide, rfl⟩

theorem HFmt.codes (x : HFmt) : x.code < 8 ∧ enum HFmt.ofCode x.code = .ok x := by
  cases x <;> exact ⟨by decide, rfl⟩

theorem RedFmt.codes (x : RedFmt) : x.code < 8 ∧ enum RedFmt.ofCode x.code = .ok x := by
  cases x <;> exact ⟨by decide, rfl⟩

theorem FixFmt.codes (x : FixFmt) : x.code < 8 ∧ enum FixFmt.ofCode x.code = .ok x := by
  cases x <;> exact ⟨by decide, rfl⟩

theorem TileFmt.codes (x : TileFmt) : x.code < 8 ∧ enum TileFmt.ofCode x.code = .ok x := by
  cases x <;> exact ⟨by decide, rfl⟩

theorem Cond.codes (x : Cond) : x.code < 8 ∧ enum Cond.ofCode x.code = .ok x := by
  cases x <;> exact ⟨by decide, rfl⟩

theorem ICond.codes (x : ICond) : x.code < 8 ∧ enum ICond.ofCode x.code = .ok x := by
  cases x <;> exact ⟨by decide, rfl⟩

theorem WCond.codes (x : WCond) : x.code < 8 ∧ enum WCond.ofCode x.code = .ok x := by
  cases x <;> exact ⟨by decide, rfl⟩

theorem AmoOp.codes (x : AmoOp) : x.code < 16 ∧ enum AmoOp.ofCode x.code = .ok x := by
  cases x <;> exact ⟨by decide, rfl⟩

theorem AmoOrder.codes (x : AmoOrder) : x.code < 4 ∧ enum AmoOrder.ofCode x.code = .ok x := by
  cases x <;> exact ⟨by decide, rfl⟩

theorem FenceScope.codes (x : FenceScope) : x.code < 4 ∧ enum FenceScope.ofCode x.code = .ok x := by
  cases x <;> exact ⟨by decide, rfl⟩

theorem FenceKind.codes (x : FenceKind) : x.code < 4 ∧ enum FenceKind.ofCode x.code = .ok x := by
  cases x <;> exact ⟨by decide, rfl⟩

theorem Dir.codes (x : Dir) : x.code < 4 ∧ enum Dir.ofCode x.code = .ok x := by
  cases x <;> exact ⟨by decide, rfl⟩

theorem QntType.codes (x : QntType) : x.code < 8 ∧ enum QntType.ofCode x.code = .ok x := by
  cases x <;> exact ⟨by decide, rfl⟩

theorem B16Fmt.codes (x : B16Fmt) : x.code < 2 ∧ enum B16Fmt.ofCode x.code = .ok x := by
  cases x <;> exact ⟨by decide, rfl⟩

theorem TileForm.codes (x : TileForm) : x.code < 4 ∧ enum TileForm.ofCode x.code = .ok x := by
  cases x <;> exact ⟨by decide, rfl⟩

theorem Buf.codes (x : Buf) : x.code < 4 ∧ enum Buf.ofCode x.code = .ok x := by
  cases x <;> exact ⟨by decide, rfl⟩

theorem CpDst.codes (x : CpDst) : x.code < 8 ∧ enum CpDst.ofCode x.code = .ok x := by
  cases x <;> exact ⟨by decide, rfl⟩

theorem CpSrc.codes (x : CpSrc) : x.code < 8 ∧ enum CpSrc.ofCode x.code = .ok x := by
  cases x <;> exact ⟨by decide, rfl⟩

theorem CpxDst.codes (x : CpxDst) : x.code < 8 ∧ enum CpxDst.ofCode x.code = .ok x := by
  cases x <;> exact ⟨by decide, rfl⟩

theorem ListSrc.codes (x : ListSrc) : x.code < 8 ∧ enum ListSrc.ofCode x.code = .ok x := by
  cases x <;> exact ⟨by decide, rfl⟩

theorem Engine.codes (x : Engine) : x.code < 4 ∧ enum Engine.ofCode x.code = .ok x := by
  cases x <;> exact ⟨by decide, rfl⟩

theorem LaneW.code_lt_four (x : LaneW) : x.code < 4 := by cases x <;> decide

theorem parses_scu (i : Instr) (hi : engineOf i = some .scu) : Parses .scu i := by
  cases i
  case' add d a b | sub d a b | and d a b | or d a b | xor d a b | shl d a b | shr d a b | sar d a b | slt d a b |
      sltu d a b | mul d a b | mulh d a b | mulhu d a b | div d a b | divu d a b | rem d a b | remu d a b | min d a b |
      minu d a b | max d a b | maxu d a b | spawn d a b =>
    refine .word (.field 20 d.isLt <| .field 14 a.isLt <| .field 8 b.isLt <| .none) rfl ?_ ?_
  case' addi d a i | andi d a i | ori d a i | xori d a i | slti d a i | sltui d a i | ldb d a i | ldbu d a i | ldh d a i |
      ldhu d a i | ldw d a i | ldwu d a i | ldd d a i | stb d a i | sth d a i | stw d a i | std d a i =>
    refine .word (.field 20 d.isLt <| .field 14 a.isLt <| .field 0 i.isLt <| .none) rfl ?_ ?_
  case' shli d a i | shri d a i | sari d a i =>
    refine .word (.field 20 d.isLt <| .field 14 a.isLt <| .field 0 i.isLt <| .none) rfl ?_ ?_
  case' lui d i | pcadd d i => refine .word (.field 20 d.isLt <| .field 0 i.isLt <| .none) rfl ?_ ?_
  case' beq a b i | bne a b i | blt a b i | bge a b i | bltu a b i | bgeu a b i =>
    refine .word (.field 20 a.isLt <| .field 14 b.isLt <| .field 0 i.isLt <| .none) rfl ?_ ?_
  case' j i | jal i => refine .word (.field 0 i.isLt <| .none) rfl ?_ ?_
  case' jalr d a => refine .word (.field 20 d.isLt <| .field 14 a.isLt <| .none) rfl ?_ ?_
  case' scuLoop a l => refine .word (.field 14 a.isLt <| .field 0 l.isLt <| .none) rfl ?_ ?_
  case' csrr d n => refine .word (.field 20 d.isLt <| .field 0 n.isLt <| .none) rfl ?_ ?_
  case' csrw a n => refine .word (.field 14 a.isLt <| .field 0 n.isLt <| .none) rfl ?_ ?_
  case' wmon d a b w c =>
    refine .word (.field 20 d.isLt <| .field 14 a.isLt <| .field 8 b.isLt <| .field 3 (Bool.toNat_lt w) <|
      .field 0 c.codes.1 <| .none) rfl ?_ ?_
  case' amo d a b o w c =>
    refine .word (.field 20 d.isLt <| .field 14 a.isLt <| .field 8 b.isLt <| .field 5 o.codes.1 <|
      .field 4 (Bool.toNat_lt w) <| .field 0 c.codes.1 <| .none) rfl ?_ ?_
  case' cas d a b o w =>
    refine .word (.field 20 d.isLt <| .field 14 a.isLt <| .field 8 b.isLt <| .field 5 o.codes.1 <|
      .field 4 (Bool.toNat_lt w) <| .none) rfl ?_ ?_
  case' fence s k => refine .word (.field 2 s.codes.1 <| .field 0 k.codes.1 <| .none) rfl ?_ ?_
  case' scuTkw f => refine .word (.field 2 f.codes.1 <| .field 0 Engine.scu.codes.1 <| .none) rfl ?_ ?_
  case' scuTks f => refine .word (.field 2 Engine.scu.codes.1 <| .field 0 f.codes.1 <| .none) rfl ?_ ?_
  case' scuSafe | scuEnd | eret => refine .word .none rfl ?_ ?_
  case' scuSeg cnt crc => refine .words (.field 0 cnt.isLt <| .none) rfl ?_ ?_
  case' trap i => refine .word (.field 0 i.isLt <| .none) rfl ?_ ?_
  any_goals cases hi
  any_goals decide
  all_goals
    intro w hr
    rw [parse, parseScu, hr 26 64 (by decide)]
    -- `whnf` takes the arm of the major without rewriting the others.
    conv_lhs => whnf
    simp (disch := decide) only [↓hr.imm, hr.fld, hr.flag, hr.bits, hr.zero, hr.low, zero_segCrc, ↓ofNat_segCrc, valueAt_same,
      valueAt_next, valueAt_nil, ok_bind, pure_eq_ok, WCond.codes, AmoOp.codes, AmoOrder.codes, FenceScope.codes,
      FenceKind.codes, Engine.codes, fifoIn, fifoOut, if_true, toNat_beq_one, Fin.ofNat_val_eq_self, BitVec.ofNat_toNat,
      BitVec.setWidth_eq, Nat.reducePow, Nat.reduceAdd, Nat.reduceSub, Nat.reduceDiv, Nat.reduceMod]

theorem parses_ve (i : Instr) (hi : engineOf i = some .ve) : Parses .ve i := by
  cases i
  case' vadd tk d a b r f k | vsub tk d a b r f k | vmul tk d a b r f k | vdiv tk d a b r f k | vfma tk d a b r f k |
      vfms tk d a b r f k | vfnma tk d a b r f k | vxrnd tk d a b r f k =>
    refine .tword (.field 19 d.isLt <| .field 14 a.isLt <| .field 9 b.isLt <| .field 6 r.codes.1 <| .field 3 f.codes.1 <|
      .field 0 k.isLt <| .none) rfl ?_ ?_
  case' vsqrt tk d a r f k | vredsum tk d a r f k | vexp tk d a r f k | vlog tk d a r f k | verf tk d a r f k =>
    refine .tword (.field 19 d.isLt <| .field 14 a.isLt <| .field 6 r.codes.1 <| .field 3 f.codes.1 <| .field 0 k.isLt <|
      .none) rfl ?_ ?_
  case' vmin tk d a b f k | vmax tk d a b f k | vsgnCp tk d a b f k | vsgnXs tk d a b f k | viadd tk d a b f k |
      visub tk d a b f k | vimul tk d a b f k | vand tk d a b f k | vor tk d a b f k | vxor tk d a b f k | vshl tk d a b f k |
      vshr tk d a b f k | vsar tk d a b f k | vimin tk d a b f k | vimax tk d a b f k | vxacc tk d a b f k |
      vperm tk d a b f k | vsel tk d a b f k =>
    refine .tword (.field 19 d.isLt <| .field 14 a.isLt <| .field 9 b.isLt <| .field 3 f.codes.1 <| .field 0 k.isLt <|
      .none) rfl ?_ ?_
  case' vsgnNeg tk d a f k | vsgnAbs tk d a f k | vsgnExp tk d a f k | vredmin tk d a f k | vredmax tk d a f k |
      viredsum tk d a f k | vmov tk d a f k =>
    refine .tword (.field 19 d.isLt <| .field 14 a.isLt <| .field 3 f.codes.1 <| .field 0 k.isLt <| .none) rfl ?_ ?_
  case' vcmp tk d a b c f k | vicmp tk d a b c f k =>
    refine .tword (.field 19 d.isLt <| .field 14 a.isLt <| .field 9 b.isLt <| .field 6 c.codes.1 <| .field 3 f.codes.1 <|
      .field 0 k.isLt <| .none) rfl ?_ ?_
  case' vcvt tk d a h g r f k =>
    refine .tword (.field 19 d.isLt <| .field 14 a.isLt <| .field 13 (Bool.toNat_lt h) <| .field 9 g.codes.1 <|
      .field 6 r.codes.1 <| .field 3 f.codes.1 <| .field 0 k.isLt <| .none) rfl ?_ ?_
  case' vqnt tk d a r t k =>
    refine .tword (.field 19 d.isLt <| .field 14 a.isLt <| .field 6 r.codes.1 <| .field 3 t.codes.1 <| .field 0 k.isLt <|
      .none) rfl ?_ ?_
  case' vbcast tk d a l x k =>
    refine .tword (.field 19 d.isLt <| .field 14 a.isLt <| .field 5 l.isLt <| .field 3 (x.code_lt_four) <| .field 0 k.isLt <|
      .none) rfl ?_ ?_
  case' vslide tk d a b n k =>
    refine .tword (.field 19 d.isLt <| .field 14 a.isLt <| .field 9 b.isLt <| .field 3 n.isLt <| .field 0 k.isLt <|
      .none) rfl ?_ ?_
  case' vld tk d a c f k | vst tk d a c f k =>
    refine .tword (.field 19 d.isLt <| .field 14 a.isLt <| .field 6 c.isLt <| .field 3 f.codes.1 <| .field 0 k.isLt <|
      .none) rfl ?_ ?_
  case' vlds tk d a b c f k | vsts tk d a b c f k | vgath tk d a b c f k | vscat tk d a b c f k =>
    refine .tword (.field 19 d.isLt <| .field 14 a.isLt <| .field 9 b.isLt <| .field 6 c.isLt <| .field 3 f.codes.1 <|
      .field 0 k.isLt <| .none) rfl ?_ ?_
  case' vtrd tk v t e n f k | vtwr tk v t e n f k =>
    refine .tword (.field 19 v.isLt <| .field 14 t.isLt <| .field 12 e.codes.1 <| .field 6 n.isLt <| .field 3 f.codes.1 <|
      .field 0 k.isLt <| .none) rfl ?_ ?_
  case' vflgRd tk d k => refine .tword (.field 19 d.isLt <| .field 0 k.isLt <| .none) rfl ?_ ?_
  case' vflgClr tk f k => refine .tword (.field 14 f.isLt <| .field 0 k.isLt <| .none) rfl ?_ ?_
  case' vflgWr tk a k => refine .tword (.field 14 a.isLt <| .field 0 k.isLt <| .none) rfl ?_ ?_
  case' vflgAny tk d f k => refine .tword (.field 19 d.isLt <| .field 14 f.isLt <| .field 0 k.isLt <| .none) rfl ?_ ?_
  case' vflgTm tk d => refine .tword (.field 19 d.isLt <| .none) rfl ?_ ?_
  case' vflgCtm tk | veSafe tk | veEnd tk => refine .tword .none rfl ?_ ?_
  case' vpush tk q a x k =>
    refine .tword (.field 19 q.isLt <| .field 14 a.isLt <| .field 3 x.codes.1 <| .field 0 k.isLt <| .none) rfl ?_ ?_
  case' vpopPack tk d q b x =>
    refine .tword (.field 19 d.isLt <| .field 14 q.isLt <| .field 9 b.isLt <| .field 3 x.codes.1 <| .none) rfl ?_ ?_
  case' vpopExp tk d q x k =>
    refine .tword (.field 19 d.isLt <| .field 14 q.isLt <| .field 3 x.codes.1 <| .field 0 k.isLt <| .none) rfl ?_ ?_
  case' vorient2 tk d a b t q f k | vorient3 tk d a b t q f k | vincirc tk d a b t q f k | vinsph tk d a b t q f k |
      vsegx tk d a b t q f k =>
    refine .tword (.field 19 d.isLt <| .field 14 a.isLt <| .field 9 b.isLt <| .field 8 (Bool.toNat_lt t) <|
      .field 7 (Bool.toNat_lt q) <| .field 3 f.codes.1 <| .field 0 k.isLt <| .none) rfl ?_ ?_
  case' vmskAnd tk d a b k | vmskOr tk d a b k | vmskXor tk d a b k | vmskAndn tk d a b k =>
    refine .tword (.field 19 d.isLt <| .field 14 a.isLt <| .field 9 b.isLt <| .field 0 k.isLt <| .none) rfl ?_ ?_
  case' vmskTov tk d a k | vmskCnt tk d a k | vmskFirst tk d a k =>
    refine .tword (.field 19 d.isLt <| .field 14 a.isLt <| .field 0 k.isLt <| .none) rfl ?_ ?_
  case' vmskFromv tk d a k => refine .tword (.field 19 d.isLt <| .field 14 a.isLt <| .field 0 k.isLt <| .none) rfl ?_ ?_
  case' viota tk d f k => refine .tword (.field 19 d.isLt <| .field 3 f.codes.1 <| .field 0 k.isLt <| .none) rfl ?_ ?_
  case' veTkw tk f => refine .tword (.field 2 f.codes.1 <| .field 0 Engine.ve.codes.1 <| .none) rfl ?_ ?_
  case' veTks tk f => refine .tword (.field 2 Engine.ve.codes.1 <| .field 0 f.codes.1 <| .none) rfl ?_ ?_
  case' veLoop tk l c n => refine .tword (.field 14 l.isLt <| .field 13 (Bool.toNat_lt c) <| .field 0 n.isLt <| .none) rfl ?_ ?_
  case' veSeg tk cnt crc => refine .twords (.field 0 cnt.isLt <| .none) rfl ?_ ?_
  any_goals cases hi
  any_goals decide
  all_goals
    intro w hr
    rw [parse, parseVe, hr 24 64 (by decide)]
    -- `whnf` takes the arm of the major without rewriting the others.
    conv_lhs => whnf
    simp (disch := decide) only [↓hr.imm, hr.fld, hr.flag, hr.bits, hr.tok, hr.zero, hr.low, zero_segCrc, ↓ofNat_segCrc,
      valueAt_same, valueAt_next, valueAt_nil, ok_bind, pure_eq_ok, Rounding.codes, FpFmt.codes, IntFmt.codes, VFmt.codes,
      LaneW.codes, HFmt.codes, RedFmt.codes, FixFmt.codes, TileFmt.codes, Cond.codes, ICond.codes, Dir.codes, QntType.codes,
      Engine.codes, fifoIn, fifoOut, if_true, toNat_beq_one, Fin.ofNat_val_eq_self, BitVec.ofNat_toNat, BitVec.setWidth_eq,
      Nat.reducePow, Nat.reduceAdd, Nat.reduceSub, Nat.reduceDiv, Nat.reduceMod]

theorem parses_me (i : Instr) (hi : engineOf i = some .me) : Parses .me i := by
  cases i
  case' mmaF64 tk d a b r c t e | mmaF4 tk d a b r c t e =>
    refine .tword (.field 19 d.isLt <| .field 15 a.isLt <| .field 11 b.isLt <| .field 5 r.codes.1 <|
      .field 4 (Bool.toNat_lt c) <| .field 3 (Bool.toNat_lt t) <| .field 1 (Bool.toNat_lt e) <| .none) rfl ?_ ?_
  case' mmaB16 tk d a b f r c t e | mmas tk d a b f r c t e =>
    refine .tword (.field 19 d.isLt <| .field 15 a.isLt <| .field 11 b.isLt <| .field 8 f.codes.1 <| .field 5 r.codes.1 <|
      .field 4 (Bool.toNat_lt c) <| .field 3 (Bool.toNat_lt t) <| .field 1 (Bool.toNat_lt e) <| .none) rfl ?_ ?_
  case' mmaF8 tk d a b f r c t e =>
    refine .tword (.field 19 d.isLt <| .field 15 a.isLt <| .field 11 b.isLt <| .field 8 f.isLt <| .field 5 r.codes.1 <|
      .field 4 (Bool.toNat_lt c) <| .field 3 (Bool.toNat_lt t) <| .field 1 (Bool.toNat_lt e) <| .none) rfl ?_ ?_
  case' mmaI8 tk d a b f c t e | mmaI4 tk d a b f c t e =>
    refine .tword (.field 19 d.isLt <| .field 15 a.isLt <| .field 11 b.isLt <| .field 8 f.isLt <|
      .field 4 (Bool.toNat_lt c) <| .field 3 (Bool.toNat_lt t) <| .field 1 (Bool.toNat_lt e) <| .none) rfl ?_ ?_
  case' lrset tk d a b e =>
    refine .tword (.field 19 d.isLt <| .field 15 a.isLt <| .field 11 b.isLt <| .field 1 (Bool.toNat_lt e) <| .none) rfl ?_ ?_
  case' lrmul tk d a b => refine .tword (.field 19 d.isLt <| .field 14 a.isLt <| .field 9 b.isLt <| .none) rfl ?_ ?_
  case' lradd tk d a b n =>
    refine .tword (.field 19 d.isLt <| .field 14 a.isLt <| .field 9 b.isLt <| .field 0 (Bool.toNat_lt n) <| .none) rfl ?_ ?_
  case' lrcmp tk d a | tmov tk d a => refine .tword (.field 19 d.isLt <| .field 14 a.isLt <| .none) rfl ?_ ?_
  case' lrden tk d a c => refine .tword (.field 19 d.isLt <| .field 14 a.isLt <| .field 0 (Bool.toNat_lt c) <| .none) rfl ?_ ?_
  case' lrrank tk a => refine .tword (.field 14 a.isLt <| .none) rfl ?_ ?_
  case' lrrankSet tk d | tfree tk d | tclr tk d => refine .tword (.field 19 d.isLt <| .none) rfl ?_ ?_
  case' mrd tk t e n | mwr tk t e n =>
    refine .tword (.field 19 t.isLt <| .field 17 e.codes.1 <| .field 11 n.isLt <| .none) rfl ?_ ?_
  case' mldc tk t e n f g | mstc tk t e n f g =>
    refine .tword (.field 19 t.isLt <| .field 17 e.codes.1 <| .field 11 n.isLt <| .field 6 f.isLt <|
      .field 0 (Bool.toNat_lt g) <| .none) rfl ?_ ?_
  case' talloc tk d n f => refine .tword (.field 19 d.isLt <| .field 8 n.isLt <| .field 0 f.codes.1 <| .none) rfl ?_ ?_
  case' mloop tk l i c n =>
    refine .tword (.field 14 l.isLt <| .field 8 i.isLt <| .field 7 (Bool.toNat_lt c) <| .field 0 n.isLt <| .none) rfl ?_ ?_
  case' meLoop tk l c n => refine .tword (.field 14 l.isLt <| .field 13 (Bool.toNat_lt c) <| .field 0 n.isLt <| .none) rfl ?_ ?_
  case' meTkw tk f => refine .tword (.field 2 f.codes.1 <| .field 0 Engine.me.codes.1 <| .none) rfl ?_ ?_
  case' meTks tk f => refine .tword (.field 2 Engine.me.codes.1 <| .field 0 f.codes.1 <| .none) rfl ?_ ?_
  case' meSeg tk cnt crc => refine .twords (.field 0 cnt.isLt <| .none) rfl ?_ ?_
  case' meSafe tk | meEnd tk | meNop tk => refine .tword .none rfl ?_ ?_
  any_goals cases hi
  any_goals decide
  all_goals
    intro w hr
    rw [parse, parseMe, hr 24 64 (by decide)]
    -- `whnf` takes the arm of the major without rewriting the others.
    conv_lhs => whnf
    simp (disch := decide) only [↓hr.imm, hr.fld, hr.flag, hr.bits, hr.tok, hr.zero, hr.low, zero_segCrc, ↓ofNat_segCrc,
      valueAt_same, valueAt_next, valueAt_nil, ok_bind, pure_eq_ok, Rounding.codes, Dir.codes, B16Fmt.codes, TileForm.codes,
      Engine.codes, fifoIn, fifoOut, if_true, toNat_beq_one, Fin.ofNat_val_eq_self, BitVec.ofNat_toNat, BitVec.setWidth_eq,
      Nat.reducePow, Nat.reduceAdd, Nat.reduceSub, Nat.reduceDiv, Nat.reduceMod]

theorem parses_ce (i : Instr) (hi : engineOf i = some .ce) : Parses .ce i := by
  cases i
  case' cp tk p q a x y o z =>
    refine .tword (.field 20 p.isLt <| .field 16 q.isLt <| .field 10 a.isLt <| .field 7 x.codes.1 <| .field 4 y.codes.1 <|
      .field 3 (Bool.toNat_lt o) <| .field 0 z.isLt <| .none) rfl ?_ ?_
  case' cpn tk p q a o =>
    refine .tword (.field 20 p.isLt <| .field 16 q.isLt <| .field 10 a.isLt <| .field 3 (Bool.toNat_lt o) <| .none) rfl ?_ ?_
  case' cpx tk p q a x o z =>
    refine .tword (.field 20 p.isLt <| .field 16 q.isLt <| .field 10 a.isLt <| .field 7 x.codes.1 <|
      .field 3 (Bool.toNat_lt o) <| .field 0 z.isLt <| .none) rfl ?_ ?_
  case' cprm tk p q a m o z =>
    refine .tword (.field 20 p.isLt <| .field 16 q.isLt <| .field 10 a.isLt <| .field 4 m.isLt <|
      .field 3 (Bool.toNat_lt o) <| .field 0 z.isLt <| .none) rfl ?_ ?_
  case' pf tk q l z => refine .tword (.field 16 q.isLt <| .field 9 (Bool.toNat_lt l) <| .field 0 z.isLt <| .none) rfl ?_ ?_
  case' keep tk n q => refine .tword (.field 20 n.isLt <| .field 16 q.isLt <| .none) rfl ?_ ?_
  case' keepF tk n q a => refine .tword (.field 20 n.isLt <| .field 16 q.isLt <| .field 10 a.isLt <| .none) rfl ?_ ?_
  case' unkeep tk n => refine .tword (.field 20 n.isLt <| .none) rfl ?_ ?_
  case' cflush tk q a h => refine .tword (.field 16 q.isLt <| .field 10 a.isLt <| .field 0 (Bool.toNat_lt h) <| .none) rfl ?_ ?_
  case' cinv tk q a | acset tk q a | acadd tk q a => refine .tword (.field 16 q.isLt <| .field 10 a.isLt <| .none) rfl ?_ ?_
  case' cpatm tk p q a c x e o z =>
    refine .tword (.field 20 p.isLt <| .field 16 q.isLt <| .field 10 a.isLt <| .field 6 c.codes.1 <|
      .field 5 (Bool.toNat_lt x) <| .field 4 (Bool.toNat_lt e) <| .field 3 (Bool.toNat_lt o) <| .field 0 z.codes.1 <|
      .none) rfl ?_ ?_
  case' collAr tk p a o | collRs tk p a o | collAg tk p a o | collBc tk p a o =>
    refine .tword (.field 20 p.isLt <| .field 10 a.isLt <| .field 3 (Bool.toNat_lt o) <| .none) rfl ?_ ?_
  case' sigSt tk p q a m o x | sigAdd tk p q a m o x =>
    refine .tword (.field 20 p.isLt <| .field 16 q.isLt <| .field 10 a.isLt <| .field 4 m.isLt <|
      .field 3 (Bool.toNat_lt o) <| .field 2 (Bool.toNat_lt x) <| .none) rfl ?_ ?_
  case' acwait tk a => refine .tword (.field 10 a.isLt <| .none) rfl ?_ ?_
  case' lyt tk p q a m o =>
    refine .tword (.field 20 p.isLt <| .field 16 q.isLt <| .field 10 a.isLt <| .field 6 m.isLt <|
      .field 3 (Bool.toNat_lt o) <| .none) rfl ?_ ?_
  case' scfg tk p q => refine .tword (.field 20 p.isLt <| .field 16 q.isLt <| .none) rfl ?_ ?_
  case' cgetPop tk p | cgetC tk p | cgetCur tk p | cgetScale tk p => refine .tword (.field 20 p.isLt <| .none) rfl ?_ ?_
  case' cgetAc tk n => refine .tword (.field 10 n.isLt <| .none) rfl ?_ ?_
  case' cgetLi tk p i => refine .tword (.field 20 p.isLt <| .field 0 i.isLt <| .none) rfl ?_ ?_
  case' cadd tk p q i => refine .tword (.field 20 p.isLt <| .field 16 q.isLt <| .field 0 i.isLt <| .none) rfl ?_ ?_
  case' hret c => refine .word (.field 0 c.isLt <| .none) rfl ?_ ?_
  case' hflag p q => refine .word (.field 20 p.isLt <| .field 16 q.isLt <| .none) rfl ?_ ?_
  case' spill tk p q a b o | fill tk p q a b o =>
    refine .tword (.field 20 p.isLt <| .field 16 q.isLt <| .field 10 a.isLt <| .field 8 b.codes.1 <|
      .field 3 (Bool.toNat_lt o) <| .none) rfl ?_ ?_
  case' datmOpen tk p q o => refine .tword (.field 20 p.isLt <| .field 16 q.isLt <| .field 1 (Bool.toNat_lt o) <| .none) rfl ?_ ?_
  case' datmClose tk p a r =>
    refine .tword (.field 20 p.isLt <| .field 10 a.isLt <| .field 1 (Bool.toNat_lt r) <| .none) rfl ?_ ?_
  case' ceLoop tk l c n => refine .tword (.field 14 l.isLt <| .field 13 (Bool.toNat_lt c) <| .field 0 n.isLt <| .none) rfl ?_ ?_
  case' ceTkw tk f => refine .tword (.field 2 f.codes.1 <| .field 0 Engine.ce.codes.1 <| .none) rfl ?_ ?_
  case' ceTks tk f => refine .tword (.field 2 Engine.ce.codes.1 <| .field 0 f.codes.1 <| .none) rfl ?_ ?_
  case' ceSeg tk cnt crc => refine .twords (.field 0 cnt.isLt <| .none) rfl ?_ ?_
  case' ceSafe tk | ceEnd tk | ceNop tk => refine .tword .none rfl ?_ ?_
  any_goals cases hi
  any_goals decide
  all_goals
    intro w hr
    rw [parse, parseCe, hr 24 64 (by decide)]
    -- `whnf` takes the arm of the major without rewriting the others.
    conv_lhs => whnf
    simp (disch := decide) only [↓hr.imm, hr.fld, hr.flag, hr.bits, hr.tok, hr.zero, hr.low, zero_segCrc, ↓ofNat_segCrc,
      valueAt_same, valueAt_next, valueAt_nil, ok_bind, pure_eq_ok, AmoOp.codes, Buf.codes, CpDst.codes, CpSrc.codes,
      CpxDst.codes, ListSrc.codes, Engine.codes, fifoIn, fifoOut, if_true, toNat_beq_one, Fin.ofNat_val_eq_self,
      BitVec.ofNat_toNat, BitVec.setWidth_eq, Nat.reducePow, Nat.reduceAdd, Nat.reduceSub, Nat.reduceDiv, Nat.reduceMod]

end Sys2Proof

namespace Sys2Proof.Machine

/-- Settles O56: each engine's words are read back by its `parses_` theorem, and a well-formed instruction passes the check that
`decode` makes between fields. -/
theorem encodingRoundTrip : Obligations.EncodingRoundTrip := by
  intro i e he hwf
  have hp : Parses e i := by
    cases e with
    | scu => exact parses_scu i he
    | ve => exact parses_ve i he
    | me => exact parses_me i he
    | ce => exact parses_ce i he
  unfold Parses at hp
  simp only [decode, hp, hwf, if_true]

end Sys2Proof.Machine
end
section
/-! Token words of the engines (02 R47 to R49, 05 R142 to R144). -/

namespace Sys2Proof.Machine

open Host

/-- A word whose only effect is on tokens moves them at its retirement, when the ones it takes are there and the ones it gives fit. -/
theorem engineRun_tokens_moved {s : State} {tk : Tok} {pops pushes : List (Fin 16)}
    (h : (s.inst s.cur.core).tokensReady ((if tk.tw then [defaultIn s.cur.src.engine] else []) ++ pops)
      ((if tk.ts then [defaultOut s.cur.src.engine] else []) ++ pushes) = true) :
    engineRun s tk pops pushes false (.ok s) = .next (s.retireWord ((if tk.tw then [defaultIn s.cur.src.engine] else []) ++ pops)
      ((if tk.ts then [defaultOut s.cur.src.engine] else []) ++ pushes)) :=
  engineRunThen_ok rfl h rfl

/-- With a token missing or a FIFO full, a word that closes no segment waits. -/
theorem engineRun_tokens_wait {s t : State} {tk : Tok} {pops pushes : List (Fin 16)}
    (h : (s.inst s.cur.core).tokensReady ((if tk.tw then [defaultIn s.cur.src.engine] else []) ++ pops)
      ((if tk.ts then [defaultOut s.cur.src.engine] else []) ++ pushes) = false) :
    engineRun s tk pops pushes false (.ok t) = .next s := by
  simp only [engineRun, engineRunThen, h, Bool.false_and, Bool.false_eq_true, if_false]

/-- An instruction with an entry of `tokenRule` is the tkw or the tks of its engine. -/
theorem exec_of_tokenRule {i : Instr} {tk : Tok} {push : Bool} {f : Engine} (h : tokenRule i = some (tk, push, f)) (s : State) :
    exec i s = engineRun s tk (if push then [] else [fifo f s.cur.src.engine]) (if push then [fifo s.cur.src.engine f] else [])
      false (.ok s) := by
  cases i
  case veTkw | meTkw | ceTkw | veTks | meTks | ceTks => cases h; rfl
  all_goals cases h

/-- Settles O30: every tkw and tks is one run without an effect of its own, which retires or waits as its tokens decide. -/
theorem engineTokens : Obligations.EngineTokens := by
  intro i s tk push f hrule e pops pushes
  rw [exec_of_tokenRule hrule]
  exact ⟨engineRun_tokens_moved, engineRun_tokens_wait⟩

end Sys2Proof.Machine
end

section
/-! System registers read and written by the SCU's words (02 R62, Table 2.11, 04 R127, R128, R140). -/

namespace Sys2Proof.Machine

open Host

/-- An SCU word with operands in order that fails its own check traps. -/
theorem scuRun_refused {s : State} {srcs : List SReg} {dst : Option SReg} {pre : Res Unit}
    {f : State → List Word → Res (State × Word)} {c : Cause} {v : Word}
    (hops : operandChecks s.cur.core srcs dst = .ok ()) (hpre : pre = .error (.trap c v)) :
    scuRun s srcs dst pre f = .next (s.raise c v) := by
  simp only [scuRun, hops, hpre, bind, Except.bind, settle]

-- Who may write a register (02 Table 2.11).

theorem writeRight_user {n : Nat} (h : userWritable.contains n = true) : writeRight n = .ok () := if_pos h

theorem not_userWritable_of_firmware {n : Nat} (h : firmwareWritable.contains n = true) : userWritable.contains n = false :=
  (by decide : ∀ n ∈ firmwareWritable, userWritable.contains n = false) n (List.contains_iff_mem.1 h)

theorem writeRight_firmware {n : Nat} (h : firmwareWritable.contains n = true) : writeRight n = trapN .priv n := by
  rw [writeRight, not_userWritable_of_firmware h, h]; rfl

theorem writeRight_none {n : Nat} (hu : userWritable.contains n = false) (hf : firmwareWritable.contains n = false) :
    writeRight n = trapN .illegal n := by
  rw [writeRight, hu, hf]; rfl

theorem fwRight_eq (n : Nat) : fwRight n = if n ∈ userWritable ++ firmwareWritable then .ok () else trapN .illegal n := by
  simp only [fwRight, Bool.or_eq_true, List.contains_iff_mem, List.mem_append]

theorem fwWrite_of_ne_rung {n : Nat} (hn : n ≠ 0x001) (s : State) (g : CoreNo) (v : Word) : s.fwWrite g n v =
    if fwValueOk n v then .ok (s.modInst g fun i => i.modSys fun y => y.fwWrite n v) else .error (.trap .illegal v) := by
  rw [State.fwWrite, if_neg hn]
  cases fwValueOk n v <;> rfl

theorem check_bind {α : Type} (b : Bool) (c : Cause) (v : Word) (f : Unit → Res α) :
    (check b c v >>= f) = if b then f () else .error (.trap c v) := by
  cases b <;> rfl

-- What csrr and csrw are, by who executes them.

theorem exec_csrw_user {s : State} (h : s.cur.fw = false) (a : SReg) (n : Fin 16384) :
    exec (.csrw a n) s = scuRun s [a] none (writeRight n.val) fun t vs =>
      if valueOk n.val (vs.getD 0 0) then
        .ok (t.modInst s.cur.core fun i => i.modSys fun y => y.write n.val (vs.getD 0 0), 0)
      else .error (.trap .illegal (vs.getD 0 0)) := by
  simp only [exec_csrw, execCsrw, h, Bool.false_eq_true, if_false, check_bind]

theorem exec_csrw_firmware {s : State} (h : s.cur.fw = true) (a : SReg) (n : Fin 16384) :
    exec (.csrw a n) s = scuRun s [a] none (fwRight n.val) fun t vs =>
      (t.fwWrite s.cur.core n.val (vs.getD 0 0)).map fun u => (u, 0) := by
  rw [exec_csrw, execCsrw, h]; rfl

/-- Settles O8: csrr and csrw are runs of the SCU whose check is the register's number and whose effect is the value's; each clause
is the run that completes, the one whose check fails, or the one whose effect traps. -/
theorem systemRegisters : Obligations.SystemRegisters := by
  refine ⟨?csrr, ?csrwUser, ?csrwFirmware⟩
  case csrr =>
    intro d n s t hready
    rw [exec_csrr, execCsrr]
    refine ⟨fun v hv hdone => ?_, fun hnone => ?_⟩
    · exact scuRun_done (r := (_, v)) hready (by rw [hv]; rfl) (by rw [hv]; rfl) hdone
    · exact scuRun_refused hready.1 (by rw [hnone]; rfl)
  case csrwUser =>
    intro a n s t hready hfw g v
    rw [exec_csrw_user hfw]
    refine ⟨fun hn hv hdone => ?_, fun hn hv => ?_, fun hn => ?_, fun hu hf => ?_⟩
    · exact scuRun_done (r := (_, 0)) hready (writeRight_user hn) (if_pos hv) hdone
    · exact scuRun_trap hready (writeRight_user hn) (if_neg (Bool.eq_false_iff.1 hv))
    · exact scuRun_refused hready.1 (writeRight_firmware hn)
    · exact scuRun_refused hready.1 (writeRight_none hu hf)
  case csrwFirmware =>
    intro a n s t hready hfw hn g v
    have hrung : n.val ≠ 0x001 := fun h => hn (Fin.ext h)
    rw [exec_csrw_firmware hfw, fwRight_eq]
    simp only [fwWrite_of_ne_rung hrung]
    refine ⟨fun hmem hv hdone => ?_, fun hmem hv => ?_, fun hmem => ?_⟩
    · exact scuRun_done (r := (_, 0)) hready (if_pos hmem) (congrArg (Except.map _) (if_pos hv)) hdone
    · rw [← raise_illegal_firmware hfw]
      exact scuRun_trap hready (if_pos hmem) (congrArg (Except.map _) (if_neg (Bool.eq_false_iff.1 hv)))
    · rw [← raise_illegal_firmware hfw]
      exact scuRun_refused hready.1 (if_neg hmem)

end Sys2Proof.Machine
end

section
/-! Words that the spec writes out (02 R51 to R57, R64). -/

namespace Sys2Proof.Machine

open Host

/-- Settles O55: each word is decoded by evaluation. -/
theorem decodedWords : Obligations.DecodedWords := by
  unfold Obligations.DecodedWords
  decide

end Sys2Proof.Machine
end

section
/-! What a decoder can answer (02 R51 to R57): a word's instruction is one of its engine; a packet's and a request's is their own. -/

namespace Sys2Proof.Machine

open Host

theorem parseScu_engine (w w1 : Nat) : Within (fun i => engineOf i = some .scu) (parseScu w w1) := by
  unfold parseScu
  split
  any_goals split
  any_goals exact Within.error _
  all_goals
    repeat refine Within.then fun _ => ?_
    exact Within.pure rfl

theorem parseVe_engine (w w1 : Nat) : Within (fun i => engineOf i = some .ve) (parseVe w w1) := by
  unfold parseVe
  split
  any_goals split
  any_goals exact Within.error _
  all_goals
    repeat refine Within.then fun _ => ?_
    exact Within.pure rfl

theorem parseMe_engine (w w1 : Nat) : Within (fun i => engineOf i = some .me) (parseMe w w1) := by
  unfold parseMe
  split
  any_goals split
  any_goals exact Within.error _
  all_goals
    repeat refine Within.then fun _ => ?_
    exact Within.pure rfl

theorem parseCe_engine (w w1 : Nat) : Within (fun i => engineOf i = some .ce) (parseCe w w1) := by
  unfold parseCe
  split
  any_goals split
  any_goals exact Within.error _
  all_goals
    repeat refine Within.then fun _ => ?_
    exact Within.pure rfl

theorem decode_engine {e : Engine} {w w1 : Nat} {i : Instr} (h : decode e w w1 = .ok i) : engineOf i = some e := by
  unfold decode at h
  have hparse : parse e w w1 = .ok i := by
    split at h
    · cases h
    · split at h
      · cases h; assumption
      · cases h
  cases e with
  | scu => exact parseScu_engine w w1 i hparse
  | ve => exact parseVe_engine w w1 i hparse
  | me => exact parseMe_engine w w1 i hparse
  | ce => exact parseCe_engine w w1 i hparse

/-- The accesses of the host, the only steps that can end in a fault (LOG 68). -/
def hostAccess : Instr → Bool
  | .hostBar1Write _ _ => true
  | .hostAtomicop _ _ _ _ _ => true
  | _ => false

theorem hostAccess_of_engine {e : Engine} {i : Instr} (h : engineOf i = some e) : hostAccess i = false := by
  cases i
  case hostBar1Write | hostAtomicop => cases h
  all_goals rfl

theorem hostAccess_decode {e : Engine} {w w1 : Nat} {i : Instr} (h : decode e w w1 = .ok i) : hostAccess i = false :=
  hostAccess_of_engine (decode_engine h)

theorem packetBody_host {bs : List Byte} {fields : List (Nat × Nat)} {i : Instr} (h : hostAccess i = false) :
    Within (fun i => hostAccess i = false) (packetBody bs fields i) :=
  Within.ite (Within.ok h) (Within.error _)

theorem decodeTransform_host (h : Pkt) (bs : List Byte) : Within (fun i => hostAccess i = false) (decodeTransform h bs) := by
  unfold decodeTransform
  dsimp only
  split
  · exact Within.ite (packetBody_host rfl) (Within.error _)
  · exact Within.ite (packetBody_host rfl) (Within.error _)
  · exact Within.ite (packetBody_host rfl) (Within.error _)
  · split
    · exact Within.ite (packetBody_host rfl) (Within.error _)
    · exact Within.error _

theorem decodePacket_host (r : Fin 256) (bs : List Byte) : Within (fun i => hostAccess i = false) (decodePacket r bs) := by
  unfold decodePacket
  dsimp only
  refine Within.ite (Within.error _) (Within.ite (Within.error _) ?_)
  split
  case h_1 | h_8 | h_9 => exact packetBody_host rfl
  case h_2 =>
    split
    · exact Within.ite (packetBody_host rfl) (Within.error _)
    · exact Within.error _
  case h_3 | h_4 | h_5 => exact Within.ite (packetBody_host rfl) (Within.error _)
  case h_6 => exact decodeTransform_host _ bs
  case h_7 => exact Within.ite (Within.error _) (packetBody_host rfl)

theorem decodeMailbox_host (g : CoreNo) (v : Word) : hostAccess (decodeMailbox g v) = false := by
  unfold decodeMailbox
  dsimp only
  split <;> rfl

theorem q3Instr_host (v : Word) : hostAccess (q3Instr v) = false := by
  unfold q3Instr
  dsimp only
  split <;> rfl

end Sys2Proof.Machine
end

section
/-! What a step can answer (02 R64, 18 R460, R461): a next state, or the fault of an access of the host. -/

namespace Sys2Proof.Machine

open Host

theorem GoodOrHost.next {s : State} {i : Instr} {o : Outcome State Fault Refusal} (h : GoodOrHost s i o) (hi : hostAccess i = false) :
    ∃ t, o = .next t := by
  rcases h with ⟨t, ht, -⟩ | ⟨pa, -, ⟨data, rfl⟩ | ⟨op, w, x, c, rfl⟩⟩
  · exact ⟨t, ht⟩
  · cases hi
  · cases hi

theorem exec_next {i : Instr} (hi : hostAccess i = false) (s : State) : ∃ t, exec i s = .next t := (exec_goodOrHost i s).next hi

/-- Whether a source may not issue a word: only the helper has words of its own, and it issues no others and none with token bits
(12 R349). -/
def barredWord (e : Engine) (src : Source) (w : Nat) : Bool :=
  match src with
  | .helper => !helperMajor (majorOf e w) || decide (2 ^ 30 ≤ w)
  | .ce => helperOnly (majorOf e w)
  | _ => false

/-- The trap of a word that its source may not issue or that does not decode (02 R65). -/
def badWord (cur : Cur) (e : Engine) : Fetched :=
  .trap cur .illegal (BitVec.ofNat 64 (cur.word.toNat + if isSegWord e cur.word.toNat then cur.word1.toNat * 2 ^ 32 else 0))

theorem judge_barred {cur : Cur} {e : Engine} (h : barredWord e cur.src cur.word.toNat = true) : judge cur e = badWord cur e :=
  if_pos h

theorem judge_decoded {cur : Cur} {e : Engine} (h : barredWord e cur.src cur.word.toNat = false) : judge cur e =
    match decode e cur.word.toNat cur.word1.toNat with
    | .ok i => .run cur i
    | .error (.absentClass n) => .trap cur .mxcap (BitVec.ofNat 64 (cur.word.toNat + n * 2 ^ 32))
    | .error _ => badWord cur e :=
  if_neg (Bool.eq_false_iff.1 h)

theorem judge_host {cur cur' : Cur} {e : Engine} {i : Instr} (h : judge cur e = .run cur' i) : hostAccess i = false := by
  cases hb : barredWord e cur.src cur.word.toNat with
  | true => rw [judge_barred hb] at h; cases h
  | false =>
    rw [judge_decoded hb] at h
    split at h
    case h_1 hdec => cases h; exact hostAccess_decode hdec
    all_goals cases h

theorem fetch_host {s : State} {g : CoreNo} {src : Source} {cur : Cur} {i : Instr} (h : s.fetch g src = .run cur i) :
    hostAccess i = false := by
  unfold State.fetch at h
  dsimp only at h
  split at h
  · cases h
  · split at h
    case h_1 | h_2 => exact judge_host h
    case h_3 => cases h; exact q3Instr_host _
    case h_4 =>
      split at h
      · cases h
      · split at h
        · cases h
        · exact judge_host h

theorem turn_host {s : State} {r : Fin 256} {i : Instr} (h : s.turn r = .inr i) : hostAccess i = false := by
  unfold State.turn at h
  dsimp only at h
  repeat' split at h
  all_goals cases h
  exact decodePacket_host r _ _ ‹_›

theorem mailTurn_host {s : State} {g : CoreNo} {i : Instr} (h : s.mailTurn g = .inr i) : hostAccess i = false := by
  unfold State.mailTurn at h
  dsimp only at h
  split at h
  · cases h
  · split at h
    · split at h <;> cases h
    · split at h
      · cases h; exact decodeMailbox_host g _
      · cases h

theorem perform_fetch_next (s : State) (g : CoreNo) (src : Source) : ∃ t, perform s (s.fetch g src) = .next t := by
  cases hf : s.fetch g src with
  | idle => exact ⟨_, rfl⟩
  | trap cur c v => exact ⟨_, rfl⟩
  | run cur i => exact (runWord_good cur i s).next (fetch_host hf)

theorem execFirmware_next (g : CoreNo) (w w1 : Word32) (s : State) : ∃ t, execFirmware g w w1 s = .next t := by
  rcases execFirmware_good g w w1 s with ⟨t, ht, -⟩ | ⟨i, x, y, hdec, h⟩
  · exact ⟨t, ht⟩
  · exact h.next (hostAccess_decode hdec)

/-- An action answers a next state, or it is an access of the host beyond the end of device memory. -/
theorem act_outcome (a : Action) (s : State) : (∃ t, act a s = .next t) ∨ ∃ i pa, a = .event i ∧
    act a s = .fault (.outsideMemory pa) ∧ ((∃ data, i = .hostBar1Write pa data ∧ s.paTop < pa + data.length) ∨
      ∃ op w x c, i = .hostAtomicop op w pa x c ∧ s.paTop < pa + if w then 4 else 8) := by
  cases a
  case issue g src => exact .inl (perform_fetch_next s g src)
  case packet r =>
    rw [act]
    cases ht : s.turn r with
    | inl t => exact .inl ⟨t, rfl⟩
    | inr i => exact .inl (exec_next (turn_host ht) s)
  case mailbox g =>
    rw [act]
    cases ht : s.mailTurn g with
    | inl t => exact .inl ⟨t, rfl⟩
    | inr i => exact .inl (exec_next (mailTurn_host ht) s)
  case event i =>
    rw [act]
    split
    · rcases exec_good i s with ⟨t, ht, -⟩ | ⟨pa, hf, hi⟩
      · exact .inl ⟨t, ht⟩
      · exact .inr ⟨i, pa, rfl, hf, hi⟩
    · exact .inl ⟨s, rfl⟩
  case firmware g w w1 => exact .inl (execFirmware_next g w w1 s)
  all_goals exact .inl ⟨_, rfl⟩

theorem begin_paTop (s : State) : s.begin.2.paTop = s.paTop := by
  unfold State.begin
  cases s.agenda <;> rfl

/-- Settles O60: a step is its action, and `act_outcome` says what an action answers. -/
theorem stepNeverRefuses : Obligations.StepNeverRefuses := by
  intro s
  rcases act_outcome s.begin.1 s.begin.2 with ⟨t, ht⟩ | ⟨i, pa, hi, hf, hhost⟩
  · rw [step, ht]
    exact ⟨(by intro r h; cases h), (by intro f h; cases h)⟩
  · rw [step, hf]
    rw [begin_paTop] at hhost
    exact ⟨(by intro r h; cases h), (by intro f h; cases h; exact ⟨i, pa, hi, rfl, hhost⟩)⟩

end Sys2Proof.Machine
end

section
/-! What a step runs (02 R46, R64, R65, 12 R346 to R349). -/

namespace Sys2Proof.Machine

open Host

-- The fate of a word.

theorem barredWord_iff (e : Engine) (src : Source) (w : Nat) : barredWord e src w = true ↔
    (src = .ce ∧ helperOnly (majorOf e w) = true) ∨ (src = .helper ∧ (helperMajor (majorOf e w) = false ∨ 2 ^ 30 ≤ w)) := by
  cases src <;> simp [barredWord]

theorem judge_ok {cur : Cur} {e : Engine} {i : Instr} (hb : barredWord e cur.src cur.word.toNat = false)
    (h : decode e cur.word.toNat cur.word1.toNat = .ok i) : judge cur e = .run cur i := by
  rw [judge_decoded hb, h]

theorem judge_absent {cur : Cur} {e : Engine} {n : Nat} (hb : barredWord e cur.src cur.word.toNat = false)
    (h : decode e cur.word.toNat cur.word1.toNat = .error (.absentClass n)) :
    judge cur e = .trap cur .mxcap (BitVec.ofNat 64 (cur.word.toNat + n * 2 ^ 32)) := by
  rw [judge_decoded hb, h]

theorem judge_bad {cur : Cur} {e : Engine} (h : barredWord e cur.src cur.word.toNat = true ∨
    ∃ r, decode e cur.word.toNat cur.word1.toNat = .error r ∧ ∀ n, r ≠ .absentClass n) : judge cur e = badWord cur e := by
  cases hb : barredWord e cur.src cur.word.toNat with
  | true => exact judge_barred hb
  | false =>
    obtain ⟨r, hr, hclass⟩ := h.resolve_left (Bool.eq_false_iff.1 hb)
    rw [judge_decoded hb, hr]
    cases r
    case absentClass n => exact absurd rfl (hclass n)
    all_goals rfl

-- What a source fetches.

/-- Whether a source of core g may issue now. -/
def State.issues (s : State) (g : CoreNo) (src : Source) : Prop :=
  s.power = .d0 ∧ s.cores[g].occupant.isSome = true ∧ (s.inst g).mayIssue (s.asked g) src = true

/-- The sources whose words stand in an instruction memory. -/
def Source.reads (src : Source) : Prop := src = .scu ∨ src = .ve ∨ src = .me ∨ src = .ce ∨ src = .helper

theorem fetch_idle {s : State} {g : CoreNo} {src : Source}
    (h : s.power ≠ .d0 ∨ s.cores[g].occupant = none ∨ (s.inst g).mayIssue (s.asked g) src = false) : s.fetch g src = .idle :=
  if_pos (by simpa using h)

section
variable {s : State} {g : CoreNo} {src : Source}

theorem issues_not_idle (h : s.issues g src) :
    ¬ (s.power ≠ .d0 ∨ s.cores[g].occupant.isNone ∨ !(s.inst g).mayIssue (s.asked g) src) := by
  obtain ⟨hpower, hocc, hmay⟩ := h
  rintro (h | h | h)
  · exact h hpower
  · rw [Option.isNone_iff_eq_none.1 h] at hocc; cases hocc
  · rw [hmay] at h; cases h

theorem fetch_memory (h : s.issues g src) (hsrc : src.reads) : s.fetch g src =
    let e := src.engine
    let pc := (s.inst g).nextPc src
    let w := ((s.inst g).stream e).wordAt pc
    let w1 := ((s.inst g).stream e).wordAt (pc + 4)
    if imemSize e ≤ pc then .trap ⟨g, src, pc, 0, 0, s.tick, false⟩ .illegal (BitVec.ofNat 64 pc)
    else if isSegWord e w.toNat ∧ imemSize e ≤ pc + 4 then
      .trap ⟨g, src, pc, w, 0, s.tick, false⟩ .illegal (BitVec.ofNat 64 (pc + 4))
    else judge ⟨g, src, pc, w, w1, s.tick, false⟩ e := by
  rw [State.fetch, if_neg (issues_not_idle h)]
  rcases hsrc with rfl | rfl | rfl | rfl | rfl <;> rfl

/-- The word at the PC, when it stands in the memory whole, is judged. -/
theorem fetch_word (h : s.issues g src) (hsrc : src.reads) (hpc : (s.inst g).nextPc src < imemSize src.engine)
    (hseg : isSegWord src.engine (((s.inst g).stream src.engine).wordAt ((s.inst g).nextPc src)).toNat = true →
      (s.inst g).nextPc src + 4 < imemSize src.engine) :
    s.fetch g src = judge ⟨g, src, (s.inst g).nextPc src, ((s.inst g).stream src.engine).wordAt ((s.inst g).nextPc src),
      ((s.inst g).stream src.engine).wordAt ((s.inst g).nextPc src + 4), s.tick, false⟩ src.engine := by
  rw [fetch_memory h hsrc]
  dsimp only
  rw [if_neg (by omega), if_neg fun hlast => absurd (hseg hlast.1) (by omega)]

theorem fetch_lacking (h : s.issues g src) (hsrc : src.reads) (hpc : (s.inst g).nextPc src < imemSize src.engine)
    (hseg : isSegWord src.engine (((s.inst g).stream src.engine).wordAt ((s.inst g).nextPc src)).toNat = true)
    (hlast : imemSize src.engine ≤ (s.inst g).nextPc src + 4) :
    s.fetch g src = .trap ⟨g, src, (s.inst g).nextPc src, ((s.inst g).stream src.engine).wordAt ((s.inst g).nextPc src), 0, s.tick,
      false⟩ .illegal (BitVec.ofNat 64 ((s.inst g).nextPc src + 4)) := by
  rw [fetch_memory h hsrc]
  dsimp only
  rw [if_neg (by omega), if_pos ⟨hseg, hlast⟩]

theorem fetch_outside (h : s.issues g src) (hsrc : src.reads) (hpc : imemSize src.engine ≤ (s.inst g).nextPc src) :
    s.fetch g src = .trap ⟨g, src, (s.inst g).nextPc src, 0, 0, s.tick, false⟩ .illegal
      (BitVec.ofNat 64 ((s.inst g).nextPc src)) := by
  rw [fetch_memory h hsrc]
  exact if_pos hpc

theorem fetch_q0 {v : Word} {l : List Word} (h : s.issues g .q0) (hq : (s.inst g).qw[0] = v :: l) :
    s.fetch g .q0 = judge ⟨g, .q0, 0, v.setWidth 32, 0, s.tick, false⟩ .ce := by
  rw [State.fetch, if_neg (issues_not_idle h)]
  simp only [hq, List.headD_cons]

theorem fetch_q1 {v : Word} {l : List Word} (h : s.issues g .q1) (hq : (s.inst g).qw[1] = v :: l) :
    s.fetch g .q1 = judge ⟨g, .q1, 0, v.setWidth 32, 0, s.tick, false⟩ .ce := by
  rw [State.fetch, if_neg (issues_not_idle h)]
  simp only [hq, List.headD_cons]

theorem fetch_q3 {v : Word} {l : List Word} (h : s.issues g .q3) (hq : (s.inst g).qw[3] = v :: l) :
    s.fetch g .q3 = .run ⟨g, .q3, 0, 0, 0, s.tick, false⟩ (q3Instr v) := by
  rw [State.fetch, if_neg (issues_not_idle h)]
  simp only [hq, List.headD_cons]

end

/-- A word that is neither of the VE nor of the ME has performed nothing ahead. -/
theorem runWord_eq_exec {g : CoreNo} {src : Source} {pc n : Nat} {w w1 : Word32} {fw : Bool} (hve : src ≠ .ve) (hme : src ≠ .me)
    (i : Instr) (s : State) :
    runWord ⟨g, src, pc, w, w1, n, fw⟩ i s = exec i { s with cur := ⟨g, src, pc, w, w1, n, fw⟩ } := by
  rw [runWord, if_neg fun h => hve h.1, if_neg fun h => hme h.1]

-- A step.

theorem step_agenda {s : State} {a : Action} {rest : List Action} (h : s.agenda = a :: rest) :
    step s = act a { s with agenda := rest, tick := s.tick + 1, cur := { s.cur with fw := false } } := by
  rw [step, State.begin, h]

theorem step_free {s : State} (h : s.agenda = []) :
    step s = act (Config.nextAction s.tick) { s with tick := s.tick + 1, cur := { s.cur with fw := false } } := by
  rw [step, State.begin, h]

/-- Settles O54: a step is `act` on the agenda's head, the issue of a word is `perform` on what is fetched, and what is fetched is said
by the `fetch_` and `judge_` lemmas. -/
theorem stepRunsDecoded : Obligations.StepRunsDecoded := by
  intro s rest s1
  refine ⟨?issue, ?idle, ?packet, ?mailbox, ?event, ?firmware, fun a h => step_agenda h, step_free⟩
  case issue =>
    intro g src ha hpower hocc hmay i e pc w w1 run ran queued barred
    have hissues : s1.issues g src := ⟨hpower, hocc, hmay⟩
    have hstep : step s = perform s1 (s1.fetch g src) := step_agenda ha
    have hbarred : barredWord e src w.toNat = true ↔ barred := barredWord_iff e src w.toNat
    rw [hstep]
    refine ⟨fun hsrc => ⟨fun hpc hseg => ?word, fun hpc hseg hlast => ?lacking, fun hpc => ?outside⟩, ?queue, ?q3⟩
    case word =>
      have hfetch : s1.fetch g src = judge run.cur e := fetch_word hissues hsrc hpc hseg
      rw [hfetch]
      refine ⟨fun instr hb hdec => ?_, fun n hb hdec => ?_, fun h => ?_⟩
      · rw [judge_ok (cur := run.cur) (Bool.eq_false_iff.2 (hb ∘ hbarred.1)) hdec]; rfl
      · rw [judge_absent (cur := run.cur) (Bool.eq_false_iff.2 (hb ∘ hbarred.1)) hdec]; rfl
      · rw [judge_bad (cur := run.cur) (h.imp_left hbarred.2)]; rfl
    case lacking => rw [fetch_lacking hissues hsrc hpc hseg hlast]; rfl
    case outside => rw [fetch_outside hissues hsrc hpc]; rfl
    case queue =>
      rintro v l instr (⟨rfl, hq⟩ | ⟨rfl, hq⟩) hdec
      · rw [fetch_q0 hissues hq, judge_ok rfl hdec, perform]
        exact runWord_eq_exec (by decide) (by decide) instr s1
      · rw [fetch_q1 hissues hq, judge_ok rfl hdec, perform]
        exact runWord_eq_exec (by decide) (by decide) instr s1
    case q3 =>
      rintro v l rfl hq
      rw [fetch_q3 hissues hq, perform]
      exact runWord_eq_exec (by decide) (by decide) (q3Instr v) s1
  case idle =>
    intro g src ha h
    have hidle : s1.fetch g src = .idle := fetch_idle h
    rw [step_agenda ha, act, hidle, perform]
  case packet =>
    intro r ha
    rw [step_agenda ha, act]
    exact ⟨fun i h => by rw [h], fun t h => by rw [h]⟩
  case mailbox =>
    intro g ha
    rw [step_agenda ha, act]
    exact ⟨fun i h => by rw [h], fun t h => by rw [h]⟩
  case event => exact fun i ha => step_agenda ha
  case firmware => exact fun g w w1 ha => step_agenda ha

end Sys2Proof.Machine
end

section
/-! The state after reset and the start state of an instance (03 R92 to R94, Tables 3.6 and 3.8, 17 R439; LOG 8, 9, 104). -/

namespace Sys2Proof.Machine

open Host

-- After reset.

/-- After reset every core is the reset core. -/
@[simp] theorem reset_core (g : CoreNo) : State.reset.cores[g] = Core.reset := Vector.getElem_replicate _

@[simp] theorem reset_inst (g : CoreNo) : State.reset.inst g = Inst.reset := congrArg Core.inst (reset_core g)

/-- Every system register of a reset instance reads the reset value of its table (02 Table 2.11). -/
theorem csr_of_reset {s : State} {g : CoreNo} (h : s.inst g = Inst.reset) :
    ∀ e ∈ [(0x002, 0), (0x010, 0), (0x011, 0), (0x012, 0), (0x013, 0), (0x014, 0), (0x020, 4), (0x030, 0), (0x031, 0),
        (0x032, 2930), (0x040, 0), (0x041, 0), (0x042, 0), (0x043, 0), (0x068, 0)],
      s.csr g e.1 = some (BitVec.ofNat 64 e.2) := by
  have htokens : Inst.reset.tkstat = 0 := by decide
  have hcore : s.cores[g].inst = Inst.reset := h
  simp only [List.forall_mem_cons, List.not_mem_nil, false_implies, implies_true, and_true, State.csr, hcore, htokens]
  exact ⟨rfl, rfl, rfl, rfl, rfl, rfl, rfl, rfl, rfl, rfl, rfl, rfl, rfl, rfl, rfl⟩

/-- Every scalar source of a reset instance reads 0: a register holds 0, and a queue holds nothing. -/
theorem readS_of_reset {s : State} {g : CoreNo} (h : s.inst g = Inst.reset) (r : SReg) : s.readS g r = 0 := by
  unfold State.readS
  rw [h]
  cases queueNo r with
  | none => simp [Inst.reset]
  | some q => simp [Inst.reset]

/-- Every ring is as reset leaves it; rings 0 to 7 are firmware's (17 R439). -/
theorem reset_ring (r : Fin 256) : State.reset.rings[r] = CmdRing.reset (decide (r.val < 8)) := by
  have happend : State.reset.rings[r] =
      if _ : r.val < 8 then (Vector.replicate 8 (CmdRing.reset true))[r.val] else (Vector.replicate 248 (CmdRing.reset false))[r.val - 8] :=
    Vector.getElem_append r.isLt
  rw [happend]
  by_cases h : r.val < 8 <;> simp [h]

-- The start state of an instance.

/-- A table of entries written one after another leaves at each place its last entry, or what stood there. -/
theorem foldl_set_last {α : Type} {n : Nat} (l : List (Fin n × α)) (z : Vector α n) (k : Fin n) :
    (l.foldl (fun (z : Vector α n) e => z.set e.1 e.2) z)[k] = ((l.filter fun e => e.1 == k).getLast?.map (·.2)).getD z[k] := by
  induction l generalizing z with
  | nil => rfl
  | cons e l ih =>
    rw [List.foldl_cons, ih, List.filter_cons]
    by_cases hk : e.1 = k
    · simp only [hk, beq_self_eq_true, if_true, List.getLast?_cons]
      cases (l.filter fun e => e.1 == k).getLast? <;> simp
    · have hset : (z.set e.1 e.2)[k] = z[k] := Vector.getElem_set_ne _ _ fun h => hk (Fin.ext h)
      simp only [beq_iff_eq, hk, if_false, hset]

section
variable {s : State} {o : Occupant} {t : Task} {i : Image} (g : CoreNo) (ht : s.task o.task = some t) (hi : t.image = some i)
include ht hi

/-- An instance of a task that has an image stands on its core in its start state. -/
theorem occupy_core : (s.occupy g o).cores[g] =
    { s.cores[g] with
      occupant := some o, inst := startInst t i o.ordinal, watchdog := Config.clock s.tick, request := none, keeping := false } := by
  simp only [State.occupy, ht, hi]
  exact modCore_core _ _ _

theorem occupy_occupant : (s.occupy g o).cores[g].occupant = some o := congrArg Core.occupant (occupy_core g ht hi)

theorem occupy_inst : (s.occupy g o).inst g = startInst t i o.ordinal := congrArg Core.inst (occupy_core g ht hi)

end

section
variable (t : Task) (i : Image) (ordinal : Nat)

/-- The streams start at PC 0, outside loops and not ended (03 R90). -/
theorem startInst_stream (e : Engine) : ((startInst t i ordinal).stream e).pc = 0 ∧ ((startInst t i ordinal).stream e).loops = [] ∧
    ((startInst t i ordinal).stream e).ended = false := by
  cases e <;> exact ⟨rfl, rfl, rfl⟩

/-- Above s3 the scalar registers start at 0 (03 Table 3.6). -/
theorem startInst_s_zero (n : Fin 48) (h : 3 < n.val) : (startInst t i ordinal).s[n] = 0 := by
  have h1 : 1 ≠ n.val := by omega
  have h2 : 2 ≠ n.val := by omega
  have h3 : 3 ≠ n.val := by omega
  simp [startInst, Inst.reset, h1, h2, h3]

/-- Above c0 the CE registers start at 0. -/
theorem startInst_c_zero (n : Fin 16) (h : 0 < n.val) : (startInst t i ordinal).c[n] = 0 := by
  simp [startInst, Inst.reset, h.ne]

/-- A stream register starts with the last entry of the stream table that names it, or empty (LOG 104). -/
theorem startInst_z (n : Fin 16) :
    (startInst t i ordinal).z[n] = ((i.streams.filter fun e => e.1 == n).getLast?.map (·.2)).getD .reset := by
  have hempty : Inst.reset.z[n] = ZReg.reset := Vector.getElem_replicate _
  rw [← hempty]
  exact foldl_set_last i.streams Inst.reset.z n

end

/-- A ring of W or A starts as its entry of the ring table configures it, empty (08 R235). -/
theorem ringVector_get (l : List RingDecl) (buf : Nat) (n : Fin 8) : (ringVector l buf)[n] =
    (l.find? fun r => r.buf == buf && r.index == n.val).map fun r => ⟨r.base, r.slotBytes, r.slots, 0, 0, 0, []⟩ := by
  rw [ringVector, Fin.getElem_fin, Vector.getElem_ofFn]
  rfl

/-- Settles O57: the reset module by the lemmas on its cores and rings, and an instance that starts by those on `startInst`. -/
theorem resetAndStart : Obligations.ResetAndStart := by
  refine ⟨⟨rfl, rfl, rfl, fun g => ?core, fun r => ?ring⟩, ?start⟩
  case core =>
    rw [reset_core, reset_inst]
    exact ⟨rfl, rfl, rfl, fun n v => csr_of_reset (reset_inst g) (n, v), readS_of_reset (reset_inst g),
      fun _ => Vector.getElem_replicate _, fun _ => Vector.getElem_replicate _, fun _ => Vector.getElem_replicate _,
      fun _ => ⟨Vector.getElem_replicate _, Vector.getElem_replicate _⟩⟩
  case ring =>
    rw [reset_ring]
    refine ⟨rfl, ?_⟩
    by_cases h : r.val < 8 <;> simp [CmdRing.reset, h]
  case start =>
    intro s g o t i ht hi x
    have hx : x = startInst t i o.ordinal := occupy_inst g ht hi
    rw [hx]
    exact ⟨occupy_occupant g ht hi, startInst_stream t i o.ordinal, rfl, rfl, rfl, rfl, rfl, rfl, rfl, startInst_s_zero t i o.ordinal, rfl,
      startInst_c_zero t i o.ordinal,
      fun n => (startInst_z t i o.ordinal n).trans (by cases (i.streams.filter fun e => e.1 == n).getLast? <;> rfl),
      fun n => ⟨ringVector_get i.rings 0 n, ringVector_get i.rings 1 n⟩,
      fun _ => Vector.getElem_replicate _, fun _ => Vector.getElem_replicate _, fun _ => Vector.getElem_replicate _, rfl,
      fun _ => Vector.getElem_replicate _, rfl, fun _ => Vector.getElem_replicate _, fun _ => Vector.getElem_replicate _,
      fun _ => ⟨Vector.getElem_replicate _, Vector.getElem_replicate _⟩, fun _ => Vector.getElem_replicate _,
      fun _ => Vector.getElem_ofFn _, rfl, rfl, rfl, rfl, rfl⟩

end Sys2Proof.Machine
end

section
/-! The life of an instance: passes, placement, the shadow bank, pre-emption, restoring and the watchdog (03 R89, R90, R97 to R105, 05 R157,
R159, 16 R430 to R433, 17 R454; LOG 48, 84, 86, 99). -/

namespace Sys2Proof.Machine

open Host

-- Two changes of one core, and a core that is left.

theorem modCore_modCore (s : State) (g : CoreNo) (f f' : Core → Core) : (s.modCore g f).modCore g f' = s.modCore g fun c => f' (f c) := by
  simp [State.modCore]

theorem vacate_leaving {s : State} {g : CoreNo} (h : s.cores[g].leaving = true) : (s.vacate g).cores[g].inService = false := by
  rw [vacate_core, Core.vacated, h, Bool.not_true, Bool.and_false]

/-- The core of a retired instance is left as it stands (03 R103; LOG 99). -/
theorem retire_core (s : State) (g : CoreNo) (o : Occupant) (i : Image) : (s.retire g o i).cores[g] = s.cores[g].vacated :=
  vacate_core _ g

/-- A killed task is done with an error, with the detail in its status (03 R104). -/
theorem killTask_phase {s : State} {id d : Nat} {x : Task} (hx : x ∈ (s.killTask id d).tasks) (hid : x.id = id) :
    x.phase = .done 1 d := by
  obtain ⟨y, -, rfl⟩ := List.mem_map.1 hx
  by_cases h : y.id = id
  · simp [h]
  · simp [h] at hid

/-- A task that is not done can be killed (03 R104). -/
theorem execTaskKill_live {s : State} {t : Task} {d : BitVec 8} (ht : s.task t.id = some t) (hlive : ∀ r e, t.phase ≠ .done r e) :
    execTaskKill t.id d s = .next (s.killTask t.id d.toNat) := by
  unfold execTaskKill
  rw [ht]
  dsimp only
  split
  case h_1 r e hphase => exact absurd hphase (hlive r e)
  case h_2 => rfl

-- Passes.

/-- The pass of an instance is over: its four streams have ended and nothing is outstanding (03 R90). -/
def Inst.passOver (x : Inst) : Prop :=
  x.allEnded = true ∧ x.outstanding = false ∧ x.pending = none ∧ x.handler = false ∧ x.assist = none ∧ x.hollyhock = none

/-- An instance at the start of a pass with these coordinates, in every stream held or not (03 R90). -/
def Inst.nextPass (x : Inst) (coords : List Nat) (hold : Bool) : Inst :=
  { x with scu := x.scu.nextPass hold, ve := x.ve.nextPass hold, me := x.me.nextPass hold, ce := x.ce.nextPass hold,
           sys := { x.sys with idl := Vector.ofFn fun n : Fin 6 => BitVec.ofNat 64 (coords.getD n.val 0) } }

/-- An instance whose pass is over starts the next one, or retires with its last (03 R89, R90, R103). -/
theorem execPassEnd_of_over {s : State} {g : CoreNo} {o : Occupant} {im : Image} (ho : s.cores[g].occupant = some o)
    (hi : (s.taskOn g).bind Task.image = some im) (h : s.cores[g].inst.passOver) :
    let p := passOf im s.cores[g].inst.sys.idl + 1
    execPassEnd g s = if p < im.passes then .next (s.modInst g fun x => x.nextPass (im.coords o.ordinal p) s.cores[g].request.isSome)
      else .next (s.retire g o im) := by
  obtain ⟨hended, hout, hpend, hhandler, hassist, hholly⟩ := h
  simp only [execPassEnd, ho, hi, hended, hout, hpend, hhandler, hassist, hholly, Option.isSome_none, Bool.not_true, Bool.false_eq_true,
    or_self, if_false]
  rfl

-- Placement.

/-- A single instance gets the first core that is good for it. -/
theorem assign_single {good lesser : List Nat → CoreNo → Bool} {n : Nat} {g : CoreNo} {l : List CoreNo} (h : good [n] g = true) :
    assign false good lesser [[n]] (g :: l) = some [(n, g)] := by
  simp [assign, h]

/-- The instances of an image are placed one by one: it is not co-resident and has no D level (03 R88, R99). -/
def Image.oneByOne (i : Image) : Prop := i.coResident = false ∧ i.hasD = false

/-- A core is good for an instance of an image: it is free, holds the claims, and has every class that the instance needs (03 R97). -/
def Core.takes (c : Core) (i : Image) (need : BitVec 16) : Prop := c.free = true ∧ c.holds i = true ∧ c.covers need = true

/-- An instance that is placed alone goes to the core that is asked for, where that is good for it (03 R97). -/
theorem chooseCores_asked {s : State} {i : Image} {need : Nat → BitVec 16} {n : Nat} {g : CoreNo} {die : List Nat → Option (Fin 8)}
    (hD : i.hasD = false) (hg : s.cores[g].takes i (need n)) (hdie : die [n] = none) :
    s.chooseCores i need [[n]] g die = some [(n, g)] := by
  obtain ⟨hfree, hholds, hcovers⟩ := hg
  unfold State.chooseCores
  rw [hD, List.filter_cons, if_pos hholds]
  exact assign_single (by simp only [hfree, hcovers, hdie, List.all_cons, List.all_nil, Option.all_none, Bool.and_self])

/-- Without a D level there is no die to join (03 R88). -/
theorem unitDie_none {i : Image} (hD : i.hasD = false) (s : State) (task : Nat) (u : List Nat) : s.unitDie task i u = none := by
  cases u <;> simp [State.unitDie, State.groupDie, hD]

/-- Nothing comes back to a task of which nothing was returned and nothing is saved. -/
theorem comeback_nil {s : State} {t : Task} {i : Image} (hone : i.oneByOne) (hret : t.returned = [])
    (hsaved : ∀ x ∈ s.saved, x.task ≠ t.id) : s.comeback t i = [] := by
  have hnone : (s.saved.filter fun x => x.task == t.id) = [] := by simpa using hsaved
  simp [State.comeback, hone.1, hone.2, hret, hnone]

/-- An instance that never stood anywhere needs what its image declares (03 R98). -/
theorem needOf_fresh {s : State} {task : Nat} (i : Image) (n : Nat) (hsaved : ∀ x ∈ s.saved, x.task ≠ task) :
    s.needOf task i n = i.capreq := by
  have hnone : (s.saved.find? fun x => x.task == task && x.ordinal == n) = none := by
    simpa using fun x hx e => absurd e (hsaved x hx)
  rw [State.needOf, hnone]

/-- One that has a saved context needs what that holds (03 Table 3.7). -/
theorem needOf_saved {s : State} {task n : Nat} {x : Saved} (i : Image)
    (hx : (s.saved.find? fun y => y.task == task && y.ordinal == n) = some x) : s.needOf task i n = x.inst.sys.capreq.setWidth 16 := by
  rw [State.needOf, hx]

/-- The next instance of a dispatched task is placed on the core that is asked for, where that is good for it (03 R97 to R99). -/
theorem execInstancePlace_next {s : State} {g : CoreNo} {t : Task} {im : Image} {ks : List SpillLock} (ht : s.task t.id = some t)
    (hi : t.image = some im) (hphase : t.phase = .dispatched) (hone : im.oneByOne) (hret : t.returned = [])
    (hsaved : ∀ x ∈ s.saved, x.task ≠ t.id) (hnext : t.next < im.instances) (hks : s.newLocks t im [t.next] = some ks)
    (hroom : s.reserve + im.contextMax ≤ s.storeFree) (hup : s.noPlacement = false) (hg : s.cores[g].takes im im.capreq) :
    execInstancePlace t.id g s =
      .next (((s.lockWays ks).place ⟨t.id, t.next⟩ g).modTask t.id fun x => { x with next := x.next + 1 }) := by
  have hback : s.comeback t im = [] := comeback_nil hone hret hsaved
  obtain ⟨hco, hD⟩ := hone
  have hchoose : s.chooseCores im (s.needOf t.id im) [[t.next]] g (s.unitDie t.id im) = some [(t.next, g)] :=
    chooseCores_asked hD (by rwa [needOf_fresh im t.next hsaved]) (unitDie_none hD s t.id _)
  simp [execInstancePlace, ht, hi, hphase, hback, hco, hD, Image.unitCount, Image.unit, hnext, hroom, hup, hks, hchoose]

-- The shadow bank.

theorem withdraw_none {s : State} {g : CoreNo} (h : s.cores[g].shadow = none) : s.withdraw g = s := by
  rw [State.withdraw, h]

theorem withdraw_some {s : State} {g : CoreNo} {o : Occupant} (h : s.cores[g].shadow = some o) :
    s.withdraw g = (s.modCore g fun x => { x with shadow := none }).modTask o.task fun t =>
      { t with returned := t.returned ++ [o.ordinal] } := by
  rw [State.withdraw, h]

/-- The state with a request that is pending on a companion of core g pending on g too (03 R100). -/
def State.shareRequest (t : State) (g : CoreNo) : State :=
  match (t.together g).find? fun h => t.cores[h].request.isSome with
  | some h => t.modCore g fun c => { c with request := t.cores[h].request, keeping := t.cores[h].keeping }
  | none => t

theorem shareRequest_of_none {t : State} {g : CoreNo} (h : ∀ x ∈ t.together g, t.cores[x].request = none) : t.shareRequest g = t := by
  have hnone : ((t.together g).find? fun x => t.cores[x].request.isSome) = none :=
    List.find?_eq_none.2 fun x hx => by rw [h x hx]; exact Bool.false_ne_true
  rw [State.shareRequest, hnone]

/-- A shared request changes neither who stands on the core nor what it holds. -/
theorem shareRequest_stays (t : State) (g : CoreNo) :
    (t.shareRequest g).cores[g].occupant = t.cores[g].occupant ∧ (t.shareRequest g).inst g = t.inst g := by
  unfold State.shareRequest
  cases (t.together g).find? fun h => t.cores[h].request.isSome with
  | none => exact ⟨rfl, rfl⟩
  | some h =>
    dsimp only [State.inst]
    rw [Fin.getElem_fin, modCore_core]
    exact ⟨rfl, rfl⟩

/-- The bank of a free core swaps in (17 R454). -/
theorem execShadowSwap_swaps {s : State} {g : CoreNo} {o : Occupant} (ho : s.cores[g].occupant = none) (hs : s.cores[g].shadow = some o) :
    execShadowSwap g s = .next (((s.modCore g fun x => { x with shadow := none }).occupy g o).shareRequest g) := by
  simp only [execShadowSwap, ho, hs]
  rfl

-- Saving and restoring.

@[simp] theorem lockWays_saved (s : State) (ks : List SpillLock) : (s.lockWays ks).saved = s.saved :=
  foldl_keep (fun x : State => x.saved) (fun (s : State) (x : L2Line) => s.writeBack x.line x.writer x.dirty) (fun _ _ => rfl) _ s

/-- An instance with a saved context comes back with it; the context stays as a checkpoint where it was kept (16 R432, R437). -/
theorem bringBack_saved {s : State} {task n : Nat} {x : Saved} (g : CoreNo)
    (hx : (s.saved.find? fun y => y.task == task && y.ordinal == n) = some x) :
    s.bringBack task (n, g) = { s.restoreOn x g with
      saved := (s.restoreOn x g).saved.filter fun y => !(y.task == task && y.ordinal == n)
      checkpoints := if x.kept then (s.restoreOn x g).checkpoints ++ [x] else (s.restoreOn x g).checkpoints } := by
  simp only [State.bringBack, hx]

theorem unitsOf_single {i : Image} (hD : i.hasD = false) (n : Nat) : i.unitsOf [n] = [[n]] := by
  simp [Image.unitsOf, hD]

/-- The saved context at the head of its task's order is restored on the core that is asked for, where that is good for it and the store
keeps its reserve (16 R432, R433). -/
theorem execContextRestore_restores {s : State} {g : CoreNo} {n : Nat} {x : Saved} {t : Task} {im : Image} {ks : List SpillLock}
    (hn : s.saved[n]? = some x) (ht : s.task x.task = some t) (hi : t.image = some im) (hone : im.oneByOne)
    (hback : s.comeback t im = [x.ordinal]) (hfind : (s.saved.find? fun y => y.task == x.task && y.ordinal == x.ordinal) = some x)
    (hup : s.noPlacement = false) (hg : s.cores[g].takes im (x.inst.sys.capreq.setWidth 16))
    (hks : s.newLocks t im [x.ordinal] = some ks) :
    let u := (s.lockWays ks).bringBack x.task (x.ordinal, g)
    u.reserve ≤ u.storeFree → execContextRestore n g s = .next u := by
  intro u hroom
  obtain ⟨hco, hD⟩ := hone
  have hchoose : s.chooseCores im (s.needOf x.task im) [[x.ordinal]] g (s.unitDie x.task im) = some [(x.ordinal, g)] :=
    chooseCores_asked hD (by rwa [needOf_saved im hfind]) (unitDie_none hD s x.task _)
  simp [-Fin.getElem_fin, execContextRestore, hn, ht, hi, hco, hback, hup, hks, unitsOf_single hD, hchoose, hg.1, Nat.not_lt.2 hroom, u]

-- The watchdog.

/-- An interval without a sink event is reported, and the counter restarts (05 R157, R159). -/
theorem execWatchdogExpiry_reports {s : State} {g : CoreNo} {o : Occupant} (ho : s.cores[g].occupant = some o)
    (hfrozen : (s.inst g).assist.any (·.frozen) = false)
    (hdue : s.cores[g].watchdog + (s.inst g).sys.wdog.toNat * 1024 ≤ Config.clock s.tick) :
    execWatchdogExpiry g s = .next (({ s with notices := s.notices ++ [.hang o.task o.ordinal (dieOf g).val (coreOf g).val
      ([Engine.scu, .ve, .me, .ce].map fun e => ((s.inst g).stream e).pc) ([Engine.scu, .ve, .me, .ce].map (s.stall g))
      (s.inst g).tkstat (s.occupancy g)] } : State).modCore g fun x => { x with watchdog := Config.clock s.tick }) := by
  simp only [State.inst] at *
  simp only [execWatchdogExpiry, ho, hfrozen, Nat.not_lt.2 hdue, Bool.false_eq_true, or_self, if_false]

-- A core goes out of service.

/-- A core without an occupant or a bank goes out of service at once, or, with a piece of a transform, when that is done (03 R105). -/
theorem execCoreOutOfService_empty {s : State} {g : CoreNo} (ho : s.cores[g].occupant = none) (hs : s.cores[g].shadow = none) :
    execCoreOutOfService g s = .next (if s.cores[g].piece.isSome then s.modCore g fun x => { x with leaving := true }
      else s.modCore g fun x => { x with inService := false, leaving := false }) := by
  simp only [execCoreOutOfService, withdraw_none hs, ho, modCore_modCore, Option.isSome_none, Bool.false_eq_true, if_false]
  split <;> rfl

/-- An occupant is asked to leave first, or killed where the store has no room for its context (03 R105, LOG 84). -/
theorem execCoreOutOfService_occupied {s : State} {g : CoreNo} (ho : s.cores[g].occupant ≠ none) (hs : s.cores[g].shadow = none) :
    let s1 := s.modCore g fun x => { x with leaving := true }
    execCoreOutOfService g s = .next (if s1.saveFits g then s1.ask (s1.together g) .service
      else s1.killOn g ((Config.freeWord s.tick 3).toNat % 256)) := by
  simp only [execCoreOutOfService, withdraw_none hs, Option.isSome_iff_ne_none.2 ho, if_true]

/-- Settles O46: each row of the opcode table by the lemma on its meaning, in the order of the statement. -/
theorem instanceSteps : Obligations.InstanceSteps := by
  intro g s c i
  refine ⟨?pass, ?place, ?shadow, ?kill, ?request, ?save, ?restore, ?watchdog, ?empty, ?occupied, vacate_leaving⟩
  case pass =>
    intro o im ho hi hended hout hpend hhandler hassist hholly p go
    have hexec := execPassEnd_of_over ho hi ⟨hended, hout, hpend, hhandler, hassist, hholly⟩
    refine ⟨fun hp => hexec.trans (if_pos hp), fun hp => ⟨hexec.trans (if_neg (Nat.not_lt.2 hp)), ?_, ?_⟩⟩
    · rw [retire_core]; rfl
    · rw [State.inst, retire_core]; rfl
  case place =>
    intro t im ks ht hi hphase hco hD hret hsaved hnext hks hroom hup hfree hholds hcovers
    exact execInstancePlace_next ht hi hphase ⟨hco, hD⟩ hret hsaved hnext hks hroom hup ⟨hfree, hholds, hcovers⟩
  case shadow =>
    intro o hs
    refine ⟨fun ho => ?_, congrArg Outcome.next (withdraw_some hs)⟩
    have hswap := execShadowSwap_swaps ho hs
    exact ⟨fun hall => hswap.trans (congrArg Outcome.next (shareRequest_of_none hall)), _, hswap, shareRequest_stays _ g⟩
  case kill =>
    intro t d ht hlive
    exact ⟨execTaskKill_live ht hlive, fun _ => killTask_phase, killTask_occupant s t.id d.toNat⟩
  case request =>
    intro hne hfits
    simp [execPreemptRequest, hne, hfits]
  case save =>
    intro hne hsaveable hroom
    have hall : ((s.together g).all fun h => s.cores[h].saveable) = true := by simpa using hsaveable
    have hstore : (s.saveFits g || (s.together g).any fun h => s.cores[h].saveForced) = true := by simpa using hroom
    simp only [exec_contextSave, execContextSave, hall, hstore, List.isEmpty_iff, hne, Bool.not_true, Bool.false_eq_true, or_self,
      if_false]
  case restore =>
    intro n x t im ks hn ht hi hco hD hback hfind hup hfree hholds hcovers hks s1 u hroom
    have hu : (s.lockWays ks).bringBack x.task (x.ordinal, g) = u := bringBack_saved g (by rwa [lockWays_saved])
    rw [← hu] at hroom ⊢
    exact execContextRestore_restores hn ht hi ⟨hco, hD⟩ hback hfind hup ⟨hfree, hholds, hcovers⟩ hks hroom
  case watchdog =>
    intro o ho hfrozen hdue
    exact execWatchdogExpiry_reports ho hfrozen hdue
  case empty =>
    intro ho hs
    rw [exec_coreOutOfService, execCoreOutOfService_empty ho hs]
    exact ⟨fun hp => by rw [hp]; rfl, fun hp => by rw [if_pos (Option.isSome_iff_ne_none.2 hp)]⟩
  case occupied =>
    intro ho hs s1
    rw [exec_coreOutOfService, execCoreOutOfService_occupied ho hs]
    exact ⟨fun hfits => congrArg Outcome.next (if_pos hfits), fun hfull => ⟨_, congrArg Outcome.next (if_neg (Bool.eq_false_iff.1 hfull))⟩⟩

end Sys2Proof.Machine
end

section
/-! The scalar words that compute one register, and the scalar loads and stores: each is a run of `scuRun` by its entry of the rule tables
(04 R110 to R117). -/

namespace Sys2Proof.Machine

open Host

-- Two's-complement results in exact integers.

section
variable (x y : Word)

theorem add_exact : x + y = BitVec.ofNat 64 (x.toNat + y.toNat) := by
  apply BitVec.eq_of_toNat_eq; simp

theorem sub_exact : x - y = BitVec.ofInt 64 (x.toInt - y.toInt) := by
  apply BitVec.eq_of_toInt_eq; simp

theorem and_exact : x &&& y = BitVec.ofNat 64 (x.toNat &&& y.toNat) := by
  rw [← BitVec.toNat_and, BitVec.ofNat_toNat, BitVec.setWidth_eq]

theorem or_exact : x ||| y = BitVec.ofNat 64 (x.toNat ||| y.toNat) := by
  rw [← BitVec.toNat_or, BitVec.ofNat_toNat, BitVec.setWidth_eq]

theorem xor_exact : x ^^^ y = BitVec.ofNat 64 (x.toNat ^^^ y.toNat) := by
  rw [← BitVec.toNat_xor, BitVec.ofNat_toNat, BitVec.setWidth_eq]

theorem shiftLeft_exact (n : Nat) : x <<< n = BitVec.ofNat 64 (x.toNat * 2 ^ n) := by
  apply BitVec.eq_of_toNat_eq; simp [Nat.shiftLeft_eq]

theorem shiftRight_exact (n : Nat) : x >>> n = BitVec.ofNat 64 (x.toNat / 2 ^ n) := by
  apply BitVec.eq_of_toNat_eq
  rw [BitVec.toNat_ushiftRight, Nat.shiftRight_eq_div_pow, BitVec.toNat_ofNat,
    Nat.mod_eq_of_lt (lt_of_le_of_lt (Nat.div_le_self _ _) x.isLt)]

theorem sshiftRight_exact (n : Nat) : x.sshiftRight n = BitVec.ofInt 64 (x.toInt / 2 ^ n) := by
  rw [BitVec.sshiftRight, Int.shiftRight_eq_div_pow]; norm_cast

theorem slt_exact : ofBool64 (x.slt y) = if x.toInt < y.toInt then 1 else 0 := by
  simp [ofBool64, BitVec.slt]

theorem ult_exact : ofBool64 (x.ult y) = if x.toNat < y.toNat then 1 else 0 := by
  simp [ofBool64, BitVec.ult]

theorem mul_exact : x * y = BitVec.ofInt 64 (x.toInt * y.toInt) := by
  apply BitVec.eq_of_toInt_eq; simp

theorem divS_exact : divS x y = BitVec.ofInt 64 (if y = 0 then -1 else x.toInt.tdiv y.toInt) := by
  unfold divS; split <;> rfl

theorem divU_exact : divU x y = BitVec.ofNat 64 (if y = 0 then 2 ^ 64 - 1 else x.toNat / y.toNat) := by
  unfold divU; split <;> rfl

theorem remS_exact : remS x y = BitVec.ofInt 64 (if y = 0 then x.toInt else x.toInt.tmod y.toInt) := by
  unfold remS; split <;> simp

theorem remU_exact : remU x y = BitVec.ofNat 64 (if y = 0 then x.toNat else x.toNat % y.toNat) := by
  unfold remU; split <;> simp

theorem min_exact : (if y.slt x then y else x) = BitVec.ofInt 64 (min x.toInt y.toInt) := by
  by_cases h : y.toInt < x.toInt
  · rw [if_pos (by simpa [BitVec.slt] using h), min_eq_right h.le, BitVec.ofInt_toInt]
  · rw [if_neg (by simpa [BitVec.slt] using h), min_eq_left (not_lt.1 h), BitVec.ofInt_toInt]

theorem max_exact : (if x.slt y then y else x) = BitVec.ofInt 64 (max x.toInt y.toInt) := by
  by_cases h : x.toInt < y.toInt
  · rw [if_pos (by simpa [BitVec.slt] using h), max_eq_right h.le, BitVec.ofInt_toInt]
  · rw [if_neg (by simpa [BitVec.slt] using h), max_eq_left (not_lt.1 h), BitVec.ofInt_toInt]

theorem minu_exact : (if y.ult x then y else x) = BitVec.ofNat 64 (min x.toNat y.toNat) := by
  by_cases h : y.toNat < x.toNat
  · rw [if_pos (by simpa [BitVec.ult] using h), min_eq_right h.le, BitVec.ofNat_toNat, BitVec.setWidth_eq]
  · rw [if_neg (by simpa [BitVec.ult] using h), min_eq_left (not_lt.1 h), BitVec.ofNat_toNat, BitVec.setWidth_eq]

theorem maxu_exact : (if x.ult y then y else x) = BitVec.ofNat 64 (max x.toNat y.toNat) := by
  by_cases h : x.toNat < y.toNat
  · rw [if_pos (by simpa [BitVec.ult] using h), max_eq_right h.le, BitVec.ofNat_toNat, BitVec.setWidth_eq]
  · rw [if_neg (by simpa [BitVec.ult] using h), max_eq_left (not_lt.1 h), BitVec.ofNat_toNat, BitVec.setWidth_eq]

variable (i : BitVec 14) (j : BitVec 20)

theorem zeroExtend_toNat : (i.zeroExtend 64).toNat = i.toNat := by
  rw [BitVec.toNat_setWidth, Nat.mod_eq_of_lt (lt_trans i.isLt (by decide))]

theorem sext14_toInt : (sext14 i).toInt = i.toInt := BitVec.toInt_signExtend_of_le (by decide)

theorem sext14_toNat : (sext14 i).toNat = (i.toInt % 2 ^ 64).toNat := by
  rw [sext14, BitVec.signExtend, BitVec.toNat_ofInt]; rfl

theorem signExtend_shiftLeft_exact (n : Nat) : (j.signExtend 64) <<< n = BitVec.ofInt 64 (j.toInt * 2 ^ n) := by
  rw [BitVec.shiftLeft_eq_mul_twoPow, BitVec.ofInt_mul, BitVec.signExtend]
  congr 1
  apply BitVec.eq_of_toNat_eq
  simp [BitVec.toNat_ofInt]
  norm_cast

theorem pcadd_exact (pc : Nat) : BitVec.ofNat 64 pc + (j.signExtend 64) <<< 2 = BitVec.ofInt 64 (pc + 4 * j.toInt) := by
  rw [signExtend_shiftLeft_exact, BitVec.ofInt_add, mul_comm 4, BitVec.ofInt_natCast]; rfl

end

-- The words that compute one register.

/-- An SCU word that computes d from its sources' values alone: its run, by the rule that gives the result. -/
def scuRule (s : State) (srcs : List SReg) (d : SReg) (rule : Word → Word → Word) : Outcome State Fault Refusal :=
  scuRun s srcs (some d) (.ok ()) fun t vs => .ok (t, firstTwo rule vs)

section
variable (s : State) (d a b : SReg) {rule : Word → Word → Word}

theorem scuAlu2_eq {op : Word → Word → Word} (h : ∀ x y, op x y = rule x y) : scuAlu2 s d a b op = scuRule s [a, b] d rule := by
  simp only [scuAlu2, scuRule, firstTwo, h]

theorem scuAlu1_eq {op : Word → Word} (h : ∀ x y, op x = rule x y) : scuAlu1 s d a op = scuRule s [a] d rule := by
  simp only [scuAlu1, scuRule, firstTwo, ← h]

theorem scuConst_eq {v : Word} (h : ∀ x y, v = rule x y) :
    (scuRun s [] (some d) (.ok ()) fun t _ => .ok (t, v)) = scuRule s [] d rule := by
  simp only [scuRule, firstTwo, ← h]

end

/-- A word with an entry of `scalarRule` runs as the entry says. -/
theorem exec_of_scalarRule {i : Instr} {srcs : List SReg} {d : SReg} {f : Nat → Word → Word → Word}
    (h : scalarRule i = some (srcs, d, f)) (s : State) : exec i s = scuRule s srcs d (f s.cur.pc) := by
  cases i
  case add => cases h; exact (exec_add ..).trans (scuAlu2_eq _ _ _ _ add_exact)
  case sub => cases h; exact (exec_sub ..).trans (scuAlu2_eq _ _ _ _ sub_exact)
  case and => cases h; exact (exec_and ..).trans (scuAlu2_eq _ _ _ _ and_exact)
  case or => cases h; exact (exec_or ..).trans (scuAlu2_eq _ _ _ _ or_exact)
  case xor => cases h; exact (exec_xor ..).trans (scuAlu2_eq _ _ _ _ xor_exact)
  case shl => cases h; exact (exec_shl ..).trans (scuAlu2_eq _ _ _ _ fun x y => shiftLeft_exact x (y.toNat % 64))
  case shr => cases h; exact (exec_shr ..).trans (scuAlu2_eq _ _ _ _ fun x y => shiftRight_exact x (y.toNat % 64))
  case sar => cases h; exact (exec_sar ..).trans (scuAlu2_eq _ _ _ _ fun x y => sshiftRight_exact x (y.toNat % 64))
  case slt => cases h; exact (exec_slt ..).trans (scuAlu2_eq _ _ _ _ slt_exact)
  case sltu => cases h; exact (exec_sltu ..).trans (scuAlu2_eq _ _ _ _ ult_exact)
  case mul => cases h; exact (exec_mul ..).trans (scuAlu2_eq _ _ _ _ mul_exact)
  case mulh => cases h; exact (exec_mulh ..).trans (scuAlu2_eq _ _ _ _ fun _ _ => rfl)
  case mulhu => cases h; exact (exec_mulhu ..).trans (scuAlu2_eq _ _ _ _ fun _ _ => rfl)
  case div => cases h; exact (exec_div ..).trans (scuAlu2_eq _ _ _ _ divS_exact)
  case divu => cases h; exact (exec_divu ..).trans (scuAlu2_eq _ _ _ _ divU_exact)
  case rem => cases h; exact (exec_rem ..).trans (scuAlu2_eq _ _ _ _ remS_exact)
  case remu => cases h; exact (exec_remu ..).trans (scuAlu2_eq _ _ _ _ remU_exact)
  case min => cases h; exact (exec_min ..).trans (scuAlu2_eq _ _ _ _ min_exact)
  case minu => cases h; exact (exec_minu ..).trans (scuAlu2_eq _ _ _ _ minu_exact)
  case max => cases h; exact (exec_max ..).trans (scuAlu2_eq _ _ _ _ max_exact)
  case maxu => cases h; exact (exec_maxu ..).trans (scuAlu2_eq _ _ _ _ maxu_exact)
  case addi => cases h; exact (exec_addi ..).trans (scuAlu1_eq _ _ _ fun x _ => add_sext14 x _)
  case andi i => cases h; exact (exec_andi ..).trans (scuAlu1_eq _ _ _ fun x _ => by rw [and_exact, zeroExtend_toNat])
  case ori i => cases h; exact (exec_ori ..).trans (scuAlu1_eq _ _ _ fun x _ => by rw [or_exact, zeroExtend_toNat])
  case xori i => cases h; exact (exec_xori ..).trans (scuAlu1_eq _ _ _ fun x _ => by rw [xor_exact, zeroExtend_toNat])
  case shli n => cases h; exact (exec_shli ..).trans (scuAlu1_eq _ _ _ fun x _ => shiftLeft_exact x n)
  case shri n => cases h; exact (exec_shri ..).trans (scuAlu1_eq _ _ _ fun x _ => shiftRight_exact x n)
  case sari n => cases h; exact (exec_sari ..).trans (scuAlu1_eq _ _ _ fun x _ => sshiftRight_exact x n)
  case slti i => cases h; exact (exec_slti ..).trans (scuAlu1_eq _ _ _ fun x _ => by rw [slt_exact, sext14_toInt])
  case sltui i => cases h; exact (exec_sltui ..).trans (scuAlu1_eq _ _ _ fun x _ => by rw [ult_exact, sext14_toNat])
  case lui i => cases h; exact (exec_lui ..).trans (scuConst_eq _ _ fun _ _ => signExtend_shiftLeft_exact i 14)
  case pcadd i => cases h; exact (exec_pcadd ..).trans (scuConst_eq _ _ fun _ _ => pcadd_exact i s.cur.pc)
  all_goals cases h

/-- Settles O1: each word is the run of its entry of `scalarRule`, which completes. -/
theorem scalarResults : Obligations.ScalarResults := by
  intro i s t srcs d f hrule hready hdone
  rw [exec_of_scalarRule hrule]
  exact scuRun_done hready rfl rfl hdone

-- Loads and stores.

/-- n bytes sign-extended, in integers. -/
theorem sextBytes_eq {n v : Nat} (hn : 0 < n) (hv : v < 2 ^ (8 * n)) : sextBytes n v = extended true n v := by
  have htwo : 2 ^ (8 * n) = 2 * 2 ^ (8 * n - 1) := by rw [← pow_succ', Nat.sub_add_cancel (by omega)]
  have htoInt : (BitVec.ofNat (8 * n) v).toInt = if 2 ^ (8 * n - 1) ≤ v then (v : Int) - 2 ^ (8 * n) else v := by
    rw [BitVec.toInt_eq_toNat_cond, BitVec.toNat_ofNat, Nat.mod_eq_of_lt hv]
    push_cast
    by_cases hneg : 2 ^ (8 * n - 1) ≤ v
    · rw [if_neg (by omega), if_pos hneg]
    · rw [if_pos (by omega), if_neg hneg]
  rw [sextBytes, BitVec.signExtend, htoInt, extended]
  simp

theorem ofNat_eq_extended (n v : Nat) : BitVec.ofNat 64 v = extended false n v := by
  simp [extended]

section
variable (s : State) (d a : SReg) (imm : BitVec 14) (n : Nat)

/-- A scalar load by Table 4.4: the bytes at the effective address, extended (04 R115). -/
def scuLoadRule (signed : Bool) : Outcome State Fault Refusal :=
  scuRun s [a] (some d) (.ok ()) fun t vs =>
    (t.scalarLoad s.cur.core (effective (vs.getD 0 0) imm) n).map fun r => (r.1, extended signed n r.2)

/-- What a load reads is a number of its n bytes. -/
theorem scalarLoad_lt {t u : State} {g : CoreNo} {ea : Word} {n v : Nat} (h : t.scalarLoad g ea n = .ok (u, v)) : v < 2 ^ (8 * n) := by
  unfold State.scalarLoad at h
  split at h
  · cases h
  · cases h
    simpa using leNat_lt (t.mem.read _ n)

theorem scuLoad_eq {ext : Nat → Word} {signed : Bool} (h : ∀ v < 2 ^ (8 * n), ext v = extended signed n v) :
    scuLoad s d a imm n ext = scuLoadRule s d a imm n signed := by
  unfold scuLoad scuLoadRule
  congr 1
  funext t vs
  rw [add_sext14]
  cases hl : t.scalarLoad s.cur.core (effective (vs.getD 0 0) imm) n with
  | error e => rfl
  | ok r => exact congrArg (fun w => Except.ok (r.1, w)) (h _ (scalarLoad_lt hl))

end

theorem exec_of_loadRule {i : Instr} {d a : SReg} {imm : BitVec 14} {n : Nat} {signed : Bool}
    (h : loadRule i = some (d, a, imm, n, signed)) (s : State) : exec i s = scuLoadRule s d a imm n signed := by
  cases i
  case ldb => cases h; exact (exec_ldb ..).trans (scuLoad_eq _ _ _ _ _ fun _ => sextBytes_eq (by decide))
  case ldbu => cases h; exact (exec_ldbu ..).trans (scuLoad_eq _ _ _ _ _ fun _ _ => ofNat_eq_extended _ _)
  case ldh => cases h; exact (exec_ldh ..).trans (scuLoad_eq _ _ _ _ _ fun _ => sextBytes_eq (by decide))
  case ldhu => cases h; exact (exec_ldhu ..).trans (scuLoad_eq _ _ _ _ _ fun _ _ => ofNat_eq_extended _ _)
  case ldw => cases h; exact (exec_ldw ..).trans (scuLoad_eq _ _ _ _ _ fun _ => sextBytes_eq (by decide))
  case ldwu => cases h; exact (exec_ldwu ..).trans (scuLoad_eq _ _ _ _ _ fun _ _ => ofNat_eq_extended _ _)
  case ldd => cases h; exact (exec_ldd ..).trans (scuLoad_eq _ _ _ _ _ fun _ _ => ofNat_eq_extended _ _)
  all_goals cases h

/-- The check of a store's address before its sources are awaited: no entry of a queue decides it (02 R491). -/
def storePre (s : State) (a : SReg) (imm : BitVec 14) (n : Nat) : Res Unit :=
  if isQueue a then .ok () else (s.scalarAddr s.cur.core (effective (s.readS s.cur.core a) imm) n .write).map fun _ => ()

/-- A scalar store by Table 4.4: the low bytes of d, to the effective address (04 R115). -/
def scuStoreRule (s : State) (d a : SReg) (imm : BitVec 14) (n : Nat) : Outcome State Fault Refusal :=
  scuRun s [a, d] none (storePre s a imm n) fun t vs =>
    (t.scalarStore s.cur.core (effective (vs.getD 0 0) imm) n (vs.getD 1 0)).map fun t => (t, 0)

theorem scuStore_eq (s : State) (d a : SReg) (imm : BitVec 14) (n : Nat) : scuStore s d a imm n = scuStoreRule s d a imm n := by
  simp only [scuStore, scuStoreRule, storePre, add_sext14]

theorem exec_of_storeRule {i : Instr} {d a : SReg} {imm : BitVec 14} {n : Nat} (h : storeRule i = some (d, a, imm, n)) (s : State) :
    exec i s = scuStoreRule s d a imm n := by
  cases i
  case stb => cases h; exact (exec_stb ..).trans (scuStore_eq ..)
  case sth => cases h; exact (exec_sth ..).trans (scuStore_eq ..)
  case stw => cases h; exact (exec_stw ..).trans (scuStore_eq ..)
  case std => cases h; exact (exec_std ..).trans (scuStore_eq ..)
  all_goals cases h

/-- Settles O3: a load of a mapped address reads its bytes, and the run completes. -/
theorem scalarLoads : Obligations.ScalarLoads := by
  intro i s t d a imm n signed pa hrule hready g s0 ea hmapped hdone
  rw [exec_of_loadRule hrule]
  refine scuRun_done (r := (_, _)) hready rfl ?_ hdone
  have hload : s0.scalarLoad g ea n = .ok (s0.noteAccess true g ea.toNat pa n 2 false, leNat (s0.mem.read pa n)) := by
    rw [State.scalarLoad, mapped_scalarAddr hmapped]
  exact congrArg (Except.map _) hload

/-- Settles O4: a store to a mapped address passes its check before the wait and stores its bytes, and the run completes. -/
theorem scalarStores : Obligations.ScalarStores := by
  intro i s t d a imm n pa hrule hready g s0 ea hmapped hbefore hdone
  obtain ⟨p, hp⟩ := hbefore
  rw [exec_of_storeRule hrule]
  refine scuRun_done (r := (_, _)) hready ?_ ?_ hdone
  · have hpre : s.scalarAddr s.cur.core (effective (s.readS s.cur.core a) imm) n .write = .ok p := mapped_scalarAddr hp
    rw [storePre, hpre]
    exact ite_self _
  · have hstore : s0.scalarStore g ea n (s.readS g d) =
        .ok (((s0.physWriteIn true pa (leBytes n (s.readS g d).toNat)).noteAccess true g ea.toNat pa n 2 true).sink g) := by
      rw [State.scalarStore, mapped_scalarAddr hmapped]
    exact congrArg (Except.map _) hstore

-- The traps of an access.

section
variable {s : State} {g : CoreNo} {ea : Word} {n : Nat} {need : Need}

theorem scalarAddr_misaligned (h : ea.toNat % n ≠ 0) : s.scalarAddr g ea n need = .error (.trap .misalign ea) := if_pos h

theorem scalarAddr_untranslated {c : Cause} (h : ea.toNat % n = 0) (ht : s.translate (some g) (s.ctxOf g) ea.toNat need = .error c) :
    s.scalarAddr g ea n need = .error (.trap c ea) := by
  rw [State.scalarAddr, if_neg (not_not.2 h), ht]

theorem scalarAddr_poisoned {pa : Nat} (h : ea.toNat % n = 0) (ht : s.translate (some g) (s.ctxOf g) ea.toNat .read = .ok pa)
    (hp : s.poisoned pa n = true) : s.scalarAddr g ea n .read = .error (.trap .poison ea) := by
  rw [State.scalarAddr, if_neg (not_not.2 h), ht]
  exact if_pos hp

end

/-- A load whose address does not pass its checks, once the sources are there, traps. -/
theorem load_traps {i : Instr} {s : State} {d a : SReg} {imm : BitVec 14} {n : Nat} {signed : Bool} {c : Cause} {v : Word}
    (hrule : loadRule i = some (d, a, imm, n, signed)) (hready : s.scuReady [a] (some d))
    (h : (s.pushLink s.cur.core).scalarAddr s.cur.core (effective (s.readS s.cur.core a) imm) n .read = .error (.trap c v)) :
    exec i s = .next (s.raise c v) := by
  rw [exec_of_loadRule hrule]
  refine scuRun_trap hready rfl ?_
  have hload : (s.pushLink s.cur.core).scalarLoad s.cur.core (effective (s.readS s.cur.core a) imm) n = .error (.trap c v) := by
    rw [State.scalarLoad, h]
  exact congrArg (Except.map _) hload

/-- A store whose address passes its checks neither before the wait for its sources nor after, traps. -/
theorem store_traps {i : Instr} {s : State} {d a : SReg} {imm : BitVec 14} {n : Nat} {c : Cause} {v : Word}
    (hrule : storeRule i = some (d, a, imm, n)) (hready : s.scuReady [a, d] none)
    (hbefore : s.scalarAddr s.cur.core (effective (s.readS s.cur.core a) imm) n .write = .error (.trap c v))
    (h : (s.pushLink s.cur.core).scalarAddr s.cur.core (effective (s.readS s.cur.core a) imm) n .write = .error (.trap c v)) :
    exec i s = .next (s.raise c v) := by
  rw [exec_of_storeRule hrule]
  cases ha : isQueue a with
  | false =>
    refine scuRun_refused hready.1 ?_
    rw [storePre, ha, hbefore]; rfl
  | true =>
    refine scuRun_trap hready (by rw [storePre, ha]; rfl) ?_
    have hstore : (s.pushLink s.cur.core).scalarStore s.cur.core (effective (s.readS s.cur.core a) imm) n (s.readS s.cur.core d) =
        .error (.trap c v) := by
      rw [State.scalarStore, h]
    exact congrArg (Except.map _) hstore

/-- An access, a load or a store, whose address fails the same check before and after its sources are awaited, traps. -/
theorem access_traps {i : Instr} {s : State} {d a : SReg} {imm : BitVec 14} {n : Nat} {need : Need} {c : Cause} {v : Word}
    (h : (∃ signed, loadRule i = some (d, a, imm, n, signed)) ∧ need = .read ∧ s.scuReady [a] (some d) ∨
      storeRule i = some (d, a, imm, n) ∧ need = .write ∧ s.scuReady [a, d] none)
    (hbefore : need = .write → s.scalarAddr s.cur.core (effective (s.readS s.cur.core a) imm) n need = .error (.trap c v))
    (hthen : (s.pushLink s.cur.core).scalarAddr s.cur.core (effective (s.readS s.cur.core a) imm) n need = .error (.trap c v)) :
    exec i s = .next (s.raise c v) := by
  rcases h with ⟨⟨signed, hrule⟩, rfl, hready⟩ | ⟨hrule, rfl, hready⟩
  · exact load_traps hrule hready hthen
  · exact store_traps hrule hready (hbefore rfl) hthen

/-- Settles O5: the address fails the check of its clause, and such an access traps. -/
theorem scalarAccessTraps : Obligations.ScalarAccessTraps := by
  intro i s d a imm n need h g s0 ea
  refine ⟨fun hmis => ?_, fun c hal hbefore hthen => ?_, fun pa hread hal ht hp => ?_⟩
  · exact access_traps h (fun _ => scalarAddr_misaligned hmis) (scalarAddr_misaligned hmis)
  · exact access_traps h (fun _ => scalarAddr_untranslated hal hbefore) (scalarAddr_untranslated hal hthen)
  · subst hread
    exact access_traps h (fun hw => by cases hw) (scalarAddr_poisoned hal ht hp)

end Sys2Proof.Machine
end

section
/-! Branches, jumps and their slots, and wmon (04 R118 to R121, R130, R131). -/

namespace Sys2Proof.Machine

open Host

-- Words that may not stand in a slot.

/-- Outside a slot a slot-forbidden word has its meaning. -/
theorem noSlot_free {s : State} {k : Outcome State Fault Refusal} (h : (s.inst s.cur.core).slot = none) : noSlot s k = k := by
  rw [noSlot, h]; rfl

/-- In a slot a slot-forbidden word of four bytes traps (04 R120). -/
theorem noSlot_traps {s : State} {k : Outcome State Fault Refusal} (h : (s.inst s.cur.core).slot.isSome = true) (hlen : s.len = 4) :
    noSlot s k = .next (s.raise .dsIllegal (BitVec.ofNat 64 s.cur.word.toNat)) := by
  rw [noSlot, if_pos h, hlen]; rfl

-- Branches by Table 4.5.

/-- The run of a branch or jump by its entry of Table 4.5. -/
def branchRun (s : State) (srcs : List SReg) (dst : Option SReg) (target : Nat → Word → Int) (cond : Word → Word → Bool) :
    Outcome State Fault Refusal :=
  branch s srcs dst (fun vs => target s.cur.pc (vs.getD 0 0)) fun vs => cond (vs.getD 0 0) (vs.getD 1 0)

theorem branchIf_eq (s : State) (a b : SReg) (i : BitVec 14) {c cond : Word → Word → Bool} (h : ∀ x y, c x y = cond x y) :
    branchIf s a b i c = branchRun s [a, b] none (fun pc _ => pc + 4 * i.toInt) cond := by
  simp only [branchIf, branchRun, h]; rfl

theorem beq_toNat (x y : Word) : (x == y) = (x.toNat == y.toNat) := by
  rw [Bool.eq_iff_iff, beq_iff_eq, beq_iff_eq, BitVec.toNat_inj]

theorem bne_toNat (x y : Word) : (x != y) = (x.toNat != y.toNat) := congrArg not (beq_toNat x y)

theorem not_slt (x y : Word) : (!x.slt y) = decide (y.toInt ≤ x.toInt) := by
  rw [BitVec.slt, ← decide_not]; simp only [not_lt]

theorem not_ult (x y : Word) : (!x.ult y) = decide (y.toNat ≤ x.toNat) := by
  rw [BitVec.ult, ← decide_not]; simp only [not_lt]

/-- A word with an entry of `branchRule` runs as the entry says. -/
theorem exec_of_branchRule {i : Instr} {srcs : List SReg} {dst : Option SReg} {target : Nat → Word → Int} {cond : Word → Word → Bool}
    (h : branchRule i = some (srcs, dst, target, cond)) (s : State) : exec i s = branchRun s srcs dst target cond := by
  cases i
  case beq => cases h; exact (exec_beq ..).trans (branchIf_eq _ _ _ _ beq_toNat)
  case bne => cases h; exact (exec_bne ..).trans (branchIf_eq _ _ _ _ bne_toNat)
  case blt => cases h; exact (exec_blt ..).trans (branchIf_eq _ _ _ _ fun _ _ => rfl)
  case bge => cases h; exact (exec_bge ..).trans (branchIf_eq _ _ _ _ not_slt)
  case bltu => cases h; exact (exec_bltu ..).trans (branchIf_eq _ _ _ _ fun _ _ => rfl)
  case bgeu => cases h; exact (exec_bgeu ..).trans (branchIf_eq _ _ _ _ not_ult)
  case j => cases h; exact exec_j ..
  case jal => cases h; exact exec_jal ..
  case jalr => cases h; exact exec_jalr ..
  all_goals cases h

-- A branch outside a slot.

/-- Whether a queue was popped before decides only how a write traps. -/
theorem writeDst_any_late {s u : State} {g : CoreNo} {late late' : Bool} {d : SReg} {v : Word} (h : s.writeDst g late d v = .ok u) :
    s.writeDst g late' d v = .ok u := by
  unfold State.writeDst at h ⊢
  split
  · next hq => rw [hq] at h; exact h
  · next q hq =>
    rw [hq] at h
    dsimp only at h
    split
    · next h2 => rw [if_pos h2] at h; exact h
    · next h2 =>
      rw [if_neg h2] at h
      cases hp : pushCheck (s.inst g) q v with
      | ok x => rw [hp] at h; exact h
      | error e => rw [hp] at h; cases e <;> cases late <;> cases h

theorem dstCheck_of_write {s u : State} {g : CoreNo} {late : Bool} {d : SReg} {v : Word} (h : s.writeDst g late d v = .ok u) :
    s.dstCheck g d v = .ok () := by
  rw [State.dstCheck, writeDst_any_late h]; rfl

/-- The branch that awaits its slot when a branch or jump has issued (04 R118): where control goes after the slot, and the link. -/
def State.issuedBranch (s : State) (srcs : List SReg) (dst : Option SReg) (x : Int) (taken : Bool) : Branch :=
  ⟨s.cur.pc, s.cur.word, if taken then x.toNat else s.cur.pc + 8, taken, dst.map fun d => (d, BitVec.ofNat 64 (s.cur.pc + 8)),
    s.popped s.cur.core srcs⟩

/-- A branch whose operands and link can be taken, with a target that control may go to, issues its slot (04 R118). -/
theorem branchRun_issues {s u : State} {srcs : List SReg} {dst : Option SReg} {target : Nat → Word → Int} {cond : Word → Word → Bool}
    {x : Int} {taken : Bool}
    (hslot : (s.inst s.cur.core).slot = none) (hops : operandChecks s.cur.core srcs dst = .ok ())
    (hsrc : s.sourcesReady s.cur.core srcs = .ok ()) (hroom : dst.all (s.hasRoom s.cur.core) = true)
    (hx : target s.cur.pc ((srcs.map (s.readS s.cur.core)).getD 0 0) = x)
    (htaken : cond ((srcs.map (s.readS s.cur.core)).getD 0 0) ((srcs.map (s.readS s.cur.core)).getD 1 0) = taken)
    (halign : x % 4 = 0) (hin : taken = true → 0 ≤ x ∧ x < 65536)
    (hlink : s.writeOpt s.cur.core (srcs.any isQueue) dst (BitVec.ofNat 64 (s.cur.pc + 8)) = .ok u) :
    branchRun s srcs dst target cond = .next ((s.popAll s.cur.core srcs).modInst s.cur.core fun j =>
      { j with slot := some (s.issuedBranch srcs dst x taken),
               scu := { j.scu with pc := s.cur.pc + 4, held := j.handler && j.scu.held } }) := by
  have hok : (!taken || targetOk x) = true := by
    cases taken with
    | false => rfl
    | true => exact decide_eq_true (hin rfl)
  rw [branchRun, branch, noSlot_free hslot]
  subst hx htaken
  simp only [hops, hsrc, hroom, hok, beq_iff_eq.2 halign, Bool.or_true, need_true, check_true, asLate_ok, bind, Except.bind]
  cases dst with
  | none => simp only [Option.elim_none, ite_self, settle_ok]; rfl
  | some d =>
    have hwrite : s.writeDst s.cur.core (srcs.any isQueue) d (BitVec.ofNat 64 (s.cur.pc + 8)) = .ok u := hlink
    simp only [Option.elim_some, dstCheck_of_write hwrite, hwrite, ite_self]; rfl

/-- A word that may not stand in a slot checks first that it does not. -/
theorem exec_of_slotWord {i : Instr} (h : slotWord i = true) (s : State) : ∃ k, exec i s = noSlot s k := by
  cases i
  case beq | bne | blt | bge | bltu | bgeu | j | jal | jalr => exact ⟨_, exec_of_branchRule rfl s⟩
  case scuLoop => exact ⟨_, exec_scuLoop ..⟩
  case wmon => exact ⟨_, exec_wmon ..⟩
  case scuSafe => exact ⟨_, exec_scuSafe ..⟩
  case scuEnd => exact ⟨_, exec_scuEnd ..⟩
  case trap => exact ⟨_, exec_trap ..⟩
  case eret => exact ⟨_, exec_eret ..⟩
  all_goals cases h

/-- Settles O6: a branch is the run of its entry of Table 4.5, which issues its slot; a slot-forbidden word checks for a slot first. -/
theorem branchIssues : Obligations.BranchIssues := by
  refine ⟨?_, fun i s hslot hlen hword => ?_⟩
  · intro i s srcs dst target cond hrule hslot g vs x taken link hops hsrc hroom halign hin ⟨u, hu⟩
    rw [exec_of_branchRule hrule]
    exact branchRun_issues hslot hops hsrc hroom rfl rfl halign hin hu
  · obtain ⟨k, hk⟩ := exec_of_slotWord hword s
    rw [hk, noSlot_traps hslot hlen]

-- The retirement of a slot.

/-- Where no loop ends at a word, its stream goes on behind it with its loops as they were. -/
theorem loopBack_of_ne {a next : Nat} {l : List LoopFrame} (h : ∀ f ∈ l, f.last ≠ a) : loopBack a next l = (next, l) := by
  cases l with
  | nil => rfl
  | cons f rest => exact if_neg (h f List.mem_cons_self)

theorem writeReg_s {i : Inst} {r : SReg} {v : Word} {k : Fin 48} (hk : 0 < k.val) :
    (i.writeReg r v).s[k] = if k.val = r.val then v else i.s[k] := by
  unfold Inst.writeReg
  split
  · next hr => simp [Vector.getElem_set, eq_comm]
  · next hr => rw [if_neg (by omega)]

@[simp] theorem writeReg_slot (i : Inst) (r : SReg) (v : Word) : (i.writeReg r v).slot = i.slot := by
  unfold Inst.writeReg; split <;> rfl

@[simp] theorem writeReg_scu (i : Inst) (r : SReg) (v : Word) : (i.writeReg r v).scu = i.scu := by
  unfold Inst.writeReg; split <;> rfl

/-- The scalar stream when a slot outside the handler has retired (04 R118, R125). -/
def Inst.branched (i : Inst) (cur : Cur) (b : Branch) : Stream :=
  let st := (i.scu.count b.word).count cur.word
  if b.taken then { st with pc := b.target, loops := abandon b.target st.loops } else st.advance cur.pc (b.pc + 8)

/-- A link into a plain register is written (04 R118). -/
def Inst.putLink (i : Inst) : Option (SReg × Word) → Inst
  | some (r, v) => i.writeReg r v
  | none => i

/-- The retirement of a slot outside the handler: the branch is complete, control moves, the link is written. -/
theorem retireScu_slot {i : Inst} {cur : Cur} {len : Nat} {b : Branch} (hslot : i.slot = some b) (hh : i.handler = false) :
    i.retireScu cur len = ({ i with scu := i.branched cur b, slot := none } : Inst).putLink b.link := by
  have hin : i.inHandler cur = false := by rw [Inst.inHandler, hh]; rfl
  simp only [Inst.retireScu, hslot, hin, Inst.branched, Bool.false_eq_true, if_false]
  cases b.link <;> rfl

/-- Settles O7: by the two cases of the link, on the stream that `retireScu_slot` gives. -/
theorem slotRetires : Obligations.SlotRetires := by
  intro i cur len b hslot hh t
  have htaken : b.taken = true → (i.branched cur b).pc = b.target := fun hb => by rw [Inst.branched, hb]; rfl
  have hnot : b.taken = false → (∀ f ∈ i.scu.loops, f.last ≠ cur.pc) → (i.branched cur b).pc = b.pc + 8 := fun hb hl => by
    have hloop : loopBack cur.pc (b.pc + 8) i.scu.loops = (b.pc + 8, i.scu.loops) := loopBack_of_ne hl
    rw [Inst.branched, hb]
    exact congrArg Prod.fst hloop
  have ht : t = ({ i with scu := i.branched cur b, slot := none } : Inst).putLink b.link := retireScu_slot hslot hh
  rw [ht]
  cases b.link with
  | none => exact ⟨rfl, htaken, hnot, (by intro r v h; cases h), fun _ => rfl⟩
  | some l =>
    refine ⟨writeReg_slot .., fun hb => ?_, fun hb hl => ?_, ?_, (by intro h; cases h)⟩
    · exact (congrArg Stream.pc (writeReg_scu ..)).trans (htaken hb)
    · exact (congrArg Stream.pc (writeReg_scu ..)).trans (hnot hb hl)
    · rintro r v ⟨⟩ k hk
      exact writeReg_s hk

end Sys2Proof.Machine
end

section
/-! wmon: its condition, its first read, and the wait (04 R130, R131). -/

namespace Sys2Proof.Machine

open Host

/-- A value as a condition of wmon reads it, extended to 64 bits (04 R130). -/
def monitorWord (c : WCond) (w32 : Bool) (v : Nat) : Word :=
  if w32 then (if c == .lt || c == .ge then sextBytes 4 v else BitVec.ofNat 64 (v % 2 ^ 32)) else BitVec.ofNat 64 v

/-- The width that a condition of wmon compares, in bits. -/
def monitorBits (w32 : Bool) : Nat := if w32 then 32 else 64

theorem monitorWord_toNat {c : WCond} (h : (c == .lt || c == .ge) = false) (w32 : Bool) (v : Nat) :
    (monitorWord c w32 v).toNat = v % 2 ^ monitorBits w32 := by
  cases w32 with
  | false => exact BitVec.toNat_ofNat v 64
  | true =>
    simp only [monitorWord, h, if_true, Bool.false_eq_true, if_false, BitVec.toNat_ofNat, monitorBits]
    omega

theorem monitorWord_toInt {c : WCond} (h : (c == .lt || c == .ge) = true) (w32 : Bool) (v : Nat) :
    (monitorWord c w32 v).toInt = (BitVec.ofNat (monitorBits w32) (v % 2 ^ monitorBits w32)).toInt := by
  have hmod : ∀ n, BitVec.ofNat n (v % 2 ^ n) = BitVec.ofNat n v := fun n => BitVec.eq_of_toNat_eq (by simp)
  rw [hmod]
  cases w32 with
  | false => rfl
  | true =>
    simp only [monitorWord, h, if_true, sextBytes, monitorBits]
    exact BitVec.toInt_signExtend_of_le (by decide)

/-- The value that a satisfied wmon delivers is the one that its condition reads. -/
theorem monitorWord_eq_value {c : WCond} {w32 : Bool} {v : Nat} (h : v < 2 ^ monitorBits w32) : monitorWord c w32 v = monitorValue c w32 v := by
  cases w32 with
  | false => rfl
  | true =>
    have hv : v % 2 ^ 32 = v := Nat.mod_eq_of_lt h
    simp only [monitorWord, monitorValue, if_true, hv]
    cases c == .lt || c == .ge
    · exact ofNat_eq_extended 4 v
    · exact sextBytes_eq (by decide) h

/-- The conditions of Table 4.6 on 64-bit words. -/
def wordHolds (c : WCond) (x y : Word) : Bool :=
  match c with
  | .eq => x == y
  | .ne => x != y
  | .lt => x.slt y
  | .ge => !x.slt y
  | .ltu => x.ult y
  | .geu => !x.ult y
  | .any => x &&& y != 0

theorem condHolds_words (c : WCond) (w32 : Bool) (raw : Nat) (b : Word) : condHolds c w32 raw b =
    if wordHolds c (monitorWord c w32 raw) (monitorWord c w32 b.toNat) then some (monitorWord c w32 raw) else none := by
  cases c <;> rfl

/-- A condition on the words as it reads them is the one of Table 4.6 on numbers of its width. -/
theorem wordHolds_eq (c : WCond) (w32 : Bool) (raw b : Nat) :
    wordHolds c (monitorWord c w32 raw) (monitorWord c w32 b) = monitorHolds c w32 raw b := by
  cases c
  case eq => simp only [wordHolds, beq_toNat, monitorWord_toNat (c := .eq) rfl, monitorBits]; rfl
  case ne => simp only [wordHolds, bne_toNat, monitorWord_toNat (c := .ne) rfl, monitorBits]; rfl
  case lt => simp only [wordHolds, BitVec.slt, monitorWord_toInt (c := .lt) rfl, monitorBits]; rfl
  case ge => simp only [wordHolds, not_slt, monitorWord_toInt (c := .ge) rfl, monitorBits]; rfl
  case ltu => simp only [wordHolds, BitVec.ult, monitorWord_toNat (c := .ltu) rfl, monitorBits]; rfl
  case geu => simp only [wordHolds, not_ult, monitorWord_toNat (c := .geu) rfl, monitorBits]; rfl
  case any => simp only [wordHolds, bne_toNat, BitVec.toNat_and, monitorWord_toNat (c := .any) rfl, monitorBits]; rfl

/-- What a read of n bytes satisfies and delivers (04 R130, Table 4.6). -/
theorem condHolds_eq {c : WCond} {w32 : Bool} {raw : Nat} (h : raw < 2 ^ monitorBits w32) (b : Word) :
    condHolds c w32 raw b = if monitorHolds c w32 raw b.toNat then some (monitorValue c w32 raw) else none := by
  rw [condHolds_words, wordHolds_eq, monitorWord_eq_value h]

/-- What a load reads from is an address that passes the checks of 04 R116. -/
theorem scalarLoad_addr {s : State} {g : CoreNo} {ea : Word} {n : Nat} {r : State × Nat} (h : s.scalarLoad g ea n = .ok r) :
    ∃ pa, s.scalarAddr g ea n .read = .ok pa := by
  unfold State.scalarLoad at h
  split at h
  · cases h
  · exact ⟨_, ‹_›⟩

/-- A wmon outside a slot whose operands are ready reads memory once, pops, and completes or waits (04 R131). -/
theorem execWmon_reads {s t : State} {d a b : SReg} {w : Bool} {c : WCond} {raw : Nat} (hslot : (s.inst s.cur.core).slot = none)
    (hops : operandChecks s.cur.core [a, b] (some d) = .ok ()) (hsrc : s.sourcesReady s.cur.core [a, b] = .ok ())
    (hroom : s.hasRoom s.cur.core d = true)
    (hload : s.scalarLoad s.cur.core (s.readS s.cur.core a) (if w then 4 else 8) = .ok (t, raw)) :
    execWmon d a b w c s = settle s (match condHolds c w raw (s.readS s.cur.core b) with
      | some v => (t.popAll s.cur.core [a, b]).wmonDone s.cur.core s.cur d v
      | none => .ok ((t.popAll s.cur.core [a, b]).modInst s.cur.core fun i =>
        { i with wmon := some ⟨d, s.readS s.cur.core a, s.readS s.cur.core b, w, c, s.cur.pc, s.cur.word,
                               s.popped s.cur.core [a, b], s.cur.stamp⟩,
                 scu := { i.scu with held := i.handler && i.scu.held } })) := by
  obtain ⟨pa, hpa⟩ := scalarLoad_addr hload
  rw [execWmon, noSlot_free hslot]
  simp only [hops, hsrc, hroom, hpa, State.wmonRead, hload, need_true, bind, Except.bind, discard, Functor.discard, Except.map]
  cases isQueue a <;> rfl

/-- The SCU issues nothing while a wmon waits (04 R131). -/
theorem mayIssue_scu_waiting {i : Inst} (h : i.wmon.isSome = true) (asked : Bool) : i.mayIssue asked .scu = false := by
  have hnone : i.wmon.isNone = false := by rw [← Option.not_isSome, h]; rfl
  simp only [Inst.mayIssue, hnone, Bool.and_false, Bool.false_and]

/-- Settles O9: by `execWmon_reads`, with the read's value against the condition as Table 4.6 compares them. -/
theorem monitorWaits : Obligations.MonitorWaits := by
  intro d a b w c s t raw hslot g n hops hsrc hroom hload
  have hraw : raw < 2 ^ monitorBits w := by
    have := scalarLoad_lt hload
    cases w <;> exact this
  have hrun := execWmon_reads (c := c) hslot hops hsrc hroom hload
  rw [condHolds_eq hraw] at hrun
  refine ⟨fun hyes u hu => ?_, fun hno => ?_, fun i asked h => mayIssue_scu_waiting h asked⟩
  · rw [exec_wmon, hrun, if_pos hyes]
    have hdone : (t.popAll g [a, b]).wmonDone g s.cur d (monitorValue c w raw) =
        .ok (u.modInst g fun j => j.retireTo s.cur (s.cur.pc + 4) j.scu.loops) := by
      rw [State.wmonDone, hu]; rfl
    exact congrArg (settle s) hdone
  · rw [exec_wmon, hrun, if_neg (Bool.eq_false_iff.1 hno)]
    rfl

end Sys2Proof.Machine
end

section
/-! loop, safe, seg and end of the scalar stream (04 R123, R124, R134, 16 R428 to R436). -/

namespace Sys2Proof.Machine

open Host

/-- Only what a change does to the instance that is there counts. -/
theorem modInst_congr {s : State} {g : CoreNo} {f k : Inst → Inst} (h : f (s.inst g) = k (s.inst g)) :
    s.modInst g f = s.modInst g k := by
  unfold State.modInst State.modCore
  exact congrArg (fun i => { s with cores := s.cores.set g { s.cores[g] with inst := i } }) h

/-- Retirement of a scalar word leaves the system registers. -/
@[simp] theorem retireScu_sys (i : Inst) (cur : Cur) (len : Nat) : (i.retireScu cur len).sys = i.sys := by
  have hput : ∀ (j : Inst) (l : Option (SReg × Word)), (j.putLink l).sys = j.sys := by
    intro j l
    cases l with
    | none => rfl
    | some l => simp only [Inst.putLink, Inst.writeReg]; split <;> rfl
  unfold Inst.retireScu
  cases i.slot with
  | none => dsimp only; split <;> rfl
  | some b => exact hput _ b.link

theorem retireScu_handler (i : Inst) (cur : Cur) (len : Nat) : (i.retireScu cur len).handler = i.handler :=
  congrArg (fun y : SysRegs => y.tstat.getLsbD 7) (retireScu_sys i cur len)

/-- A stream that stands just past a safe, with a request pending, issues nothing outside the handler (16 R429, R430). -/
theorem mayIssue_scu_held {i : Inst} (hheld : i.scu.held = true) (hh : i.handler = false) : i.mayIssue true .scu = false := by
  simp only [Inst.mayIssue, hheld, hh, Bool.not_false, Bool.and_self, Bool.not_true, Bool.and_false, Bool.false_and]

section
variable {s : State} (hslot : (s.inst s.cur.core).slot = none)
include hslot

theorem exec_scuLoop_free {a : SReg} {l : Fin 16384} (hops : operandChecks s.cur.core [a] none = .ok ())
    (hsrc : s.sourcesReady s.cur.core [a] = .ok ()) (hok : loopOk .scu (s.inst s.cur.core).scu s.cur.pc l.val = true)
    (hh : (s.inst s.cur.core).inHandler s.cur = false) :
    exec (.scuLoop a l) s = .next ((s.popAll s.cur.core [a]).modInst s.cur.core fun j =>
      j.retireTo s.cur (enterLoop (s.inst s.cur.core).scu s.cur.pc l.val (s.readS s.cur.core a)).1
        (enterLoop (s.inst s.cur.core).scu s.cur.pc l.val (s.readS s.cur.core a)).2) := by
  rw [exec_scuLoop, execScuLoop, noSlot_free hslot]
  simp only [hops, hsrc, hok, hh, Bool.not_false, Bool.and_self, check_true, bind, Except.bind, settle_ok]

theorem exec_scuSafe_free : exec .scuSafe s =
    let t := s.modInst s.cur.core fun j => j.retireScu s.cur s.len
    .next (if (s.inst s.cur.core).handler then t
      else t.modInst s.cur.core fun j => { j with scu := { j.scu with held := true } }) := by
  rw [exec_scuSafe, execScuSafe, noSlot_free hslot]
  dsimp only
  rw [State.holdAt, modInst_inst, retireScu_handler]
  rfl

theorem exec_scuSeg_free (cnt : BitVec 24) (crc : BitVec 16) : exec (.scuSeg cnt crc) s =
    if (s.inst s.cur.core).handler then .next (s.modInst s.cur.core fun j => { j with scu := { j.scu with pc := s.cur.pc + 8 } })
    else if (s.inst s.cur.core).scu.mismatch then .next (s.raiseSegment (s.inst s.cur.core).scu)
    else .next (s.modInst s.cur.core fun j =>
      { j with scu := { j.scu with pc := s.cur.pc + 8, held := false, seg := some ⟨cnt, crc, 0, 0xFFFF⟩ } }) := by
  rw [exec_scuSeg, execScuSeg, noSlot_free hslot]

theorem exec_scuEnd_partial (h : (s.inst s.cur.core).asm.pos ≠ 0) : exec .scuEnd s = .next (s.raise .queueProtocol 50) := by
  rw [exec_scuEnd, execScuEnd, noSlot_free hslot]
  exact if_pos (bne_iff_ne.2 h)

theorem exec_scuEnd_whole (h : (s.inst s.cur.core).asm.pos = 0) (hh : (s.inst s.cur.core).handler = false) : exec .scuEnd s =
    let st := (s.inst s.cur.core).scu.count s.cur.word
    if st.mismatch then .next (s.raiseSegment st)
    else .next ((s.modInst s.cur.core fun j => { j with scu := { st with ended := true, seg := none } }).sink s.cur.core) := by
  rw [exec_scuEnd, execScuEnd, noSlot_free hslot]
  simp only [h, hh, bne_self_eq_false, Bool.false_eq_true, if_false, Bool.not_false, Bool.and_true]
  congr 3
  exact modInst_congr (by simp only [hh, Bool.false_eq_true, if_false])

end

/-- Settles O14: each word outside a slot by its lemma, at the case of the clause. -/
theorem scalarStreamControl : Obligations.ScalarStreamControl := by
  intro s g i hslot
  refine ⟨?loop, exec_scuSafe_free hslot, mayIssue_scu_held, ?seg, ?segHandler, ?segMismatch, ?endCloses, ?endMismatch,
    exec_scuEnd_partial hslot⟩
  case loop =>
    intro a l hops hsrc hok hh
    rw [exec_scuLoop_free hslot hops hsrc hok hh]
    unfold enterLoop
    by_cases hzero : s.readS g a = 0 <;> simp only [g, i, hzero, if_true, if_false]
  case seg =>
    intro cnt crc hh hm
    rw [exec_scuSeg_free hslot, if_neg (Bool.eq_false_iff.1 hh), if_neg (Bool.eq_false_iff.1 hm)]
  case segHandler =>
    intro cnt crc hh
    rw [exec_scuSeg_free hslot, if_pos hh]
  case segMismatch =>
    intro cnt crc hh hm
    rw [exec_scuSeg_free hslot, if_neg (Bool.eq_false_iff.1 hh), if_pos hm]
  case endCloses =>
    intro hpos hh hm
    rw [exec_scuEnd_whole hslot hpos hh]
    exact if_neg (Bool.eq_false_iff.1 hm)
  case endMismatch =>
    intro hpos hh hm
    rw [exec_scuEnd_whole hslot hpos hh]
    exact if_pos hm

end Sys2Proof.Machine
end

section
/-! The entry of a trap and the return from one (04 R135, 16 R420 to R425). -/

namespace Sys2Proof.Machine

open Host

-- TSTAT (16 Table 16.7).

section
variable (spc : Nat) (fws : Bool) (src : BitVec 2) (e : Engine) (sh se ds : Bool)

theorem tstatOf_toNat : (tstatOf spc fws src e sh se ds).toNat =
    spc % 65536 * 65536 + fws.toNat * 512 + 128 + src.toNat * 32 + e.code * 8 + sh.toNat * 4 + se.toNat * 2 + ds.toNat := by
  have hfws := fws.toNat_lt
  have hsrc := src.isLt
  have he := (Engine.codes e).1
  have hsh := sh.toNat_lt
  have hse := se.toNat_lt
  have hds := ds.toNat_lt
  rw [tstatOf, BitVec.toNat_ofNat, Nat.mod_eq_of_lt]
  omega

theorem tstatEng_tstatOf : tstatEng (tstatOf spc fws src e sh se ds) = e.code := by
  have hsh := sh.toNat_lt
  have hse := se.toNat_lt
  have hds := ds.toNat_lt
  have he := (Engine.codes e).1
  rw [tstatEng, tstatOf_toNat]
  simp only [bits]
  omega

theorem tstatOf_spc : bits (tstatOf spc fws src e sh se ds).toNat 31 16 = spc % 65536 := by
  have hfws := fws.toNat_lt
  have hsrc := src.isLt
  have he := (Engine.codes e).1
  have hsh := sh.toNat_lt
  have hse := se.toNat_lt
  have hds := ds.toNat_lt
  rw [tstatOf_toNat]
  simp only [bits]
  omega

theorem tstatOf_held : (tstatOf spc fws src e sh se ds).getLsbD 2 = sh := by
  have hse := se.toNat_lt
  have hds := ds.toNat_lt
  rw [BitVec.getLsbD, tstatOf_toNat, Nat.testBit_eq_decide_div_mod_eq]
  cases sh <;> simp only [Bool.toNat_true, Bool.toNat_false, decide_eq_true_eq, decide_eq_false_iff_not] <;> omega

theorem tstatOf_ended : (tstatOf spc fws src e sh se ds).getLsbD 1 = se := by
  have hds := ds.toNat_lt
  rw [BitVec.getLsbD, tstatOf_toNat, Nat.testBit_eq_decide_div_mod_eq]
  cases se <;> simp only [Bool.toNat_true, Bool.toNat_false, decide_eq_true_eq, decide_eq_false_iff_not] <;> omega

end

/-- TSTAT of a trap of the SCU itself, outside a slot: HM alone above SPC. -/
theorem tstatOf_low (spc : Nat) : (tstatOf spc false 0 .scu false false false).toNat % 65536 = 128 := by
  have hsrc : (0 : BitVec 2).toNat = 0 := rfl
  rw [tstatOf_toNat]
  simp only [Bool.toNat_false, hsrc, Engine.code]
  omega

-- A delivery.

/-- What giving back the entries of queues leaves as it is. -/
theorem unpops_keep {γ : Type} (view : Inst → γ) (h : ∀ (i : Inst) (q2r : List AtomicResult) (qr : Vector (List Word) 16),
    view { i with q2r := q2r, qr := qr } = view i) (l : List (SReg × Word)) (i : Inst) : view (l.foldl Inst.unpopQ i) = view i := by
  refine foldl_keep view _ (fun j e => ?_) l i
  unfold Inst.unpopQ
  split
  · rfl
  · split
    · exact h j _ j.qr
    · exact h j j.q2r _

/-- What withdrawing a waiting wmon leaves as it is. -/
theorem dropWmon_keep {γ : Type} (view : Inst → γ) (h : ∀ (i : Inst) (q2r : List AtomicResult) (qr : Vector (List Word) 16),
    view { i with q2r := q2r, qr := qr } = view i) (hw : ∀ i : Inst, view { i with wmon := none } = view i) (i : Inst) :
    view i.dropWmon = view i := by
  unfold Inst.dropWmon
  split
  · exact (unpops_keep view h _ _).trans (hw i)
  · rfl

theorem dropWmon_wmon (i : Inst) : i.dropWmon.wmon = none := by
  unfold Inst.dropWmon
  split
  · exact unpops_keep (fun j => j.wmon) (fun _ _ _ => rfl) _ _
  · assumption

section
variable (i : Inst)

@[simp] theorem dropWmon_scu : i.dropWmon.scu = i.scu := dropWmon_keep (fun j => j.scu) (fun _ _ _ => rfl) (fun _ => rfl) i
@[simp] theorem dropWmon_s : i.dropWmon.s = i.s := dropWmon_keep (fun j => j.s) (fun _ _ _ => rfl) (fun _ => rfl) i
@[simp] theorem dropWmon_v : i.dropWmon.v = i.v := dropWmon_keep (fun j => j.v) (fun _ _ _ => rfl) (fun _ => rfl) i
@[simp] theorem dropWmon_asm : i.dropWmon.asm = i.asm := dropWmon_keep (fun j => j.asm) (fun _ _ _ => rfl) (fun _ => rfl) i
@[simp] theorem dropWmon_sys : i.dropWmon.sys = i.sys := dropWmon_keep (fun j => j.sys) (fun _ _ _ => rfl) (fun _ => rfl) i

end

/-- A trap with a user cause at a boundary, outside the handler and with TVEC enabled, is delivered (16 R422, R424). -/
theorem raiseOn_delivers {s : State} {g : CoreNo} {p : Pending} (hp : (s.inst g).pending = none) (hh : (s.inst g).handler = false)
    (hv : (s.inst g).sys.tvec.getLsbD 0 = true) (hb : (s.inst g).boundary = true) (hr : p.route = .user) :
    s.raiseOn g p = s.modInst g fun i => i.deliver p (s.asked g) (Config.freeWord s.tick 0) := by
  unfold State.raiseOn
  simp only [hp, hh, hb, hr, Bool.false_eq_true, false_and, if_false, and_self, if_true]
  rw [State.deliver, hv, hh]
  rfl

/-- A change that leaves a core as it is changes nothing. -/
theorem modCore_of_eq {s : State} {g : CoreNo} {f : Core → Core} (h : f s.cores[g] = s.cores[g]) : s.modCore g f = s := by
  rw [State.modCore, h, Fin.getElem_fin, Vector.set_getElem_self]

theorem modInst_of_eq {s : State} {g : CoreNo} {f : Inst → Inst} (h : f (s.inst g) = s.inst g) : s.modInst g f = s :=
  modCore_of_eq (congrArg (fun i => { s.cores[g] with inst := i }) h)

/-- The trap that the executing word raises outside a slot. -/
def State.trapOf (s : State) (c : Cause) (v : Word) : Pending :=
  ⟨c, v, s.tpcOf c, s.cur.src.engine, s.srcCode s.cur.src, false, s.cur.stamp, c.route, false, none, none, false, none⟩

/-- A boundary is outside a slot. -/
theorem slot_of_boundary {i : Inst} (h : i.boundary = true) : i.slot = none := by
  simp only [Inst.boundary, Bool.and_eq_true, Option.isNone_iff_eq_none] at h
  exact h.1.1.1

theorem noteFailed_bare (s : State) (g : CoreNo) (ctx : Nat) (c : Cause) (va : Nat) :
    (s.noteFailed g ctx c va).bareCaches = s.bareCaches := by
  unfold State.noteFailed
  split
  · exact noteWalk_bare ..
  · rfl

/-- What the walk of a failed access has left in the caches when a trap of the executing word is raised (16 R416). -/
def State.walked (s : State) (c : Cause) (v : Word) : State :=
  if s.cur.src = .scu ∨ s.cur.src = .ve then s.noteFailed s.cur.core (s.ctxOf s.cur.core) c v.toNat else s

theorem walked_bare (s : State) (c : Cause) (v : Word) : (s.walked c v).bareCaches = s.bareCaches := by
  unfold State.walked
  split
  · exact noteFailed_bare ..
  · rfl

/-- The executing word traps outside a slot: its trap is raised on its core. -/
theorem raise_outside_slot {s : State} (hfw : s.cur.fw = false) (hslot : (s.inst s.cur.core).slot = none) (c : Cause) (v : Word) :
    s.raise c v = (s.walked c v).raiseOn s.cur.core (s.trapOf c v) := by
  have hinst : (s.walked c v).inst s.cur.core = s.inst s.cur.core := bare_inst (bareTlb_of_bareCaches (walked_bare s c v)) _
  have hdrop : (s.walked c v).modInst s.cur.core Inst.dropSlot = s.walked c v :=
    modInst_of_eq (by rw [hinst, Inst.dropSlot, hslot])
  unfold State.raise State.raiseAs
  rw [if_neg (Bool.eq_false_iff.1 hfw)]
  cases hsrc : s.cur.src with
  | scu =>
    have hwalked : s.walked c v = s.noteFailed s.cur.core (s.ctxOf s.cur.core) c v.toNat := if_pos (.inl hsrc)
    rw [hwalked] at hdrop ⊢
    simp only [hslot, true_or, if_true, hdrop, State.trapOf, hsrc, Option.isSome_none]
  | _ => simp [State.trapOf, State.walked, hsrc]

section
variable {s : State} (hfw : s.cur.fw = false) (hb : (s.inst s.cur.core).boundary = true) (hp : (s.inst s.cur.core).pending = none)
  (hh : (s.inst s.cur.core).handler = false) (hv : (s.inst s.cur.core).sys.tvec.getLsbD 0 = true) {c : Cause} (hr : c.route = .user)
include hfw hb hp hh hv hr

/-- A trap of the executing word at a boundary, with a user cause, is delivered to the handler that TVEC enables. -/
theorem raise_delivers (v : Word) : s.raise c v = (s.walked c v).modInst s.cur.core fun i =>
    i.deliver (s.trapOf c v) (s.asked s.cur.core) (Config.freeWord s.tick 0) := by
  have hbare := walked_bare s c v
  have hinst : (s.walked c v).inst s.cur.core = s.inst s.cur.core := bare_inst (bareTlb_of_bareCaches hbare) _
  have hcores : (s.walked c v).cores = s.cores :=
    (congrArg (fun x : State => x.cores) hbare : (s.walked c v).bareCaches.cores = s.bareCaches.cores)
  have htick : (s.walked c v).tick = s.tick := bare_tick (bareTlb_of_bareCaches hbare)
  have hasked : (s.walked c v).asked s.cur.core = s.asked s.cur.core := by simp only [State.asked, hcores]
  rw [raise_outside_slot hfw (slot_of_boundary hb), raiseOn_delivers (by rw [hinst, hp]) (by rw [hinst, hh]) (by rw [hinst, hv])
    (by rw [hinst, hb]) hr, hasked, htick]

theorem raise_inst (v : Word) : (s.raise c v).inst s.cur.core =
    (s.inst s.cur.core).deliver (s.trapOf c v) (s.asked s.cur.core) (Config.freeWord s.tick 0) := by
  rw [raise_delivers hfw hb hp hh hv hr, modInst_inst, bare_inst (bareTlb_of_bareCaches (walked_bare s c v))]

theorem raise_mem (v : Word) : (s.raise c v).mem = s.mem := by
  rw [raise_delivers hfw hb hp hh hv hr, modInst_mem, bare_mem (bareTlb_of_bareCaches (walked_bare s c v))]

end

/-- The system registers that a delivery writes, for a trap without lanes (16 R424, Tables 16.5 and 16.7). -/
theorem deliver_sys (i : Inst) (s : State) (c : Cause) (v : Word) (asked : Bool) (w : Word) :
    (i.deliver (s.trapOf c v) asked w).sys = { i.sys with
      tcause := BitVec.ofNat 64 c.code, tpc := BitVec.ofNat 64 (s.tpcOf c % 65536), tval := v,
      tstat := tstatOf (if s.cur.src.engine = .scu then w.toNat else (i.wmon.map (·.pc)).getD i.scu.pc)
        false (s.srcCode s.cur.src) s.cur.src.engine (s.cur.src.engine != .scu && asked && i.scu.held)
        (s.cur.src.engine != .scu && i.scu.ended) false } := by
  simp only [Inst.deliver, State.trapOf, Inst.markLanes, dropWmon_sys, dropWmon_scu]
  cases s.cur.src.engine <;> rfl

/-- The scalar stream at a delivery: at TVEC's address, not ended (16 R424). -/
theorem deliver_scu (i : Inst) (s : State) (c : Cause) (v : Word) (asked : Bool) (w : Word) :
    (i.deliver (s.trapOf c v) asked w).scu = { i.scu with pc := bits i.sys.tvec.toNat 15 2 * 4, ended := false } := by
  simp only [Inst.deliver, State.trapOf, Inst.markLanes, dropWmon_sys, dropWmon_scu]

/-- What else a delivery leaves: the registers as they were, the q2 assembly put aside, no wmon waiting. -/
theorem deliver_rest (i : Inst) (s : State) (c : Cause) (v : Word) (asked : Bool) (w : Word) :
    let t := i.deliver (s.trapOf c v) asked w
    t.asmAside = some i.asm ∧ t.asm.pos = 0 ∧ t.s = i.s ∧ t.v = i.v ∧ t.wmon = none := by
  simp only [Inst.deliver, State.trapOf, Inst.markLanes, dropWmon_asm, dropWmon_s, dropWmon_v, dropWmon_wmon, and_self]

/-- Settles O15: the trap is delivered, and the lemmas on a delivery and on TSTAT say what that writes. -/
theorem trapEntry : Obligations.TrapEntry := by
  refine ⟨fun s c v => ?scu, fun s c v => ?other⟩
  case scu =>
    intro g i t hfw hsrc hb hp hh hv hr
    have ht : t = i.deliver (s.trapOf c v) (s.asked g) (Config.freeWord s.tick 0) := raise_inst hfw hb hp hh hv hr v
    have hsys := deliver_sys i s c v (s.asked g) (Config.freeWord s.tick 0)
    have htpc : s.tpcOf c = if c = .user then s.cur.pc + 4 else s.cur.pc := by simp only [State.tpcOf, hsrc]
    have hcode : s.srcCode s.cur.src = 0 := by rw [hsrc]; rfl
    obtain ⟨haside, hasm, hs, hvec, -⟩ := deliver_rest i s c v (s.asked g) (Config.freeWord s.tick 0)
    rw [← ht] at hsys haside hasm hs hvec
    rw [htpc, hcode, hsrc] at hsys
    rw [hsys]
    refine ⟨rfl, rfl, rfl, tstatOf_low _, ?_, haside, hasm, hs, hvec, raise_mem hfw hb hp hh hv hr v, fun n => ?_⟩
    · rw [ht, deliver_scu]
    · rw [exec_trap, execTrap, noSlot_free (slot_of_boundary hb)]
  case other =>
    intro g i t hfw hsrc hb hp hh hv hr
    have ht : t = i.deliver (s.trapOf c v) (s.asked g) (Config.freeWord s.tick 0) := raise_inst hfw hb hp hh hv hr v
    have hsys := deliver_sys i s c v (s.asked g) (Config.freeWord s.tick 0)
    have htpc : s.tpcOf c = s.cur.pc := by rcases hsrc with h | h | h <;> simp only [State.tpcOf, h]
    have heng : s.cur.src.engine ≠ .scu := by rcases hsrc with h | h | h <;> rw [h] <;> decide
    have hhandler : t.handler = true := by rw [ht]; exact deliver_handler ..
    have hother : (s.cur.src.engine != .scu) = true := bne_iff_ne.2 heng
    obtain ⟨-, -, -, -, hwmon⟩ := deliver_rest i s c v (s.asked g) (Config.freeWord s.tick 0)
    have hscu := deliver_scu i s c v (s.asked g) (Config.freeWord s.tick 0)
    rw [← ht] at hsys hwmon hscu
    rw [htpc, hother, if_neg heng] at hsys
    rw [hsys, hscu]
    exact ⟨rfl, rfl, rfl, tstatEng_tstatOf .., hhandler, tstatOf_spc .., (tstatOf_held ..).trans (by rw [Bool.true_and, Bool.and_comm]),
      tstatOf_ended .., rfl, hwmon, rfl⟩

end Sys2Proof.Machine
end

section
/-! The return from the handler (04 R135, 16 R425). -/

namespace Sys2Proof.Machine

open Host

-- Bits of TSTAT.

theorem bits_eq_getLsbD (v : Word) (k : Nat) : (bits v.toNat k k == 1) = v.getLsbD k := by
  have h2 : k + 1 - k = 1 := by omega
  rw [BitVec.getLsbD, Nat.testBit_eq_decide_div_mod_eq, bits, h2, pow_one, ← beq_eq_decide]

/-- TSTAT as eret leaves it: SKIP, HM, SH and SE are 0 (16 R425). -/
def tstatLeft (v : Word) : Word :=
  BitVec.ofNat 64 (v.toNat - bits v.toNat 8 8 * 256 - bits v.toNat 7 7 * 128 - bits v.toNat 2 2 * 4 - bits v.toNat 1 1 * 2)

theorem tstatLeft_clear (v : Word) : (tstatLeft v).getLsbD 7 = false ∧ (tstatLeft v).getLsbD 8 = false ∧
    (tstatLeft v).getLsbD 1 = false ∧ (tstatLeft v).getLsbD 2 = false := by
  have hv := v.isLt
  have hclear : ∀ k, (tstatLeft v).toNat / 2 ^ k % 2 = 0 → (tstatLeft v).getLsbD k = false := by
    intro k hk
    rw [BitVec.getLsbD, Nat.testBit_eq_decide_div_mod_eq, hk]; rfl
  obtain ⟨a, m, b, hm, hb, hnat⟩ : ∃ a m b, m < 16 ∧ b < 2 ∧ (tstatLeft v).toNat = a * 512 + m * 8 + b := by
    have h4 : v.toNat / 4 = v.toNat / 2 / 2 := by omega
    have h8 : v.toNat / 8 = v.toNat / 4 / 2 := by omega
    have h128 : v.toNat / 128 = v.toNat / 8 / 16 := by omega
    have h256 : v.toNat / 256 = v.toNat / 128 / 2 := by omega
    have h512 : v.toNat / 512 = v.toNat / 256 / 2 := by omega
    refine ⟨v.toNat / 512, v.toNat / 8 % 16, v.toNat % 2, by omega, by omega, ?_⟩
    rw [tstatLeft, BitVec.toNat_ofNat, Nat.mod_eq_of_lt (lt_of_le_of_lt (by omega) hv)]
    norm_num [bits]
    omega
  refine ⟨hclear 7 ?_, hclear 8 ?_, hclear 1 ?_, hclear 2 ?_⟩ <;> rw [hnat] <;> omega

-- What the resumption of another engine leaves of the scalar stream.

/-- The scalar stream and its registers. -/
def Inst.scalar (i : Inst) : Stream × Vector Word 48 := (i.scu, i.s)

@[simp] theorem modRing_scalar (i : Inst) (b : Buf) (n : Fin 8) (f : BufRing → BufRing) : (i.modRing b n f).scalar = i.scalar := by
  cases b <;> rfl

@[simp] theorem landSlot_scalar (i : Inst) (c : Copy) : (i.landSlot c).scalar = i.scalar := by
  unfold Inst.landSlot
  split
  · exact modRing_scalar ..
  · rfl

@[simp] theorem skipCommand_scalar (i : Inst) (n : Nat) : (i.skipCommand n).scalar = i.scalar := by
  unfold Inst.skipCommand
  split <;> rfl

theorem resumeCe_scalar (i : Inst) (skip : Bool) : (i.resumeCe skip).scalar = i.scalar := by
  have hrest : ∀ (j : Inst) (f : Option CmdFault) (l : List Copy), ({ j with cmdFault := f, copies := l } : Inst).scalar = j.scalar :=
    fun _ _ _ => rfl
  unfold Inst.resumeCe
  rw [hrest]
  cases skip with
  | false => rfl
  | true =>
    rw [if_pos rfl]
    split
    · exact landSlot_scalar ..
    · refine Eq.trans (skipCommand_scalar _ _) ?_
      split <;> rfl

theorem settleMloop_scalar (i : Inst) : i.settleMloop.scalar = i.scalar := by
  unfold Inst.settleMloop
  split
  · rfl
  · dsimp only
    split <;> rfl

/-- The engine that trapped, resumed at TPC or behind it (16 R425), as eret does it. -/
def Inst.resumed (i : Inst) (tpc : Nat) (skip behind : Bool) : Inst :=
  match tstatEng i.sys.tstat with
  | 0 => if behind then { i with scu := i.scu.advance tpc (tpc + lenAt .scu i.scu tpc) } else { i with scu := { i.scu with pc := tpc } }
  | 1 => if skip then { i with ve := i.ve.advance tpc (tpc + lenAt .ve i.ve tpc) } else { i with ve := { i.ve with pc := tpc } }
  | 2 => match i.mloop with
    | some m => if skip then { i with mloop := some m.nextSlot }.settleMloop else i
    | none => if skip then { i with me := i.me.advance tpc (tpc + lenAt .me i.me tpc) } else { i with me := { i.me with pc := tpc } }
  | _ => i.resumeCe skip


/-- A command that traps in q2's assembly is dropped by SKIP; otherwise the assembly put aside stands again (14 R383). -/
def Inst.reassembled (i : Inst) (drop : Bool) : Inst :=
  { i with asm := if drop then ⟨0, 0, 0⟩ else i.asmAside.getD i.asm, asmAside := none }

/-- Where SKIP resumes the SCU behind the word that trapped: not after USER and not from a slot (16 R425). -/
def Inst.behind (i : Inst) : Bool := i.sys.tstat.getLsbD 8 && !i.sys.tstat.getLsbD 0 && !(i.sys.tcause.toNat == 0x13)

theorem eret_eq (i : Inst) : i.eret =
    let skip := i.sys.tstat.getLsbD 8
    let j := (i.reassembled (skip && !i.sys.tstat.getLsbD 0 && i.trapQ2)).resumed (bits i.sys.tpc.toNat 15 0) skip i.behind
    let k := if tstatEng i.sys.tstat = 0 then j
      else { j with scu := { j.scu with pc := bits i.sys.tstat.toNat 31 16, ended := i.sys.tstat.getLsbD 1 } }
    { k with trapCopy := none, trapQ2 := false, sys := { k.sys with tstat := tstatLeft i.sys.tstat } } := by
  unfold Inst.eret Inst.resumed Inst.reassembled Inst.behind
  simp only [bits_eq_getLsbD]
  rfl

theorem resumed_s (i : Inst) (tpc : Nat) (skip behind : Bool) : (i.resumed tpc skip behind).s = i.s := by
  unfold Inst.resumed
  split
  · split <;> rfl
  · split <;> rfl
  · split
    · split
      · exact congrArg Prod.snd (settleMloop_scalar _)
      · rfl
    · split <;> rfl
  · exact congrArg Prod.snd (resumeCe_scalar i skip)

/-- A trap of another engine than the SCU leaves the scalar stream where it stands. -/
theorem resumed_scu_other {i : Inst} (h : tstatEng i.sys.tstat ≠ 0) (tpc : Nat) (skip behind : Bool) :
    (i.resumed tpc skip behind).scu = i.scu := by
  unfold Inst.resumed
  split
  · contradiction
  · split <;> rfl
  · split
    · split
      · exact congrArg Prod.fst (settleMloop_scalar _)
      · rfl
    · split <;> rfl
  · exact congrArg Prod.fst (resumeCe_scalar i skip)

/-- The SCU resumes at TPC or behind it. -/
theorem resumed_scu {i : Inst} (h : tstatEng i.sys.tstat = 0) (tpc : Nat) (skip behind : Bool) :
    (i.resumed tpc skip behind).scu =
      if behind then i.scu.advance tpc (tpc + lenAt .scu i.scu tpc) else { i.scu with pc := tpc } := by
  unfold Inst.resumed
  rw [h]
  cases behind <;> rfl

section
variable (i : Inst)

theorem eret_tstat : i.eret.sys.tstat = tstatLeft i.sys.tstat := by
  rw [eret_eq]

theorem eret_s : i.eret.s = i.s := by
  rw [eret_eq]
  dsimp only
  split
  · exact resumed_s ..
  · exact resumed_s ..

variable {i}

theorem eret_scu (h : tstatEng i.sys.tstat = 0) : i.eret.scu =
    let tpc := bits i.sys.tpc.toNat 15 0
    if i.behind then i.scu.advance tpc (tpc + lenAt .scu i.scu tpc) else { i.scu with pc := tpc } := by
  rw [eret_eq]
  dsimp only
  rw [if_pos h]
  exact resumed_scu (i := i.reassembled _) h ..

theorem eret_scu_other (h : tstatEng i.sys.tstat ≠ 0) :
    i.eret.scu = { i.scu with pc := bits i.sys.tstat.toNat 31 16, ended := i.sys.tstat.getLsbD 1 } := by
  rw [eret_eq]
  dsimp only
  rw [if_neg h]
  exact congrArg (fun st : Stream => { st with pc := bits i.sys.tstat.toNat 31 16, ended := i.sys.tstat.getLsbD 1 })
    (resumed_scu_other (i := i.reassembled _) h ..)

end

/-- eret in the handler, outside a slot, whose TPC the resuming engine can fetch from, returns (16 R425). -/
theorem exec_eret_returns {s : State} (hslot : (s.inst s.cur.core).slot = none) (hh : (s.inst s.cur.core).handler = true)
    (htarget : ∀ x e, (s.inst s.cur.core).eretTarget = some (x, e) → x % 4 = 0 ∧ x < imemSize e) :
    exec .eret s = .next (s.modInst s.cur.core Inst.eret) := by
  rw [exec_eret, execEret, noSlot_free hslot]
  simp only [hh, check_true, bind, Except.bind]
  cases ht : (s.inst s.cur.core).eretTarget with
  | none => rfl
  | some r =>
    obtain ⟨halign, hin⟩ := htarget r.1 r.2 ht
    simp only [halign, hin, beq_self_eq_true, decide_true, check_true, settle_ok]

theorem exec_eret_outside {s : State} (hslot : (s.inst s.cur.core).slot = none) (hh : (s.inst s.cur.core).handler = false) :
    exec .eret s = .next (s.raise .illegal (s.cur.word.zeroExtend 64)) := by
  rw [exec_eret, execEret, noSlot_free hslot, hh]; rfl

/-- Settles O17: eret returns by `Inst.eret`, whose parts the lemmas above say. -/
theorem returnFromTrap : Obligations.ReturnFromTrap := by
  intro s g i tpc ds skip hslot
  refine ⟨fun hh htarget => ?_, exec_eret_outside hslot⟩
  obtain ⟨hHM, hSKIP, hSE, hSH⟩ := tstatLeft_clear i.sys.tstat
  refine ⟨_, exec_eret_returns hslot hh htarget, ?_⟩
  rw [modInst_inst, Inst.handler, eret_tstat, eret_s]
  refine ⟨hHM, hSKIP, hSE, hSH, rfl, rfl, fun heng hat => ?atTpc, fun heng hskip hds huser hloops => ?behind, fun heng => ?other⟩
  case atTpc =>
    have hbehind : i.behind = false := by
      rcases hat with h | h | h
      · rw [Inst.behind, show i.sys.tstat.getLsbD 8 = false from h]; rfl
      · rw [Inst.behind, show i.sys.tstat.getLsbD 0 = true from h]; simp
      · rw [Inst.behind, h]; simp
    rw [eret_scu heng]
    exact congrArg Stream.pc (if_neg (Bool.eq_false_iff.1 hbehind))
  case behind =>
    have hbehind : i.behind = true := by
      rw [Inst.behind, show i.sys.tstat.getLsbD 8 = true from hskip, show i.sys.tstat.getLsbD 0 = false from hds,
        beq_eq_false_iff_ne.2 huser]
      rfl
    rw [eret_scu heng]
    dsimp only
    rw [if_pos hbehind, Stream.advance, hloops]
    rfl
  case other =>
    rw [eret_scu_other heng]
    exact ⟨rfl, rfl, rfl⟩

end Sys2Proof.Machine
end

section
/-! spawn: the packet copied to a ring (04 R132). -/

namespace Sys2Proof.Machine

open Host

section
variable {s t : State} (h : t.bareTlb = s.bareTlb)
include h

theorem bare_rings : t.rings = s.rings := (congrArg (fun x : State => x.rings) h : t.bareTlb.rings = s.bareTlb.rings)

theorem bare_ctxOf (g : CoreNo) : t.ctxOf g = s.ctxOf g := by
  have htask : ∀ id, t.task id = s.task id := fun id => by rw [State.task, State.task, bare_tasks h]
  have hon : t.taskOn g = s.taskOn g := by
    unfold State.taskOn
    rw [bare_occupant h]
    cases s.cores[g].occupant with
    | none => rfl
    | some o => exact htask o.task
  rw [State.ctxOf, State.ctxOf, bare_cur h, hon]

theorem bare_spawner (g : CoreNo) : t.spawner g = s.spawner g := by
  rw [State.spawner, State.spawner, bare_cur h, bare_ctxOf h]

end

/-- Outside a slot there is no link to push. -/
theorem pushLink_free {s : State} {g : CoreNo} (h : (s.inst g).slot = none) : s.pushLink g = s := by
  rw [State.pushLink, h]

theorem memRes_number {r : Except MemFault (List Byte)} {n : Nat} (h : r.map leNat = .ok n) :
    ∃ bs, memRes r = .ok bs ∧ leNat bs = n := by
  cases r with
  | error e => cases h
  | ok bs => cases h; exact ⟨bs, rfl, rfl⟩

/-- The copy of a packet to a ring with room, and WIDX advanced (04 R132). -/
def State.publish (s : State) (g : CoreNo) (x : CmdRing) (bs : List Byte) (widx : Nat) : Res (State × Word) := do
  let t ← s.ringWrite g x (widx + 8) (bs.drop 8)
  let u ← t.ringWrite g x widx (leBytes 4 (leNat (bs.take 4)) ++ leBytes 4 (widx / 64))
  let v ← memRes (u.writeV (some g) x.ctx x.stateAddr.toNat (leBytes 8 (widx + bs.length)))
  .ok ((v.noteSpan false g x.stateAddr.toNat 8 2 true).sink g, BitVec.ofNat 64 widx)

theorem publish_ok {s t u v : State} {g : CoreNo} {x : CmdRing} {bs : List Byte} {widx : Nat}
    (ht : s.ringWrite g x (widx + 8) (bs.drop 8) = .ok t)
    (hu : t.ringWrite g x widx (leBytes 4 (leNat (bs.take 4)) ++ leBytes 4 (widx / 64)) = .ok u)
    (hv : u.writeV (some g) x.ctx x.stateAddr.toNat (leBytes 8 (widx + bs.length)) = .ok v) :
    s.publish g x bs widx = .ok ((v.noteSpan false g x.stateAddr.toNat 8 2 true).sink g, BitVec.ofNat 64 widx) := by
  rw [State.publish, ht, ok_bind, hu, ok_bind, hv]; rfl

/-- The state when a spawn has read its packet. -/
def State.packetRead (s : State) (g : CoreNo) (a : Word) (bs : List Byte) : State := s.noteSpan true g a.toNat bs.length 2 false

/-- The ring that b names. -/
def State.ringAt (s : State) (b : Word) : CmdRing := s.rings[(Fin.ofNat 256 b.toNat : Fin 256)]

/-- What a spawn reads and is granted: an aligned packet with a valid header, a ring granted to its context, and the ring's indices. -/
structure State.SpawnGranted (s : State) (g : CoreNo) (a b : Word) (bs : List Byte) (widx ridx : Nat) : Prop where
  aligned : a.toNat % 64 = 0
  packet : s.packetImage g a.toNat = .ok bs
  number : b.toNat < 256
  header : headerValid (Fin.ofNat 256 b.toNat) bs = true
  granted : (s.ringAt b).grant = s.spawner g
  written : ((s.packetRead g a bs).readV (some g) (s.ringAt b).ctx (s.ringAt b).stateAddr.toNat 8).map leNat = .ok widx
  taken : ((s.packetRead g a bs).readV (some g) (s.ringAt b).ctx ((s.ringAt b).stateAddr.toNat + 8) 8).map leNat = .ok ridx

section
variable {s : State} {g : CoreNo} {a b : Word} {bs : List Byte} {widx ridx : Nat} (h : s.SpawnGranted g a b bs widx ridx)
include h

/-- A spawn with its reads and grant in order goes on to the copy, if there is room. -/
theorem spawn_granted : s.spawn g a b =
    if (s.ringAt b).size < widx + bs.length - ridx then .ok (s.packetRead g a bs, BitVec.allOnes 64)
    else (s.packetRead g a bs).publish g (s.ringAt b) bs widx := by
  have hbare := noteSpan_bare s true g a.toNat bs.length 2 false
  obtain ⟨wbs, hw, rfl⟩ := memRes_number h.written
  obtain ⟨rbs, hr, rfl⟩ := memRes_number h.taken
  unfold State.packetRead State.ringAt at hw hr
  have hgrant := h.granted
  unfold State.ringAt at hgrant
  unfold State.spawn
  simp only [h.aligned, h.packet, h.number, h.header, bare_rings hbare, bare_spawner hbare, hgrant, hw, hr, beq_self_eq_true,
    decide_true, Bool.and_self, check_true, ok_bind]
  rfl

/-- The ring that a spawn names passes its check before the wait. -/
theorem spawnRing_granted : s.spawnRing g b = .ok () := by
  have hgrant := h.granted
  unfold State.ringAt at hgrant
  simp only [State.spawnRing, h.number, hgrant, decide_true, beq_self_eq_true, check_true, ok_bind]

end

/-- A spawn outside a slot whose effect succeeds completes: none of its checks before the wait fails. -/
theorem exec_spawn_done {s u : State} {d a b : SReg} {bs : List Byte} {widx ridx : Nat} {r : State × Word}
    (hready : s.scuReady [a, b] (some d)) (hslot : (s.inst s.cur.core).slot = none)
    (h : s.SpawnGranted s.cur.core (s.readS s.cur.core a) (s.readS s.cur.core b) bs widx ridx)
    (heff : s.spawn s.cur.core (s.readS s.cur.core a) (s.readS s.cur.core b) = .ok r)
    (hdone : s.scuDone r.1 [a, b] (some d) r.2 = .ok u) : exec (.spawn d a b) s = .next u := by
  rw [exec_spawn, execSpawn]
  refine scuRun_done hready ?_ (by rw [pushLink_free hslot]; exact heff) hdone
  cases isQueue a <;> cases isQueue b
  case false.false => rw [heff]; rfl
  case false.true => simp only [h.aligned, h.packet, beq_self_eq_true, check_true, ok_bind]; rfl
  case true.false => exact spawnRing_granted h
  case true.true => rfl

/-- Settles O13: the reads and the grant hold, so the spawn's effect is the one of `spawn_granted`, and the word completes with it. -/
theorem spawnPublishes : Obligations.SpawnPublishes := by
  intro d a b s u bs widx ridx hready hslot g src ring r s0 x haligned hpacket hnumber hheader hgrant hw hr
  have hbare := noteSpan_bare s true g src.toNat bs.length 2 false
  have hx : x = s.ringAt ring := by rw [State.ringAt, ← bare_rings hbare]
  have hspawner : s0.spawner g = s.spawner g := bare_spawner hbare g
  rw [hspawner] at hgrant
  have hgranted : s.SpawnGranted g src ring bs widx ridx := by
    rw [hx] at hgrant hw hr
    exact ⟨haligned, hpacket, hnumber, hheader, hgrant, hw, hr⟩
  have heff := spawn_granted hgranted
  rw [← hx] at heff
  refine ⟨fun hfull hdone => ?_, fun hroom s1 s2 s3 h1 h2 h3 hdone => ?_⟩
  · rw [if_pos hfull] at heff
    exact exec_spawn_done hready hslot hgranted heff hdone
  · rw [if_neg (Nat.not_lt.2 hroom)] at heff
    exact exec_spawn_done hready hslot hgranted (heff.trans (publish_ok h1 h2 h3)) hdone

end Sys2Proof.Machine
end

section
/-! The write of a destination: a plain register, a queue, a mesh port, and the three entries of a command of q2 (04 R108, R109, 05 R151,
R155, 14 R382, R383). -/

namespace Sys2Proof.Machine

open Host

-- Registers.

theorem queueNo_plain {r : SReg} (h : r.val < 48) : queueNo r = none := dif_neg (by omega)

/-- A plain register reads its place; s0 reads 0 (04 R108). -/
theorem readS_plain {r : SReg} (h : r.val < 48) (s : State) (g : CoreNo) :
    s.readS g r = if 0 < r.val then (s.inst g).s[r.val] else 0 := by
  rw [State.readS, queueNo_plain h]
  dsimp only
  by_cases hpos : 0 < r.val
  · rw [dif_pos ⟨hpos, h⟩, if_pos hpos]
  · rw [dif_neg fun hp => hpos hp.1, if_neg hpos]

/-- What a register reads depends on the registers and the read sides of the queues alone. -/
theorem readS_congr {s t : State} {g : CoreNo} (hs : (t.inst g).s = (s.inst g).s) (hqr : (t.inst g).qr = (s.inst g).qr)
    (hq2r : (t.inst g).q2r = (s.inst g).q2r) (r : SReg) : t.readS g r = s.readS g r := by
  simp only [State.readS, hs, hqr, hq2r]

/-- A write of a plain register: the register reads the value, s0 reads 0 still, and no other register changes (04 R108). -/
theorem readS_writeReg {s : State} {g : CoreNo} {d r : SReg} {v : Word} (hr : r.val < 48) :
    (s.modInst g fun i => i.writeReg d v).readS g r = if r = d ∧ d ≠ 0 then v else s.readS g r := by
  rw [readS_plain hr, readS_plain hr, modInst_inst]
  by_cases hpos : 0 < r.val
  · have hwrite : ((s.inst g).writeReg d v).s[r.val] = if r.val = d.val then v else (s.inst g).s[r.val] :=
      writeReg_s (k := ⟨r.val, hr⟩) hpos
    have hiff : r.val = d.val ↔ r = d ∧ d ≠ 0 :=
      ⟨fun h => ⟨Fin.ext h, fun h0 => by rw [h, h0] at hpos; exact absurd hpos (by decide)⟩, fun h => congrArg Fin.val h.1⟩
    simp only [if_pos hpos, hwrite, hiff]
  · have hno : ¬ (r = d ∧ d ≠ 0) := fun ⟨h, h0⟩ => h0 (Fin.ext (by rw [← h]; exact Nat.eq_zero_of_not_pos hpos))
    rw [if_neg hpos, if_neg hpos, if_neg hno]

@[simp] theorem writeReg_qw (i : Inst) (r : SReg) (v : Word) : (i.writeReg r v).qw = i.qw := by
  unfold Inst.writeReg; split <;> rfl

theorem writeDst_plain {d : SReg} (h : d.val < 48) (s : State) (g : CoreNo) (late : Bool) (v : Word) :
    s.writeDst g late d v = .ok (s.modInst g fun i => i.writeReg d v) := by
  rw [State.writeDst, queueNo_plain h]

-- Queues and mesh ports.

/-- A push that the queue accepts and has room for. -/
theorem writeDst_push {s : State} {g : CoreNo} {d : SReg} {q : Fin 16} {v : Word} (hq : queueNo d = some q) (h2 : q ≠ 2)
    (hcheck : pushCheck (s.inst g) q v = .ok ()) (hroom : s.hasRoom g d = true) (late : Bool) :
    s.writeDst g late d v = .ok ((s.pushRaw g q v).sink g) := by
  rw [State.writeDst, hq]
  simp only [if_neg h2, hcheck, hroom, asLate_ok, need_true, ok_bind]

theorem pushRaw_queue {q : Fin 16} (h : q.val < 12) (s : State) (g : CoreNo) (v : Word) :
    s.pushRaw g q v = s.modInst g fun i => { i with qw := i.qw.set q (i.qw[q] ++ [v]) } := if_pos h

theorem pushRaw_port {g h : CoreNo} {q : Fin 16} (hq : 12 ≤ q.val) (hn : neighbour g q = some h) (s : State) (v : Word) :
    s.pushRaw g q v = s.modInst h fun i => { i with qr := i.qr.set (facing q) (i.qr[facing q] ++ [v]) } := by
  rw [State.pushRaw, if_neg (by omega), hn]

/-- A mesh port takes any value (05 R155). -/
theorem pushCheck_port {q : Fin 16} (h : 12 ≤ q.val) (i : Inst) (v : Word) : pushCheck i q v = .ok () := by
  unfold pushCheck
  split
  case h_5 => rfl
  all_goals omega

theorem vector_set_self {α : Type} {n : Nat} (w : Vector α n) (q : Fin n) (x : α) : (w.set q x)[q] = x := by simp

theorem vector_set_other {α : Type} {n : Nat} (w : Vector α n) {p q : Fin n} (h : p ≠ q) (x : α) : (w.set q x)[p] = w[p] := by
  have : q.val ≠ p.val := fun e => h (Fin.ext e.symm)
  simp [this]

-- The commands of q2.

/-- A write of q2, once the assembly has taken it: a sink event and nothing more (05 R157). -/
theorem writeDst_q2 {d : SReg} (hq : queueNo d = some 2) (s : State) (g : CoreNo) (late : Bool) (v : Word) :
    s.writeDst g late d v = (asQ2 (s.writeQ2 g v)).map fun t => t.sink g := by
  rw [State.writeDst, hq]
  exact if_pos rfl

theorem writeDst_q2_traps {d : SReg} (hq : queueNo d = some 2) {s : State} {g : CoreNo} {v : Word} {c : Cause} {x : Word}
    (h : s.writeQ2 g v = .error (.trap c x)) (late : Bool) : s.writeDst g late d v = .error (.q2 c x) := by
  rw [writeDst_q2 hq, h]; rfl

theorem writeDst_q2_waits {d : SReg} (hq : queueNo d = some 2) {s : State} {g : CoreNo} {v : Word}
    (h : s.writeQ2 g v = .error .wait) (late : Bool) : s.writeDst g late d v = .error .wait := by
  rw [writeDst_q2 hq, h]; rfl

theorem writeDst_q2_takes {d : SReg} (hq : queueNo d = some 2) {s t : State} {g : CoreNo} {v : Word} (h : s.writeQ2 g v = .ok t)
    (late : Bool) : s.writeDst g late d v = .ok (t.sink g) := by
  rw [writeDst_q2 hq, h]; rfl

/-- The layout of a control entry (14 R382): code, flags and, where D is 1, a window that the instance has open. -/
def State.controlOk (s : State) (g : CoreNo) (v : Word) : Prop :=
  v.toNat % 16 < 10 ∧ v.toNat < 4096 ∧ if v.getLsbD 5 then s.windowOpenFor g (v.toNat / 64 % 64) = true else v.toNat / 64 % 64 = 0

theorem controlOk_iff (s : State) (g : CoreNo) (v : Word) :
    (atomicCtlOk v && (!v.getLsbD 5 || s.windowOpenFor g (bits v.toNat 11 6))) = true ↔ s.controlOk g v := by
  have hlow : bits v.toNat 3 0 = v.toNat % 16 := by simp [bits]
  have hwin : bits v.toNat 11 6 = v.toNat / 64 % 64 := rfl
  unfold State.controlOk atomicCtlOk
  simp only [hlow, hwin]
  cases v.getLsbD 5 <;> simp [and_assoc]

section
variable (s : State) (g : CoreNo) (v : Word)

theorem writeQ2_control (h : (s.inst g).asm.pos = 0) : s.writeQ2 g v =
    if atomicCtlOk v && (!v.getLsbD 5 || s.windowOpenFor g (bits v.toNat 11 6)) then
      .ok (s.modInst g fun i => { i with asm := ⟨1, v, 0⟩ })
    else .error (.trap .queueProtocol v) := by
  rw [State.writeQ2, h]
  exact check_bind ..

theorem writeQ2_address (h : (s.inst g).asm.pos = 1) : s.writeQ2 g v =
    if v.toNat % (if (s.inst g).asm.ctl.getLsbD 4 then 4 else 8) ≠ 0 then .error (.trap .misalign v)
    else match s.translate (some g) (s.ctxOf g) v.toNat .both with
      | .error c => .error (.trap c v)
      | .ok _ => .ok ((s.fillTlb g (s.ctxOf g) v.toNat).modInst g fun i => { i with asm := ⟨2, (s.inst g).asm.ctl, v⟩ }) := by
  rw [State.writeQ2, h]
  rfl

/-- The state in which a command of q2 has its SEQ: counted where D is 1 (14 R389). -/
def State.sequenced (s : State) (g : CoreNo) : Nat × State :=
  if (s.inst g).asm.ctl.getLsbD 5 then s.takeSeq g (bits (s.inst g).asm.ctl.toNat 11 6) else (0, s)

theorem writeQ2_operand (h : (s.inst g).asm.pos = 2) : s.writeQ2 g v =
    if !(s.inst g).asm.ctl.getLsbD 5 || s.windowOpenFor g (bits (s.inst g).asm.ctl.toNat 11 6) then
      if (s.inst g).q2w.length < 5 then
        .ok ((s.sequenced g).2.modInst g fun i => { i with
          asm := ⟨0, 0, 0⟩
          q2w := i.q2w ++ [⟨(s.inst g).asm.ctl, (s.inst g).asm.addr, v, (s.sequenced g).1⟩] })
      else .error .wait
    else .error (.trap .queueProtocol (s.inst g).asm.ctl) := by
  rw [State.writeQ2, h]
  refine (check_bind ..).trans ?_
  split
  · by_cases hroom : (s.inst g).q2w.length < 5
    · rw [if_pos hroom, decide_eq_true hroom]; rfl
    · rw [if_neg hroom, decide_eq_false hroom]; rfl
  · rfl

theorem takeSeq_inst (n : Nat) (h : CoreNo) : (s.takeSeq g n).2.inst h = s.inst h := by
  unfold State.takeSeq
  split <;> rfl

theorem takeSeq_mem (n : Nat) : (s.takeSeq g n).2.mem = s.mem := by
  unfold State.takeSeq
  split <;> rfl

theorem sequenced_inst (h : CoreNo) : (s.sequenced g).2.inst h = s.inst h := by
  unfold State.sequenced
  split
  · exact takeSeq_inst ..
  · rfl

theorem sequenced_fst : (s.sequenced g).1 =
    if (s.inst g).asm.ctl.getLsbD 5 then (s.takeSeq g ((s.inst g).asm.ctl.toNat / 64 % 64)).1 else 0 := by
  unfold State.sequenced
  split <;> rfl

theorem sequenced_mem : (s.sequenced g).2.mem = s.mem := by
  unfold State.sequenced
  split
  · exact takeSeq_mem ..
  · rfl

end

/-- Settles O2: a plain register, a queue and a mesh port by what their write is; q2 by the position of its assembly. -/
theorem writeDestination : Obligations.WriteDestination := by
  intro s g late d v
  refine ⟨fun hd => ?plain, fun q hq hlt h2 hcheck hroom => ?queue, fun q h hq hle hn hroom => ?port, fun hq => ?q2⟩
  case plain =>
    refine ⟨_, writeDst_plain hd s g late v, rfl, fun r hr => readS_writeReg hr, fun q => ?_, fun h hne => modInst_inst_other _ _ _ _ hne⟩
    rw [modInst_inst, writeReg_qw]
  case queue =>
    refine ⟨_, writeDst_push hq h2 hcheck hroom late, ?_⟩
    rw [pushRaw_queue hlt]
    simp only [sink_mem, sink_inst, modInst_mem, modInst_inst]
    refine ⟨trivial, vector_set_self .., fun p hp => vector_set_other _ hp _, fun r => ?_, fun h hne => modInst_inst_other _ _ _ _ hne⟩
    exact readS_congr (by simp) (by simp) (by simp) r
  case port =>
    have h2 : q ≠ 2 := fun h => by rw [h] at hle; exact absurd hle (by decide)
    refine ⟨_, writeDst_push hq h2 (pushCheck_port hle _ _) hroom late, ?_⟩
    rw [pushRaw_port hle hn]
    simp only [sink_mem, sink_inst, modInst_mem, modInst_inst]
    exact ⟨trivial, vector_set_self .., fun p hp => vector_set_other _ hp _, trivial, trivial, fun k hne => modInst_inst_other _ _ _ _ hne⟩
  case q2 =>
    intro i a n win legal taken
    have takes : ∀ {t : State}, s.writeQ2 g v = .ok t → t.mem = s.mem → taken (t.inst g) := fun {t} ht hm =>
      ⟨_, writeDst_q2_takes hq ht late, hm, sink_inst ..⟩
    refine ⟨fun hpos => ?control, fun hpos => ?address, fun hpos => ?operand⟩
    case control =>
      have hw := writeQ2_control s g v hpos
      refine ⟨fun hlegal => ?_, fun hillegal => ?_⟩
      · rw [if_pos ((controlOk_iff s g v).2 hlegal)] at hw
        simpa using takes hw rfl
      · rw [if_neg fun h => hillegal ((controlOk_iff s g v).1 h)] at hw
        exact writeDst_q2_traps hq hw late
    case address =>
      have hw := writeQ2_address s g v hpos
      refine ⟨fun hmis => ?_, fun hal c hc => ?_, fun hal pa hpa => ?_⟩
      · rw [if_pos hmis] at hw
        exact writeDst_q2_traps hq hw late
      · rw [if_neg (not_not.2 hal), hc] at hw
        exact writeDst_q2_traps hq hw late
      · rw [if_neg (not_not.2 hal), hpa] at hw
        have hbare := fillTlb_bare s g (s.ctxOf g) v.toNat
        have htaken := takes hw ((modInst_mem ..).trans (bare_mem hbare))
        rwa [modInst_inst, bare_inst hbare] at htaken
    case operand =>
      have hw := writeQ2_operand s g v hpos
      intro shut
      have hopen : ¬shut → (!(s.inst g).asm.ctl.getLsbD 5 || s.windowOpenFor g (bits (s.inst g).asm.ctl.toNat 11 6)) = true := fun hno => by
        have hwin : bits (s.inst g).asm.ctl.toNat 11 6 = (s.inst g).asm.ctl.toNat / 64 % 64 := rfl
        rw [hwin]
        cases hdet : (s.inst g).asm.ctl.getLsbD 5
        · rfl
        · exact eq_true_of_ne_false fun hclosed => hno ⟨hdet, hclosed⟩
      refine ⟨fun hshut => ?_, fun hno hfull => ?_, fun hno hroom => ?_⟩
      · obtain ⟨hdet, hclosed⟩ := hshut
        have hbad : (!(s.inst g).asm.ctl.getLsbD 5 || s.windowOpenFor g (bits (s.inst g).asm.ctl.toNat 11 6)) = false := by
          rw [hdet]
          exact hclosed
        rw [hbad, if_neg Bool.false_ne_true] at hw
        exact writeDst_q2_traps hq hw late
      · rw [if_pos (hopen hno), if_neg (Nat.not_lt.2 hfull)] at hw
        exact writeDst_q2_waits hq hw late
      · rw [if_pos (hopen hno), if_pos hroom] at hw
        have htaken := takes hw (sequenced_mem s g)
        rw [modInst_inst, sequenced_inst, sequenced_fst] at htaken
        exact htaken

end Sys2Proof.Machine
end

section
/-! What an SCU word that does not trap leaves unchanged (04 R108, R109, R115, R118, 05 R151, R152, R155). The relations `Inst.Frame` and
`State.Frame` say what the pops of some registers and the writes of others may change; every part of a word's run keeps within them. -/

namespace Sys2Proof.Machine

open Host

-- The frame of an instance.

/-- The parts of an instance that no word of the scalar frame changes. -/
def Inst.steady (i : Inst) :=
  (i.tokens, i.v, i.k, i.flags, i.trapMask, i.vq, i.tiles, i.mdq, i.z, i.rest)

/-- From i to j only queues that `srcs` names are popped, and only registers and queues of `ws` are written. -/
structure Inst.Frame (srcs ws : List SReg) (i j : Inst) : Prop where
  regs : ∀ r : SReg, (h : r.val < 48) → r ∉ ws → j.s[r.val] = i.s[r.val]
  popped : ∀ q : Fin 16, (∀ r ∈ srcs, queueNo r ≠ some q) → j.qr[q] = i.qr[q]
  pushed : ∀ q : Fin 16, (∀ r ∈ ws, queueNo r ≠ some q) → j.qw[q] = i.qw[q]
  steady : j.steady = i.steady

/-- Such a change in which the branch whose slot executes and the system registers stay too. -/
structure Inst.Passes (srcs ws : List SReg) (i j : Inst) : Prop extends Inst.Frame srcs ws i j where
  slot : j.slot = i.slot
  sys : j.sys = i.sys

section
variable {srcs ws : List SReg} {i j k : Inst}

theorem Inst.Frame.of_same (hs : j.s = i.s) (hqr : j.qr = i.qr) (hqw : j.qw = i.qw) (hsteady : j.steady = i.steady) :
    Inst.Frame srcs ws i j :=
  ⟨fun r h _ => by rw [hs], fun q _ => by rw [hqr], fun q _ => by rw [hqw], hsteady⟩

theorem Inst.Frame.trans (h : Inst.Frame srcs ws i j) (h' : Inst.Frame srcs ws j k) : Inst.Frame srcs ws i k :=
  ⟨fun r hr hn => (h'.regs r hr hn).trans (h.regs r hr hn), fun q hq => (h'.popped q hq).trans (h.popped q hq),
    fun q hq => (h'.pushed q hq).trans (h.pushed q hq), h'.steady.trans h.steady⟩

theorem Inst.Passes.refl (i : Inst) : Inst.Passes srcs ws i i := ⟨.of_same rfl rfl rfl rfl, rfl, rfl⟩

theorem Inst.Passes.trans (h : Inst.Passes srcs ws i j) (h' : Inst.Passes srcs ws j k) : Inst.Passes srcs ws i k :=
  ⟨h.toFrame.trans h'.toFrame, h'.slot.trans h.slot, h'.sys.trans h.sys⟩

end

theorem writeReg_passes {ws : List SReg} (srcs : List SReg) {r : SReg} (hr : r ∈ ws) (i : Inst) (v : Word) :
    Inst.Passes srcs ws i (i.writeReg r v) := by
  unfold Inst.writeReg
  split
  · refine ⟨⟨fun x hx hn => ?_, fun _ _ => rfl, fun _ _ => rfl, rfl⟩, rfl, rfl⟩
    have hne : r.val ≠ x.val := fun h => hn (Fin.ext h ▸ hr)
    simp [hne]
  · exact Inst.Passes.refl i

theorem setQr_frame {srcs ws : List SReg} {i j : Inst} {q : Fin 16} {w : List Word} (hq : ∃ r ∈ srcs, queueNo r = some q)
    (hs : j.s = i.s) (hqr : j.qr = i.qr.set q w) (hqw : j.qw = i.qw) (hsteady : j.steady = i.steady) : Inst.Frame srcs ws i j := by
  obtain ⟨r, hr, hn⟩ := hq
  refine ⟨fun x hx _ => by rw [hs], fun p hp => ?_, fun p _ => by rw [hqw], hsteady⟩
  have hne : p ≠ q := fun h => hp r hr (hn.trans (congrArg some h.symm))
  rw [hqr]
  exact vector_set_other i.qr hne w

theorem flushQ3_passes {srcs : List SReg} (ws : List SReg) (h3 : ∃ r ∈ srcs, queueNo r = some 3) (n : Nat) (i : Inst) :
    Inst.Passes srcs ws i (i.flushQ3 n) := by
  induction n generalizing i with
  | zero => exact Inst.Passes.refl i
  | succ n ih =>
    unfold Inst.flushQ3
    split
    · split
      · refine Inst.Passes.trans ?_ (ih _)
        exact ⟨setQr_frame h3 rfl rfl rfl rfl, rfl, rfl⟩
      · exact Inst.Passes.refl i
    · exact Inst.Passes.refl i

theorem popQ_passes {srcs : List SReg} (ws : List SReg) {r : SReg} (hr : r ∈ srcs) (i : Inst) : Inst.Passes srcs ws i (i.popQ r) := by
  unfold Inst.popQ
  split
  · exact Inst.Passes.refl i
  · next q hq =>
    have hnamed : ∃ x ∈ srcs, queueNo x = some q := ⟨r, hr, hq⟩
    split
    · next h => exact ⟨setQr_frame (h ▸ hnamed) rfl rfl rfl rfl, rfl, rfl⟩
    · split
      · next h => exact ⟨setQr_frame (h ▸ hnamed) rfl rfl rfl rfl, rfl, rfl⟩
      · split
        · exact ⟨.of_same rfl rfl rfl rfl, rfl, rfl⟩
        · split
          · next h =>
            refine Inst.Passes.trans ?_ (flushQ3_passes ws (h ▸ hnamed) 1 _)
            exact ⟨setQr_frame (h ▸ hnamed) rfl rfl rfl rfl, rfl, rfl⟩
          · exact ⟨setQr_frame hnamed rfl rfl rfl rfl, rfl, rfl⟩

theorem popQs_passes {srcs : List SReg} (ws : List SReg) {l : List SReg} (h : ∀ r ∈ l, r ∈ srcs) (i : Inst) :
    Inst.Passes srcs ws i (l.foldl Inst.popQ i) := by
  induction l generalizing i with
  | nil => exact Inst.Passes.refl i
  | cons r l ih => exact (popQ_passes ws (h r List.mem_cons_self) i).trans (ih (fun x hx => h x (List.mem_cons_of_mem _ hx)) _)

/-- Retirement changes the stream, and writes the link of the branch that it completes (04 R118). -/
theorem retireScu_parts (i : Inst) (cur : Cur) (len : Nat) :
    ∃ st o, i.retireScu cur len = ({ i with scu := st, slot := o } : Inst).putLink (i.slot.bind (·.link)) := by
  unfold Inst.retireScu
  cases i.slot with
  | none =>
    dsimp only
    split
    · exact ⟨_, _, rfl⟩
    · exact ⟨_, _, rfl⟩
  | some b => exact ⟨_, none, by cases hlink : b.link <;> simp only [Option.bind_some, hlink, Inst.putLink] <;> rfl⟩

theorem retireScu_frame {ws : List SReg} (srcs : List SReg) {i : Inst} (h : ∀ l ∈ i.slot.bind (·.link), l.1 ∈ ws) (cur : Cur) (len : Nat) :
    Inst.Frame srcs ws i (i.retireScu cur len) := by
  obtain ⟨st, o, hst⟩ := retireScu_parts i cur len
  have hstream : Inst.Frame srcs ws i { i with scu := st, slot := o } := .of_same rfl rfl rfl rfl
  rw [hst]
  cases hlink : i.slot.bind (·.link) with
  | none => exact hstream
  | some l => exact hstream.trans (writeReg_passes srcs (h l hlink) _ _).toFrame

theorem retireTo_passes (srcs ws : List SReg) (i : Inst) (cur : Cur) (pc : Nat) (l : List LoopFrame) :
    Inst.Passes srcs ws i (i.retireTo cur pc l) := ⟨.of_same rfl rfl rfl rfl, rfl, rfl⟩

-- The frame of a state.

/-- The frame of the instance on core g; an instance on another core changes only where a mesh port of `ws` leads to it. -/
structure State.Frame (g : CoreNo) (srcs ws : List SReg) (s t : State) : Prop where
  inst : Inst.Frame srcs ws (s.inst g) (t.inst g)
  others : ∀ h : CoreNo, h ≠ g → (∀ r ∈ ws, ∀ q, queueNo r = some q → neighbour g q ≠ some h) → t.inst h = s.inst h

/-- Such a change in which the branch whose slot executes, the system registers and memory stay too. -/
structure State.Passes (g : CoreNo) (srcs ws : List SReg) (s t : State) : Prop where
  inst : Inst.Passes srcs ws (s.inst g) (t.inst g)
  others : ∀ h : CoreNo, h ≠ g → (∀ r ∈ ws, ∀ q, queueNo r = some q → neighbour g q ≠ some h) → t.inst h = s.inst h
  mem : t.mem = s.mem

section
variable {g : CoreNo} {srcs ws : List SReg} {s t u : State}

theorem State.Frame.trans (h : State.Frame g srcs ws s t) (h' : State.Frame g srcs ws t u) : State.Frame g srcs ws s u :=
  ⟨h.inst.trans h'.inst, fun k hk hn => (h'.others k hk hn).trans (h.others k hk hn)⟩

theorem State.Frame.of_inst (h : ∀ k, t.inst k = s.inst k) : State.Frame g srcs ws s t :=
  ⟨h g ▸ (Inst.Passes.refl _).toFrame, fun k _ _ => h k⟩

theorem State.Frame.of_modInst {f : Inst → Inst} (h : Inst.Frame srcs ws (s.inst g) (f (s.inst g))) :
    State.Frame g srcs ws s (s.modInst g f) :=
  ⟨by rw [modInst_inst]; exact h, fun k hk _ => modInst_inst_other _ _ _ _ hk⟩

theorem State.Passes.frame (h : State.Passes g srcs ws s t) : State.Frame g srcs ws s t := ⟨h.inst.toFrame, h.others⟩

theorem State.Passes.trans (h : State.Passes g srcs ws s t) (h' : State.Passes g srcs ws t u) : State.Passes g srcs ws s u :=
  ⟨h.inst.trans h'.inst, (h.frame.trans h'.frame).others, h'.mem.trans h.mem⟩

theorem State.Passes.of_inst (h : ∀ k, t.inst k = s.inst k) (hm : t.mem = s.mem) : State.Passes g srcs ws s t :=
  ⟨h g ▸ Inst.Passes.refl _, fun k _ _ => h k, hm⟩

theorem State.Passes.refl (s : State) : State.Passes g srcs ws s s := .of_inst (fun _ => rfl) rfl

theorem State.Passes.of_bare (h : t.bareTlb = s.bareTlb) : State.Passes g srcs ws s t := .of_inst (bare_inst h) (bare_mem h)

theorem State.Passes.of_modInst {f : Inst → Inst} (h : Inst.Passes srcs ws (s.inst g) (f (s.inst g))) :
    State.Passes g srcs ws s (s.modInst g f) :=
  ⟨by rw [modInst_inst]; exact h, fun k hk _ => modInst_inst_other _ _ _ _ hk, rfl⟩

theorem State.Passes.sink (h : State.Passes g srcs ws s t) (k : CoreNo) : State.Passes g srcs ws s (t.sink k) :=
  h.trans (.of_inst (fun _ => sink_inst ..) rfl)

end

-- The parts of a run.

theorem popAll_passes (ws : List SReg) (s : State) (g : CoreNo) (srcs : List SReg) : State.Passes g srcs ws s (s.popAll g srcs) := by
  unfold State.popAll
  dsimp only
  split
  · exact State.Passes.refl s
  · exact (State.Passes.of_modInst (popQs_passes ws (fun r hr => List.mem_eraseDups.1 (List.mem_filter.1 hr).1) _)).sink g

theorem writeQ2_passes (srcs ws : List SReg) (s : State) (g : CoreNo) (v : Word) :
    Within (State.Passes g srcs ws s) (s.writeQ2 g v) := by
  have hsame : ∀ (i : Inst) (a : Assembly) (l : List AtomicCmd), Inst.Passes srcs ws i { i with asm := a, q2w := l } :=
    fun i a l => ⟨.of_same rfl rfl rfl rfl, rfl, rfl⟩
  unfold State.writeQ2
  dsimp only
  split
  · exact Within.then fun _ => Within.ok (.of_modInst (hsame _ _ _))
  · split
    · refine Within.ite (Within.error _) ?_
      split
      · exact Within.error _
      · exact Within.ok ((State.Passes.of_bare (fillTlb_bare ..)).trans (.of_modInst (hsame _ _ _)))
    · refine Within.then fun _ => Within.then fun _ => Within.ok (State.Passes.trans ?_ (.of_modInst (hsame _ _ _)))
      exact State.Passes.of_inst (sequenced_inst s g) (sequenced_mem s g)

theorem neighbour_ne {g h : CoreNo} {port : Nat} (hn : neighbour g port = some h) : h ≠ g := by
  rintro rfl
  unfold neighbour at hn
  dsimp only at hn
  split_ifs at hn <;> simp only [Option.some.injEq, Fin.ext_iff] at hn <;> omega

theorem pushRaw_passes {ws : List SReg} (srcs : List SReg) {d : SReg} (hd : d ∈ ws) {q : Fin 16} (hq : queueNo d = some q) (s : State)
    (g : CoreNo) (v : Word) : State.Passes g srcs ws s (s.pushRaw g q v) := by
  by_cases h12 : q.val < 12
  · rw [pushRaw_queue h12]
    refine State.Passes.of_modInst ⟨⟨fun _ _ _ => rfl, fun _ _ => rfl, fun p hp => ?_, rfl⟩, rfl, rfl⟩
    exact vector_set_other _ (fun h => hp d hd (hq.trans (congrArg some h.symm))) _
  · cases hn : neighbour g q with
    | none => rw [State.pushRaw, if_neg h12, hn]; exact State.Passes.refl s
    | some h =>
      rw [pushRaw_port (by omega) hn]
      have hg : ∀ f, (s.modInst h f).inst g = s.inst g := fun f => modInst_inst_other _ _ _ _ (neighbour_ne hn).symm
      refine ⟨hg _ ▸ Inst.Passes.refl _, fun k _ hk => modInst_inst_other _ _ _ _ fun e => ?_, rfl⟩
      exact hk d hd q hq (e ▸ hn)

theorem writeDst_passes {ws : List SReg} (srcs : List SReg) {d : SReg} (hd : d ∈ ws) (s : State) (g : CoreNo) (late : Bool) (v : Word) :
    Within (State.Passes g srcs ws s) (s.writeDst g late d v) := by
  unfold State.writeDst
  split
  · exact Within.ok (.of_modInst (writeReg_passes srcs hd _ v))
  · next q hq =>
    split
    · exact Within.map (Within.q2 ((writeQ2_passes srcs ws s g v).imp fun t h => h.sink g))
    · exact Within.then fun _ => Within.then fun _ => Within.ok ((pushRaw_passes srcs hd hq s g v).sink g)

theorem writeOpt_passes {ws : List SReg} (srcs : List SReg) {dst : Option SReg} (hd : ∀ d ∈ dst, d ∈ ws) (s : State) (g : CoreNo)
    (late : Bool) (v : Word) : Within (State.Passes g srcs ws s) (s.writeOpt g late dst v) := by
  cases dst with
  | none => exact Within.ok (State.Passes.refl s)
  | some d => exact writeDst_passes srcs (hd d rfl) s g late v

theorem mem_scuWrites_dst {s : State} {d : SReg} {dst : Option SReg} (h : d ∈ dst) : d ∈ s.scuWrites dst :=
  List.mem_append_left _ (Option.mem_toList.2 h)

theorem mem_scuWrites_link {s : State} {l : SReg × Word} (h : l ∈ (s.inst s.cur.core).slot.bind (·.link)) (dst : Option SReg) :
    l.1 ∈ s.scuWrites dst := by
  obtain ⟨b, hb, hl⟩ := Option.bind_eq_some_iff.1 h
  refine List.mem_append_right _ ?_
  rw [hb]
  exact List.mem_map_of_mem (Option.mem_toList.2 hl)

theorem pushLink_passes (srcs : List SReg) (dst : Option SReg) (s : State) :
    State.Passes s.cur.core srcs (s.scuWrites dst) s (s.pushLink s.cur.core) := by
  unfold State.pushLink
  split
  · next b hb =>
    split
    · next r v hl =>
      have hr : r ∈ s.scuWrites dst := mem_scuWrites_link (l := (r, v)) (by rw [hb]; exact hl) dst
      split
      · exact Within.getD (writeDst_passes srcs hr s _ _ _) (State.Passes.refl s)
      · exact State.Passes.refl s
    · exact State.Passes.refl s
  · exact State.Passes.refl s

/-- What a run leaves of the state that its effect has led to. -/
theorem scuDone_frame {s r : State} (hslot : (r.inst s.cur.core).slot = (s.inst s.cur.core).slot) (srcs : List SReg) (dst : Option SReg)
    (v : Word) : Within (fun t => State.Frame s.cur.core srcs (s.scuWrites dst) r t ∧
      (t.inst s.cur.core).sys = (r.inst s.cur.core).sys ∧ t.mem = r.mem) (s.scuDone r srcs dst v) := by
  have hpop := popAll_passes (s.scuWrites dst) r s.cur.core srcs
  refine Within.map ((writeOpt_passes (ws := s.scuWrites dst) srcs (fun d hd => mem_scuWrites_dst hd) _ _ _ v).imp fun u hw => ?_)
  have hu := hpop.trans hw
  refine ⟨hu.frame.trans (.of_modInst (retireScu_frame srcs (fun l hl => ?_) _ _)), ?_, hu.mem⟩
  · rw [hu.inst.slot, hslot] at hl
    exact mem_scuWrites_link hl dst
  · rw [modInst_inst, retireScu_sys, hu.inst.sys]

-- How a word ends that does not trap.

theorem settle_next {s t : State} {r : Res State} (h : settle s r = .next t) (hno : ¬s.trapped t) : t = s ∨ r = .ok t := by
  unfold settle at h
  split at h
  · cases h; exact .inr rfl
  · cases h; exact absurd ⟨_, _, false, none, none, rfl⟩ hno
  · cases h; exact absurd ⟨_, _, false, none, none, rfl⟩ hno
  · cases h; exact absurd ⟨_, _, true, none, none, rfl⟩ hno
  · cases h; exact .inl rfl

theorem noSlot_next {s t : State} {k : Outcome State Fault Refusal} (h : noSlot s k = .next t) (hno : ¬s.trapped t) : k = .next t := by
  unfold noSlot at h
  split at h
  · cases h; exact absurd ⟨_, _, false, none, none, rfl⟩ hno
  · exact h

/-- A run has waited, or its effect has led to a state that it completes. -/
theorem scuRun_next {s t : State} {srcs : List SReg} {dst : Option SReg} {pre : Res Unit} {f : State → List Word → Res (State × Word)}
    (h : scuRun s srcs dst pre f = .next t) (hno : ¬s.trapped t) :
    t = s ∨ ∃ r, f (s.pushLink s.cur.core) (srcs.map (s.readS s.cur.core)) = .ok r ∧ s.scuDone r.1 srcs dst r.2 = .ok t := by
  refine (settle_next h hno).imp_right fun hr => ?_
  revert hr
  refine (?_ : Within (fun t => ∃ r, f (s.pushLink s.cur.core) (srcs.map (s.readS s.cur.core)) = .ok r ∧
    s.scuDone r.1 srcs dst r.2 = .ok t) _) t
  refine Within.then fun _ => Within.then fun _ => Within.then fun _ => Within.then fun _ => Within.then fun _ =>
    Within.bind (Within.late _ fun r hr => hr) fun r hr => ?_
  intro t ht
  refine ⟨r, hr, ?_⟩
  rw [← ht]
  cases dst <;> rfl

/-- Memory m holds what it held in s but for the bytes that the word stores. -/
def StoresOnly (i : Instr) (s : State) (m : Bytes) : Prop :=
  ∀ b, (∀ ea n need pa, scuStoreAt s i = some (ea, n, need) →
    (s.pushLink s.cur.core).translate (some s.cur.core) ((s.pushLink s.cur.core).ctxOf s.cur.core) ea.toNat need = .ok pa →
      b < pa ∨ pa + n ≤ b) → m.get b = s.mem.get b

/-- What the scalar frame says of a word. -/
structure Framed (i : Instr) (srcs : List SReg) (dst : Option SReg) (s t : State) : Prop where
  frame : State.Frame s.cur.core srcs (s.scuWrites dst) s t
  sys : (t.inst s.cur.core).sys = (s.inst s.cur.core).sys ∨ ∃ a n, i = .csrw a n ∧ (t.inst s.cur.core).sys =
    if s.cur.fw then (s.inst s.cur.core).sys.fwWrite n.val (s.readS s.cur.core a)
    else (s.inst s.cur.core).sys.write n.val (s.readS s.cur.core a)
  mem : StoresOnly i s t.mem

theorem StoresOnly.of_eq {i : Instr} {s : State} {m : Bytes} (h : m = s.mem) : StoresOnly i s m := fun _ _ => by rw [h]

theorem StoresOnly.of_put {i : Instr} {s : State} {ea : Word} {n pa : Nat} {need : Need} {bs : List Byte}
    (hat : scuStoreAt s i = some (ea, n, need)) (hpa : (s.pushLink s.cur.core).translate (some s.cur.core)
      ((s.pushLink s.cur.core).ctxOf s.cur.core) ea.toNat need = .ok pa) (hbs : bs.length = n) :
    StoresOnly i s (s.mem.put pa bs) := fun _ hb =>
  get_put_out _ _ _ _ (hbs.symm ▸ hb ea n need pa hat hpa)

theorem Framed.of_passes {i : Instr} {srcs : List SReg} {dst : Option SReg} {s t : State}
    (h : State.Passes s.cur.core srcs (s.scuWrites dst) s t) : Framed i srcs dst s t :=
  ⟨h.frame, .inl h.inst.sys, .of_eq h.mem⟩

/-- A run whose effect leaves the instances as they are, and memory but for what the word stores. -/
theorem scuRun_framed {i : Instr} {s t : State} {srcs : List SReg} {dst : Option SReg} {pre : Res Unit}
    {f : State → List Word → Res (State × Word)} (h : scuRun s srcs dst pre f = .next t) (hno : ¬s.trapped t)
    (heff : Within (fun r => (∀ k, r.1.inst k = (s.pushLink s.cur.core).inst k) ∧ StoresOnly i s r.1.mem)
      (f (s.pushLink s.cur.core) (srcs.map (s.readS s.cur.core)))) : Framed i srcs dst s t := by
  obtain rfl | ⟨r, hf, hdone⟩ := scuRun_next h hno
  · exact .of_passes (State.Passes.refl _)
  · obtain ⟨hinst, hstores⟩ := heff r hf
    have hlink := pushLink_passes srcs dst s
    obtain ⟨hframe, hsys, hmem⟩ := scuDone_frame (by rw [hinst, hlink.inst.slot]) srcs dst r.2 t hdone
    exact ⟨(hlink.frame.trans (.of_inst hinst)).trans hframe, .inl (by rw [hsys, hinst, hlink.inst.sys]), hmem ▸ hstores⟩

-- The effects of the words.

section
variable {i : Instr} {s t : State} {srcs : List SReg} {dst : Option SReg}

/-- An effect that at most notes an access. -/
theorem noted_effect {u : State} (h : u.bareTlb = (s.pushLink s.cur.core).bareTlb) :
    (∀ k, u.inst k = (s.pushLink s.cur.core).inst k) ∧ StoresOnly i s u.mem :=
  ⟨bare_inst h, .of_eq ((bare_mem h).trans (pushLink_passes [] none s).mem)⟩

theorem scalarAddr_translate (s : State) (g : CoreNo) (ea : Word) (n : Nat) (need : Need) :
    Within (fun pa => s.translate (some g) (s.ctxOf g) ea.toNat need = .ok pa) (s.scalarAddr g ea n need) := by
  unfold State.scalarAddr
  refine Within.ite (Within.error _) ?_
  split
  · exact Within.error _
  · next pa hpa => exact Within.ite (Within.error _) (Within.ok hpa)

theorem scalarLoad_bare (s : State) (g : CoreNo) (ea : Word) (n : Nat) :
    Within (fun r => r.1.bareTlb = s.bareTlb) (s.scalarLoad g ea n) := by
  unfold State.scalarLoad
  split
  · exact Within.error _
  · exact Within.ok (noteAccess_bare ..)

theorem branch_framed {target : List Word → Int} {cond : List Word → Bool} (h : branch s srcs dst target cond = .next t)
    (hno : ¬s.trapped t) : Framed i srcs dst s t := by
  obtain rfl | hr := settle_next (noSlot_next h hno) hno
  · exact .of_passes (State.Passes.refl _)
  · revert hr
    refine (?_ : Within (Framed i srcs dst s) _) t
    have hpop := popAll_passes (s.scuWrites dst) s s.cur.core srcs
    have hissue : ∀ f : Inst → Inst, (∀ j, Inst.Frame srcs (s.scuWrites dst) j (f j) ∧ (f j).sys = j.sys) →
        Framed i srcs dst s ((s.popAll s.cur.core srcs).modInst s.cur.core f) := fun f hf =>
      ⟨hpop.frame.trans (.of_modInst (hf _).1), .inl (by rw [modInst_inst, (hf _).2, hpop.inst.sys]), .of_eq hpop.mem⟩
    refine Within.then fun _ => Within.then fun _ => Within.then fun _ => Within.then fun _ => Within.then fun _ =>
      Within.then fun _ => ?_
    cases dst with
    | none => exact Within.ok (hissue _ fun j => ⟨.of_same rfl rfl rfl rfl, rfl⟩)
    | some d => exact Within.then fun _ => Within.ok (hissue _ fun j => ⟨.of_same rfl rfl rfl rfl, rfl⟩)

theorem scuLoop_framed {a : SReg} {l : Fin 16384} (h : execScuLoop a l s = .next t) (hno : ¬s.trapped t) :
    Framed i [a] none s t := by
  obtain rfl | hr := settle_next (noSlot_next h hno) hno
  · exact .of_passes (State.Passes.refl _)
  · revert hr
    refine (?_ : Within (Framed i [a] none s) _) t
    refine Within.then fun _ => Within.then fun _ => Within.then fun _ => Within.ok (.of_passes ?_)
    exact (popAll_passes _ _ _ _).trans (.of_modInst (retireTo_passes ..))

theorem wmonRead_bare (s : State) (g : CoreNo) (addr b : Word) (w : Bool) (c : WCond) :
    Within (fun r => r.1.bareTlb = s.bareTlb) (s.wmonRead g addr b w c) := Within.map (scalarLoad_bare s g addr _)

theorem wmon_framed {d a b : SReg} {w : Bool} {c : WCond} (h : execWmon d a b w c s = .next t) (hno : ¬s.trapped t) :
    Framed i [a, b] (some d) s t := by
  obtain rfl | hr := settle_next (noSlot_next h hno) hno
  · exact .of_passes (State.Passes.refl _)
  · revert hr
    refine (?_ : Within (Framed i [a, b] (some d) s) _) t
    refine Within.then fun _ => ?_
    have hread : ∀ r : State × Option Word, r.1.bareTlb = s.bareTlb → ∀ m,
        Within (Framed i [a, b] (some d) s) (match r.2 with
          | some v => (r.1.popAll s.cur.core [a, b]).wmonDone s.cur.core s.cur d v
          | none => .ok ((r.1.popAll s.cur.core [a, b]).modInst s.cur.core fun j =>
              { j with wmon := some m, scu := { j.scu with held := j.handler && j.scu.held } })) := by
      intro r hr m
      have hpop : State.Passes s.cur.core [a, b] (s.scuWrites (some d)) s (r.1.popAll s.cur.core [a, b]) :=
        (State.Passes.of_bare hr).trans (popAll_passes _ _ _ _)
      split
      · refine Within.map ((writeDst_passes (ws := s.scuWrites (some d)) [a, b] (mem_scuWrites_dst rfl) _ _ _ _).imp fun u hu => .of_passes ?_)
        exact (hpop.trans hu).trans (.of_modInst (retireTo_passes ..))
      · exact Within.ok (.of_passes (hpop.trans (.of_modInst ⟨.of_same rfl rfl rfl rfl, rfl, rfl⟩)))
    split
    · refine Within.then fun _ => Within.then fun _ => Within.then fun _ => ?_
      exact Within.bind (Within.late _ (wmonRead_bare s _ _ _ w c)) fun r hr => hread r hr _
    · refine Within.then fun _ => Within.then fun _ => ?_
      exact Within.bind (Within.late _ (wmonRead_bare s _ _ _ w c)) fun r hr => hread r hr _

theorem csrr_framed {d : SReg} {n : Fin 16384} (h : execCsrr d n s = .next t) (hno : ¬s.trapped t) :
    Framed i [] (some d) s t := by
  unfold execCsrr at h
  exact scuRun_framed h hno (Within.ok (noted_effect rfl))

theorem scuRule_framed {d : SReg} {rule : Word → Word → Word} (h : scuRule s srcs d rule = .next t) (hno : ¬s.trapped t) :
    Framed i srcs (some d) s t := scuRun_framed h hno (Within.ok (noted_effect rfl))

theorem scuLoadRule_framed {d a : SReg} {imm : BitVec 14} {n : Nat} {signed : Bool} (h : scuLoadRule s d a imm n signed = .next t)
    (hno : ¬s.trapped t) : Framed i [a] (some d) s t :=
  scuRun_framed h hno (Within.map ((scalarLoad_bare _ _ _ _).imp fun _ hr => noted_effect hr))

-- Stores and atomic operations.

/-- An effect that writes the bytes at the word's own address. -/
theorem stored_effect {u : State} {ea : Word} {n pa : Nat} {need : Need} {bs : List Byte} (hat : scuStoreAt s i = some (ea, n, need))
    (hpa : (s.pushLink s.cur.core).scalarAddr s.cur.core ea n need = .ok pa) (hbs : bs.length = n)
    (hinst : ∀ k, u.inst k = (s.pushLink s.cur.core).inst k) (hmem : u.mem = (s.pushLink s.cur.core).mem.put pa bs) :
    (∀ k, u.inst k = (s.pushLink s.cur.core).inst k) ∧ StoresOnly i s u.mem := by
  refine ⟨hinst, ?_⟩
  rw [hmem, (pushLink_passes [] none s).mem]
  exact .of_put hat (scalarAddr_translate _ _ _ _ _ pa hpa) hbs

theorem scuStoreRule_framed {d a : SReg} {imm : BitVec 14} {n : Nat}
    (hat : scuStoreAt s i = some (effective (s.readS s.cur.core a) imm, n, .write))
    (h : scuStoreRule s d a imm n = .next t) (hno : ¬s.trapped t) : Framed i [a, d] none s t := by
  refine scuRun_framed h hno (Within.map ?_)
  unfold State.scalarStore
  split
  · exact Within.error _
  · next pa hpa =>
    refine Within.ok (stored_effect hat hpa (leBytes_length n (s.readS s.cur.core d).toNat) (fun k => ?_) ?_)
    · exact (sink_inst ..).trans (bare_inst (noteAccess_bare ..) k)
    · exact bare_mem (noteAccess_bare ..)

theorem atomApply_inst (s : State) (g : CoreNo) (va pa : Nat) (d : Fin 8) (op : AmoOp) (w : Bool) (x : Word) (k : CoreNo) :
    (s.atomApply g va pa d op w x).2.inst k = s.inst k := (sink_inst ..).trans (bare_inst (noteAccess_bare ..) k)

/-- The word that an atomic operation writes over the one that it reads (14 R380). -/
theorem atomApply_mem (s : State) (g : CoreNo) (va pa : Nat) (d : Fin 8) (op : AmoOp) (w : Bool) (x : Word) :
    (s.atomApply g va pa d op w x).2.mem =
      s.mem.put pa (leBytes (atomBytes w) (newValue op w (leNat (s.mem.read pa (atomBytes w))) x.toNat)) :=
  bare_mem (noteAccess_bare ..)

theorem amo_framed {d a b : SReg} {o : AmoOrder} {w : Bool} {c : AmoOp} (h : execAmo d a b o w c s = .next t) (hno : ¬s.trapped t) :
    Framed (.amo d a b o w c) [a, b] (some d) s t := by
  unfold execAmo at h
  refine scuRun_framed h hno (Within.map fun pa hpa => ?_)
  exact stored_effect rfl hpa (leBytes_length _ _) (atomApply_inst _ _ _ _ _ _ _ _) (atomApply_mem _ _ _ _ _ _ _ _)

theorem cas_framed {d a b : SReg} {o : AmoOrder} {w : Bool} (h : execCas d a b o w s = .next t) (hno : ¬s.trapped t) :
    Framed (.cas d a b o w) [a, b, d] (some d) s t := by
  unfold execCas at h
  refine scuRun_framed h hno (Within.map fun pa hpa => ?_)
  dsimp only
  split
  · exact stored_effect rfl hpa (leBytes_length _ _) (atomApply_inst _ _ _ _ _ _ _ _) (atomApply_mem _ _ _ _ _ _ _ _)
  · exact noted_effect (noteAccess_bare ..)

-- System registers.

/-- A run whose effect writes a system register of the instance, or one that the instance does not hold. -/
theorem sysRun_framed {a : SReg} {n : Fin 16384} {pre : Res Unit} {f : State → List Word → Res (State × Word)}
    {put : SysRegs → SysRegs} (hput : ∀ y, put y = if s.cur.fw then y.fwWrite n.val (s.readS s.cur.core a)
      else y.write n.val (s.readS s.cur.core a))
    (heff : Within (fun r => r.1.mem = (s.pushLink s.cur.core).mem ∧ ((∀ k, r.1.inst k = (s.pushLink s.cur.core).inst k) ∨
      r.1 = (s.pushLink s.cur.core).modInst s.cur.core fun j => j.modSys put))
      (f (s.pushLink s.cur.core) ([a].map (s.readS s.cur.core))))
    (h : scuRun s [a] none pre f = .next t) (hno : ¬s.trapped t) : Framed (.csrw a n) [a] none s t := by
  obtain rfl | ⟨r, hf, hdone⟩ := scuRun_next h hno
  · exact .of_passes (State.Passes.refl _)
  have hlink := pushLink_passes [a] none s
  obtain ⟨hmem, hinst | hsys⟩ := heff r hf
  · exact scuRun_framed h hno fun x hx => by
      obtain rfl : r = x := Except.ok.inj (hf.symm.trans hx)
      exact ⟨hinst, .of_eq (hmem.trans hlink.mem)⟩
  · have hr : r.1.inst s.cur.core = ((s.pushLink s.cur.core).inst s.cur.core).modSys put := by rw [hsys, modInst_inst]
    have heffect : State.Frame s.cur.core [a] (s.scuWrites none) (s.pushLink s.cur.core) r.1 :=
      hsys ▸ .of_modInst (.of_same rfl rfl rfl rfl)
    obtain ⟨hframe, hsysT, hmemT⟩ := scuDone_frame (hr ▸ hlink.inst.slot) [a] none r.2 t hdone
    refine ⟨(hlink.frame.trans heffect).trans hframe, .inr ⟨a, n, rfl, ?_⟩, .of_eq ((hmemT.trans hmem).trans hlink.mem)⟩
    rw [hsysT, hr, ← hput, ← hlink.inst.sys]
    rfl

/-- Firmware's write of a system register writes that register of the instance, but for RUNG, which the core holds (00 R7). -/
theorem fwWrite_effect (n : Nat) (v : Word) (s : State) (g : CoreNo) : Within (fun u => u.mem = s.mem ∧
    ((∀ k, u.inst k = s.inst k) ∨ u = s.modInst g fun j => j.modSys fun y => y.fwWrite n v)) (s.fwWrite g n v) := by
  unfold State.fwWrite
  split
  · split
    · refine Within.then fun _ => Within.ok ⟨rfl, .inl fun k => ?_⟩
      by_cases hk : k = g
      · subst hk; simp [State.inst]
      · simp [State.inst, modCore_other _ _ _ _ hk]
    · exact Within.error _
  · exact Within.then fun _ => Within.ok ⟨rfl, .inr rfl⟩

theorem csrw_framed {a : SReg} {n : Fin 16384} (h : exec (.csrw a n) s = .next t) (hno : ¬s.trapped t) :
    Framed (.csrw a n) [a] none s t := by
  cases hfw : s.cur.fw with
  | true =>
    rw [exec_csrw_firmware hfw] at h
    exact sysRun_framed (fun y => (if_pos hfw).symm) (Within.map (fwWrite_effect _ _ _ _)) h hno
  | false =>
    rw [exec_csrw_user hfw] at h
    refine sysRun_framed (put := fun y => y.write n.val (s.readS s.cur.core a)) (fun y => (if_neg (Bool.eq_false_iff.1 hfw)).symm) ?_ h hno
    exact Within.ite (Within.ok ⟨rfl, .inr rfl⟩) (Within.error _)

end

-- The words of the frame.

theorem scuStoreAt_of_storeRule {i : Instr} {d a : SReg} {imm : BitVec 14} {n : Nat} (h : storeRule i = some (d, a, imm, n)) (s : State) :
    scuStoreAt s i = some (effective (s.readS s.cur.core a) imm, n, .write) := by
  cases i
  case stb | sth | stw | std => cases h; rfl
  all_goals cases h

theorem exec_framed {i : Instr} {s t : State} {srcs : List SReg} {dst : Option SReg} (hform : scuForm i = some (srcs, dst))
    (h : exec i s = .next t) (hno : ¬s.trapped t) : Framed i srcs dst s t := by
  unfold scuForm at hform
  split at hform
  case h_1 => cases hform; exact amo_framed ((exec_amo ..).symm.trans h) hno
  case h_2 => cases hform; exact cas_framed ((exec_cas ..).symm.trans h) hno
  case h_3 => cases hform; exact csrr_framed ((exec_csrr ..).symm.trans h) hno
  case h_4 => cases hform; exact csrw_framed h hno
  case h_5 => cases hform; exact wmon_framed ((exec_wmon ..).symm.trans h) hno
  case h_6 => cases hform; exact scuLoop_framed ((exec_scuLoop ..).symm.trans h) hno
  case h_7 =>
    split at hform
    case h_1 hrule => cases hform; exact scuRule_framed ((exec_of_scalarRule hrule s).symm.trans h) hno
    case h_2 hrule _ => cases hform; exact scuLoadRule_framed ((exec_of_loadRule hrule s).symm.trans h) hno
    case h_3 hrule _ _ =>
      cases hform
      exact scuStoreRule_framed (scuStoreAt_of_storeRule hrule s) ((exec_of_storeRule hrule s).symm.trans h) hno
    case h_4 hrule _ _ _ => cases hform; exact branch_framed ((exec_of_branchRule hrule s).symm.trans h) hno
    case h_5 => cases hform

/-- Settles O51: every word of the form keeps within the frame of its sources and of what it writes. -/
theorem scalarFrame : Obligations.ScalarFrame := by
  intro i s t srcs dst hform hexec hno g x y ws
  obtain ⟨⟨hinst, hothers⟩, hsys, hmem⟩ := exec_framed hform hexec hno
  have hsteady := hinst.steady
  simp only [Inst.steady, Prod.mk.injEq] at hsteady
  obtain ⟨htokens, hv, hk, hflags, htrapMask, hvq, htiles, hmdq, hz, hrest⟩ := hsteady
  refine ⟨fun r hr hn => ?_, hinst.popped, hinst.pushed, htokens, hv, hk, hflags, htrapMask, hvq, htiles, hmdq, hz, hrest, hsys, hothers,
    hmem⟩
  rw [readS_plain hr, readS_plain hr, hinst.regs r hr hn]

end Sys2Proof.Machine
end

section
/-! The steps that the queues, the helper, Larkspur, the copies, a waiting wmon and the atomic unit make of their own (05 R150, 12 R337 to
R355, 04 R131, 14 R382, R384, 18 R468, R469). -/

namespace Sys2Proof.Machine

open Host

-- Conversion stages (05 R150).

/-- Every doubleword of a splat holds its value, the lower half in the lower lane. -/
theorem splat64_eq (v : Word) : splat64 v = Vector.ofFn fun l : Fin 512 => BitVec.ofNat 32 (v.toNat / 2 ^ (32 * (l.val % 2))) := by
  refine congrArg Vector.ofFn (funext fun l => ?_)
  obtain h | h := Nat.mod_two_eq_zero_or_one l.val <;> simp [h]

theorem ofInt_baseOf (l : Lanes) : BitVec.ofInt 64 (baseOf l) = BitVec.ofNat 64 (l[0].toNat + l[1].toNat * 2 ^ 32) := by
  rw [← BitVec.ofInt_natCast]
  rfl

theorem execQ6ToVq2Transfer_moves {s : State} {g : CoreNo} {v : Word} {rest : List Word} (hq : (s.inst g).qw[6] = v :: rest)
    (hroom : (s.inst g).vq[2].length < 4) :
    execQ6ToVq2Transfer g s =
      .next (s.modInst g fun j => { j with qw := j.qw.set 6 rest, vq := j.vq.set 2 (j.vq[2] ++ [splat64 v]) }) := by
  simp only [execQ6ToVq2Transfer, hq, if_pos hroom]

theorem execVq3ToQ7Transfer_moves {s : State} {g : CoreNo} {l : Lanes} {rest : List Lanes} (hq : (s.inst g).vq[3] = l :: rest)
    (hroom : (s.inst g).qr[7].length < 8) :
    execVq3ToQ7Transfer g s = .next (s.modInst g fun j =>
      { j with vq := j.vq.set 3 rest, qr := j.qr.set 7 (j.qr[7] ++ [BitVec.ofNat 64 (l[0].toNat + l[1].toNat * 2 ^ 32)]) }) := by
  simp only [execVq3ToQ7Transfer, hq, if_pos hroom]

-- The helper (12 R348).

/-- A helper command holds its program's address in bits 13:0 and its tag in bits 31:16. -/
theorem helperCommand_fields (v : Word) :
    (⟨bits v.toNat 13 0, BitVec.ofNat 16 (bits v.toNat 31 16)⟩ : Helper) = ⟨v.toNat % 2 ^ 14, BitVec.ofNat 16 (v.toNat / 2 ^ 16)⟩ := by
  have hpc : bits v.toNat 13 0 = v.toNat % 2 ^ 14 := by simp [bits]
  have htag : BitVec.ofNat 16 (bits v.toNat 31 16) = BitVec.ofNat 16 (v.toNat / 2 ^ 16) := BitVec.eq_of_toNat_eq (by simp [bits])
  rw [hpc, htag]

theorem execHelperStart_takes {s : State} {g : CoreNo} {v : Word} {rest : List Word} (hidle : (s.inst g).helper = none)
    (hq : (s.inst g).qw[4] = v :: rest) (hce : (s.inst g).ceFaulted = false) (hpending : (s.inst g).pending = none)
    (hhandler : (s.inst g).handler = false) (hassist : (s.inst g).assist.any (·.frozen) = false) :
    execHelperStart g s = .next ((s.modInst g fun j => { j with
      qw := j.qw.set 4 rest, helper := some ⟨v.toNat % 2 ^ 14, BitVec.ofNat 16 (v.toNat / 2 ^ 16)⟩ }).sink g) := by
  simp only [execHelperStart, hidle, hq, hce, hpending, hhandler, hassist, helperCommand_fields]
  rfl

-- Larkspur's input (12 R354, R355).

/-- What output elements hold that take the values of `vs` in order, where a part names a source element, and zero elsewhere. -/
def filledParts {α : Type} : List (Option α) → List Nat → List Word
  | [], _ => []
  | some _ :: ps, vs => BitVec.ofNat 64 (vs.headD 0) :: filledParts ps (vs.drop 1)
  | none :: ps, vs => 0 :: filledParts ps vs

/-- The fold of `execLarkspurStart` is `filledParts`. -/
theorem foldl_eq_filledParts {α : Type} {f : List Nat × List Word → Option α → List Nat × List Word}
    (hsome : ∀ st a, f st (some a) = (st.1.drop 1, BitVec.ofNat 64 (st.1.headD 0) :: st.2))
    (hnone : ∀ st, f st none = (st.1, 0 :: st.2)) (ps : List (Option α)) (vs : List Nat) (acc : List Word) :
    (ps.foldl f (vs, acc)).2.reverse = acc.reverse ++ filledParts ps vs := by
  induction ps generalizing vs acc with
  | nil => exact (List.append_nil _).symm
  | cons p ps ih => cases p <;> simp [hsome, hnone, ih, filledParts]

@[simp] theorem filledParts_length {α : Type} (ps : List (Option α)) (vs : List Nat) : (filledParts ps vs).length = ps.length := by
  induction ps generalizing vs with
  | nil => rfl
  | cons p ps ih => cases p <;> simp [filledParts, ih]

theorem filledParts_padding {α : Type} {ps : List (Option α)} {t : Nat} (h : ps[t]? = some none) (vs : List Nat) :
    (filledParts ps vs).getD t 0 = 0 := by
  induction ps generalizing vs t with
  | nil => cases h
  | cons p ps ih =>
    cases t with
    | zero => cases h; rfl
    | succ t => cases p <;> exact ih h _

/-- An element that names a source takes the value behind those of the named elements before it. -/
theorem filledParts_source {α : Type} {ps : List (Option α)} {t : Nat} {a : α} (h : ps[t]? = some (some a)) (vs : List Nat) :
    (filledParts ps vs).getD t 0 = BitVec.ofNat 64 (vs.getD ((ps.take t).filterMap id).length 0) := by
  induction ps generalizing vs t with
  | nil => cases h
  | cons p ps ih =>
    cases t with
    | zero => cases h; cases vs <;> rfl
    | succ t =>
      cases p with
      | none => exact ih h vs
      | some b =>
        have hdrop : ∀ k, (vs.drop 1).getD k 0 = vs.getD (k + 1) 0 := fun k => by simp [List.getD_eq_getElem?_getD]
        exact (ih h _).trans (by rw [hdrop]; rfl)

/-- The parts of Larkspur's source that its output elements name, none for padding. -/
def larkspurParts (c : Copy) : List (Option (Int × Nat)) :=
  (List.range (outCount c.zq.counts c.m)).map fun t => (sourceElem c.zq.counts c.m t).map fun e => (c.zq.bitOf e, c.zq.w)

theorem filterMap_sourceParts (c : Copy) (l : List Nat) :
    (l.map fun t => (sourceElem c.zq.counts c.m t).map fun e => (c.zq.bitOf e, c.zq.w)).filterMap id =
      (l.filterMap (sourceElem c.zq.counts c.m)).map fun e => (c.zq.bitOf e, c.zq.w) := by
  rw [List.filterMap_map, List.map_filterMap]
  rfl

theorem larkspurParts_get {c : Copy} {t : Nat} (ht : t < outCount c.zq.counts c.m) :
    (larkspurParts c)[t]? = some ((sourceElem c.zq.counts c.m t).map fun e => (c.zq.bitOf e, c.zq.w)) := by
  simp [larkspurParts, ht]

theorem larkspurParts_before {c : Copy} {t : Nat} (ht : t < outCount c.zq.counts c.m) :
    (((larkspurParts c).take t).filterMap id).length = ((List.range t).filterMap (sourceElem c.zq.counts c.m)).length := by
  rw [larkspurParts, ← List.map_take, List.take_range, Nat.min_eq_left ht.le, filterMap_sourceParts, List.length_map]

theorem execLarkspurStart_reads {s t0 : State} {g : CoreNo} {c : Copy} {vs : List Nat} (hc : (s.inst g).larkspur = some c)
    (hstarted : c.started = false) (hfault : c.fault = none) (hfree : (s.inst g).heldBack c = false)
    (hread : s.readParts g c ((s.inst g).placeOf c.zq none) c.zq.dist ((larkspurParts c).filterMap id) = .ok (t0, vs)) :
    execLarkspurStart g s = .next (t0.modInst g fun j => j.modCopy c.id fun x =>
      { x with started := true, input := filledParts (larkspurParts c) vs }) := by
  have hgo : ¬(c.started = true ∨ c.fault.isSome = true ∨ (s.inst g).heldBack c = true) := by simp [hstarted, hfault, hfree]
  rw [larkspurParts] at hread ⊢
  simp only [execLarkspurStart, hc, if_neg hgo, hread]
  rw [foldl_eq_filledParts (fun _ _ => rfl) (fun _ => rfl), List.reverse_nil, List.nil_append]

-- The landing of a unit (12 R337, R340, R341).

theorem findSome?_range_first {α : Type} {f : Nat → Option α} {n k : Nat} {b : α} (hk : k < n) (hb : f k = some b)
    (hbefore : ∀ j < k, f j = none) : (List.range n).findSome? f = some b := by
  induction n with
  | zero => cases hk
  | succ n ih =>
    rw [List.range_succ, List.findSome?_append]
    obtain h | rfl := Nat.lt_succ_iff_lt_or_eq.1 hk
    · rw [ih h, Option.some_or]
    · rw [List.findSome?_eq_none_iff.2 fun j hj => hbefore j (List.mem_range.1 hj)]
      simp [hb]

theorem open'_window {c : Copy} {u : Nat} (h : c.open' u = true) : c.first ≤ u ∧ u < c.first + 64 := by
  simp only [Copy.open', Bool.and_eq_true, decide_eq_true_eq] at h
  exact ⟨h.1.1, h.1.2.1⟩

/-- A unit that faults before which no open unit faults is the first that faults. -/
theorem firstFault_eq {s : State} {g : CoreNo} {c : Copy} {u : Nat} {ca : Cause} {v : Word} (hopen : c.open' u = true)
    (hfault : s.landUnit g c u = .error (.fault ca v))
    (hbefore : ∀ w < u, c.open' w = true → ∀ x y, s.landUnit g c w ≠ .error (.fault x y)) : s.firstFault g c u = some (u, ca, v) := by
  obtain ⟨hlo, hhi⟩ := open'_window hopen
  rw [State.firstFault, List.findSome?_map]
  refine findSome?_range_first (k := u - c.first) (by omega) ?_ fun j hj => ?_
  · rw [Function.comp_apply, Nat.add_sub_cancel' hlo, if_pos ⟨le_rfl, hopen⟩, hfault]
  · rw [Function.comp_apply]
    split
    · next h =>
      split
      · next hw => exact absurd hw (hbefore _ (by omega) h.2 _ _)
      · rfl
    · rfl

section
variable {s : State} {g : CoreNo} {c : Copy} {u : Nat}

theorem execCopyUnitLand_begun {l : List WordStore} (hc : (s.inst g).copy c.id = some c) (hbegun : c.begun = some (u, l)) :
    execCopyUnitLand g c.id u s =
      .next ((l.foldl (fun t w => t.putWord g c w) s).unitDone g c u ((s.inst g).unitCount c u)) := by
  simp only [execCopyUnitLand, hc, hbegun, if_true]

variable (hc : (s.inst g).copy c.id = some c) (hbegun : c.begun = none) (hfault : c.fault = none) (hopen : c.open' u = true)
  (hfree : (s.inst g).heldBack c = false)
include hc hbegun hfault hopen hfree

theorem execCopyUnitLand_lands {t : State} (h : s.landUnit g c u = .ok t) : execCopyUnitLand g c.id u s = .next t := by
  simp [execCopyUnitLand, hc, hbegun, hfault, hopen, hfree, h]

theorem execCopyUnitLand_stalls (h : s.landUnit g c u = .error .stall) :
    execCopyUnitLand g c.id u s = .next (s.modInst g fun j => j.modCopy c.id fun x => { x with stalled := true }) := by
  simp [execCopyUnitLand, hc, hbegun, hfault, hopen, hfree, h]

theorem execCopyUnitLand_faults {ca : Cause} {v : Word} (h : s.landUnit g c u = .error (.fault ca v))
    (hbefore : ∀ w < u, c.open' w = true → ∀ x y, s.landUnit g c w ≠ .error (.fault x y)) :
    execCopyUnitLand g c.id u s =
      .next ((if isRemote c.instr ∧ ca = .prot then s else s.noteFailed g (s.ctxOf g) ca v.toNat).modInst g fun j =>
        j.modCopy c.id fun x => x.withFault u ca v) := by
  simp [execCopyUnitLand, hc, hbegun, hfault, hopen, hfree, h, firstFault_eq hopen h hbefore]

end

-- The completion of a copy (12 R346, R347).

theorem sink_sink (s : State) (g : CoreNo) : (s.sink g).sink g = s.sink g := modCore_modCore ..

/-- A push that follows a completion clears the watchdog whether or not the record's push did. -/
theorem finishCopy_sink (s : State) (g : CoreNo) (c : Copy) :
    (s.finishCopy g c).sink g = (s.modInst g fun j => j.completeCopy c).sink g := by
  unfold State.finishCopy
  split
  · exact sink_sink ..
  · rfl

section
variable {s : State} {g : CoreNo} {c : Copy} (hc : (s.inst g).copy c.id = some c) (hlanded : c.landed = true)
include hc hlanded

theorem execCopyComplete_leaves (hcoll : isColl c.instr = false) (hrep : ∀ tk p a, c.instr ≠ .datmClose tk p a true) :
    execCopyComplete g c.id s = .next (s.finishCopy g c) := by
  have hgo : ¬((!c.landed) = true ∨ isColl c.instr = true) := by simp [hlanded, hcoll]
  simp only [execCopyComplete, hc, if_neg hgo]

/-- A datm.close.rep leaves with its report in q11. -/
theorem execCopyComplete_reports {tk : Tok} {p : CReg} {a : AReg} (hrep : c.instr = .datmClose tk p a true)
    (hroom : (s.inst g).qr[11].length < 8) :
    execCopyComplete g c.id s =
      .next ((s.modInst g fun j => { j with qr := j.qr.set 11 (j.qr[11] ++ [c.input.headD 0]) }.completeCopy c).sink g) := by
  have hplace : s.hasRoomRead g 11 = true := decide_eq_true hroom
  have hgo : ¬((!c.landed) = true ∨ isColl (.datmClose tk p a true) = true) := by simp [hlanded, isColl]
  simp only [execCopyComplete, hc, if_neg hgo, hrep, if_pos hplace, finishCopy_sink, modInst_modInst]

end

-- A waiting wmon (04 R131).

/-- The word as which a waiting wmon reads and retires. -/
def Wmon.cur (w : Wmon) (g : CoreNo) : Cur := ⟨g, .scu, w.pc, w.word, 0, w.stamp, false⟩

theorem execWmonSatisfy_holds {s : State} {g : CoreNo} (h : s.wmonRuns g = false) : execWmonSatisfy g s = .next s := by
  simp only [execWmonSatisfy, h]
  split <;> rfl

/-- A waiting wmon that may read completes with a value that satisfies it, and otherwise goes on waiting. -/
theorem execWmonSatisfy_reads {s t : State} {g : CoreNo} {w : Wmon} {raw : Nat} (hw : (s.inst g).wmon = some w)
    (hruns : s.wmonRuns g = true)
    (hload : ({ s with cur := w.cur g } : State).scalarLoad g w.addr (if w.w32 then 4 else 8) = .ok (t, raw)) :
    (monitorHolds w.cond w.w32 raw w.b.toNat = true → ∀ u,
      (t.modInst g fun j => { j with wmon := none }).writeDst g true w.d (monitorValue w.cond w.w32 raw) = .ok u →
      execWmonSatisfy g s = .next (u.modInst g fun j => j.retireTo (w.cur g) (w.pc + 4) j.scu.loops)) ∧
    (monitorHolds w.cond w.w32 raw w.b.toNat = false → execWmonSatisfy g s = .next t) := by
  have hraw : raw < 2 ^ monitorBits w.w32 := by
    have := scalarLoad_lt hload
    cases h : w.w32 <;> simpa [h, monitorBits] using this
  have hread : ({ s with cur := w.cur g } : State).wmonRead g w.addr w.b w.w32 w.cond =
      .ok (t, if monitorHolds w.cond w.w32 raw w.b.toNat then some (monitorValue w.cond w.w32 raw) else none) := by
    rw [State.wmonRead, hload, ← condHolds_eq hraw]
    rfl
  refine ⟨fun hyes u hu => ?_, fun hno => ?_⟩
  · rw [if_pos hyes] at hread
    have hdone : (t.modInst g fun j => { j with wmon := none }).wmonDone g (w.cur g) w.d (monitorValue w.cond w.w32 raw) =
        .ok (u.modInst g fun j => j.retireTo (w.cur g) (w.pc + 4) j.scu.loops) := by
      rw [State.wmonDone, hu]
      rfl
    rw [Wmon.cur] at hread hdone
    simp only [execWmonSatisfy, hw, hruns, hread, hdone]
    rfl
  · rw [if_neg (Bool.eq_false_iff.1 hno)] at hread
    rw [Wmon.cur] at hread
    simp only [execWmonSatisfy, hw, hruns, hread]
    rfl

-- The atomic unit (14 R382, R384, Table 14.5).

theorem ofInt_min_toInt {w : Nat} (a b : BitVec w) :
    (BitVec.ofInt w (min a.toInt b.toInt)).toNat = if a.slt b then a.toNat else b.toNat := by
  rw [BitVec.slt_eq_decide]
  by_cases h : a.toInt < b.toInt
  · simp [h, min_eq_left h.le]
  · simp [h, min_eq_right (not_lt.1 h)]

theorem ofInt_max_toInt {w : Nat} (a b : BitVec w) :
    (BitVec.ofInt w (max a.toInt b.toInt)).toNat = if a.slt b then b.toNat else a.toNat := by
  rw [BitVec.slt_eq_decide]
  by_cases h : a.toInt < b.toInt
  · simp [h, max_eq_right h.le]
  · simp [h, max_eq_left (not_lt.1 h)]

theorem min_toNat {w : Nat} (a b : BitVec w) : min a.toNat b.toNat = if a.ult b then a.toNat else b.toNat := by
  rw [BitVec.ult_eq_decide]
  by_cases h : a.toNat < b.toNat
  · simp [h, min_eq_left h.le]
  · simp [h, min_eq_right (not_lt.1 h)]

theorem max_toNat {w : Nat} (a b : BitVec w) : max a.toNat b.toNat = if a.ult b then b.toNat else a.toNat := by
  rw [BitVec.ult_eq_decide]
  by_cases h : a.toNat < b.toNat
  · simp [h, max_eq_right h.le]
  · simp [h, max_eq_left (not_lt.1 h)]

/-- The new value of an atomic operation is the one of Table 14.5 on numbers of its width. -/
theorem newValue_eq_atomicNew (op : AmoOp) (w32 : Bool) (old x : Nat) : newValue op w32 old x = atomicNew op (atomBytes w32) old x := by
  cases op
  case min => cases w32 <;> exact (ofInt_min_toInt ..).symm
  case max => cases w32 <;> exact (ofInt_max_toInt ..).symm
  case minu => cases w32 <;> exact (min_toNat ..).symm
  case maxu => cases w32 <;> exact (max_toNat ..).symm
  case add => cases w32 <;> exact (BitVec.toNat_add ..).trans (Nat.add_mod ..).symm
  all_goals cases w32 <;> rfl

/-- The old value as d receives it, of a word of its width. -/
theorem oldValue_eq_atomicOld {w32 : Bool} {old : Nat} (h : old < 2 ^ (8 * atomBytes w32)) (op : AmoOp) :
    oldValue op w32 old = atomicOld op (atomBytes w32) old := by
  cases w32
  case false => exact ofNat_eq_extended 8 old
  case true =>
    cases op
    case minu | maxu | fadd => exact ofNat_eq_extended 4 old
    all_goals exact sextBytes_eq (by decide) h

theorem mem_read_lt (m : Bytes) (pa n : Nat) : leNat (m.read pa n) < 2 ^ (8 * n) := by
  simpa using leNat_lt (m.read pa n)

/-- The oldest command of q2 leaves and its result is there, a sink event. -/
def State.q2Answered (s : State) (g : CoreNo) (rest : List AtomicCmd) (r : AtomicResult) : State :=
  (s.modInst g fun j => { j with q2w := rest, q2r := j.q2r ++ [r] }).sink g

section
variable {s : State} {g : CoreNo} {x : AtomicCmd} {rest : List AtomicCmd} {pa : Nat}

section
variable (hq : (s.inst g).q2w = x :: rest) (hroom : (s.inst g).q2r.length < 16)
include hq hroom

theorem execQ2AtomicApply_unreachable {c : Cause} (h : s.translate (some g) (s.ctxOf g) x.addr.toNat .both = .error c) :
    execQ2AtomicApply g s = .next (s.q2Answered g rest ⟨0, some (c, x.addr)⟩) := by
  simp only [execQ2AtomicApply, hq, if_neg (Nat.not_le.2 hroom), h]
  rfl

variable (hpa : s.translate (some g) (s.ctxOf g) x.addr.toNat .both = .ok pa)
include hpa

theorem execQ2AtomicApply_poisoned (h : s.poisoned pa (atomBytes (x.ctl.getLsbD 4)) = true) :
    execQ2AtomicApply g s = .next (s.q2Answered g rest ⟨0, some (.poison, x.addr)⟩) := by
  simp only [execQ2AtomicApply, hq, if_neg (Nat.not_le.2 hroom), hpa, if_pos h]
  rfl

variable {op : AmoOp} (hop : AmoOp.ofCode (x.ctl.toNat % 16) = some op) (hclean : s.poisoned pa (atomBytes (x.ctl.getLsbD 4)) = false)
include hop hclean

theorem execQ2AtomicApply_applies (hnow : x.ctl.getLsbD 5 = false) :
    let n := atomBytes (x.ctl.getLsbD 4)
    let old := leNat (s.mem.read pa n)
    execQ2AtomicApply g s = .next (State.q2Answered
      (((s.physWrite pa (leBytes n (atomicNew op n old x.operand.toNat))).noteAccess false g x.addr.toNat pa n s.openDist true).sink g)
      g rest ⟨atomicOld op n old, none⟩) := by
  intro n old
  have hcode : amoOf (bits x.ctl.toNat 3 0) = op := by simp [amoOf, bits, hop]
  simp only [execQ2AtomicApply, hq, if_neg (Nat.not_le.2 hroom), hpa, hclean, hnow, hcode, State.atomApply, newValue_eq_atomicNew,
    oldValue_eq_atomicOld (mem_read_lt s.mem pa _)]
  rfl

theorem execQ2AtomicApply_accepts (hwindow : x.ctl.getLsbD 5 = true) {t : State}
    (h : s.accept g (x.ctl.toNat / 2 ^ 6 % 2 ^ 6) pa op (x.ctl.getLsbD 4) x.operand 0 x.seq = some t) :
    execQ2AtomicApply g s = .next (t.q2Answered g rest ⟨0, none⟩) := by
  have hcode : amoOf (bits x.ctl.toNat 3 0) = op := by simp [amoOf, bits, hop]
  have hnum : bits x.ctl.toNat 11 6 = x.ctl.toNat / 2 ^ 6 % 2 ^ 6 := rfl
  simp only [execQ2AtomicApply, hq, if_neg (Nat.not_le.2 hroom), hpa, hclean, hwindow, hcode, hnum, h]
  rfl

end

end

-- The answer to a remote unit (18 R468, R469).

/-- A unit that its destination refuses faults at its byte, where it is still awaited. -/
theorem failUnit_eq (s : State) (g : CoreNo) (id u off : Nat) (ca : Cause) :
    s.failUnit g id u off ca = s.modInst g fun j => j.modCopy id fun x =>
      if x.sent.contains u then (x.answered u).withFault u ca (x.p + BitVec.ofNat 64 (256 * u + off)) else x := by
  simp only [State.failUnit, Copy.remote, BitVec.ofNat_add, BitVec.add_assoc]

section
variable {s : State} {g : CoreNo} {c : Copy} {u : Nat} (hc : (s.inst g).copy c.id = some c) (hsent : u ∈ c.sent)
  (hremote : isRemote c.instr = true)
include hc hsent hremote

theorem remoteAnswer_landed : s.remoteAnswer g c.id u .landed =
    (s.modInst g fun j => j.unitLanded (c.answered u) u (min 256 (c.len - 256 * u))).sink g := by
  have hlen : c.unitLen u = min 256 (c.len - 256 * u) := rfl
  simp [State.remoteAnswer, hc, hsent, hremote, hlen]

theorem remoteAnswer_refused {off : Fin 256} (hoff : off.val < min 256 (c.len - 256 * u)) {ans : RemoteAnswer} {ca : Cause}
    (hans : (ans, ca) ∈ [(RemoteAnswer.pageW off, Cause.pageW), (.prot off, .prot)] ∨
      (ans, ca) = (.poison off, .poison) ∧ isSigAdd c.instr = true) :
    s.remoteAnswer g c.id u ans = s.failUnit g c.id u off.val ca := by
  have hlen : off.val < c.unitLen u := hoff
  simp only [List.mem_cons, List.not_mem_nil, or_false, Prod.mk.injEq] at hans
  obtain (⟨rfl, rfl⟩ | ⟨rfl, rfl⟩) | ⟨⟨rfl, rfl⟩, hadd⟩ := hans
  · simp [State.remoteAnswer, hc, hsent, hremote, hlen]
  · simp [State.remoteAnswer, hc, hsent, hremote, hlen]
  · simp [State.remoteAnswer, hc, hsent, hremote, hlen, hadd]

end

/-- Settles O43: each step by the lemma on its meaning, in the order of the statement. -/
theorem queueSteps : Obligations.QueueSteps := by
  intro g s i change
  refine ⟨?q6, ?vq3, ?helper, ?larkspur, ?begun, ?unit, ?complete, ?wmonHeld, ?wmonReads, ?atomic, ?remote⟩
  case q6 =>
    intro v rest hq hroom
    rw [exec_q6ToVq2Transfer, execQ6ToVq2Transfer_moves hq hroom, splat64_eq]
  case vq3 =>
    intro l rest hq hroom
    rw [exec_vq3ToQ7Transfer, execVq3ToQ7Transfer_moves hq hroom, ← ofInt_baseOf]
  case helper =>
    intro v rest hidle hq hce hpending hhandler hassist
    exact execHelperStart_takes hidle hq hce hpending hhandler hassist
  case larkspur =>
    intro c t0 vs hc hstarted hfault hfree n hread
    rw [← filterMap_sourceParts] at hread
    refine ⟨filledParts (larkspurParts c) vs, execLarkspurStart_reads hc hstarted hfault hfree hread, by simp [larkspurParts, n],
      fun t ht => ⟨fun hpad => ?_, fun hsource => ?_⟩⟩
    · exact filledParts_padding (by rw [larkspurParts_get ht, hpad]; rfl) vs
    · obtain ⟨e, he⟩ := Option.ne_none_iff_exists'.1 hsource
      rw [filledParts_source (a := (c.zq.bitOf e, c.zq.w)) (by rw [larkspurParts_get ht, he]; rfl) vs, larkspurParts_before ht]
  case begun =>
    intro c u l hc hbegun
    exact execCopyUnitLand_begun hc hbegun
  case unit =>
    intro c u hc hbegun hfault hopen hfree
    exact ⟨fun _ => execCopyUnitLand_lands hc hbegun hfault hopen hfree, execCopyUnitLand_stalls hc hbegun hfault hopen hfree,
      fun _ _ => execCopyUnitLand_faults hc hbegun hfault hopen hfree⟩
  case complete =>
    intro c hc hlanded hcoll pushes
    exact ⟨execCopyComplete_leaves hc hlanded hcoll, fun tk p a => execCopyComplete_reports hc hlanded⟩
  case wmonHeld =>
    intro w _ hheld
    exact execWmonSatisfy_holds hheld
  case wmonReads =>
    intro w t raw u hw hruns cur hload
    obtain ⟨hcompletes, hwaits⟩ := execWmonSatisfy_reads hw hruns hload
    exact ⟨fun hyes hu => hcompletes hyes u hu, hwaits⟩
  case atomic =>
    intro x rest op hq hroom hop w32 n done
    exact ⟨fun c => execQ2AtomicApply_unreachable hq hroom, fun pa hpa => ⟨execQ2AtomicApply_poisoned hq hroom hpa,
      execQ2AtomicApply_applies hq hroom hpa hop, fun hclean hwindow t => execQ2AtomicApply_accepts hq hroom hpa hop hclean hwindow⟩⟩
  case remote =>
    intro c u hc hsent hremote
    refine ⟨congrArg Outcome.next (remoteAnswer_landed hc hsent hremote), fun off hoff ans ca hans => ?_⟩
    exact congrArg Outcome.next ((remoteAnswer_refused hc hsent hremote hoff hans).trans (failUnit_eq ..))

end Sys2Proof.Machine
end

section
/-! How a vector word runs, with or without a destination (02 R491, 05 R151 to R153, 06 R168, 01 R32): it completes, it traps by a check of
its own, or it traps FPX. -/

namespace Sys2Proof.Machine

open Host

/-- What a word leaves where it writes nothing of its destination, if it has one. -/
def Inst.oldOpt (i : Inst) : Option VReg → Lanes
  | some d => i.oldV d
  | none => zeroLanes

section
variable {s : State} {tk : Tok} {srcs : List VReg} {dst : Option VReg} {late : Bool} {pre : Res Unit}
  {f f' : Inst → List Lanes → Lanes → Res VecEffect}

/-- The preparation of a vector word: its operands' directions, its own checks, its early checks on what it computes, its waits, and then
its effect on what it reads. -/
theorem vecPrep_eq : s.vecPrep srcs dst late pre f = (do
    vOperandChecks srcs dst
    pre
    if !late then
      match f (s.inst s.cur.core) (srcs.map (s.inst s.cur.core).readV) ((s.inst s.cur.core).oldOpt dst) with
      | .error (.trap c v) => .error (.trap c v)
      | _ => .ok ()
    need (srcs.all (s.inst s.cur.core).vReadable && dst.all (s.inst s.cur.core).vHasRoom)
    asLate late (f (s.inst s.cur.core) (srcs.map (s.inst s.cur.core).readV) ((s.inst s.cur.core).oldOpt dst))) := by
  cases dst <;> rfl

/-- A vector word depends on its function at what it reads alone. -/
theorem vecRun_congr (h : f (s.inst s.cur.core) (srcs.map (s.inst s.cur.core).readV) ((s.inst s.cur.core).oldOpt dst) =
    f' (s.inst s.cur.core) (srcs.map (s.inst s.cur.core).readV) ((s.inst s.cur.core).oldOpt dst)) :
    vecRun s tk srcs dst late pre f = vecRun s tk srcs dst late pre f' := by
  unfold vecRun
  rw [vecPrep_eq, vecPrep_eq, h]

/-- Where its operands are ready and its own checks hold, the preparation gives the effect on what the word reads. -/
theorem vecPrep_effect {e : VecEffect} (h : s.vecReady tk srcs dst) (hpre : pre = .ok ())
    (hf : f (s.inst s.cur.core) (srcs.map (s.inst s.cur.core).readV) ((s.inst s.cur.core).oldOpt dst) = .ok e) :
    s.vecPrep srcs dst late pre f = .ok e := by
  obtain ⟨hops, hsrcs, hdst, -⟩ := h
  rw [vecPrep_eq, hf]
  cases late <;> simp [hops, hpre, hsrcs, hdst, bind, Except.bind]

/-- A vector word whose operands are ready, whose own checks hold and that raises no enabled exception completes with its effect. -/
theorem vecRun_completes {e : VecEffect} (h : s.vecReady tk srcs dst) (hpre : pre = .ok ())
    (hf : f (s.inst s.cur.core) (srcs.map (s.inst s.cur.core).readV) ((s.inst s.cur.core).oldOpt dst) = .ok e)
    (hquiet : ∀ fl, e.flags = some fl → (s.inst s.cur.core).quiet fl) :
    vecRun s tk srcs dst late pre f = .next (s.wordDone (s.vecCommit srcs dst e) tk) :=
  vecRun_ok (vecPrep_effect h hpre hf) (fun fl hfl => fpxOf_of_quiet (hquiet fl hfl)) h.2.2.2

/-- A check of the word's own that fails traps before its waits. -/
theorem vecRun_check_traps {c : Cause} {v : Word} (hops : vOperandChecks srcs dst = .ok ()) (hpre : pre = .error (.trap c v)) :
    vecRun s tk srcs dst late pre f = .next (s.raise c v) := by
  have hprep : s.vecPrep srcs dst late pre f = .error (.trap c v) := by
    rw [vecPrep_eq, hops, hpre]
    rfl
  unfold vecRun
  rw [hprep]
  rfl

/-- A check on what the word computes traps before its waits, or, where it is a late one, after them. -/
theorem vecRun_effect_traps {c : Cause} {v : Word}
    (h : late = false ∧ vOperandChecks srcs dst = .ok () ∨ s.vecReady tk srcs dst)
    (hf : f (s.inst s.cur.core) (srcs.map (s.inst s.cur.core).readV) ((s.inst s.cur.core).oldOpt dst) = .error (.trap c v)) :
    vecRun s tk srcs dst late (.ok ()) f = .next (s.raise c v) := by
  have hops : vOperandChecks srcs dst = .ok () := h.elim And.right And.left
  cases late with
  | false =>
    have hprep : s.vecPrep srcs dst false (.ok ()) f = .error (.trap c v) := by
      rw [vecPrep_eq, hf, hops]
      rfl
    unfold vecRun
    rw [hprep]
    rfl
  | true =>
    obtain ⟨hlate, -⟩ | ⟨-, hsrcs, hdst, htok⟩ := h
    · cases hlate
    have hprep : s.vecPrep srcs dst true (.ok ()) f = .error (.late c v) := by
      rw [vecPrep_eq, hf, hops, hsrcs, hdst]
      rfl
    unfold State.tokReady at htok
    unfold vecRun
    simp only [hprep, engineRun, engineRunThen, List.append_nil, htok, Bool.false_and, Bool.false_eq_true, if_false, if_true]

end

-- The FPX trap.

/-- The union holds the enabled exceptions that some lane raises. -/
theorem fpxUnion_getLsbD (en : Flags) (f : Nat → Flags) (b : Nat) :
    (fpxUnion en f).getLsbD b = true ↔ ∃ l < 512, (f l &&& en).getLsbD b = true := by
  have hfold : ∀ (ls : List Nat) (u : Flags), (ls.foldl (fun u l => u ||| (f l &&& en)) u).getLsbD b = true ↔
      u.getLsbD b = true ∨ ∃ l ∈ ls, (f l &&& en).getLsbD b = true := by
    intro ls
    induction ls with
    | nil => simp
    | cons l ls ih =>
      intro u
      rw [List.foldl_cons, ih, BitVec.getLsbD_or, Bool.or_eq_true, List.exists_mem_cons_iff, or_assoc]
  unfold fpxUnion
  rw [hfold]
  simp

/-- The trap lane mask holds the lanes that raise an enabled exception. -/
theorem fpxLanes_getLsbD (en : Flags) (f : Nat → Flags) {l : Nat} (hl : l < 512) :
    (fpxLanes en f).getLsbD l = (f l &&& en != 0) := by
  unfold fpxLanes
  rw [BitVec.getLsbD_ofFnLE, dif_pos hl]

/-- Where an enabled exception arises there is an FPX trap, with the union of the enabled exceptions (01 R32). -/
theorem fpxOf_of_not_quiet {i : Inst} {f : Nat → Flags} (h : ¬i.quiet f) :
    fpxOf i.sys.fmode f = some (fpxLanes (enabled i.sys.fmode) f, (fpxUnion (enabled i.sys.fmode) f).zeroExtend 64) := by
  have hunion : fpxUnion (enabled i.sys.fmode) f ≠ 0 := by
    intro hzero
    refine h fun l hl => BitVec.eq_of_getLsbD_eq fun b _ => ?_
    by_contra hb
    have := (fpxUnion_getLsbD (enabled i.sys.fmode) f b).2 ⟨l, hl, by simpa using hb⟩
    rw [hzero] at this
    simp at this
  have hen : enabled i.sys.fmode ≠ 0 := fun hzero => h fun l _ => by simp [hzero]
  rw [fpxOf, if_neg hen, if_neg hunion]

/-- A vector word whose operands are ready and that raises an enabled exception traps FPX, with nothing written (01 R32). -/
theorem vecRun_fpx {s : State} {tk : Tok} {srcs : List VReg} {dst : Option VReg} {late : Bool} {pre : Res Unit}
    {f : Inst → List Lanes → Lanes → Res VecEffect} {e : VecEffect} {fl : Nat → Flags} (h : s.vecReady tk srcs dst) (hpre : pre = .ok ())
    (hf : f (s.inst s.cur.core) (srcs.map (s.inst s.cur.core).readV) ((s.inst s.cur.core).oldOpt dst) = .ok e)
    (hfl : e.flags = some fl) (hloud : ¬(s.inst s.cur.core).quiet fl) :
    let en := enabled (s.inst s.cur.core).sys.fmode
    vecRun s tk srcs dst late pre f = .next (s.raiseFpx fl (fpxLanes en fl) ((fpxUnion en fl).zeroExtend 64)) := by
  intro en
  unfold vecRun
  simp only [vecPrep_effect (late := late) h hpre hf, hfl, fpxOf_of_not_quiet hloud, h.2.2.2, if_true]
  rfl

/-- The FPX trap of the executing word. -/
def State.fpxTrap (s : State) (f : Nat → Flags) (m : Mask) (v : Word) : Pending :=
  { s.trapOf .fpx v with fpx := some ⟨Vector.ofFn fun l : Fin 512 => f l.val, m⟩ }

/-- An FPX trap of a word outside a slot is raised on its core. -/
theorem raiseFpx_outside_slot {s : State} (hfw : s.cur.fw = false) (hslot : (s.inst s.cur.core).slot = none) (f : Nat → Flags) (m : Mask)
    (v : Word) : s.raiseFpx f m v = (s.walked .fpx v).raiseOn s.cur.core (s.fpxTrap f m v) := by
  have hinst : (s.walked .fpx v).inst s.cur.core = s.inst s.cur.core := bare_inst (bareTlb_of_bareCaches (walked_bare s .fpx v)) _
  have hdrop : (s.walked .fpx v).modInst s.cur.core Inst.dropSlot = s.walked .fpx v :=
    modInst_of_eq (by rw [hinst, Inst.dropSlot, hslot])
  unfold State.raiseFpx State.raiseAs
  rw [if_neg (Bool.eq_false_iff.1 hfw)]
  cases hsrc : s.cur.src with
  | scu =>
    have hwalked : s.walked .fpx v = s.noteFailed s.cur.core (s.ctxOf s.cur.core) .fpx v.toNat := if_pos (.inl hsrc)
    rw [hwalked] at hdrop ⊢
    simp only [hslot, true_or, if_true, hdrop, State.fpxTrap, State.trapOf, hsrc, Option.isSome_none]
  | _ => simp [State.fpxTrap, State.trapOf, State.walked, hsrc]

/-- What a delivered FPX trap leaves of the lanes: their flags as if the word had completed, the trap lane mask, and the vector and mask
registers and queues as they were (01 R32). -/
theorem deliver_lanes (i : Inst) (s : State) (f : Nat → Flags) (m : Mask) (v : Word) (asked : Bool) (w : Word) :
    let x := i.deliver (s.fpxTrap f m v) asked w
    (∀ l : Fin 512, x.flags[l] = i.flags[l] ||| f l.val) ∧ x.trapMask = m ∧ x.v = i.v ∧ x.k = i.k ∧ x.vq = i.vq := by
  have hflags : i.dropWmon.flags = i.flags := dropWmon_keep (fun j => j.flags) (fun _ _ _ => rfl) (fun _ => rfl) i
  have hk : i.dropWmon.k = i.k := dropWmon_keep (fun j => j.k) (fun _ _ _ => rfl) (fun _ => rfl) i
  have hvq : i.dropWmon.vq = i.vq := dropWmon_keep (fun j => j.vq) (fun _ _ _ => rfl) (fun _ => rfl) i
  simp [Inst.deliver, State.fpxTrap, Inst.markLanes, hflags, hk, hvq]

/-- An FPX trap at a boundary is delivered to the handler that TVEC enables, with the lanes as that leaves them. -/
theorem raiseFpx_lanes {s : State} (hfw : s.cur.fw = false) (hb : (s.inst s.cur.core).boundary = true)
    (hp : (s.inst s.cur.core).pending = none) (hh : (s.inst s.cur.core).handler = false)
    (hv : (s.inst s.cur.core).sys.tvec.getLsbD 0 = true) (f : Nat → Flags) (m : Mask) (v : Word) :
    let i := s.inst s.cur.core
    let x := (s.raiseFpx f m v).inst s.cur.core
    (∀ l : Fin 512, x.flags[l] = i.flags[l] ||| f l.val) ∧ x.trapMask = m ∧ x.v = i.v ∧ x.k = i.k ∧ x.vq = i.vq := by
  have hinst : (s.walked .fpx v).inst s.cur.core = s.inst s.cur.core := bare_inst (bareTlb_of_bareCaches (walked_bare s .fpx v)) _
  rw [raiseFpx_outside_slot hfw (slot_of_boundary hb), raiseOn_delivers (by rw [hinst, hp]) (by rw [hinst, hh]) (by rw [hinst, hv])
    (by rw [hinst, hb]) rfl, modInst_inst, hinst]
  exact deliver_lanes ..

end Sys2Proof.Machine
end

section
/-! Elements in vectors (06 R161, R162, R164): what a lane and an element of `setElems` read as. -/

namespace Sys2Proof.Machine

open Host

theorem laneAt_of_lt {l : Nat} (h : l < 512) (v : Lanes) : laneAt v l = v[l].toNat := dif_pos h

theorem laneAt_lt (v : Lanes) (l : Nat) : laneAt v l < 2 ^ 32 := by
  unfold laneAt
  split
  · exact BitVec.isLt _
  · decide

theorem elemAt_lt (w : Elem) (v : Lanes) (n : Nat) : elemAt w v n < 2 ^ w.bits := by
  have h0 := laneAt_lt v (2 * n)
  have h1 := laneAt_lt v (2 * n + 1)
  cases w with
  | e16 => exact Nat.mod_lt _ (by decide)
  | e32 => exact laneAt_lt v n
  | e64 => simp only [elemAt, Elem.bits]; omega

section
variable {w : Elem} {old : Lanes} {on : Nat → Bool} {val : Nat → Nat} {l : Nat}

/-- A lane of a vector of narrow elements after a write of some of them. -/
theorem laneAt_setElems_narrow (hw : w ≠ .e64) (hl : l < 512) :
    laneAt (setElems w old on val) l = if on l then val l % 2 ^ 32 else laneAt old l := by
  rw [laneAt_of_lt hl, laneAt_of_lt hl]
  cases w
  case e64 => exact absurd rfl hw
  all_goals
    simp only [setElems, Vector.getElem_ofFn]
    split <;> simp

/-- A lane of a vector of 64-bit elements after a write of some of them. -/
theorem laneAt_setElems_wide (hl : l < 512) :
    laneAt (setElems .e64 old on val) l =
      if on (l / 2) then val (l / 2) / 2 ^ (32 * (l % 2)) % 2 ^ 32 else laneAt old l := by
  rw [laneAt_of_lt hl, laneAt_of_lt hl]
  simp only [setElems, Vector.getElem_ofFn]
  split <;> simp

/-- A write depends on the values of the elements that it writes alone. -/
theorem setElems_congr {on' : Nat → Bool} {val' : Nat → Nat} (hon : on = on') (hval : ∀ n, on n = true → val n = val' n) :
    setElems w old on val = setElems w old on' val' := by
  subst hon
  unfold setElems
  refine congrArg Vector.ofFn (funext fun l => ?_)
  cases w <;> exact ite_congr rfl (fun h => by rw [hval _ h]) fun _ => rfl

end

/-- Settles O19: a 16-bit or 32-bit element is one lane, and a 64-bit element is two. -/
theorem elementPlacement : Obligations.ElementPlacement := by
  intro w old on val n hn
  cases w with
  | e16 =>
    have hlane := laneAt_setElems_narrow (w := .e16) (old := old) (on := on) (val := val) (by decide) hn
    refine ⟨fun hon hval => ?_, fun hoff => ?_⟩
    · have hlt := hval rfl
      rw [hon, if_pos rfl, Nat.mod_eq_of_lt (by omega)] at hlane
      exact ⟨by rw [elemAt, hlane]; rfl, fun _ => hlane⟩
    · rw [hoff, if_neg (by decide)] at hlane
      exact ⟨by rw [elemAt, elemAt, hlane], fun _ => hlane⟩
  | e32 =>
    have hlane := laneAt_setElems_narrow (w := .e32) (old := old) (on := on) (val := val) (by decide) hn
    refine ⟨fun hon _ => ?_, fun hoff => ?_⟩
    · rw [hon, if_pos rfl] at hlane
      exact ⟨hlane, fun h => by cases h⟩
    · rw [hoff, if_neg (by decide)] at hlane
      exact ⟨hlane, fun _ => hlane⟩
  | e64 =>
    have hn256 : n < 256 := hn
    have hlow := laneAt_setElems_wide (old := old) (on := on) (val := val) (l := 2 * n) (by omega)
    have hhigh := laneAt_setElems_wide (old := old) (on := on) (val := val) (l := 2 * n + 1) (by omega)
    rw [show 2 * n / 2 = n by omega, show 2 * n % 2 = 0 by omega] at hlow
    rw [show (2 * n + 1) / 2 = n by omega, show (2 * n + 1) % 2 = 1 by omega] at hhigh
    refine ⟨fun hon _ => ⟨?_, fun h => by cases h⟩, fun hoff => ⟨?_, fun h => absurd rfl h⟩⟩
    · rw [hon, if_pos rfl] at hlow hhigh
      simp only [elemAt, hlow, hhigh, Elem.bits]
      omega
    · rw [hoff, if_neg (by decide)] at hlow hhigh
      rw [elemAt, elemAt, hlow, hhigh]

end Sys2Proof.Machine
end

section
/-! Lane moves, masks and flags (06 R166, R174, R175, R183, R184, R194, R195): each word is a run of a shared operation with its entry's
value, and that run completes. -/

namespace Sys2Proof.Machine

open Host

section
variable {s : State} {tk : Tok} {srcs : List VReg}

/-- A word that moves elements completes with element n of its entry in every active element. -/
theorem vecMove_done {d : VReg} {k : KReg} {w : Elem} {val : Inst → List Lanes → Nat → Nat} (h : s.vecReady tk srcs (some d)) :
    let j := s.inst s.cur.core
    vecMove s tk srcs d k w val = .next (s.wordDone (s.vecCommit srcs (some d)
      ⟨setElems w (j.oldV d) (active w (j.mask k)) (val j (srcs.map j.readV)), none, id⟩) tk) :=
  vecRun_completes h rfl rfl fun _ hfl => by cases hfl

theorem vecMove_congr {d : VReg} {k : KReg} {w : Elem} {val val' : Inst → List Lanes → Nat → Nat} (h : ∀ i vs n, val i vs n = val' i vs n) :
    vecMove s tk srcs d k w val = vecMove s tk srcs d k w val' := by
  rw [funext fun i => funext fun vs => funext (h i vs)]

/-- An instruction with an entry of `moveRule` is that move, run by the shared operation. -/
theorem exec_eq_vecMove {i : Instr} {d : VReg} {k : KReg} {w : Elem}
    {val : Inst → List Lanes → Nat → Nat} (h : moveRule i = some (tk, srcs, d, k, w, val)) :
    exec i s = vecMove s tk srcs d k w val := by
  cases i
  case vmov | vperm | vbcast | vslide | viota | vmskCnt | vmskFirst | vflgRd => cases h; rfl
  case vsel =>
    cases h
    refine vecMove_congr fun i vs n => ?_
    split <;> rfl
  case vmskTov =>
    cases h
    refine vecMove_congr fun i vs n => ?_
    cases (i.mask _).getLsbD n <;> rfl
  all_goals cases h

/-- A word that writes a mask register completes with the bits of its active elements, when no enabled exception arises. -/
theorem vecToMask_done {d k : KReg} {w : Elem} {fp : Bool} {op : Inst → List Lanes → Nat → Bool × Flags}
    (h : s.vecReady tk srcs none) :
    let j := s.inst s.cur.core
    let on := active w (j.mask k)
    let res := op j (srcs.map j.readV)
    let fl := if fp then some fun l => if on l then (res l).2 else 0 else none
    (∀ f, fl = some f → j.quiet f) →
    vecToMask s tk srcs d k w fp op = .next (s.wordDone (s.vecCommit srcs none ⟨zeroLanes, fl, fun t => t.modInst s.cur.core fun x =>
      x.setMask d on fun n => (res n).1⟩) tk) :=
  fun hquiet => vecRun_completes h rfl rfl hquiet

theorem vecToMask_congr {d k : KReg} {w : Elem} {fp : Bool} {op op' : Inst → List Lanes → Nat → Bool × Flags}
    (h : ∀ i vs n, op i vs n = op' i vs n) : vecToMask s tk srcs d k w fp op = vecToMask s tk srcs d k w fp op' := by
  rw [funext fun i => funext fun vs => funext (h i vs)]

/-- An operation on two masks writes the bits of the combined mask. -/
theorem maskOp_eq {d a b k : KReg} {op : Bool → Bool → Bool} {rule : Mask → Mask → Nat → Bool}
    (h : ∀ x y n, op (x.getLsbD n) (y.getLsbD n) = rule x y n) :
    maskOp s tk d a b k op = vecToMask s tk [] d k .e32 false fun i _ n => (rule (i.mask a) (i.mask b) n, 0) :=
  vecToMask_congr fun i _ n => by rw [h]

/-- An instruction with an entry of `maskRule` is that write of a mask, run by the shared operation. -/
theorem exec_eq_vecToMask {i : Instr} {d k : KReg} {w : Elem} {fp : Bool}
    {op : Inst → List Lanes → Nat → Bool × Flags} (h : maskRule i = some (tk, srcs, d, k, w, fp, op)) :
    exec i s = vecToMask s tk srcs d k w fp op := by
  cases i
  case vcmp | vflgAny => cases h; rfl
  case vicmp tk d a b c f k =>
    cases h
    refine vecToMask_congr fun i vs n => ?_
    cases c <;> simp [beq_eq_decide, bne]
  case vmskAnd => cases h; exact maskOp_eq (rule := fun x y n => (x &&& y).getLsbD n) fun x y n => (BitVec.getLsbD_and ..).symm
  case vmskOr => cases h; exact maskOp_eq (rule := fun x y n => (x ||| y).getLsbD n) fun x y n => (BitVec.getLsbD_or ..).symm
  case vmskXor => cases h; exact maskOp_eq (rule := fun x y n => (x ^^^ y).getLsbD n) fun x y n => by rw [BitVec.getLsbD_xor, Bool.bne_eq_xor]
  case vmskAndn =>
    cases h
    rw [exec_vmskAndn, execVmskAndn, maskOp]
  case vmskFromv =>
    cases h
    rw [exec_vmskFromv, execVmskFromv]
    exact vecToMask_congr fun i vs n => by rw [Nat.testBit_zero, beq_eq_decide]
  all_goals cases h

end

/-- Settles O20: every such word is the shared `vecMove` with its entry's value, and that run completes. -/
theorem moveResults : Obligations.MoveResults := by
  intro i s tk srcs d k w val hrule hready
  rw [exec_eq_vecMove hrule]
  exact vecMove_done hready

/-- Settles O21: every such word is the shared `vecToMask` with its entry's bits, and that run completes. -/
theorem maskResults : Obligations.MaskResults := by
  intro i s tk srcs d k w fp op hrule hready
  rw [exec_eq_vecToMask hrule]
  exact vecToMask_done hready

/-- An instruction of vflg that changes the instance completes with that change. -/
theorem flagOp_done {s : State} {tk : Tok} {srcs : List VReg} {op : Inst → List Lanes → Inst} (h : s.vecReady tk srcs none) :
    flagOp s tk srcs op = .next (s.wordDone (s.vecCommit srcs none ⟨zeroLanes, none, fun t => t.modInst s.cur.core fun i =>
      op i (srcs.map (s.inst s.cur.core).readV)⟩) tk) :=
  vecRun_completes h rfl rfl fun _ hfl => by cases hfl

/-- Settles O26: each word is the shared `flagOp` with its change of the instance, and that run completes. -/
theorem flagWords : Obligations.FlagWords := by
  intro s tk a f d k g j on done
  exact ⟨fun h => (exec_vflgClr ..).trans (flagOp_done h), fun h => (exec_vflgWr ..).trans (flagOp_done h),
    fun h => (exec_vflgTm ..).trans (flagOp_done h), fun h => (exec_vflgCtm ..).trans (flagOp_done h)⟩

end Sys2Proof.Machine
end

section
/-! Element-by-element words (06 R161 to R164, R169 to R173, 01 R32): each is the run of its entry of `elemRule`, which completes or traps
FPX. -/

namespace Sys2Proof.Machine

open Host

/-- What an element-by-element word computes by its rule: its result and flags by element. -/
def ElemRule.results (r : ElemRule) (j : Inst) (n : Nat) : Nat × Flags :=
  r.op j.sys.fmode (r.srcs.map fun v => elemAt r.from' (j.readV v) n)

/-- The exceptions that it raises by lane, in active elements alone. -/
def ElemRule.raised (r : ElemRule) (j : Inst) (l : Nat) : Flags :=
  if active r.from' (j.mask r.k) l then (r.results j l).2 else 0

/-- Its effect: its results in the active elements, and its exceptions if it can raise any. -/
def ElemRule.effect (r : ElemRule) (j : Inst) : VecEffect :=
  ⟨setElems r.into (j.oldV r.d) (active r.from' (j.mask r.k)) fun n => (r.results j n).1, if r.fp then some (r.raised j) else none, id⟩

/-- The run of an element-by-element word by its rule. -/
def ElemRule.run (r : ElemRule) (s : State) : Outcome State Fault Refusal :=
  vecElems s r.tk r.srcs r.d r.k r.from' r.into r.fp (.ok ()) fun i => r.op i.sys.fmode

/-- The run by a rule is the vector run with the rule's effect. -/
theorem elemRun_eq (r : ElemRule) (s : State) :
    r.run s = vecRun s r.tk r.srcs (some r.d) false (.ok ()) fun i _ _ => .ok (r.effect i) := by
  refine vecRun_congr ?_
  simp only [ElemRule.effect, ElemRule.results, List.map_map]
  rfl

section
variable {s : State} {tk : Tok} {srcs : List VReg} {d : VReg} {k : KReg}

/-- An element-by-element word depends on its operation at as many operands as it has sources, each of the element's width. -/
theorem vecElems_congr {w x : Elem} {fp : Bool} {pre : Res Unit} {op op' : Inst → List Nat → Nat × Flags}
    (h : ∀ i xs, xs.length = srcs.length → (∀ x ∈ xs, x < 2 ^ w.bits) → op i xs = op' i xs) :
    vecElems s tk srcs d k w x fp pre op = vecElems s tk srcs d k w x fp pre op' := by
  refine vecRun_congr ?_
  have hop : ∀ n, op (s.inst s.cur.core) ((srcs.map (s.inst s.cur.core).readV).map fun v => elemAt w v n) =
      op' (s.inst s.cur.core) ((srcs.map (s.inst s.cur.core).readV).map fun v => elemAt w v n) := fun n =>
    h _ _ (by simp) fun y hy => by
      obtain ⟨v, -, rfl⟩ := List.mem_map.1 hy
      exact elemAt_lt w v n
  simp only [hop]

theorem arg_map_decodeF (f : Fmt) {xs : List Nat} {n : Nat} (h : n < xs.length) : arg (xs.map (decodeF f)) n = decodeF f (xs.getD n 0) := by
  simp [arg, h]

/-- A floating-point word on the numbers of its operands (06 R169). -/
theorem vecFp_eq {r : Rounding} {f : FpFmt} {op : Fmt → Rounding → List Num → Nat × Flags}
    {rule : Fmt → Rounding → Num → Num → Num → Nat × Flags}
    (h : ∀ fm md xs (x : Nat → Num), (∀ n < srcs.length, arg xs n = x n) → op fm md xs = rule fm md (x 0) (x 1) (x 2)) :
    vecFp s tk srcs d k r f op = vecElems s tk srcs d k (elemF f) (elemF f) true (.ok ()) fun i => onNums f r rule i.sys.fmode := by
  unfold vecFp
  refine vecElems_congr fun i xs hlen _ => ?_
  exact h _ _ _ (fun n => decodeF (FpFmt.fmt f) (xs.getD n 0)) fun n hn => arg_map_decodeF _ (hlen ▸ hn)

/-- A sign operation keeps every other bit; only the parity of its result counts (06 R172). -/
theorem vecSign_eq {f : FpFmt} {op rule : Nat → Nat → Nat} (h : ∀ x < 2, ∀ y < 2, op x y % 2 = rule x y % 2) :
    vecSign s tk srcs d f k op = vecElems s tk srcs d k (elemF f) (elemF f) false (.ok ()) fun _ => resigned f rule :=
  vecElems_congr fun i xs _ _ => by
    simp only [withSign, signOf, resigned, h _ (Nat.mod_lt _ (by decide)) _ (Nat.mod_lt _ (by decide))]

/-- An integer word on encodings of its width (06 R173). -/
theorem vecInt_eq {a b : VReg} {f : IntFmt} {op : Nat → Nat → Nat → Nat} {rule : Nat → Nat → Nat → Int}
    (h : ∀ w x y, 0 < w → x < 2 ^ w → y < 2 ^ w → ((op w x y : Nat) : Int) % 2 ^ w = rule w x y % 2 ^ w) :
    vecInt s tk d a b f k op = vecElems s tk [a, b] d k (elemI f) (elemI f) false (.ok ()) fun _ => onInts f rule := by
  unfold vecInt
  refine vecElems_congr fun i xs hlen hlt => ?_
  obtain ⟨x, y, rfl⟩ := List.length_eq_two.1 hlen
  have hw : 0 < (elemI f).bits := by cases f <;> decide
  have hxy := h (elemI f).bits x y hw (hlt x (by simp)) (hlt y (by simp))
  have hnat : op (elemI f).bits x y % 2 ^ (elemI f).bits = (rule (elemI f).bits x y % 2 ^ (elemI f).bits).toNat := by
    rw [← hxy]
    norm_cast
  simp only [onInts, List.getD_cons_zero, List.getD_cons_succ, hnat]

end

-- The integers that encodings stand for.

/-- An encoding and the integer that it stands for agree modulo 2^w. -/
theorem intOf_emod (signed : Bool) (w v : Nat) : intOf signed w v % 2 ^ w = (v : Int) % 2 ^ w := by
  unfold intOf
  split
  · exact Int.sub_emod_right ..
  · rfl

/-- The encoding of an integer agrees with it modulo 2^w. -/
theorem twos_emod (w : Nat) (x : Int) : ((twos w x : Nat) : Int) % 2 ^ w = x % 2 ^ w := by
  have hpos : (0 : Int) < 2 ^ w := by positivity
  rw [twos, Int.toNat_of_nonneg (Int.emod_nonneg _ hpos.ne'), Int.emod_emod]

/-- The smaller encoding stands for the smaller integer. -/
theorem pickI_min (signed : Bool) (w x y : Nat) :
    ((pickI signed false w x y : Nat) : Int) % 2 ^ w = min (intOf signed w x) (intOf signed w y) % 2 ^ w := by
  unfold pickI
  by_cases hle : intOf signed w x ≤ intOf signed w y
  · simp [hle, intOf_emod]
  · simp [hle, min_eq_right (not_le.1 hle).le, intOf_emod]

/-- The larger encoding stands for the larger integer. -/
theorem pickI_max (signed : Bool) (w x y : Nat) :
    ((pickI signed true w x y : Nat) : Int) % 2 ^ w = max (intOf signed w x) (intOf signed w y) % 2 ^ w := by
  unfold pickI
  by_cases hle : intOf signed w x ≤ intOf signed w y
  · simp [hle, intOf_emod]
  · simp [hle, max_eq_left (not_le.1 hle).le, intOf_emod]

/-- An instruction with an entry of `elemRule` is the run of the entry. -/
theorem exec_eq_elemRun {i : Instr} {r : ElemRule} (s : State) (h : elemRule i = some r) : exec i s = r.run s := by
  cases i
  case vadd | vsub | vmul | vdiv | vsqrt | vfma | vfms | vfnma =>
    cases h
    simp only [exec_vadd, exec_vsub, exec_vmul, exec_vdiv, exec_vsqrt, exec_vfma, exec_vfms, exec_vfnma, execVadd, execVsub, execVmul,
      execVdiv, execVsqrt, execVfma, execVfms, execVfnma]
    exact vecFp_eq fun fm md xs x hx => by simp [hx]
  case vmin | vmax => cases h; rfl
  case vsgnNeg | vsgnAbs | vsgnCp | vsgnXs =>
    cases h
    simp only [exec_vsgnNeg, exec_vsgnAbs, exec_vsgnCp, exec_vsgnXs, execVsgnNeg, execVsgnAbs, execVsgnCp, execVsgnXs]
    exact vecSign_eq fun x hx y hy => by omega
  case vsgnExp tk d a f k => cases h; cases f <;> rfl
  case viadd | vimul | vand | vor | vxor | vshl | vshr =>
    cases h
    simp only [exec_viadd, exec_vimul, exec_vand, exec_vor, exec_vxor, exec_vshl, exec_vshr, execViadd, execVimul, execVand, execVor,
      execVxor, execVshl, execVshr]
    exact vecInt_eq fun w x y _ _ _ => by push_cast; rfl
  case visub =>
    cases h
    simp only [exec_visub, execVisub]
    refine vecInt_eq fun w x y _ _ hy => ?_
    push_cast [Nat.cast_sub (show y ≤ x + 2 ^ w by omega)]
    exact (congrArg (· % (2 : Int) ^ w) (by ring)).trans (Int.add_emod_right ..)
  case vsar => cases h; rw [exec_vsar, execVsar]; exact vecInt_eq fun _ _ _ _ _ _ => twos_emod ..
  case vimin => cases h; rw [exec_vimin, execVimin]; exact vecInt_eq fun _ _ _ _ _ _ => pickI_min ..
  case vimax => cases h; rw [exec_vimax, execVimax]; exact vecInt_eq fun _ _ _ _ _ _ => pickI_max ..
  all_goals cases h

/-- Settles O18: every such word is the run of its entry of `elemRule`; without an enabled exception it completes, and with one it traps
FPX, which a boundary delivers. -/
theorem elementResults : Obligations.ElementResults := by
  constructor
  · intro i s r hrule hready j on res fl hquiet
    rw [exec_eq_elemRun s hrule, elemRun_eq]
    exact vecRun_completes hready rfl rfl hquiet
  · intro i s r hrule hready hfp j on fl hloud
    have hflags : (r.effect j).flags = some fl := if_pos hfp
    refine ⟨fpxLanes (enabled j.sys.fmode) fl, fpxUnion (enabled j.sys.fmode) fl, fun l hl => fpxLanes_getLsbD _ _ hl,
      fun b _ => fpxUnion_getLsbD _ _ b, ?_, fun hfw hb hp hh hv => ?_⟩
    · rw [exec_eq_elemRun s hrule, elemRun_eq]
      exact vecRun_fpx hready rfl rfl hflags hloud
    · exact raiseFpx_lanes hfw hb hp hh hv ..

end Sys2Proof.Machine
end

section
/-! Conversions, block quantisation and exact accumulators (06 R176 to R182): each word is a vector run whose effect is the one of the
statement, with its blocks cut and its two's-complement operands read as the spec writes them. -/

namespace Sys2Proof.Machine

open Host

/-- A list of k n values cut into pieces of n. -/
theorem chunks_map_range' {α : Type} (g : Nat → α) (n k o : Nat) :
    chunks n k ((List.range' o (n * k)).map g) = (List.range k).map fun q => (List.range n).map fun e => g (o + n * q + e) := by
  induction k generalizing o with
  | zero => rfl
  | succ k ih =>
    have hsplit : (List.range' o (n * (k + 1))).map g = (List.range' o n).map g ++ (List.range' (o + n) (n * k)).map g := by
      rw [← List.map_append, Nat.mul_succ, Nat.add_comm (n * k), ← List.range'_append_1]
    have hlen : ((List.range' o n).map g).length = n := by simp
    rw [chunks, hsplit, List.take_left' hlen, List.drop_left' hlen, ih, List.range_succ_eq_map, List.map_cons, List.map_map]
    refine congrArg₂ List.cons ?_ (List.map_congr_left fun q _ => List.map_congr_left fun e _ => congrArg g (by rw [Nat.mul_succ]; omega))
    rw [List.range'_eq_map_range, List.map_map]
    rfl

/-- 512 lanes cut into 16 blocks of 32 (06 R178). -/
theorem chunks_lanes {α : Type} (g : Nat → α) :
    chunks 32 16 ((List.range 512).map g) = (List.range 16).map fun q => (List.range 32).map fun n => g (32 * q + n) := by
  have h := chunks_map_range' g 32 16 0
  simpa only [← List.range_eq_range', Nat.zero_add] using h

/-- 32 bits in two's complement. -/
theorem intOf_eq_toInt {v : Nat} (h : v < 2 ^ 32) : intOf true 32 v = (BitVec.ofNat 32 v).toInt := by
  rw [BitVec.toInt_eq_toNat_cond, BitVec.toNat_ofNat, Nat.mod_eq_of_lt h]
  simp only [intOf, Bool.true_and, decide_eq_true_eq]
  split <;> split <;> omega

/-- A lane in two's complement. -/
theorem intOf_laneAt (v : Lanes) (n : Nat) : intOf true 32 (laneAt v n) = (BitVec.ofNat 32 (laneAt v n)).toInt :=
  intOf_eq_toInt (laneAt_lt v n)

/-- Equal results give equal effects. -/
theorem elemEffect_congr {w : Elem} {old : Lanes} {on : Nat → Bool} {res res' : Nat → Nat × Flags} (h : ∀ n, res n = res' n) :
    (⟨setElems w old on fun n => (res n).1, some fun l => if on l then (res l).2 else 0, id⟩ : VecEffect) =
      ⟨setElems w old on fun n => (res' n).1, some fun l => if on l then (res' l).2 else 0, id⟩ := by
  rw [funext h]

/-- Settles O23: the four words are vector runs, and each effect is the one stated. -/
theorem conversionResults : Obligations.ConversionResults := by
  intro s tk d a b r k c j m va vb md
  refine ⟨fun h g f hready => ?_, fun t hready => ?_, fun f hready => ?_, fun f hready => ?_⟩
  · intro n64 on half from' into res fl hquiet
    exact (exec_vcvt ..).trans (vecRun_completes hready rfl rfl fun _ hfl => Option.some.inj hfl ▸ hquiet)
  · intro blocks elems image fl hquiet
    rw [exec_vqnt, execVqnt]
    refine vecRun_completes hready rfl ?_ fun _ hfl => Option.some.inj hfl ▸ hquiet
    simp only [chunks_lanes, List.map_map]
    rfl
  · intro on res fl hquiet
    rw [exec_vxacc, execVxacc]
    refine vecRun_completes hready rfl ?_ fun _ hfl => Option.some.inj hfl ▸ hquiet
    simp only [intOf_laneAt]
    rfl
  · intro on res fl hquiet
    have hres : ∀ n, accRound (HFmt.fmt f) (modeOf r j.sys.fmode) (j.quad a.val n) (intOf true 32 (laneAt vb n)) = res n := fun n =>
      congrArg (accRound _ _ _) (intOf_laneAt ..)
    exact (exec_vxrnd ..).trans (vecRun_completes hready rfl (congrArg Except.ok (elemEffect_congr hres)) fun _ hfl =>
      Option.some.inj hfl ▸ hquiet)

end Sys2Proof.Machine
end

section
/-! Vector loads and stores (06 R187 to R190, Table 6.9): the addresses of the elements, their checks in ascending order, and the runs. -/

namespace Sys2Proof.Machine

open Host

-- Addresses.

/-- Doubleword 0 in integers. -/
theorem dword0_eq (v : Lanes) : dword0 v = BitVec.ofInt 64 (baseOf v) := by
  rw [dword0, ← BitVec.ofInt_natCast]
  exact congrArg (BitVec.ofInt 64) (by simp [elemAt, baseOf])

theorem unitAddr_eq (f : VFmt) : unitAddr f = unitEa f := by
  funext vs e
  simp [unitAddr, unitEa, dword0_eq, BitVec.ofInt_add, BitVec.ofInt_mul, BitVec.ofNat_mul]

theorem strideAddr_eq : strideAddr = strideEa := by
  funext vs e
  simp [strideAddr, strideEa, dword0_eq, BitVec.ofInt_add, BitVec.ofInt_mul]

theorem gatherAddr_eq : gatherAddr = gatherEa := by
  funext vs e
  rw [gatherAddr, gatherEa, dword0_eq, BitVec.ofInt_add]
  rfl

/-- A vector load or store by the entry of `vecMemRule`. -/
def vecMemRun (s : State) (st : Bool) (tk : Tok) (d : VReg) (srcs : List VReg) (c : Fin 8) (f : VFmt) (k : KReg)
    (addr : List Lanes → Nat → Word) : Outcome State Fault Refusal :=
  if st then vecStore s tk d srcs c f k addr else vecLoad s tk d srcs c f k addr

section
variable {i : Instr} {s : State} {st : Bool} {tk : Tok} {d : VReg} {srcs : List VReg} {c : Fin 8} {f : VFmt} {k : KReg}
  {addr : List Lanes → Nat → Word}

/-- An instruction with an entry of `vecMemRule` is that load or store. -/
theorem exec_eq_vecMem (h : vecMemRule i = some (st, tk, d, srcs, c, f, k, addr)) :
    exec i s = vecMemRun s st tk d srcs c f k addr := by
  cases i
  case vld => cases h; rw [exec_vld, execVld, unitAddr_eq]; rfl
  case vst => cases h; rw [exec_vst, execVst, unitAddr_eq]; rfl
  case vlds => cases h; rw [exec_vlds, execVlds, strideAddr_eq]; rfl
  case vsts => cases h; rw [exec_vsts, execVsts, strideAddr_eq]; rfl
  case vgath => cases h; rw [exec_vgath, execVgath, gatherAddr_eq]; rfl
  case vscat => cases h; rw [exec_vscat, execVscat, gatherAddr_eq]; rfl
  all_goals cases h

/-- The addresses come from the address sources alone: what a store reads behind them does not matter. -/
theorem vecMemRule_addr_append (h : vecMemRule i = some (st, tk, d, srcs, c, f, k, addr)) {vs : List Lanes} (hlen : vs.length = srcs.length)
    (ws : List Lanes) : addr (vs ++ ws) = addr vs := by
  have hget : ∀ n < srcs.length, (vs ++ ws).getD n zeroLanes = vs.getD n zeroLanes := fun n hn =>
    List.getD_append _ _ _ _ (hlen ▸ hn)
  cases i
  case vld | vst =>
    cases h
    funext e
    simp only [unitEa, hget 0 (by simp)]
  case vlds | vsts =>
    cases h
    funext e
    simp only [strideEa, hget 0 (by simp), hget 1 (by simp)]
  case vgath | vscat =>
    cases h
    funext e
    simp only [gatherEa, hget 0 (by simp), hget 1 (by simp)]
  all_goals cases h

end

-- Checks and values.

/-- Elements whose addresses may all be accessed pass their checks in order (06 R188). -/
theorem elemAddrs_mapped {s : State} {g : CoreNo} {n : Nat} {w : Need} {ea : Nat → Word} {pa : Nat → Nat} {es : List Nat}
    (h : ∀ e ∈ es, s.mapped g (ea e) n w (pa e)) :
    s.elemAddrs g n w (es.map fun e => (e, ea e)) = .ok (es.map fun e => (e, ea e, pa e)) := by
  induction es with
  | nil => rfl
  | cons e es ih =>
    obtain ⟨he, hes⟩ := List.forall_mem_cons.1 h
    rw [List.map_cons, State.elemAddrs, mapped_scalarAddr he, ih hes]
    rfl

theorem find?_of_mem {α : Type} {f : Nat → α} {es : List Nat} {e : Nat} (h : e ∈ es) :
    (es.map fun e => (e, f e)).find? (fun x => x.1 == e) = some (e, f e) := by
  induction es with
  | nil => cases h
  | cons a es ih =>
    rw [List.map_cons, List.find?_cons]
    by_cases ha : a = e
    · simp [ha]
    · rw [beq_false_of_ne ha]
      exact ih ((List.mem_cons.1 h).resolve_left (Ne.symm ha))

theorem active_iff_mem_actives (w : Elem) (m : Mask) (e : Nat) : active w m e = true ↔ e ∈ actives w m := by
  simp [active, actives]

section
variable {s : State} {tk : Tok} {d : VReg} {srcs : List VReg} {c : Fin 8} {f : VFmt} {k : KReg} {addr : List Lanes → Nat → Word}
  {pa : Nat → Nat}

/-- A load whose active elements may all be accessed completes with their values (06 R187 to R189). -/
theorem vecLoad_done (h : s.vecReady tk srcs (some d))
    (hmap : ∀ e ∈ actives (elemV f) ((s.inst s.cur.core).mask k),
      s.mapped s.cur.core (addr (srcs.map (s.inst s.cur.core).readV) e) (elemBytes f) .read (pa e)) :
    let j := s.inst s.cur.core
    let es := actives (elemV f) (j.mask k)
    vecLoad s tk d srcs c f k addr = .next (s.wordDone (s.vecCommit srcs (some d)
      ⟨setElems (elemV f) (j.oldV d) (active (elemV f) (j.mask k)) fun e => j.elemRead e (leNat (s.mem.read (pa e) (elemBytes f))), none,
        fun t => t.noteElems s.cur.core c false (elemBytes f)
          (es.map fun e => ((addr (srcs.map j.readV) e).toNat, pa e)) []⟩) tk) := by
  intro j es
  refine vecRun_completes h rfl ?_ fun _ hfl => by cases hfl
  simp only [elemAddrs_mapped hmap, Except.map, List.map_map]
  refine congrArg (fun x => Except.ok (VecEffect.mk x none _)) (setElems_congr rfl fun e he => ?_)
  rw [find?_of_mem (f := fun e => (addr (srcs.map j.readV) e, pa e)) ((active_iff_mem_actives ..).1 he)]

/-- A store's element writes, when none is performed and all may be (06 R187, R188). -/
theorem storeElems_mapped {g : CoreNo} {m : Mask} {ea : Nat → Word} {data : Lanes}
    (hmap : ∀ e ∈ actives (elemV f) m, s.mapped g (ea e) (elemBytes f) .write (pa e)) :
    s.storeElems g f m ea data = .ok ((actives (elemV f) m).map fun e =>
      .mem (ea e).toNat (pa e) (leBytes (elemBytes f) (elemAt (elemV f) data e))) := by
  rw [State.storeElems, elemAddrs_mapped hmap]
  exact congrArg Except.ok (List.map_map ..)

/-- A store completes with the element writes that are left to perform (06 R187 to R189). -/
theorem vecStore_done {l : List ElemStore} (h : s.vecReady tk (srcs ++ [d]) none)
    (hl : (s.inst s.cur.core).writesLeft (s.storeElems s.cur.core f ((s.inst s.cur.core).mask k)
      (addr ((srcs ++ [d]).map (s.inst s.cur.core).readV)) ((s.inst s.cur.core).readV d)) = .ok l) :
    vecStore s tk d srcs c f k addr = .next (s.wordDone (s.vecCommit (srcs ++ [d]) none
      ⟨zeroLanes, none, fun t =>
        ((l.foldl (fun u e => u.putElem s.cur.core e) t).noteElems s.cur.core c true (elemBytes f) (storeAddrs l) []).sink s.cur.core⟩)
      tk) := by
  refine vecRun_completes h rfl ?_ fun _ hfl => by cases hfl
  have hdata : ((srcs ++ [d]).map (s.inst s.cur.core).readV).getD srcs.length zeroLanes = (s.inst s.cur.core).readV d := by simp
  simp only [hdata, hl]
  rfl

end

/-- Settles O24: each word is a load or a store by its entry of `vecMemRule`, whose elements pass their checks. -/
theorem vectorMemory : Obligations.VectorMemory := by
  intro i s st tk d srcs c f k addr pa hrule g j n w vs es all
  rw [exec_eq_vecMem hrule]
  have haddr : addr ((srcs ++ [d]).map j.readV) = addr vs := by
    rw [List.map_append]
    exact vecMemRule_addr_append hrule (by simp) _
  refine ⟨?_, ?_, ?_⟩
  · rintro rfl hready hmap
    exact vecLoad_done hready hmap
  · rintro rfl hready hnone hmap
    have hleft : j.writesLeft (s.storeElems g f (j.mask k) (addr ((srcs ++ [d]).map j.readV)) (j.readV d)) =
        .ok (es.map fun e => .mem (addr vs e).toNat (pa e) (leBytes n (elemAt w (j.readV d) e))) := by
      rw [Inst.writesLeft, hnone, haddr]
      exact storeElems_mapped hmap
    have hall : storeAddrs (es.map fun e => .mem (addr vs e).toNat (pa e) (leBytes n (elemAt w (j.readV d) e))) = all := by
      simp [storeAddrs, List.filterMap_map, all]
    refine (vecStore_done hready hleft).trans ?_
    simp only [hall, List.foldl_map]
    rfl
  · rintro rfl hready l hl
    have hleft : j.writesLeft (s.storeElems g f (j.mask k) (addr ((srcs ++ [d]).map j.readV)) (j.readV d)) = .ok l := by
      rw [Inst.writesLeft, hl]
    exact vecStore_done hready hleft

end Sys2Proof.Machine
end

section
/-! Lines of tiles (02 Table 2.8, 06 R191 to R193): the check of a line access, the two words, and how lines partition a tile. -/

namespace Sys2Proof.Machine

open Host

section
variable {i : Inst} {t : TReg}

/-- The check of a line access to an allocated tile is `lineOk`. -/
theorem lineCheck_eq {x : Tile} (ht : i.tiles[t] = some x) (f : TileFmt) (e : Dir) (n : Nat) :
    lineCheck i t (some (tileWide f)) e n =
      (check (lineOk x f e n) .bufferRange (BitVec.ofNat 64 (0x100 + t.val))).map fun _ => x := by
  unfold lineCheck Inst.tileAt lineOk
  simp only [ht, bind, Except.bind]
  cases x.form <;> cases f <;> rfl

/-- A line access to a tile of a form that its format and line fit passes its check. -/
theorem lineCheck_ok {x : Tile} {f : TileFmt} {e : Dir} {n : Nat} (ht : i.tiles[t] = some x) (hok : lineOk x f e n = true) :
    lineCheck i t (some (tileWide f)) e n = .ok x := by
  rw [lineCheck_eq ht, hok]
  rfl

/-- A line access to a tile that is not allocated traps BUFFER_RANGE with the tile's number. -/
theorem lineCheck_unallocated (ht : i.tiles[t] = none) (wide : Option Bool) (e : Dir) (n : Nat) :
    lineCheck i t wide e n = .error (.trap .bufferRange (BitVec.ofNat 64 t.val)) := by
  unfold lineCheck Inst.tileAt
  rw [ht]
  rfl

end

section
variable {s : State} {tk : Tok} {v : VReg} {t : TReg} {e : Dir} {n : Fin 64} {f : TileFmt} {k : KReg}

/-- vtrd of an allocated tile of its form completes with the lines' elements (06 R191, R193). -/
theorem vtrd_done {x : Tile} (ht : (s.inst s.cur.core).tiles[t] = some x) (hok : lineOk x f e n.val = true)
    (h : s.vecReady tk [] (some v)) :
    let j := s.inst s.cur.core
    exec (.vtrd tk v t e n f k) s = .next (s.wordDone (s.vecCommit [] (some v)
      ⟨setElems x.entryElem (j.oldV v) (active x.entryElem (j.mask k)) fun m => j.elemRead m (x.lineEntry e n.val m), none, id⟩) tk) := by
  intro j
  rw [exec_vtrd, execVtrd]
  refine vecRun_completes h rfl ?_ fun _ hfl => by cases hfl
  rw [lineCheck_ok ht hok]
  rfl

/-- vtrd of a tile that is not allocated traps, with TW after its waits (LOG 100). -/
theorem vtrd_traps (ht : (s.inst s.cur.core).tiles[t] = none)
    (h : tk.tw = false ∧ vOperandChecks [] (some v) = .ok () ∨ s.vecReady tk [] (some v)) :
    exec (.vtrd tk v t e n f k) s = .next (s.raise .bufferRange (BitVec.ofNat 64 t.val)) := by
  rw [exec_vtrd, execVtrd]
  refine vecRun_effect_traps h ?_
  rw [lineCheck_unallocated ht]
  rfl

/-- vtwr of which nothing is performed yet completes with its elements in the lines (06 R191). -/
theorem vtwr_done {x : Tile} (ht : (s.inst s.cur.core).tiles[t] = some x) (hok : lineOk x f e n.val = true)
    (hnone : (s.inst s.cur.core).doneVe.writes = none) (h : s.vecReady tk [v] none) :
    let j := s.inst s.cur.core
    exec (.vtwr tk v t e n f k) s = .next (s.wordDone (s.vecCommit [v] none ⟨zeroLanes, none, fun u => u.modInst s.cur.core fun y =>
      y.setTile t (some (x.putLines e n.val (active x.entryElem (j.mask k)) (elemAt x.entryElem (j.readV v))))⟩) tk) := by
  intro j
  rw [exec_vtwr, execVtwr]
  refine vecRun_completes h rfl ?_ fun _ hfl => by cases hfl
  simp only [hnone, lineCheck_ok ht hok]
  rfl

/-- vtwr performed in part completes with the element writes that are left (06 R193; LOG 96). -/
theorem vtwr_left {l : List ElemStore} (hl : (s.inst s.cur.core).doneVe.writes = some l) (h : s.vecReady tk [v] none) :
    exec (.vtwr tk v t e n f k) s =
      .next (s.wordDone (s.vecCommit [v] none ⟨zeroLanes, none, fun u => l.foldl (fun u x => u.putElem s.cur.core x) u⟩) tk) := by
  rw [exec_vtwr, execVtwr]
  refine vecRun_completes h rfl ?_ fun _ hfl => by cases hfl
  simp only [hl]

/-- vtwr of a tile that is not allocated traps, with TW after its waits (LOG 100). -/
theorem vtwr_traps (ht : (s.inst s.cur.core).tiles[t] = none) (hnone : (s.inst s.cur.core).doneVe.writes = none)
    (h : tk.tw = false ∧ vOperandChecks [v] none = .ok () ∨ s.vecReady tk [v] none) :
    exec (.vtwr tk v t e n f k) s = .next (s.raise .bufferRange (BitVec.ofNat 64 t.val)) := by
  rw [exec_vtwr, execVtwr]
  refine vecRun_effect_traps h ?_
  simp only [hnone, lineCheck_unallocated ht]
  rfl

end

/-- The lines of a direction partition a tile: `lineOf` and `lineElem` are inverse to each other (02 Table 2.8). -/
theorem lineElem_partition (dir : Dir) {n e : Nat} (hn : n < 64) (he : e < 64) :
    (lineElem dir n e).1 < 64 ∧ (lineElem dir n e).2 < 64 ∧ lineOf dir (lineElem dir n e).1 (lineElem dir n e).2 = (n, e) ∧
      lineElem dir (lineOf dir n e).1 (lineOf dir n e).2 = (n, e) := by
  cases dir <;> simp only [lineElem, lineOf, Prod.mk.injEq, and_true, true_and] <;> omega

/-- Settles O25: the words by the lemmas on vtrd and vtwr, and the partition by `lineElem_partition`. -/
theorem tileLineAccess : Obligations.TileLineAccess := by
  refine ⟨fun s tk v t e n f k => ?_, fun dir n e hn he => lineElem_partition dir hn he⟩
  intro g j
  exact ⟨fun x ht hok h => vtrd_done ht hok h, fun x ht hok hnone h => vtwr_done ht hok hnone h, fun l hl h => vtwr_left hl h,
    fun ht h => vtrd_traps ht h, fun ht hnone h => vtwr_traps ht hnone h⟩

end Sys2Proof.Machine
end

section
/-! Conditional streams (06 R196 to R198): the check of the field, the check of the records, and the runs of vpush and of the two pops. -/

namespace Sys2Proof.Machine

open Host

/-- A field that names a conditional stream passes its check. -/
theorem condCheck_named {q : VReg} (h : q = 28 ∨ q = 29) : condCheck q = .ok () := if_pos h

/-- Any other field traps QUEUE_PROTOCOL with its number. -/
theorem condCheck_unnamed {q : VReg} (h : ¬(q = 28 ∨ q = 29)) :
    condCheck q = .error (.trap .queueProtocol (BitVec.ofNat 64 q.val)) := if_neg h

/-- The records that a pop of n takes: they are there, and all of the width of its elements. -/
def poppable (x : LaneW) (l : List Record) (n : Nat) : Prop := n ≤ l.length ∧ ∀ r ∈ l.take n, r.wide = (x == LaneW.b64)

/-- A pop of such records passes its check. -/
theorem popCheck_ok {q : VReg} {x : LaneW} {l : List Record} {n : Nat} (h : poppable x l n) : popCheck q x l n = .ok () := by
  obtain ⟨hlen, hwide⟩ := h
  have hall : ((l.take n).all fun r => r.wide == (x == LaneW.b64)) = true := List.all_eq_true.2 fun r hr => beq_iff_eq.2 (hwide r hr)
  rw [popCheck, hall, decide_eq_true hlen]
  rfl

/-- Any other pop traps QUEUE_PROTOCOL with the number of its stream. -/
theorem popCheck_traps {q : VReg} {x : LaneW} {l : List Record} {n : Nat} (h : ¬poppable x l n) :
    popCheck q x l n = .error (.trap .queueProtocol (BitVec.ofNat 64 q.val)) := by
  have hno : (decide (n ≤ l.length) && (l.take n).all fun r => r.wide == (x == LaneW.b64)) = false := by
    rw [← Bool.not_eq_true]
    intro hyes
    simp only [Bool.and_eq_true, decide_eq_true_eq, List.all_eq_true, beq_iff_eq] at hyes
    exact h hyes
  rw [popCheck, hno]
  rfl

section
variable {s : State} {tk : Tok} {d q a : VReg} {k : KReg} {x : LaneW}

/-- Two checks of one trap, one after the other: where one of them fails they trap. -/
theorem checks_trap {c d : Res Unit} {e : Stop} {p : Prop} (hc : ¬p → c = .error e) (hp : p → c = .ok ()) (hd : ¬p ∨ d = .error e) :
    (do c; d) = .error e := by
  by_cases h : p
  · rw [hp h, hd.resolve_left (not_not_intro h)]
    rfl
  · rw [hc h]
    rfl

/-- vpush completes where its field names a stream in which its records fit (06 R197). -/
theorem vpush_done (hq : q = 28 ∨ q = 29)
    (hfits : slots ((s.inst s.cur.core).cond q) + (actives (elemW x) ((s.inst s.cur.core).mask k)).length *
      (if x == LaneW.b64 then 2 else 1) ≤ 2048) (h : s.vecReady tk [a] none) :
    let j := s.inst s.cur.core
    let es := actives (elemW x) (j.mask k)
    exec (.vpush tk q a x k) s = .next (s.wordDone (s.vecCommit [a] none ⟨zeroLanes, none, fun t =>
      let u := t.modInst s.cur.core fun y =>
        y.setCond q (y.cond q ++ es.map fun e => ⟨x == LaneW.b64, BitVec.ofNat 64 (elemAt (elemW x) (j.readV a) e)⟩)
      if es.isEmpty then u else u.sink s.cur.core⟩) tk) := by
  intro j es
  rw [exec_vpush, execVpush]
  refine vecRun_completes h ?_ rfl fun _ hfl => by cases hfl
  rw [condCheck_named hq, decide_eq_true hfits]
  rfl

/-- vpush into what is no stream, or of more than fits, traps (06 R197). -/
theorem vpush_traps (h : ¬(q = 28 ∨ q = 29) ∨ ¬slots ((s.inst s.cur.core).cond q) +
      (actives (elemW x) ((s.inst s.cur.core).mask k)).length * (if x == LaneW.b64 then 2 else 1) ≤ 2048)
    (hops : vOperandChecks [a] none = .ok ()) :
    exec (.vpush tk q a x k) s = .next (s.raise .queueProtocol (BitVec.ofNat 64 q.val)) := by
  rw [exec_vpush, execVpush]
  refine vecRun_check_traps hops (checks_trap condCheck_unnamed condCheck_named (h.imp_right fun hno => ?_))
  rw [decide_eq_false hno]
  rfl

/-- A pop of records that are there, of one width, completes (06 R198). -/
theorem condPop_done {ns : List Nat} {also : Inst → Inst} (hq : q = 28 ∨ q = 29)
    (hpop : poppable x ((s.inst s.cur.core).cond q) ns.length) (h : s.vecReady tk [] (some d)) :
    let j := s.inst s.cur.core
    condPop s tk d q x ns also = .next (s.wordDone (s.vecCommit [] (some d)
      ⟨setElems (elemW x) (j.oldV d) ns.contains fun n => (((j.cond q)[ns.idxOf n]?).map (·.value.toNat)).getD 0, none, fun t =>
        let u := t.modInst s.cur.core fun y => also (y.setCond q ((j.cond q).drop ns.length))
        if ns.isEmpty then u else u.sink s.cur.core⟩) tk) := by
  refine vecRun_completes h ?_ rfl fun _ hfl => by cases hfl
  rw [condCheck_named hq]
  exact popCheck_ok hpop

/-- A pop from what is no stream, of more records than there are, or of records of another width traps (06 R198). -/
theorem condPop_traps {ns : List Nat} {also : Inst → Inst}
    (h : ¬(q = 28 ∨ q = 29) ∨ ¬poppable x ((s.inst s.cur.core).cond q) ns.length) (hops : vOperandChecks [] (some d) = .ok ()) :
    condPop s tk d q x ns also = .next (s.raise .queueProtocol (BitVec.ofNat 64 q.val)) :=
  vecRun_check_traps hops (checks_trap condCheck_unnamed condCheck_named (h.imp_right popCheck_traps))

/-- The effect of vpop.pack: the elements from 0 take the records in order (06 R198). -/
theorem packed_elems (w : Elem) (old : Lanes) (l : List Record) (n : Nat) :
    setElems w old (List.range n).contains (fun e => ((l[(List.range n).idxOf e]?).map (·.value.toNat)).getD 0) =
      setElems w old (fun e => decide (e < n)) fun e => ((l[e]?).map (·.value.toNat)).getD 0 := by
  refine setElems_congr (funext fun e => ?_) fun e he => ?_
  · simp
  · have hlt : e < n := by simpa using he
    have hidx := List.nodup_range.idxOf_getElem e (hlt.trans_eq (List.length_range (n := n)).symm)
    rw [List.getElem_range] at hidx
    rw [hidx]

end

/-- Settles O27: vpush, and each pop as a `condPop`, by whether the field, the room and the records pass their checks. -/
theorem conditionalStreams : Obligations.ConditionalStreams := by
  intro s tk d q a b k x g j w old es rec64 named stop n fits
  have hcount : (List.range n).length = n := List.length_range
  have hn : n ≤ old.length := Nat.min_le_left ..
  refine ⟨fun hq hfits h => vpush_done hq hfits h, fun hq hwide h => ?_, fun hq hlen hwide h => ?_,
    fun h hops => vpush_traps h hops, fun h hops => ?_, fun h hops => ?_⟩
  · rw [exec_vpopPack, execVpopPack]
    refine (condPop_done hq (hcount.symm ▸ ⟨hn, hwide⟩) h).trans ?_
    simp only [packed_elems, List.length_range, List.isEmpty_iff, List.range_eq_nil]
    rfl
  · exact (exec_vpopExp ..).trans (condPop_done hq ⟨hlen, hwide⟩ h)
  · rw [exec_vpopPack, execVpopPack]
    refine condPop_traps (h.imp_right fun ⟨r, hr, hne⟩ hpop => hne (hpop.2 r (hcount.symm ▸ hr))) hops
  · refine (exec_vpopExp ..).trans (condPop_traps (h.imp_right fun hbad hpop => ?_) hops)
    obtain hfew | ⟨r, hr, hne⟩ := hbad
    · exact absurd hpop.1 (not_le.2 hfew)
    · exact hne (hpop.2 r hr)

end Sys2Proof.Machine
end

section
/-! What a VE word may change (06 R164 to R166, R169 to R198, 07 R204, 05 R149 to R152): the relations `Inst.VecFrame` and `State.VecFrame`
say what a word with some operands leaves unchanged, and every operation on registers, queues and lanes keeps within them. -/

namespace Sys2Proof.Machine

open Host

/-- What a vector word may change: the registers that it writes, the operands that may be queues, its mask register, the flags, the trap
lane mask, tiles, conditional streams, and bytes of memory. -/
structure VecScope where
  regs : List VReg
  operands : List VReg
  km : Option KReg
  flags : Prop
  trapMask : Prop
  tile : TReg → Prop
  cond : VReg → Prop
  stored : Nat → Prop

/-- The parts of an instance that no vector word changes. -/
def Inst.vecSteady (i : Inst) := (i.s, i.sys, i.qw, i.qr, i.mdq, i.z, { i.rest with condA := [], condB := [] })

/-- From i to j only what the scope holds has changed, and the default token FIFOs of the VE. -/
structure Inst.VecFrame (c : VecScope) (i j : Inst) : Prop where
  v : ∀ r : Fin 24, (∀ d ∈ c.regs, d.val ≠ r.val) → j.v[r] = i.v[r] := by intros; rfl
  k : ∀ k : Fin 8, some k ≠ c.km → j.k[k] = i.k[k] := by intros; rfl
  vq : ∀ q : Fin 8, (∀ r ∈ c.operands, vqNo r ≠ some q) → j.vq[q] = i.vq[q] := by intros; rfl
  flags : ¬c.flags → j.flags = i.flags := by intros; rfl
  trapMask : ¬c.trapMask → j.trapMask = i.trapMask := by intros; rfl
  tokens : ∀ f : Fin 16, f ≠ defaultIn .ve → f ≠ defaultOut .ve → j.tokens[f] = i.tokens[f] := by intros; rfl
  tiles : ∀ r : TReg, ¬c.tile r → j.tiles[r] = i.tiles[r] := by intros; rfl
  condA : ¬c.cond 28 → j.condA = i.condA := by intros; rfl
  condB : ¬c.cond 29 → j.condB = i.condB := by intros; rfl
  steady : j.vecSteady = i.vecSteady := by intros; rfl

section
variable {c : VecScope} {i j l : Inst}

theorem Inst.VecFrame.refl (i : Inst) : Inst.VecFrame c i i where

theorem Inst.VecFrame.trans (h : Inst.VecFrame c i j) (h' : Inst.VecFrame c j l) : Inst.VecFrame c i l where
  v r hr := (h'.v r hr).trans (h.v r hr)
  k n hn := (h'.k n hn).trans (h.k n hn)
  vq q hq := (h'.vq q hq).trans (h.vq q hq)
  flags hf := (h'.flags hf).trans (h.flags hf)
  trapMask hm := (h'.trapMask hm).trans (h.trapMask hm)
  tokens f hi ho := (h'.tokens f hi ho).trans (h.tokens f hi ho)
  tiles r hr := (h'.tiles r hr).trans (h.tiles r hr)
  condA ha := (h'.condA ha).trans (h.condA ha)
  condB hb := (h'.condB hb).trans (h.condB hb)
  steady := h'.steady.trans h.steady

theorem Inst.VecFrame.foldl {α : Type} {f : Inst → α → Inst} {xs : List α} (h : ∀ x ∈ xs, ∀ i, Inst.VecFrame c i (f i x)) (i : Inst) :
    Inst.VecFrame c i (xs.foldl f i) := by
  induction xs generalizing i with
  | nil => exact .refl i
  | cons x xs ih =>
    obtain ⟨hx, hxs⟩ := List.forall_mem_cons.1 h
    exact (hx i).trans (ih hxs _)

-- Registers, queues and lanes.

/-- A queue that an operand names is in the scope of its word. -/
theorem setVq_frame {r : VReg} (hr : r ∈ c.operands) {q : Fin 8} (hq : vqNo r = some q) (i : Inst) (x : List Lanes) :
    Inst.VecFrame c i { i with vq := i.vq.set q x } where
  vq p hp := vector_set_other i.vq (fun h => hp r hr (hq.trans (congrArg some h.symm))) x

theorem popVs_vecFrame {srcs : List VReg} (h : ∀ r ∈ srcs, r ∈ c.operands) (i : Inst) : Inst.VecFrame c i (i.popVs srcs) := by
  refine .foldl (fun r hr i => ?_) i
  have hnamed : r ∈ c.operands := h r (List.mem_eraseDups.1 (List.mem_filter.1 hr).1)
  unfold Inst.popV
  split
  · exact .refl i
  · next q hq => exact setVq_frame hnamed hq i _

theorem writeV_vecFrame {d : VReg} (hreg : d ∈ c.regs) (hop : d ∈ c.operands) (i : Inst) (x : Lanes) : Inst.VecFrame c i (i.writeV d x) := by
  unfold Inst.writeV
  split
  · split
    · next hlt => exact { v := fun r hr => Vector.getElem_set_ne hlt _ (hr d hreg) }
    · exact .refl i
  · next q hq => exact setVq_frame hop hq i _

theorem setFlags_vecFrame (h : c.flags) (i : Inst) (f : Vector (BitVec 5) 512) : Inst.VecFrame c i { i with flags := f } where
  flags hno := absurd h hno

theorem setMask_vecFrame {d : KReg} (h : c.km = some d) (i : Inst) (on val : Nat → Bool) : Inst.VecFrame c i (i.setMask d on val) where
  k n hn := vector_set_other i.k (fun e => hn (h ▸ congrArg some e)) _

theorem mem_block {d : VReg} {n : Nat} {r : Fin 24} (h : d.val ≤ r.val ∧ r.val < d.val + n) : ∃ x ∈ block d n, x.val = r.val :=
  ⟨Fin.ofNat 32 (d.val + (r.val - d.val)), List.mem_map.2 ⟨r.val - d.val, List.mem_range.2 (by omega), rfl⟩, by
    simp only [Fin.val_ofNat]; omega⟩

theorem setV_vecFrame {w : Vector Lanes 24} {i : Inst} (h : ∀ r : Fin 24, (∀ d ∈ c.regs, d.val ≠ r.val) → w[r] = i.v[r]) :
    Inst.VecFrame c i { i with v := w } where
  v := h

theorem setQuad_vecFrame {d : VReg} (h : c.regs = block d 4) (i : Inst) (on : Nat → Bool) (val : Nat → Int) :
    Inst.VecFrame c i (i.setQuad d.val on val) := by
  refine setV_vecFrame fun r hr => ?_
  have hout : ¬(d.val ≤ r.val ∧ r.val < d.val + 4) := fun hin => by
    obtain ⟨x, hx, he⟩ := mem_block hin
    exact hr x (h ▸ hx) he
  simp only [Fin.getElem_fin, Vector.getElem_ofFn, if_neg hout]

theorem setCond_vecFrame {q : VReg} (hq : q = 28 ∨ q = 29) (h : c.cond q) (i : Inst) (l : List Record) :
    Inst.VecFrame c i (i.setCond q l) := by
  unfold Inst.setCond
  rcases hq with rfl | rfl
  · exact { condA := fun hno => absurd h hno }
  · exact { condB := fun hno => absurd h hno }

theorem setTile_vecFrame {t : TReg} (h : c.tile t) (i : Inst) (x : Option Tile) : Inst.VecFrame c i (i.setTile t x) where
  tiles r hr := vector_set_other i.tiles (fun e : r = t => hr (e.symm ▸ h)) x

-- Tokens and the stream.

/-- Writes at some places of a vector leave the others. -/
theorem foldl_set_other {α : Type} {n : Nat} {l : List (Fin n)} {p : Fin n} (h : p ∉ l) (f : α → α) (w : Vector α n) :
    (l.foldl (fun (w : Vector α n) (q : Fin n) => w.set q (f w[q])) w)[p] = w[p] := by
  induction l generalizing w with
  | nil => rfl
  | cons q l ih =>
    rw [List.mem_cons, not_or] at h
    rw [List.foldl_cons, ih h.2, vector_set_other w h.1]

theorem moveTokens_vecFrame {pops pushes : List (Fin 16)} (hpops : ∀ f ∈ pops, f = defaultIn .ve) (hpushes : ∀ f ∈ pushes, f = defaultOut .ve)
    (i : Inst) : Inst.VecFrame c i (i.moveTokens pops pushes) where
  tokens f hin hout := (foldl_set_other (fun h => hout (hpushes f h)) (· + 1) _).trans (foldl_set_other (fun h => hin (hpops f h)) (· - 1) _)

end

-- The frame of a state.

/-- The frame of the instance on core g; the instances on the other cores stay, and memory but for the bytes in the scope. -/
structure State.VecFrame (g : CoreNo) (c : VecScope) (s t : State) : Prop where
  inst : Inst.VecFrame c (s.inst g) (t.inst g)
  others : ∀ h : CoreNo, h ≠ g → t.inst h = s.inst h
  mem : ∀ b, ¬c.stored b → t.mem.get b = s.mem.get b
  cur : t.cur = s.cur

section
variable {g : CoreNo} {c : VecScope} {s t u : State}

theorem State.VecFrame.trans (h : State.VecFrame g c s t) (h' : State.VecFrame g c t u) : State.VecFrame g c s u :=
  ⟨h.inst.trans h'.inst, fun k hk => (h'.others k hk).trans (h.others k hk), fun b hb => (h'.mem b hb).trans (h.mem b hb),
    h'.cur.trans h.cur⟩

theorem State.VecFrame.of_same (hinst : ∀ k, t.inst k = s.inst k) (hmem : t.mem = s.mem) (hcur : t.cur = s.cur) : State.VecFrame g c s t :=
  ⟨hinst g ▸ .refl _, fun k _ => hinst k, fun b _ => by rw [hmem], hcur⟩

theorem State.VecFrame.refl (s : State) : State.VecFrame g c s s := .of_same (fun _ => rfl) rfl rfl

theorem State.VecFrame.of_bare (h : t.bareTlb = s.bareTlb) : State.VecFrame g c s t := .of_same (bare_inst h) (bare_mem h) (bare_cur h)

theorem State.VecFrame.of_modInst {f : Inst → Inst} (h : Inst.VecFrame c (s.inst g) (f (s.inst g))) : State.VecFrame g c s (s.modInst g f) :=
  ⟨by rw [modInst_inst]; exact h, fun k hk => modInst_inst_other _ _ _ _ hk, fun _ _ => rfl, rfl⟩

theorem State.VecFrame.modEvery {f : Inst → Inst} (h : ∀ i, Inst.VecFrame c i (f i)) : State.VecFrame g c s (s.modInst g f) :=
  .of_modInst (h _)

theorem State.VecFrame.sink (h : State.VecFrame g c s t) (k : CoreNo) : State.VecFrame g c s (t.sink k) :=
  h.trans (.of_same (fun _ => sink_inst ..) rfl rfl)

theorem State.VecFrame.ite {p : Prop} [Decidable p] {x y : State} (hx : State.VecFrame g c s x) (hy : State.VecFrame g c s y) :
    State.VecFrame g c s (if p then x else y) := by
  split
  · exact hx
  · exact hy

theorem State.VecFrame.foldl {α : Type} {f : State → α → State} {xs : List α} (h : ∀ x ∈ xs, ∀ u, State.VecFrame g c u (f u x))
    (u : State) : State.VecFrame g c u (xs.foldl f u) := by
  induction xs generalizing u with
  | nil => exact .refl u
  | cons x xs ih =>
    obtain ⟨hx, hxs⟩ := List.forall_mem_cons.1 h
    exact (hx u).trans (ih hxs _)

/-- The retirement of a VE word with its own default tokens. -/
theorem retireWord_vecFrame (hsrc : s.cur.src = .ve) {pops pushes : List (Fin 16)} (hpops : ∀ f ∈ pops, f = defaultIn .ve)
    (hpushes : ∀ f ∈ pushes, f = defaultOut .ve) : State.VecFrame s.cur.core c s (s.retireWord pops pushes) := by
  have htokens : State.VecFrame s.cur.core c s
      (if pops.isEmpty && pushes.isEmpty then s else s.moveTokens s.cur.core pops pushes) := by
    have hmove : State.VecFrame s.cur.core c s (s.modInst s.cur.core fun i => i.moveTokens pops pushes) :=
      .of_modInst (moveTokens_vecFrame hpops hpushes _)
    exact .ite (.refl s) (.ite hmove (hmove.sink _))
  unfold State.retireWord
  simp only [hsrc]
  exact htokens.trans (.of_modInst {})

/-- A VE word whose effect has led to u retires. -/
theorem wordDone_vecFrame (hsrc : s.cur.src = .ve) (h : State.VecFrame s.cur.core c s u) (tk : Tok) :
    State.VecFrame s.cur.core c s (s.wordDone u tk) := by
  unfold State.wordDone
  refine h.trans (h.cur ▸ retireWord_vecFrame (h.cur ▸ hsrc) ?_ ?_)
  · rw [h.cur, hsrc]
    split <;> simp [Source.engine]
  · rw [h.cur, hsrc]
    split <;> simp [Source.engine]

/-- The pops, the flags and the write of a vector word whose operands are in the scope, and what else it changes. -/
theorem vecCommit_vecFrame {srcs : List VReg} {dst : Option VReg} {e : VecEffect} (hsrcs : ∀ r ∈ srcs, r ∈ c.operands)
    (hdst : ∀ d ∈ dst, d ∈ c.regs ∧ d ∈ c.operands) (hflags : ∀ f ∈ e.flags, c.flags)
    (hother : ∀ u, State.VecFrame s.cur.core c u (e.other u)) : State.VecFrame s.cur.core c s (s.vecCommit srcs dst e) := by
  have hraise : ∀ i, Inst.VecFrame c i (match e.flags with
      | some f => i.raiseFlags f
      | none => i) := fun i => by
    split
    · next f hf => exact setFlags_vecFrame (hflags f hf) i _
    · exact .refl i
  have hraised := (popVs_vecFrame hsrcs (s.inst s.cur.core)).trans (hraise _)
  have hcommit : ∀ (f : Inst → Inst) (named : Bool), Inst.VecFrame c (s.inst s.cur.core) (f (s.inst s.cur.core)) →
      State.VecFrame s.cur.core c s (e.other (if named then (s.modInst s.cur.core f).sink s.cur.core else s.modInst s.cur.core f)) :=
    fun f named hf => .trans (.ite ((State.VecFrame.of_modInst hf).sink _) (.of_modInst hf)) (hother _)
  cases dst with
  | none => exact hcommit _ _ hraised
  | some d => exact hcommit _ _ (hraised.trans (writeV_vecFrame (hdst d rfl).1 (hdst d rfl).2 _ _))

end

end Sys2Proof.Machine
end

section
/-! The vector frame (06 R164 to R166, R169 to R198, 07 R204): how a VE word ends that does not trap, and that each word's effect keeps
within its scope. -/

namespace Sys2Proof.Machine

open Host

-- How a word ends that does not trap.

theorem raised_trapped (s : State) (c : Cause) (v : Word) : s.trapped (s.raise c v) := ⟨c, v, false, none, none, rfl⟩

/-- A word without an effect has waited. -/
theorem engineRun_error_next {s t : State} {tk : Tok} {e : Stop} (h : engineRun s tk [] [] false (.error e) = .next t)
    (hno : ¬s.trapped t) : t = s := by
  have hready : ∀ {b : Bool} {c : Cause} {v : Word}, .next (if b then s.raise c v else s) = (.next t : Outcome State Fault Refusal) → t = s := by
    intro b c v hb
    cases b
    · cases hb; rfl
    · cases hb; exact absurd (raised_trapped s c v) hno
  cases e with
  | trap c v => cases h; exact absurd (raised_trapped s c v) hno
  | wait => cases h; rfl
  | late c v => exact hready h
  | q2 c v => exact hready h

/-- A word with an effect has waited for its tokens, or completed. -/
theorem engineRun_ok_next {s t u : State} {tk : Tok} (h : engineRun s tk [] [] false (.ok u) = .next t) : t = s ∨ t = s.wordDone u tk := by
  simp only [engineRun, engineRunThen, Bool.false_and, Bool.false_eq_true, if_false, List.append_nil, id] at h
  cases h
  exact (ite_eq_or_eq _ _ _).symm

section
variable {s t : State} {tk : Tok} {srcs : List VReg} {dst : Option VReg} {late : Bool} {pre : Res Unit}
  {f : Inst → List Lanes → Lanes → Res VecEffect}

/-- Where the preparation gives an effect, the word's own checks hold and it is the effect on what the word reads. -/
theorem vecPrep_gives : Within (fun e => pre = .ok () ∧
    f (s.inst s.cur.core) (srcs.map (s.inst s.cur.core).readV) ((s.inst s.cur.core).oldOpt dst) = .ok e) (s.vecPrep srcs dst late pre f) := by
  rw [vecPrep_eq]
  refine Within.then fun _ => Within.bind (p := fun _ => pre = .ok ()) (fun _ h => h) fun _ hpre => ?_
  have hlast : Within (fun e => pre = .ok () ∧
      f (s.inst s.cur.core) (srcs.map (s.inst s.cur.core).readV) ((s.inst s.cur.core).oldOpt dst) = .ok e)
      (asLate late (f (s.inst s.cur.core) (srcs.map (s.inst s.cur.core).readV) ((s.inst s.cur.core).oldOpt dst))) :=
    Within.late _ fun e he => ⟨hpre, he⟩
  refine Within.ite ?_ (Within.then fun _ => hlast)
  split
  · exact Within.error _
  · exact Within.then fun _ => Within.then fun _ => hlast

/-- A vector word that does not trap has waited, or it has completed with its effect. -/
theorem vecRun_next (h : vecRun s tk srcs dst late pre f = .next t) (hno : ¬s.trapped t) : t = s ∨ ∃ e, pre = .ok () ∧
    f (s.inst s.cur.core) (srcs.map (s.inst s.cur.core).readV) ((s.inst s.cur.core).oldOpt dst) = .ok e ∧
    t = s.wordDone (s.vecCommit srcs dst e) tk := by
  unfold vecRun at h
  split at h
  · exact .inl (engineRun_error_next h hno)
  · next e he =>
    obtain ⟨hpre, hf⟩ := vecPrep_gives e he
    have hdone : engineRun s tk [] [] false (.ok (s.vecCommit srcs dst e)) = .next t → t = s ∨ ∃ e, pre = .ok () ∧
        f (s.inst s.cur.core) (srcs.map (s.inst s.cur.core).readV) ((s.inst s.cur.core).oldOpt dst) = .ok e ∧
        t = s.wordDone (s.vecCommit srcs dst e) tk := fun h =>
      (engineRun_ok_next h).imp_right fun ht => ⟨e, hpre, hf, ht⟩
    split at h
    · split at h
      · cases h
        split
        · next htok =>
          rw [if_pos htok] at hno
          exact absurd ⟨_, _, _, _, _, rfl⟩ hno
        · exact .inl rfl
      · exact hdone h
    · exact hdone h

/-- A vector word whose operands are in the scope and whose effect keeps within it keeps within it. -/
theorem vecRun_vecFrame {c : VecScope} (hsrc : s.cur.src = .ve) (h : vecRun s tk srcs dst late pre f = .next t) (hno : ¬s.trapped t)
    (hsrcs : ∀ r ∈ srcs, r ∈ c.operands) (hdst : ∀ d ∈ dst, d ∈ c.regs ∧ d ∈ c.operands)
    (heff : pre = .ok () → Within (fun e => (∀ fl ∈ e.flags, c.flags) ∧ ∀ u, State.VecFrame s.cur.core c u (e.other u))
      (f (s.inst s.cur.core) (srcs.map (s.inst s.cur.core).readV) ((s.inst s.cur.core).oldOpt dst))) :
    State.VecFrame s.cur.core c s t := by
  obtain rfl | ⟨e, hpre, hf, rfl⟩ := vecRun_next h hno
  · exact .refl _
  · obtain ⟨hflags, hother⟩ := heff hpre e hf
    exact wordDone_vecFrame hsrc (vecCommit_vecFrame hsrcs hdst hflags hother) tk

end

-- Element accesses.

theorem noteElems_bare (l : List (Nat × Nat)) (s : State) (g : CoreNo) (d : Fin 8) (w : Bool) (n : Nat) (seen : List Nat) :
    (s.noteElems g d w n l seen).bareTlb = s.bareTlb := by
  induction l generalizing s seen with
  | nil => rfl
  | cons x t ih =>
    unfold State.noteElems
    split
    · exact ih s seen
    · exact (ih _ _).trans (noteAccess_bare ..)

/-- An element write goes to bytes, or to a tile, in the scope. -/
def ElemStore.inScope (c : VecScope) : ElemStore → Prop
  | .mem _ pa bs => ∀ b, pa ≤ b → b < pa + bs.length → c.stored b
  | .tile t _ => c.tile t

theorem putElem_vecFrame {c : VecScope} {e : ElemStore} (h : e.inScope c) (g : CoreNo) (u : State) :
    State.VecFrame g c u (u.putElem g e) := by
  cases e with
  | mem va pa bs =>
    refine ⟨.refl _, fun _ _ => rfl, fun b hb => get_put_out _ _ _ _ ?_, rfl⟩
    by_contra hin
    exact hb (h b (by omega) (by omega))
  | tile t ws => exact .of_modInst (f := fun i => i.putWords t ws) (setTile_vecFrame h _ _)

/-- The addresses of elements that pass their checks are translated. -/
theorem elemAddrs_translated (s : State) (g : CoreNo) (n : Nat) (w : Need) (es : List (Nat × Word)) :
    Within (fun l => ∀ x ∈ l, (x.1, x.2.1) ∈ es ∧ s.translate (some g) (s.ctxOf g) x.2.1.toNat w = .ok x.2.2) (s.elemAddrs g n w es) := by
  induction es with
  | nil => exact Within.ok fun x hx => by cases hx
  | cons e es ih =>
    unfold State.elemAddrs
    split
    · exact Within.error _
    · next pa hpa =>
      have hfirst := scalarAddr_translate _ _ _ _ _ pa hpa
      refine Within.map (Within.imp ih fun l hl => List.forall_mem_cons.2 ⟨⟨List.mem_cons_self, hfirst⟩, fun x hx => ?_⟩)
      exact (hl x hx).imp_left (List.mem_cons_of_mem _)

-- The scope of a word.

/-- What a word with some operands may change in a state: its own tile and stream, and the element writes of an earlier part of it. -/
def vecScope (i : Instr) (s : State) (srcs ds : List VReg) (km : Option KReg) (fp : Bool) : VecScope where
  regs := ds
  operands := srcs ++ ds
  km := km
  flags := fp = true
  trapMask := ∃ tk, i = .vflgCtm tk
  tile r := vecTile i = some r ∨ ∃ ws, ElemStore.tile r ws ∈ (s.inst s.cur.core).leftWrites
  cond q := vecCond i = some q
  stored b := s.vecStored i b ∨ ∃ va pa bs, ElemStore.mem va pa bs ∈ (s.inst s.cur.core).leftWrites ∧ ¬(b < pa ∨ pa + bs.length ≤ b)

/-- The word keeps within the scope of its operands. -/
def VecFramed (i : Instr) (srcs ds : List VReg) (km : Option KReg) (fp : Bool) (s t : State) : Prop :=
  State.VecFrame s.cur.core (vecScope i s srcs ds km fp) s t

theorem leftWrites_inScope {i : Instr} {s : State} {srcs ds : List VReg} {km : Option KReg} {fp : Bool} {e : ElemStore}
    (h : e ∈ (s.inst s.cur.core).leftWrites) : e.inScope (vecScope i s srcs ds km fp) := by
  cases e with
  | mem va pa bs => exact fun b hlo hhi => .inr ⟨va, pa, bs, h, by omega⟩
  | tile t ws => exact .inr ⟨ws, h⟩

section
variable {i : Instr} {s t : State} {tk : Tok} {srcs ds : List VReg} {dst : Option VReg} {km : Option KReg} {fp late : Bool} {pre : Res Unit}
  {f : Inst → List Lanes → Lanes → Res VecEffect} (hsrc : s.cur.src = .ve) (hno : ¬s.trapped t)
include hsrc hno

omit hsrc hno in
theorem no_flags {p : Prop} : ∀ fl ∈ (none : Option (Nat → Flags)), p := fun _ h => by cases h

/-- A run whose operands are those of the scope. -/
theorem vecRun_framed (h : vecRun s tk srcs dst late pre f = .next t) (hds : ∀ d ∈ dst, d ∈ ds)
    (heff : pre = .ok () → Within (fun e => (∀ fl ∈ e.flags, fp = true) ∧
      ∀ u, State.VecFrame s.cur.core (vecScope i s srcs ds km fp) u (e.other u))
      (f (s.inst s.cur.core) (srcs.map (s.inst s.cur.core).readV) ((s.inst s.cur.core).oldOpt dst))) :
    VecFramed i srcs ds km fp s t :=
  vecRun_vecFrame hsrc h hno (fun _ hr => List.mem_append_left _ hr) (fun d hd => ⟨hds d hd, List.mem_append_right _ (hds d hd)⟩) heff

/-- A run whose effect is its destination's value and its flags alone. -/
theorem vecRun_framed_pure {d : VReg} {out : Inst → List Lanes → Lanes → Lanes}
    {flags : Inst → List Lanes → Lanes → Option (Nat → Flags)} (hflags : ∀ i vs old, ∀ fl ∈ flags i vs old, fp = true)
    (h : vecRun s tk srcs (some d) late pre (fun i vs old => .ok ⟨out i vs old, flags i vs old, id⟩) = .next t) :
    VecFramed i srcs [d] km fp s t :=
  vecRun_framed hsrc hno h (fun _ hx => List.mem_singleton.2 (Option.some.inj hx).symm) fun _ => Within.ok ⟨hflags _ _ _, fun u => .refl u⟩

theorem elemRule_framed {r : ElemRule} (h : elemRule i = some r) (hexec : exec i s = .next t) :
    VecFramed i r.srcs [r.d] none r.fp s t := by
  rw [exec_eq_elemRun s h, elemRun_eq] at hexec
  refine vecRun_framed_pure hsrc hno (fun _ _ _ fl hfl => ?_) hexec
  by_contra hfp
  rw [if_neg hfp] at hfl
  cases hfl

theorem moveRule_framed {d : VReg} {k : KReg} {w : Elem} {val : Inst → List Lanes → Nat → Nat}
    (h : moveRule i = some (tk, srcs, d, k, w, val)) (hexec : exec i s = .next t) : VecFramed i srcs [d] none false s t := by
  rw [exec_eq_vecMove h] at hexec
  exact vecRun_framed_pure hsrc hno (fun _ _ _ fl hfl => by cases hfl) hexec

theorem maskRule_framed {d k : KReg} {w : Elem} {op : Inst → List Lanes → Nat → Bool × Flags}
    (h : maskRule i = some (tk, srcs, d, k, w, fp, op)) (hexec : exec i s = .next t) : VecFramed i srcs [] (some d) fp s t := by
  rw [exec_eq_vecToMask h] at hexec
  refine vecRun_framed hsrc hno hexec (fun x hx => by cases hx) fun _ => Within.ok ⟨fun fl hfl => ?_, fun u => ?_⟩
  · by_contra hfp
    rw [if_neg hfp] at hfl
    cases hfl
  · dsimp only
    exact .modEvery fun i => setMask_vecFrame rfl i _ _

theorem reduceRule_framed {d a : VReg} {k : KReg} {w : Elem} {red : Word → List (Option Nat) → Nat × Flags}
    (h : reduceRule i = some (tk, d, a, k, w, fp, red)) (hexec : exec i s = .next t) : VecFramed i [a] [d] none fp s t := by
  rw [exec_eq_vecReduce h] at hexec
  refine vecRun_framed_pure hsrc hno (fun _ _ _ fl hfl => ?_) hexec
  by_contra hfp
  rw [if_neg hfp] at hfl
  cases hfl

theorem vecLoad_framed {d : VReg} {c : Fin 8} {g : VFmt} {k : KReg} {addr : List Lanes → Nat → Word}
    (hexec : vecLoad s tk d srcs c g k addr = .next t) : VecFramed i srcs [d] none false s t := by
  refine vecRun_framed hsrc hno hexec (fun _ hx => List.mem_singleton.2 (Option.some.inj hx).symm) fun _ => Within.map fun l _ => ?_
  exact ⟨no_flags, fun u => .of_bare (noteElems_bare ..)⟩

theorem vecStore_framed {d : VReg} {c : Fin 8} {g : VFmt} {k : KReg} {addr : List Lanes → Nat → Word}
    (h : vecMemRule i = some (true, tk, d, srcs, c, g, k, addr)) (hexec : vecStore s tk d srcs c g k addr = .next t) :
    VecFramed i (srcs ++ [d]) [] none false s t := by
  have haddr : addr ((srcs ++ [d]).map (s.inst s.cur.core).readV) = addr (srcs.map (s.inst s.cur.core).readV) := by
    rw [List.map_append]
    exact vecMemRule_addr_append h (by simp) _
  have hwrites : ∀ data, Within (fun l => ∀ e ∈ l, ElemStore.inScope (vecScope i s (srcs ++ [d]) [] none false) e)
      ((s.inst s.cur.core).writesLeft (s.storeElems s.cur.core g ((s.inst s.cur.core).mask k)
        (addr ((srcs ++ [d]).map (s.inst s.cur.core).readV)) data)) := by
    intro data
    unfold Inst.writesLeft
    split
    · next l hl => exact Within.ok fun e he => leftWrites_inScope (by rw [Inst.leftWrites, hl]; exact he)
    · refine Within.map (Within.imp (elemAddrs_translated s s.cur.core _ _ _) fun l hl e he => ?_)
      obtain ⟨⟨n, ea, pa⟩, hx, rfl⟩ := List.mem_map.1 he
      obtain ⟨hmem, htr⟩ := hl _ hx
      obtain ⟨m, hm, hme⟩ := List.mem_map.1 hmem
      obtain ⟨hlt, hbit⟩ := List.mem_filter.1 hm
      obtain ⟨rfl, rfl⟩ := Prod.mk.inj hme
      rw [haddr] at htr
      refine fun b hlo hhi => .inl ⟨tk, d, srcs, c, g, k, addr, h, m, pa, List.mem_range.1 hlt, hbit, htr, hlo, ?_⟩
      rwa [leBytes_length] at hhi
  refine vecRun_framed hsrc hno hexec (fun x hx => by cases hx) fun _ => Within.map (Within.imp (hwrites _) fun l hl => ?_)
  refine ⟨no_flags, fun u => State.VecFrame.sink ?_ _⟩
  exact (State.VecFrame.foldl (fun e he u => putElem_vecFrame (hl e he) _ u) u).trans (.of_bare (noteElems_bare ..))

end

end Sys2Proof.Machine
end

section
/-! The vector frame word by word (06 R169 to R198, 07 R204): conversions, accumulators, tile lines, flags, conditional streams and
Hollyhock words, and the settlement of O52. -/

namespace Sys2Proof.Machine

open Host

section
variable {i : Instr} {s t : State} {tk : Tok} (hsrc : s.cur.src = .ve) (hno : ¬s.trapped t)
include hsrc hno

-- Conversions and accumulators.

theorem vcvt_framed {d a : VReg} {h : Bool} {g f : VFmt} {r : Rounding} {k : KReg} (hexec : exec (.vcvt tk d a h g r f k) s = .next t) :
    VecFramed (.vcvt tk d a h g r f k) [a] [d] none true s t := by
  rw [exec_vcvt, execVcvt] at hexec
  exact vecRun_framed_pure hsrc hno (fun _ _ _ _ _ => rfl) hexec

theorem vqnt_framed {d a : VReg} {r : Rounding} {e : QntType} {k : KReg} (hexec : exec (.vqnt tk d a r e k) s = .next t) :
    VecFramed (.vqnt tk d a r e k) [a] [d] none true s t := by
  rw [exec_vqnt, execVqnt] at hexec
  exact vecRun_framed_pure hsrc hno (fun _ _ _ _ _ => rfl) hexec

theorem vxrnd_framed {d a b : VReg} {r : Rounding} {f : HFmt} {k : KReg} (hexec : exec (.vxrnd tk d a b r f k) s = .next t) :
    VecFramed (.vxrnd tk d a b r f k) [b] [d] none true s t := by
  rw [exec_vxrnd, execVxrnd] at hexec
  exact vecRun_framed_pure hsrc hno (fun _ _ _ _ _ => rfl) hexec

theorem vxacc_framed {d a b : VReg} {f : FixFmt} {k : KReg} (hexec : exec (.vxacc tk d a b f k) s = .next t) :
    VecFramed (.vxacc tk d a b f k) [a, b] (block d 4) none true s t := by
  rw [exec_vxacc, execVxacc] at hexec
  refine vecRun_framed hsrc hno hexec (fun _ hx => by cases hx) fun _ => Within.ok ⟨fun _ _ => rfl, fun u => ?_⟩
  exact .modEvery fun j => setQuad_vecFrame rfl j _ _

-- Tile lines.

theorem vtrd_framed {v : VReg} {r : TReg} {e : Dir} {n : Fin 64} {f : TileFmt} {k : KReg} (hexec : exec (.vtrd tk v r e n f k) s = .next t) :
    VecFramed (.vtrd tk v r e n f k) [] [v] none false s t := by
  rw [exec_vtrd, execVtrd] at hexec
  refine vecRun_framed hsrc hno hexec (fun _ hx => List.mem_singleton.2 (Option.some.inj hx).symm) fun _ =>
    Within.map (Within.imp (Within.any _) fun _ _ => ⟨no_flags, fun u => .refl u⟩)

theorem vtwr_framed {v : VReg} {r : TReg} {e : Dir} {n : Fin 64} {f : TileFmt} {k : KReg} (hexec : exec (.vtwr tk v r e n f k) s = .next t) :
    VecFramed (.vtwr tk v r e n f k) [v] [] none false s t := by
  rw [exec_vtwr, execVtwr] at hexec
  refine vecRun_framed hsrc hno hexec (fun _ hx => by cases hx) fun _ => ?_
  split
  · next l hl =>
    have hleft : ∀ x ∈ l, x ∈ (s.inst s.cur.core).leftWrites := fun x hx => by rwa [Inst.leftWrites, hl]
    exact Within.ok ⟨no_flags, fun u => .foldl (fun x hx u => putElem_vecFrame (leftWrites_inScope (hleft x hx)) _ u) u⟩
  · exact Within.map (Within.imp (Within.any _) fun _ _ => ⟨no_flags, fun u =>
      .modEvery fun j => setTile_vecFrame (c := vecScope ..) (Or.inl rfl) j _⟩)

-- Flags.

/-- A word of vflg whose change of the instance keeps within the scope. -/
theorem flagOp_framed {srcs : List VReg} {km : Option KReg} {fp : Bool} {op : Inst → List Lanes → Inst}
    (hop : ∀ j vs, Inst.VecFrame (vecScope i s srcs [] km fp) j (op j vs)) (hexec : flagOp s tk srcs op = .next t) :
    VecFramed i srcs [] km fp s t := by
  unfold flagOp at hexec
  exact vecRun_framed hsrc hno hexec (fun _ hx => by cases hx) fun _ => Within.ok ⟨no_flags, fun u =>
    .modEvery fun j => hop j _⟩

theorem vflgClr_framed {f : BitVec 5} {k : KReg} (hexec : exec (.vflgClr tk f k) s = .next t) :
    VecFramed (.vflgClr tk f k) [] [] none true s t :=
  flagOp_framed hsrc hno (fun j _ => setFlags_vecFrame rfl j _) ((exec_vflgClr ..).symm.trans hexec)

theorem vflgWr_framed {a : VReg} {k : KReg} (hexec : exec (.vflgWr tk a k) s = .next t) :
    VecFramed (.vflgWr tk a k) [a] [] none true s t :=
  flagOp_framed hsrc hno (fun j _ => setFlags_vecFrame rfl j _) ((exec_vflgWr ..).symm.trans hexec)

theorem vflgTm_framed {d : KReg} (hexec : exec (.vflgTm tk d) s = .next t) : VecFramed (.vflgTm tk d) [] [] (some d) false s t :=
  flagOp_framed hsrc hno (fun j _ => { k := fun _ hn => vector_set_other j.k (fun e => hn (congrArg some e)) _ })
    ((exec_vflgTm ..).symm.trans hexec)

theorem vflgCtm_framed (hexec : exec (.vflgCtm tk) s = .next t) : VecFramed (.vflgCtm tk) [] [] none false s t :=
  flagOp_framed hsrc hno (fun _ _ => { trapMask := fun hm => absurd ⟨tk, rfl⟩ hm }) ((exec_vflgCtm ..).symm.trans hexec)

-- Conditional streams.

omit hsrc hno in
/-- A check of the field, and of more, that holds has found a stream in the field. -/
theorem condCheck_holds {q : VReg} {r : Res Unit} (h : (do condCheck q; r) = .ok ()) : q = 28 ∨ q = 29 := by
  by_contra hq
  rw [condCheck_unnamed hq] at h
  cases h

omit hsrc hno in
/-- A change of the instance that is a sink event where it moves a record. -/
theorem State.VecFrame.moved {g : CoreNo} {c : VecScope} {f : Inst → Inst} (h : ∀ j, Inst.VecFrame c j (f j)) (idle : Bool) (u : State) :
    State.VecFrame g c u (if idle then u.modInst g f else (u.modInst g f).sink g) :=
  .ite (.modEvery h) (.sink (.modEvery h) _)

theorem vpush_framed {q a : VReg} {x : LaneW} {k : KReg} (hexec : exec (.vpush tk q a x k) s = .next t) :
    VecFramed (.vpush tk q a x k) [a] [] none false s t := by
  rw [exec_vpush, execVpush] at hexec
  refine vecRun_framed hsrc hno hexec (fun _ hx => by cases hx) fun hpre => Within.ok ⟨no_flags, fun u => ?_⟩
  exact .moved (fun j => setCond_vecFrame (condCheck_holds hpre) rfl j _) _ u

/-- A pop whose further change keeps within the scope. -/
theorem condPop_framed {d q : VReg} {x : LaneW} {ns : List Nat} {also : Inst → Inst} {km : Option KReg} (hq : vecCond i = some q)
    (halso : ∀ j, Inst.VecFrame (vecScope i s [] [d] km false) j (also j)) (hexec : condPop s tk d q x ns also = .next t) :
    VecFramed i [] [d] km false s t := by
  unfold condPop at hexec
  refine vecRun_framed hsrc hno hexec (fun _ hx => List.mem_singleton.2 (Option.some.inj hx).symm) fun hpre =>
    Within.ok ⟨no_flags, fun u => ?_⟩
  exact .moved (fun j => (setCond_vecFrame (condCheck_holds hpre) hq j _).trans (halso _)) _ u

theorem vpopPack_framed {d q : VReg} {b : KReg} {x : LaneW} (hexec : exec (.vpopPack tk d q b x) s = .next t) :
    VecFramed (.vpopPack tk d q b x) [] [d] (some b) false s t := by
  rw [exec_vpopPack, execVpopPack] at hexec
  exact condPop_framed hsrc hno rfl (fun j => setMask_vecFrame rfl j _ _) hexec

theorem vpopExp_framed {d q : VReg} {x : LaneW} {k : KReg} (hexec : exec (.vpopExp tk d q x k) s = .next t) :
    VecFramed (.vpopExp tk d q x k) [] [d] none false s t := by
  rw [exec_vpopExp, execVpopExp] at hexec
  exact condPop_framed hsrc hno rfl (fun j => .refl j) hexec

-- Hollyhock words.

omit hsrc hno in
/-- A Hollyhock word is its issue by its entry of `hollyRule` (07 R204). -/
theorem exec_eq_hollyIssue {d : VReg} {k : KReg} {read pops : List VReg} (h : hollyRule i = some (tk, d, k, read, pops)) :
    exec i s = hollyIssue s tk d k read pops i := by
  cases i
  case vexp | vlog | verf | vorient2 | vorient3 | vincirc | vinsph | vsegx => cases h; rfl
  all_goals cases h

omit hsrc hno in
theorem setHolly_vecFrame {c : VecScope} (j : Inst) (f : Option InFlight) : Inst.VecFrame c j { j with hollyhock := f } where

omit hsrc hno in
/-- The issue's change of the instance. -/
theorem issued_vecFrame {c : VecScope} {pops : List VReg} (h : ∀ r ∈ pops, r ∈ c.operands) (tw : Bool) (f : Option InFlight) (j : Inst) :
    Inst.VecFrame c j { (j.moveTokens (if tw then [defaultIn .ve] else []) []).popVs pops with hollyhock := f } := by
  have hpops : ∀ f ∈ (if tw then [defaultIn .ve] else []), f = defaultIn .ve := by split <;> simp
  have htokens : Inst.VecFrame c j (j.moveTokens (if tw then [defaultIn .ve] else []) []) :=
    moveTokens_vecFrame hpops (fun _ hf => by cases hf) j
  exact (htokens.trans (popVs_vecFrame h _)).trans (setHolly_vecFrame _ f)

omit hsrc in
/-- The issue takes the token and pops the sources. -/
theorem hollyIssue_framed {d : VReg} {k : KReg} {read pops : List VReg} {me : Instr}
    (hexec : hollyIssue s tk d k read pops me = .next t) : VecFramed i pops [] none false s t := by
  unfold hollyIssue at hexec
  dsimp only at hexec
  split at hexec
  · exact engineRun_error_next hexec hno ▸ .refl _
  · split at hexec
    · cases hexec
      exact .refl _
    · cases hexec
      exact .moved (issued_vecFrame (fun _ hr => List.mem_append_left _ hr) _ _) _ s

-- The words of the frame.

theorem vecMemRule_framed {st : Bool} {d : VReg} {srcs : List VReg} {c : Fin 8} {f : VFmt} {k : KReg} {addr : List Lanes → Nat → Word}
    (h : vecMemRule i = some (st, tk, d, srcs, c, f, k, addr)) (hexec : exec i s = .next t) :
    if st then VecFramed i (srcs ++ [d]) [] none false s t else VecFramed i srcs [d] none false s t := by
  rw [exec_eq_vecMem h] at hexec
  cases st with
  | true => exact vecStore_framed hsrc hno h hexec
  | false => exact vecLoad_framed hsrc hno hexec

theorem exec_vecFramed {srcs ds : List VReg} {km : Option KReg} {fp : Bool} (hform : vecForm i = some (srcs, ds, km, fp))
    (h : exec i s = .next t) : VecFramed i srcs ds km fp s t := by
  unfold vecForm at hform
  split at hform
  case h_1 => cases hform; exact vcvt_framed hsrc hno h
  case h_2 => cases hform; exact vqnt_framed hsrc hno h
  case h_3 => cases hform; exact vxacc_framed hsrc hno h
  case h_4 => cases hform; exact vxrnd_framed hsrc hno h
  case h_5 => cases hform; exact vtrd_framed hsrc hno h
  case h_6 => cases hform; exact vtwr_framed hsrc hno h
  case h_7 => cases hform; exact vflgClr_framed hsrc hno h
  case h_8 => cases hform; exact vflgWr_framed hsrc hno h
  case h_9 => cases hform; exact vflgTm_framed hsrc hno h
  case h_10 => cases hform; exact vflgCtm_framed hsrc hno h
  case h_11 => cases hform; exact vpush_framed hsrc hno h
  case h_12 => cases hform; exact vpopPack_framed hsrc hno h
  case h_13 => cases hform; exact vpopExp_framed hsrc hno h
  case h_14 =>
    split at hform
    case h_1 hrule => cases hform; exact elemRule_framed hsrc hno hrule h
    case h_2 hrule _ => cases hform; exact moveRule_framed hsrc hno hrule h
    case h_3 hrule _ _ => cases hform; exact maskRule_framed hsrc hno hrule h
    case h_4 hrule _ _ _ => cases hform; exact reduceRule_framed hsrc hno hrule h
    case h_5 st _ _ _ _ hrule _ _ _ _ =>
      have hframed := vecMemRule_framed hsrc hno hrule h
      cases st with
      | true => cases hform; exact hframed
      | false => cases hform; exact hframed
    case h_6 hrule _ _ _ _ _ => cases hform; exact hollyIssue_framed hno ((exec_eq_hollyIssue hrule).symm.trans h)
    case h_7 => cases hform

end

/-- Settles O52: every word of the form keeps within the scope of its operands. -/
theorem vectorFrame : Obligations.VectorFrame := by
  intro i s t srcs ds km fp hform hsrc hexec hno g x y
  obtain ⟨hinst, hothers, hmem, -⟩ := exec_vecFramed hsrc hno hform hexec
  have hsteady := hinst.steady
  simp only [Inst.vecSteady, Prod.mk.injEq] at hsteady
  obtain ⟨hs, hsys, hqw, hqr, hmdq, hz, hrest⟩ := hsteady
  refine ⟨hinst.v, hinst.k, hinst.vq, fun hfp => hinst.flags (Bool.eq_false_iff.1 hfp), fun hne => hinst.trapMask fun ⟨tk, he⟩ => hne tk he,
    hinst.tokens, fun r hr hleft => hinst.tiles r ?_, hs, hsys, hqw, hqr, hmdq, hz,
    congrArg (fun z : Rest => { z with condA := y.condA, condB := y.condB }) hrest, hinst.condA, hinst.condB, hothers, fun b hb hleft => hmem b ?_⟩
  · rintro (ht | ⟨ws, hw⟩)
    · exact hr ht
    · exact hleft ws hw
  · rintro (hst | ⟨va, pa, bs, hw, hin⟩)
    · exact hb hst
    · exact hin (hleft va pa bs hw)

end Sys2Proof.Machine
end

section
/-! Hollyhock's issue (07 R202, R204, R224): a word takes its token and its sources and is in flight. -/

namespace Sys2Proof.Machine

open Host

/-- A Hollyhock word whose operands are ready and whose stream A is empty is in flight with what it read. -/
theorem hollyIssue_starts {s : State} {tk : Tok} {d : VReg} {k : KReg} {read pops : List VReg} {me : Instr}
    (h : s.vecReady tk pops (some d)) (hA : (s.inst s.cur.core).condA = []) :
    let j := s.inst s.cur.core
    let popped := (pops.eraseDups.filter isVq).map fun r => (r, j.readV r)
    let t := s.modInst s.cur.core fun x =>
      { (x.moveTokens (if tk.tw then [defaultIn .ve] else []) []).popVs pops with
        hollyhock := some ⟨me, s.cur.pc, s.cur.word, s.cur.stamp, read.map j.readV, j.mask k, j.sys.fmode, popped⟩ }
    hollyIssue s tk d k read pops me = .next (if popped = [] then t else t.sink s.cur.core) := by
  intro j popped t
  obtain ⟨hops, hsrcs, hroom, htok⟩ := h
  have hroom : (s.inst s.cur.core).vHasRoom d = true := hroom
  unfold hollyIssue
  simp only [hops, hA, hsrcs, hroom, htok, List.isEmpty_nil, List.isEmpty_iff, check_true, need_true, Bool.and_self, Bool.not_true, bind,
    Except.bind, Bool.false_eq_true, if_false]
  rfl

/-- Settles O28: a Hollyhock word is its issue, and with its operands there the issue puts it in flight. -/
theorem hollyhockIssues : Obligations.HollyhockIssues := by
  intro i s tk d k read pops hrule g j hready hA popped t
  rw [exec_eq_hollyIssue hrule]
  exact hollyIssue_starts hready hA

end Sys2Proof.Machine
end

section
/-! Polynomials in ε at a value of ε (07 R221): the operations of `Poly` compute values, and the sign of a polynomial with rising exponents
is that of its values at every small enough ε > 0. -/

namespace Sys2Proof.Machine

open Filter Topology

/-- The value of a polynomial in ε. -/
def Poly.eval (x : ℝ) (p : Poly) : ℝ := (p.map fun t => (t.2 : ℝ) * x ^ t.1).sum

section
variable (x : ℝ)

@[simp] theorem Poly.eval_nil : Poly.eval x [] = 0 := rfl
@[simp] theorem Poly.eval_cons (t : Nat × Int) (p : Poly) : Poly.eval x (t :: p) = t.2 * x ^ t.1 + p.eval x := rfl

@[simp] theorem Poly.eval_insert (t : Nat × Int) (p : Poly) : (p.insert t).eval x = t.2 * x ^ t.1 + p.eval x := by
  induction p with
  | nil => by_cases h : t.2 = 0 <;> simp [Poly.insert, h]
  | cons u rest ih =>
    unfold Poly.insert
    split_ifs with hlt hzero heq hsum
    · simp [hzero]
    · simp
    · have hsum : (t.2 : ℝ) + u.2 = 0 := mod_cast hsum
      rw [Poly.eval_cons, heq]
      linear_combination -x ^ u.1 * hsum
    · rw [Poly.eval_cons, Poly.eval_cons, heq]
      push_cast
      ring
    · rw [Poly.eval_cons, Poly.eval_cons, ih]
      ring

@[simp] theorem Poly.eval_add (a b : Poly) : (Poly.add a b).eval x = a.eval x + b.eval x := by
  unfold Poly.add
  induction a generalizing b with
  | nil => simp
  | cons t a ih =>
    rw [List.foldl_cons, ih, Poly.eval_insert, Poly.eval_cons]
    ring

@[simp] theorem Poly.eval_scale (c : Int) (a : Poly) : (Poly.scale c a).eval x = c * a.eval x := by
  unfold Poly.scale
  split_ifs with h
  · simp [h]
  · simp only [Poly.eval, List.map_map, ← List.sum_map_mul_left, Function.comp_def]
    push_cast
    simp only [mul_assoc]

@[simp] theorem Poly.eval_sub (a b : Poly) : (Poly.sub a b).eval x = a.eval x - b.eval x := by
  rw [Poly.sub, Poly.eval_add, Poly.eval_scale]
  push_cast
  ring

/-- A product by one monomial. -/
theorem Poly.eval_shift (t : Nat × Int) (b : Poly) :
    Poly.eval x (b.map fun u => (t.1 + u.1, t.2 * u.2)) = t.2 * x ^ t.1 * b.eval x := by
  simp only [Poly.eval, List.map_map, ← List.sum_map_mul_left, Function.comp_def]
  push_cast
  simp only [pow_add, mul_mul_mul_comm]

@[simp] theorem Poly.eval_mul (a b : Poly) : (Poly.mul a b).eval x = a.eval x * b.eval x := by
  have hfold : ∀ p : Poly, (a.foldl (fun p t => Poly.add (b.map fun u => (t.1 + u.1, t.2 * u.2)) p) p).eval x =
      p.eval x + a.eval x * b.eval x := by
    induction a with
    | nil => simp
    | cons t a ih =>
      intro p
      rw [List.foldl_cons, ih, Poly.eval_add, Poly.eval_shift, Poly.eval_cons]
      ring
  rw [Poly.mul, hfold, Poly.eval_nil, zero_add]

@[simp] theorem Poly.eval_const (c : Int) : (Poly.const c).eval x = c := by
  unfold Poly.const
  split_ifs with h <;> simp [h]

end

-- Rising exponents.

/-- Exponents strictly rising from n on, and no coefficient 0. -/
def Poly.RisesFrom : Nat → Poly → Prop
  | _, [] => True
  | n, t :: rest => n ≤ t.1 ∧ t.2 ≠ 0 ∧ Poly.RisesFrom (t.1 + 1) rest

theorem Poly.RisesFrom.mono {m n : Nat} {p : Poly} (hp : p.RisesFrom m) (h : n ≤ m) : p.RisesFrom n := by
  cases p with
  | nil => trivial
  | cons t rest => exact ⟨h.trans hp.1, hp.2⟩

theorem Poly.RisesFrom.insert {n : Nat} {p : Poly} {t : Nat × Int} (hp : p.RisesFrom n) (ht : n ≤ t.1) :
    (p.insert t).RisesFrom n := by
  induction p generalizing n with
  | nil =>
    unfold Poly.insert
    split_ifs with hzero
    · trivial
    · exact ⟨ht, hzero, trivial⟩
  | cons u rest ih =>
    obtain ⟨hu, hne, hrest⟩ := hp
    unfold Poly.insert
    split_ifs with hlt hzero heq hsum
    · exact ⟨hu, hne, hrest⟩
    · exact ⟨ht, hzero, hlt, hne, hrest⟩
    · exact hrest.mono (by omega)
    · exact ⟨hu, hsum, hrest⟩
    · exact ⟨hu, hne, ih hrest (by omega)⟩

theorem Poly.RisesFrom.add {b : Poly} (hb : b.RisesFrom 0) (a : Poly) : (Poly.add a b).RisesFrom 0 := by
  unfold Poly.add
  induction a generalizing b with
  | nil => exact hb
  | cons t a ih => exact ih (hb.insert (Nat.zero_le _))

/-- A polynomial whose exponents rise from n on is x^n times a continuous function. -/
theorem Poly.RisesFrom.factor {n : Nat} {p : Poly} (hp : p.RisesFrom n) :
    ∃ r : ℝ → ℝ, Continuous r ∧ ∀ x, p.eval x = x ^ n * r x := by
  induction p generalizing n with
  | nil => exact ⟨fun _ => 0, continuous_const, by simp⟩
  | cons t rest ih =>
    obtain ⟨ht, -, hrest⟩ := hp
    obtain ⟨r, hr, heval⟩ := ih hrest
    refine ⟨fun x => x ^ (t.1 - n) * (t.2 + x * r x), by fun_prop, fun x => ?_⟩
    rw [Poly.eval_cons, heval, pow_succ, ← Nat.add_sub_cancel' ht, pow_add, Nat.add_sub_cancel_left]
    ring

/-- An integer has the sign that it has as a real number. -/
theorem int_sign_eq_real (z : Int) : z.sign = SignType.sign (z : ℝ) := by
  have hmono : StrictMono (Int.castRingHom ℝ) := Int.cast_strictMono
  rw [Int.sign_eq_sign]
  exact congrArg _ (hmono.sign_comp z).symm

/-- The sign of a polynomial with rising exponents is that of its values at ε = 1/N, from some N on. -/
theorem Poly.RisesFrom.sign_eventually {p : Poly} (hp : p.RisesFrom 0) :
    ∀ᶠ N : ℕ in atTop, (SignType.sign (p.eval (1 / N)) : ℤ) = p.sign := by
  cases p with
  | nil => simp [Poly.sign]
  | cons t rest =>
    obtain ⟨-, hne, hrest⟩ := hp
    obtain ⟨r, hr, heval⟩ := hrest.factor
    have hne : (t.2 : ℝ) ≠ 0 := mod_cast hne
    have hlim : Tendsto (fun N : ℕ => (t.2 : ℝ) + 1 / (N : ℝ) * r (1 / N)) atTop (𝓝 t.2) := by
      have hcont : Continuous fun x : ℝ => (t.2 : ℝ) + x * r x := by fun_prop
      have hzero := (hcont.tendsto 0).comp tendsto_one_div_atTop_nhds_zero_nat
      rwa [zero_mul, add_zero] at hzero
    have hsign := (continuousAt_sign_of_ne_zero hne).tendsto.comp hlim
    rw [nhds_discrete, tendsto_pure] at hsign
    filter_upwards [hsign, eventually_gt_atTop 0] with N hN hpos
    have hpos : 0 < (1 / (N : ℝ)) ^ t.1 := by positivity
    have hsplit : Poly.eval (1 / N) (t :: rest) = (1 / (N : ℝ)) ^ t.1 * (t.2 + 1 / N * r (1 / N)) := by
      rw [Poly.eval_cons, heval, pow_succ]
      ring
    rw [hsplit, sign_mul, sign_pos hpos, one_mul]
    exact (congrArg _ hN).trans (int_sign_eq_real t.2).symm

/-- Where the value at ε = 0 is not 0, its sign is the polynomial's. -/
theorem Poly.RisesFrom.sign_at_zero {p : Poly} (hp : p.RisesFrom 0) (h : p.eval 0 ≠ 0) :
    (SignType.sign (p.eval 0) : ℤ) = p.sign := by
  cases p with
  | nil => exact absurd rfl h
  | cons t rest =>
    obtain ⟨-, hne, hrest⟩ := hp
    obtain ⟨r, -, heval⟩ := hrest.factor
    have hvalue : Poly.eval 0 (t :: rest) = t.2 * 0 ^ t.1 := by
      rw [Poly.eval_cons, heval, pow_succ]
      ring
    have ht : t.1 = 0 := by
      by_contra ht
      exact h (by rw [hvalue, zero_pow ht, mul_zero])
    rw [hvalue, ht, pow_zero, mul_one]
    exact (int_sign_eq_real t.2).symm

end Sys2Proof.Machine
end

section
/-! The determinants of the exact predicates (07 Table 7.6): their values are those of the determinants on integers. -/

namespace Sys2Proof.Machine

theorem altSum_rises (neg : Bool) (l : List (Poly × Poly)) : (altSum neg l).RisesFrom 0 := by
  induction l generalizing neg with
  | nil => trivial
  | cons e rest ih => exact (ih _).add _

theorem det_rises (n : Nat) (rows : List (List Poly)) : (det (n + 1) rows).RisesFrom 0 := altSum_rises _ _

/-- The entries of a matrix, row by row. -/
def grid {α : Type} (rows cols : Nat) (m : Nat → Nat → α) : List (List α) := (List.range rows).map fun i => (List.range cols).map (m i)

section
variable {x : ℝ}

-- The expansion along the first column.

theorem det2_eval (a b c d : Poly) : (det 2 [[a, b], [c, d]]).eval x = a.eval x * d.eval x - c.eval x * b.eval x := by
  simp [det, altSum, dropAt, List.range_succ]
  ring

theorem det3_expand (a b c : Poly) (r s t : List Poly) : (det 3 [a :: r, b :: s, c :: t]).eval x =
    a.eval x * (det 2 [s, t]).eval x - b.eval x * (det 2 [r, t]).eval x + c.eval x * (det 2 [r, s]).eval x := by
  rw [det]
  simp [altSum, dropAt, List.range_succ]
  ring

theorem det4_expand (a b c d : Poly) (r s t u : List Poly) : (det 4 [a :: r, b :: s, c :: t, d :: u]).eval x =
    a.eval x * (det 3 [s, t, u]).eval x - b.eval x * (det 3 [r, t, u]).eval x + c.eval x * (det 3 [r, s, u]).eval x -
      d.eval x * (det 3 [r, s, t]).eval x := by
  rw [det]
  simp [altSum, dropAt, List.range_succ]
  ring

-- The determinants on integers, whose column k stands for c k times a column of polynomials.

theorem intDet3_eval {m : Nat → Nat → Poly} {r : Nat → Nat → Int} {c : Nat → ℝ}
    (h : ∀ i < 3, ∀ k < 3, (r i k : ℝ) = c k * (m i k).eval x) :
    (intDet3 r : ℝ) = c 0 * c 1 * c 2 * (det 3 (grid 3 3 m)).eval x := by
  have hexpand := det3_expand (x := x) (m 0 0) (m 1 0) (m 2 0) [m 0 1, m 0 2] [m 1 1, m 1 2] [m 2 1, m 2 2]
  simp only [det2_eval] at hexpand
  have hgrid : grid 3 3 m = [[m 0 0, m 0 1, m 0 2], [m 1 0, m 1 1, m 1 2], [m 2 0, m 2 1, m 2 2]] := rfl
  rw [hgrid, hexpand, intDet3]
  push_cast [h]
  ring

theorem intDet4_eval {m : Nat → Nat → Poly} {r : Nat → Nat → Int} {c : Nat → ℝ}
    (h : ∀ i < 4, ∀ k < 4, (r i k : ℝ) = c k * (m i k).eval x) :
    (intDet4 r : ℝ) = c 0 * c 1 * c 2 * c 3 * (det 4 (grid 4 4 m)).eval x := by
  have hminor : ∀ rows : Nat → Nat, (∀ i < 3, rows i < 4) → (intDet3 (fun i k => r (rows i) (k + 1)) : ℝ) =
      c 1 * c 2 * c 3 * (det 3 (grid 3 3 fun i k => m (rows i) (k + 1))).eval x := fun rows hrows =>
    intDet3_eval (c := fun k => c (k + 1)) fun i hi k hk => h _ (hrows i hi) _ (by omega)
  have hexpand := det4_expand (x := x) (m 0 0) (m 1 0) (m 2 0) (m 3 0) [m 0 1, m 0 2, m 0 3] [m 1 1, m 1 2, m 1 3]
    [m 2 1, m 2 2, m 2 3] [m 3 1, m 3 2, m 3 3]
  have h0 := hminor (fun i => i + 1) (by omega)
  have h1 := hminor (fun i => if i = 0 then 0 else i + 1) (by intro i hi; split <;> omega)
  have h2 := hminor (fun i => if i = 2 then 3 else i) (by intro i hi; split <;> omega)
  have h3 := hminor (fun i => i) (by omega)
  have hgrid : (det 4 (grid 4 4 m)).eval x = (m 0 0).eval x * (det 3 (grid 3 3 fun i k => m (i + 1) (k + 1))).eval x -
      (m 1 0).eval x * (det 3 (grid 3 3 fun i k => m (if i = 0 then 0 else i + 1) (k + 1))).eval x +
      (m 2 0).eval x * (det 3 (grid 3 3 fun i k => m (if i = 2 then 3 else i) (k + 1))).eval x -
      (m 3 0).eval x * (det 3 (grid 3 3 fun i k => m i (k + 1))).eval x := hexpand
  rw [hgrid, intDet4]
  push_cast
  rw [h0, h1, h2, h3, h 0 (by omega) 0 (by omega), h 1 (by omega) 0 (by omega), h 2 (by omega) 0 (by omega), h 3 (by omega) 0 (by omega)]
  ring

end

-- The determinants of Table 7.6.

/-- A determinant on np points of d polynomials, homogeneous of degree n, stands for one on integers: its exponents rise, and its value at
the points' values is that of the integers'. -/
structure StandsFor (np d n : Nat) (D : List Point → Poly) (F : (Nat → Nat → Int) → Int) : Prop where
  rises : ∀ ps, (D ps).RisesFrom 0
  value : ∀ {x c : ℝ} {T : Nat → Nat → Poly} {Q : Nat → Nat → Int}, (∀ p < np, ∀ k < d, (Q p k : ℝ) = c * (T p k).eval x) →
    (F Q : ℝ) = c ^ n * (D (grid np d T)).eval x

theorem orient2_standsFor {np a b c : Nat} (ha : a < np) (hb : b < np) (hc : c < np) :
    StandsFor np 2 2 (fun ps => orient2 [pointAt ps a, pointAt ps b, pointAt ps c]) (fun Q => orientD Q a b c) where
  rises ps := det_rises ..
  value {x s T Q} h := by
    have hpoint : ∀ n < np, pointAt (grid np 2 T) n = [T n 0, T n 1] := fun n hn => by simp [pointAt, grid, hn, List.range_succ]
    have horient : orient2 [[T a 0, T a 1], [T b 0, T b 1], [T c 0, T c 1]] =
      det 2 [[Poly.sub (T b 0) (T a 0), Poly.sub (T b 1) (T a 1)], [Poly.sub (T c 0) (T a 0), Poly.sub (T c 1) (T a 1)]] := rfl
    simp only [hpoint, ha, hb, hc, horient, det2_eval, Poly.eval_sub, orientD]
    push_cast
    simp only [h, ha, hb, hc, Nat.reduceLT]
    ring

theorem orient3_standsFor : StandsFor 4 3 3 orient3 fun Q => intDet3 fun r k => Q r k - Q 3 k where
  rises ps := det_rises ..
  value {x s T Q} h := by
    have horient : orient3 (grid 4 3 T) = det 3 (grid 3 3 fun i k => Poly.sub (T i k) (T 3 k)) := rfl
    rw [horient, intDet3_eval (m := fun i k => Poly.sub (T i k) (T 3 k)) (c := fun _ => s) fun i hi k hk => ?_]
    · ring
    · push_cast
      rw [h i (by omega) k hk, h 3 (by omega) k hk, Poly.eval_sub]
      ring

/-- Row i of vincirc and vinsph on polynomials, for points of d coordinates of which the last is p. -/
def liftedRow (T : Nat → Nat → Poly) (p d i k : Nat) : Poly :=
  let v := fun j => Poly.sub (T i j) (T p j)
  if k = d then ((List.range d).map v).foldl (fun acc y => Poly.add (Poly.mul y y) acc) [] else v k

theorem inCircle_standsFor : StandsFor 4 2 4 inCircle incircleD where
  rises ps := det_rises ..
  value {x s T Q} h := by
    have hlift : inCircle (grid 4 2 T) = det 3 (grid 3 3 (liftedRow T 3 2)) := rfl
    rw [hlift, incircleD, intDet3_eval (m := liftedRow T 3 2) (c := fun k => if k = 2 then s ^ 2 else s) fun i hi k hk => ?_]
    · simp
      ring
    · interval_cases k <;> simp [liftedRow, List.range_succ, h, hi.trans] <;> ring

theorem inSphere_standsFor : StandsFor 5 3 5 inSphere insphereD where
  rises ps := det_rises ..
  value {x s T Q} h := by
    have hlift : inSphere (grid 5 3 T) = det 4 (grid 4 4 (liftedRow T 4 3)) := rfl
    rw [hlift, insphereD, intDet4_eval (m := liftedRow T 4 3) (c := fun k => if k = 3 then s ^ 2 else s) fun i hi k hk => ?_]
    · simp
      ring
    · interval_cases k <;> simp [liftedRow, List.range_succ, h, hi.trans] <;> ring

end Sys2Proof.Machine
end

section
/-! The signs of the exact predicates (07 R219 to R221): on the points themselves, and with ties on the points perturbed by ε = 1/N from
some N on. -/

namespace Sys2Proof.Machine

open Filter

section
variable {np d n : Nat} {D : List Point → Poly} {F : (Nat → Nat → Int) → Int}

/-- The exact points. -/
theorem points_grid (P : Nat → Nat → Int) : points (grid np d P) = grid np d fun p k => Poly.const (P p k) := by
  simp [points, grid, Function.comp_def]

/-- The sign of the determinant on the points is that of the integers'. -/
theorem StandsFor.sign_points (h : StandsFor np d n D F) (P : Nat → Nat → Int) : (D (points (grid np d P))).sign = (F P).sign := by
  obtain ⟨N, hN⟩ := (h.rises (points (grid np d P))).sign_eventually.exists
  have hvalue := h.value (x := 1 / N) (c := 1) (T := fun p k => Poly.const (P p k)) (Q := P) (by simp)
  rw [← points_grid, one_pow, one_mul] at hvalue
  rw [← hN, ← hvalue, int_sign_eq_real]

-- The points perturbed.

/-- Coordinate k of point p gains ε to its power (07 R221). -/
def perturbedPoly (unit : Int) (d : Nat) (ix : List Nat) (P : Nat → Nat → Int) (p k : Nat) : Poly :=
  Poly.add (Poly.const (P p k)) [(2 ^ (d * rankOf ix p + k), unit)]

theorem perturbed_grid (unit : Int) (P : Nat → Nat → Int) (ix : List Nat) :
    perturbed unit (grid np d P) ix = grid np d (perturbedPoly unit d ix P) := by
  have hlen : (grid np d P).length = np := by simp [grid]
  unfold perturbed
  rw [hlen]
  refine List.map_congr_left fun p hp => ?_
  have hrow : (grid np d P).getD p [] = (List.range d).map (P p) := by simp [grid, List.mem_range.1 hp]
  simp only [hrow, List.length_map, List.length_range]
  refine List.map_congr_left fun k hk => ?_
  simp [perturbedPoly, List.mem_range.1 hk]

theorem rankOf_lt {ix : List Nat} {p : Nat} (hp : p < ix.length) : rankOf ix p < ix.length := by
  have hfilter := List.length_filter_lt_length_iff_exists (l := List.range ix.length)
    (p := fun j => decide (ix.getD j 0 < ix.getD p 0 ∨ (ix.getD j 0 = ix.getD p 0 ∧ j < p)))
  rw [List.length_range] at hfilter
  exact hfilter.2 ⟨p, List.mem_range.2 hp, by simp⟩

/-- At ε = 1/N a perturbed coordinate of the model is that of `perturbedAt` without its scale. -/
theorem perturbedAt_eval {N : Nat} (hN : 0 < N) (unit : Int) {ix : List Nat} (hix : ix.length = np) {idx : Nat → Nat}
    (hidx : ∀ p < np, idx p = ix.getD p 0) (P : Nat → Nat → Int) {p k : Nat} (hp : p < np) (hk : k < d) :
    (perturbedAt N unit d np idx P p k : ℝ) = (N : ℝ) ^ 2 ^ (d * np) * (perturbedPoly unit d ix P p k).eval (1 / N) := by
  have hrank : ((List.range np).filter fun j => decide (idx j < idx p ∨ idx j = idx p ∧ j < p)).length = rankOf ix p := by
    rw [rankOf, hix]
    refine congrArg List.length (List.filter_congr fun j hj => ?_)
    rw [hidx j (List.mem_range.1 hj), hidx p hp]
  have hplace : 2 ^ (d * rankOf ix p + k) ≤ 2 ^ (d * np) := by
    have hlt : rankOf ix p + 1 ≤ np := hix ▸ rankOf_lt (hix ▸ hp)
    have := Nat.mul_le_mul_left d hlt
    exact Nat.pow_le_pow_right (by decide) (by rw [Nat.mul_add] at this; omega)
  have hN : (N : ℝ) ≠ 0 := by positivity
  unfold perturbedAt perturbedPoly
  rw [hrank]
  push_cast [Poly.eval_add, Poly.eval_const, Poly.eval_cons, Poly.eval_nil]
  rw [pow_sub₀ _ hN hplace, one_div, inv_pow]
  ring

/-- From some N on, the sign of the determinant on the points perturbed by ε = 1/N is that of its polynomial in ε. -/
theorem StandsFor.sign_perturbed (h : StandsFor np d n D F) (unit : Int) {ix : List Nat} (hix : ix.length = np) {idx : Nat → Nat}
    (hidx : ∀ p < np, idx p = ix.getD p 0) (P : Nat → Nat → Int) :
    ∀ᶠ N in atTop, (D (perturbed unit (grid np d P) ix)).sign = (F (perturbedAt N unit d np idx P)).sign := by
  filter_upwards [(h.rises (perturbed unit (grid np d P) ix)).sign_eventually, eventually_gt_atTop 0] with N hN hpos
  have hvalue := h.value fun p hp k hk => perturbedAt_eval hpos unit hix hidx P hp hk
  have hscale : 0 < ((N : ℝ) ^ 2 ^ (d * np)) ^ n := by positivity
  rw [← hN, int_sign_eq_real, hvalue, sign_mul, sign_pos hscale, one_mul, perturbed_grid]

/-- Where the determinant on the points is not 0, the perturbation leaves its sign. -/
theorem StandsFor.signOfD_ties (h : StandsFor np d n D F) (unit : Int) (P : Nat → Nat → Int) (ix : List Nat) :
    signOfD D unit (grid np d P) (some ix) = (D (perturbed unit (grid np d P) ix)).sign := by
  have hvalue := h.value (x := 0) (c := 1) (T := perturbedPoly unit d ix P) (Q := P) (by simp [perturbedPoly])
  rw [one_pow, one_mul, ← perturbed_grid] at hvalue
  unfold signOfD
  rw [h.sign_points]
  by_cases hzero : (F P).sign = 0
  · exact if_pos hzero
  · have hne : (F P : ℝ) ≠ 0 := mod_cast fun h0 => hzero (by rw [h0, Int.sign_zero])
    refine (if_neg hzero).trans ?_
    rw [← (h.rises _).sign_at_zero (hvalue ▸ hne), ← hvalue, int_sign_eq_real]

end

-- The predicates.

/-- A predicate of the model decides a result of the statement: exactly on the points, and with ties on the points perturbed by ε = 1/N
from some N on. -/
structure Decides (np d : Nat) (sign : Int → List (List Int) → Option (List Nat) → Int)
    (result : (Nat → Nat → Int) → (Nat → Nat → Int) → Int) : Prop where
  exact : ∀ unit P, sign unit (grid np d P) none = result P P
  ties : ∀ unit P ix idx, ix.length = np → (∀ p < np, idx p = ix.getD p 0) →
    ∀ᶠ N in atTop, sign unit (grid np d P) (some ix) = result (perturbedAt N unit d np idx P) P

theorem StandsFor.decides {np d n : Nat} {D : List Point → Poly} {F : (Nat → Nat → Int) → Int} (h : StandsFor np d n D F) :
    Decides np d (signOfD D) fun Q _ => (F Q).sign where
  exact _ P := h.sign_points P
  ties unit P ix idx hix hidx := by
    simp only [h.signOfD_ties]
    exact h.sign_perturbed unit hix hidx P

/-- The orientation of three of the four ends of two segments, as `segClass` takes it. -/
def endOrient (unit : Int) (coords : List (List Int)) (ix : Option (List Nat)) (a b c : Nat) : Int :=
  signOfD (fun ps => orient2 [pointAt ps a, pointAt ps b, pointAt ps c]) unit coords ix

theorem onSeg_grid {P : Nat → Nat → Int} {p q s : Nat} (hp : p < 4) (hq : q < 4) (hs : s < 4) :
    onSeg ((grid 4 2 P).getD p []) ((grid 4 2 P).getD q []) ((grid 4 2 P).getD s []) = true ↔
      ∀ k < 2, min (P q k) (P s k) ≤ P p k ∧ P p k ≤ max (P q k) (P s k) := by
  have hpoint : ∀ n < 4, (grid 4 2 P).getD n [] = [P n 0, P n 1] := fun n hn => by interval_cases n <;> rfl
  have hall : ∀ k < 2, ∀ n, [P n 0, P n 1].getD k 0 = P n k := fun k hk n => by interval_cases k <;> rfl
  simp only [onSeg, hpoint, hp, hq, hs, List.all_eq_true, List.mem_range, decide_eq_true_eq]
  exact forall₂_congr fun k hk => by simp only [hall k hk]

/-- The class of two segments whose four orientations are those of Q (07 R219). -/
theorem segClass_eq {unit : Int} {P Q : Nat → Nat → Int} {ix : Option (List Nat)}
    (h1 : endOrient unit (grid 4 2 P) ix 0 1 2 = (orientD Q 0 1 2).sign) (h2 : endOrient unit (grid 4 2 P) ix 0 1 3 = (orientD Q 0 1 3).sign)
    (h3 : endOrient unit (grid 4 2 P) ix 2 3 0 = (orientD Q 2 3 0).sign) (h4 : endOrient unit (grid 4 2 P) ix 2 3 1 = (orientD Q 2 3 1).sign) :
    segClass unit (grid 4 2 P) ix = segmentClass Q P := by
  unfold endOrient at h1 h2 h3 h4
  simp only [segClass, segmentClass, h1, h2, h3, h4, Bool.or_eq_true, Bool.and_eq_true, beq_iff_eq, or_assoc, onSeg_grid, Nat.reduceLT]

theorem segClass_decides : Decides 4 2 segClass segmentClass where
  exact unit P :=
    have hends : ∀ a < 4, ∀ b < 4, ∀ c < 4, endOrient unit (grid 4 2 P) none a b c = (orientD P a b c).sign := fun _ ha _ hb _ hc =>
      (orient2_standsFor ha hb hc).sign_points P
    segClass_eq (hends 0 (by decide) 1 (by decide) 2 (by decide)) (hends 0 (by decide) 1 (by decide) 3 (by decide))
      (hends 2 (by decide) 3 (by decide) 0 (by decide)) (hends 2 (by decide) 3 (by decide) 1 (by decide))
  ties unit P ix idx hix hidx := by
    have hends : ∀ a < 4, ∀ b < 4, ∀ c < 4, ∀ᶠ N in atTop, endOrient unit (grid 4 2 P) (some ix) a b c =
        (orientD (perturbedAt N unit 2 4 idx P) a b c).sign := fun _ ha _ hb _ hc =>
      (orient2_standsFor ha hb hc).decides.ties unit P ix idx hix hidx
    filter_upwards [hends 0 (by decide) 1 (by decide) 2 (by decide), hends 0 (by decide) 1 (by decide) 3 (by decide),
      hends 2 (by decide) 3 (by decide) 0 (by decide), hends 2 (by decide) 3 (by decide) 1 (by decide)] with N h1 h2 h3 h4
    exact segClass_eq h1 h2 h3 h4

end Sys2Proof.Machine
end

section
/-! The predicates on the instances of an instruction in flight (07 R217 to R223): coordinates as integers of one scale, non-finite instances,
and signs. -/

namespace Sys2Proof.Machine

open Filter

-- The common scale.

/-- An exponent lowered to that of a number that is not 0. -/
def expBelow (g : Int) : Num → Int
  | .fin _ m e => if m = 0 then g else min g e
  | _ => g

theorem commonExp_eq (l : List Num) : commonExp l = l.foldl expBelow 0 := rfl

theorem foldl_expBelow_le (l : List Num) (g : Int) : l.foldl expBelow g ≤ g := by
  induction l generalizing g with
  | nil => exact le_rfl
  | cons x l ih =>
    refine (ih _).trans ?_
    unfold expBelow
    split
    · split
      · exact le_rfl
      · exact min_le_left ..
    · exact le_rfl

theorem foldl_expBelow_le_exp {l : List Num} {n : Bool} {m : Nat} {e : Int} (h : .fin n m e ∈ l) (hm : m ≠ 0) (g : Int) :
    l.foldl expBelow g ≤ e := by
  induction l generalizing g with
  | nil => cases h
  | cons x l ih =>
    rcases List.mem_cons.1 h with rfl | htail
    · refine (foldl_expBelow_le l _).trans ?_
      rw [expBelow, if_neg hm]
      exact min_le_right ..
    · exact ih htail _

/-- A finite number of the list is the integer that the model takes for it, at the list's scale. -/
theorem intAt_isAt {l : List Num} {x : Num} (hx : x ∈ l) (hfin : x.isFin = true) : x.isAt (commonExp l) (intAt (commonExp l) x) := by
  cases x with
  | nan s => cases hfin
  | inf n => cases hfin
  | fin n m e =>
    refine ⟨n, m, e, rfl, ?_⟩
    by_cases hm : m = 0
    · exact .inl ⟨hm, by simp [intAt, hm]⟩
    · exact .inr ⟨foldl_expBelow_le_exp hx hm 0, rfl⟩

theorem commonExp_neg_toNat (l : List Num) : -((-commonExp l).toNat : Int) = commonExp l := by
  have := commonExp_eq l ▸ foldl_expBelow_le l 0
  omega

-- The coordinates of an instance.

/-- Coordinate k of point p of an instance. -/
def InFlight.coordAt (x : InFlight) (f : HFmt) (d e p k : Nat) : Num :=
  decodeF (HFmt.fmt f) (elemAt (elemH f) (x.srcs.getD (d * p + k) zeroLanes) e)

/-- That coordinate as an integer of the instance's common scale. -/
def InFlight.intCoord (x : InFlight) (f : HFmt) (d np e p k : Nat) : Int :=
  intAt (commonExp (x.coords f (d * np) e)) ((x.coords f (d * np) e).getD (d * p + k) (.fin false 0 0))

section
variable {x : InFlight} {f : HFmt} {d np e mark : Nat} {t : Bool} {sign : Int → List (List Int) → Option (List Nat) → Int}
  {result : (Nat → Nat → Int) → (Nat → Nat → Int) → Int}

theorem coord_place_lt {p k : Nat} (hp : p < np) (hk : k < d) : d * p + k < d * np := by
  have := Nat.mul_le_mul_left d hp
  rw [Nat.mul_succ] at this
  omega

variable (hlen : d * np ≤ x.srcs.length)
include hlen

theorem coords_length : (x.coords f (d * np) e).length = d * np := by simp [InFlight.coords, hlen]

theorem coords_getD {p k : Nat} (hp : p < np) (hk : k < d) :
    (x.coords f (d * np) e).getD (d * p + k) (.fin false 0 0) = x.coordAt f d e p k := by
  have hplace := coord_place_lt hp hk
  simp [InFlight.coords, InFlight.coordAt, hplace, hplace.trans_le hlen]

theorem coordAt_mem {p k : Nat} (hp : p < np) (hk : k < d) : x.coordAt f d e p k ∈ x.coords f (d * np) e := by
  have hplace : d * p + k < (x.coords f (d * np) e).length := (coords_length hlen).symm ▸ coord_place_lt hp hk
  rw [← coords_getD hlen hp hk, List.getD_eq_getElem _ _ hplace]
  exact List.getElem_mem _

theorem intCoord_isAt {p k : Nat} (hp : p < np) (hk : k < d) (h : (x.coordAt f d e p k).isFin = true) :
    (x.coordAt f d e p k).isAt (-((-commonExp (x.coords f (d * np) e)).toNat : Int)) (x.intCoord f d np e p k) := by
  rw [commonExp_neg_toNat, InFlight.intCoord, coords_getD hlen hp hk]
  exact intAt_isAt (coordAt_mem hlen hp hk) h

theorem coords_all_isFin :
    (x.coords f (d * np) e).all Num.isFin = true ↔ ∀ p < np, ∀ k < d, (x.coordAt f d e p k).isFin = true := by
  rw [List.all_eq_true]
  refine ⟨fun h p hp k hk => h _ (coordAt_mem hlen hp hk), fun h c hc => ?_⟩
  obtain ⟨j, hj, rfl⟩ := List.getElem_of_mem hc
  have hj' : j < d * np := coords_length hlen ▸ hj
  have hd : 0 < d := Nat.pos_of_mul_pos_right (Nat.zero_lt_of_lt hj')
  have hfin := h (j / d) (Nat.div_lt_of_lt_mul hj') (j % d) (Nat.mod_lt _ hd)
  rwa [← coords_getD hlen (Nat.div_lt_of_lt_mul hj') (Nat.mod_lt _ hd), Nat.div_add_mod, List.getD_eq_getElem _ _ hj] at hfin

/-- An instance with an infinity or a NaN has the mark, with NV (07 R218). -/
theorem predicate_of_infinite (h : ¬∀ p < np, ∀ k < d, (x.coordAt f d e p k).isFin = true) :
    x.predicate f t d np mark sign e = (mark, flagNV) := by
  unfold InFlight.predicate
  rw [← coords_all_isFin hlen] at h
  exact if_neg h

/-- A finite instance has the sign that the predicate finds on its integers, with no flag (07 R219 to R221). -/
theorem predicate_of_finite (h : ∀ p < np, ∀ k < d, (x.coordAt f d e p k).isFin = true) :
    x.predicate f t d np mark sign e = ((sign (2 ^ (-commonExp (x.coords f (d * np) e)).toNat) (grid np d (x.intCoord f d np e))
      (if t then some ((x.srcs.drop (d * np)).map fun v => elemAt (elemH f) v e) else none) % 2 ^ (elemH f).bits).toNat, 0) := by
  unfold InFlight.predicate
  rw [← coords_all_isFin hlen] at h
  exact if_pos h

/-- A finite instance has the result on the integers that its coordinates are. -/
theorem predicate_decides (hdec : Decides np d sign result) (hties : t = true → x.srcs.length = (d + 1) * np)
    (h : ∀ p < np, ∀ k < d, (x.coordAt f d e p k).isFin = true) :
    let r := x.predicate f t d np mark sign e
    r.2 = 0 ∧ ∃ (one : Nat) (P : Nat → Nat → Int), (∀ p < np, ∀ k < d, (x.coordAt f d e p k).isAt (-(one : Int)) (P p k)) ∧
      (t = false → r.1 = (result P P % 2 ^ (elemH f).bits).toNat) ∧
      (t = true → ∃ N0, ∀ N, N0 ≤ N → r.1 = (result (perturbedAt N (2 ^ one) d np
        (fun p => elemAt (elemH f) (x.srcs.getD (d * np + p) zeroLanes) e) P) P % 2 ^ (elemH f).bits).toNat) := by
  intro r
  have hr := predicate_of_finite (t := t) (mark := mark) (sign := sign) hlen h
  refine ⟨congrArg Prod.snd hr, (-commonExp (x.coords f (d * np) e)).toNat, x.intCoord f d np e,
    fun p hp k hk => intCoord_isAt hlen hp hk (h p hp k hk), fun ht => ?_, fun ht => ?_⟩
  · rw [congrArg Prod.fst hr, ht]
    exact congrArg (fun v : Int => (v % 2 ^ (elemH f).bits).toNat) (hdec.exact _ _)
  · have hcount : (x.srcs.drop (d * np)).length = np := by
      rw [List.length_drop, hties ht, Nat.succ_mul, Nat.add_sub_cancel_left]
    have hidx : ∀ p < np, elemAt (elemH f) (x.srcs.getD (d * np + p) zeroLanes) e =
        ((x.srcs.drop (d * np)).map fun v => elemAt (elemH f) v e).getD p 0 := fun p hp => by
      have hp' : d * np + p < x.srcs.length := by rw [List.length_drop] at hcount; omega
      simp [hp']
    obtain ⟨N0, hN0⟩ := eventually_atTop.1 (hdec.ties _ _ _ _ (by rw [List.length_map, hcount]) hidx)
    refine ⟨N0, fun N hN => ?_⟩
    rw [congrArg Prod.fst hr, ht]
    exact congrArg (fun v : Int => (v % 2 ^ (elemH f).bits).toNat) (hN0 N hN)

end

/-- A predicate in flight settles with the predicate of its row of Table 7.6, which traps NV unless it is quiet (07 R216, R223). -/
theorem signRule_settled {x : InFlight} {y : Settled} {t q : Bool} {f : HFmt} {d np mark : Nat}
    {result : (Nat → Nat → Int) → (Nat → Nat → Int) → Int} (hrule : signRule x.instr = some (t, q, f, d, np, mark, result))
    (hy : x.settled = some y) : ∃ sign, Decides np d sign result ∧ y.res = x.predicate f t d np mark sign ∧ y.force = !q := by
  unfold InFlight.settled at hy
  generalize x.instr = i at hrule hy
  cases i
  case vorient2 => cases hrule; cases hy; exact ⟨_, (orient2_standsFor (by decide) (by decide) (by decide)).decides, rfl, rfl⟩
  case vorient3 => cases hrule; cases hy; exact ⟨_, orient3_standsFor.decides, rfl, rfl⟩
  case vincirc => cases hrule; cases hy; exact ⟨_, inCircle_standsFor.decides, rfl, rfl⟩
  case vinsph => cases hrule; cases hy; exact ⟨_, inSphere_standsFor.decides, rfl, rfl⟩
  case vsegx => cases hrule; cases hy; exact ⟨_, segClass_decides, rfl, rfl⟩
  all_goals cases hrule

end Sys2Proof.Machine
end

section
/-! The special operands of vexp, vlog and verf (07 R214, Table 7.4): how they decode, and what each function gives for them. -/

namespace Sys2Proof.Machine

/-- The encoding of a sign alone. -/
def Fmt.signBit (F : Fmt) : Nat := 2 ^ (F.ebits + F.mbits)

-- Encodings by their magnitude, in a format with infinities (01 R11, R12).

section
variable {F : Fmt} {v : Nat}

/-- The magnitude of an encoding is its exponent field above its significand field. -/
theorem mod_signBit (F : Fmt) (v : Nat) : v % F.signBit = v % 2 ^ F.mbits + 2 ^ F.mbits * (v / 2 ^ F.mbits % 2 ^ F.ebits) := by
  rw [Fmt.signBit, Nat.add_comm, pow_add, Nat.mod_mul]

theorem encInf_false (F : Fmt) : encInf F false = 2 ^ F.mbits * (2 ^ F.ebits - 1) := by simp [encInf, Nat.mul_comm]

/-- The exponent field is all ones from the encoding of infinity on. -/
theorem exponent_eq_ones (h : encInf F false ≤ v % F.signBit) : v / 2 ^ F.mbits % 2 ^ F.ebits = 2 ^ F.ebits - 1 := by
  rw [encInf_false, mod_signBit] at h
  have hm : v % 2 ^ F.mbits < 2 ^ F.mbits := Nat.mod_lt _ (by positivity)
  have he : v / 2 ^ F.mbits % 2 ^ F.ebits < 2 ^ F.ebits := Nat.mod_lt _ (by positivity)
  by_contra hne
  have hle := Nat.mul_le_mul_left (2 ^ F.mbits) (show v / 2 ^ F.mbits % 2 ^ F.ebits + 1 ≤ 2 ^ F.ebits - 1 by omega)
  rw [Nat.mul_succ] at hle
  omega

variable (hinf : F.hasInf = true)
include hinf

theorem decodeF_of_nan (h : encInf F false < v % F.signBit) : decodeF F v = .nan (decide (v % F.signBit < cnan F)) := by
  have he := exponent_eq_ones h.le
  rw [encInf_false, mod_signBit, he] at h
  have hm : v % 2 ^ F.mbits ≠ 0 := by omega
  have hc : cnan F = 2 ^ F.mbits * (2 ^ F.ebits - 1) + 2 ^ (F.mbits - 1) := by simp [cnan, hinf, Nat.mul_comm]
  have hlt : v % F.signBit < cnan F ↔ v % 2 ^ F.mbits < 2 ^ (F.mbits - 1) := by rw [hc, mod_signBit, he]; omega
  simp only [decodeF, hinf, he, hm, hlt, Bool.true_and, beq_self_eq_true, if_true, if_false]

omit hinf in
/-- The sign field is set from the encoding of the sign on. -/
theorem sign_field_eq (hv : v < 2 * F.signBit) : (v / 2 ^ (F.mbits + F.ebits) % 2 == 1) = decide (F.signBit ≤ v) := by
  have hpos : 0 < F.signBit := by unfold Fmt.signBit; positivity
  rw [Nat.add_comm, ← Fmt.signBit]
  by_cases h : F.signBit ≤ v
  · have hdiv : v / F.signBit = 1 := Nat.div_eq_of_lt_le (by omega) (by omega)
    simp [hdiv, h]
  · have hdiv : v / F.signBit = 0 := Nat.div_eq_of_lt (by omega)
    simp [hdiv, h]

theorem decodeF_of_inf (hv : v < 2 * F.signBit) (h : v % F.signBit = encInf F false) :
    decodeF F v = .inf (decide (F.signBit ≤ v)) := by
  have he := exponent_eq_ones h.ge
  rw [encInf_false, mod_signBit, he] at h
  have hm : v % 2 ^ F.mbits = 0 := by omega
  simp only [decodeF, hinf, he, hm, sign_field_eq hv, Bool.true_and, beq_self_eq_true, if_true]

/-- Below infinity an encoding is a number, which is zero where its magnitude is. -/
theorem decodeF_of_finite (hv : v < 2 * F.signBit) (h : v % F.signBit < encInf F false) :
    ∃ m e, decodeF F v = .fin (decide (F.signBit ≤ v)) m e ∧ (m = 0 ↔ v % F.signBit = 0) := by
  have hM : 0 < 2 ^ F.mbits := by positivity
  have he : v / 2 ^ F.mbits % 2 ^ F.ebits ≠ 2 ^ F.ebits - 1 := by
    intro he
    rw [encInf_false, mod_signBit, he] at h
    omega
  have hbeq : (v / 2 ^ F.mbits % 2 ^ F.ebits == 2 ^ F.ebits - 1) = false := beq_false_of_ne he
  simp only [decodeF, hinf, hbeq, sign_field_eq hv, mod_signBit]
  by_cases hzero : v / 2 ^ F.mbits % 2 ^ F.ebits = 0
  · exact ⟨_, _, if_pos hzero, by simp [hzero]⟩
  · exact ⟨_, _, if_neg hzero, by simp [hzero]⟩

end

-- The functions on them.

/-- A NaN's result, by the magnitude of its encoding. -/
theorem nanResult_special (F : Fmt) (n : Nat) : nanResult F (decide (n < cnan F)) = (cnan F, if cnan F ≤ n then 0 else 1) := by
  by_cases h : cnan F ≤ n
  · simp [nanResult, flagIf, h, Nat.not_lt.2 h]
  · simp [nanResult, flagIf, flagNV, h, Nat.not_le.1 h]

-- Table 7.4 in the names of the model's encodings.

section
variable {f : HFmt} {tk : Tok} {d a : VReg} {md : Rounding} {k : KReg} {v : Nat}

theorem specialRule_vexp : specialRule (.vexp tk d a md f k) f v =
    let F := HFmt.fmt f
    if encInf F false < v % F.signBit then some (nanResult F (decide (v % F.signBit < cnan F)))
    else if v % F.signBit = 0 then some (encOne F false, 0) else if v = encInf F false then some (encInf F false, 0)
    else if v = F.signBit + encInf F false then some (0, 0) else none := by
  simp only [nanResult_special]
  cases f <;> rfl

theorem specialRule_vlog : specialRule (.vlog tk d a md f k) f v =
    let F := HFmt.fmt f
    if encInf F false < v % F.signBit then some (nanResult F (decide (v % F.signBit < cnan F)))
    else if v % F.signBit = 0 then some (F.signBit + encInf F false, 2) else if v = encOne F false then some (0, 0)
    else if v = encInf F false then some (encInf F false, 0) else if F.signBit < v then some (cnan F, 1) else none := by
  simp only [nanResult_special]
  cases f <;> rfl

theorem specialRule_verf : specialRule (.verf tk d a md f k) f v =
    let F := HFmt.fmt f
    if encInf F false < v % F.signBit then some (nanResult F (decide (v % F.signBit < cnan F)))
    else if v % F.signBit = 0 then some (v, 0)
    else if v % F.signBit = encInf F false then some (v - encInf F false + encOne F false, 0) else none := by
  simp only [nanResult_special]
  cases f <;> rfl

theorem fmt_hasInf (f : HFmt) : (HFmt.fmt f).hasInf = true := by cases f <;> rfl

theorem elemH_bound (f : HFmt) : 2 ^ (elemH f).bits = 2 * (HFmt.fmt f).signBit := by cases f <;> rfl

theorem encInf_lt_signBit (f : HFmt) : encInf (HFmt.fmt f) false < (HFmt.fmt f).signBit := by cases f <;> decide

theorem encInf_pos (f : HFmt) : 0 < encInf (HFmt.fmt f) false := by cases f <;> decide

theorem encInf_true (F : Fmt) : encInf F true = F.signBit + encInf F false := by simp [encInf, Fmt.signBit]

theorem encOne_true (f : HFmt) : encOne (HFmt.fmt f) true = (HFmt.fmt f).signBit + encOne (HFmt.fmt f) false := by cases f <;> decide

theorem decodeF_encOne (f : HFmt) :
    decodeF (HFmt.fmt f) (encOne (HFmt.fmt f) false) = .fin false (2 ^ (HFmt.fmt f).mbits) (-(HFmt.fmt f).mbits) := by
  cases f <;> decide

section
variable (hv : v < 2 * (HFmt.fmt f).signBit) {r : Nat × Flags}
include hv

/-- e^x of a special operand, in every mode. -/
theorem expF_special (h : specialRule (.vexp tk d a md f k) f v = some r) (md' : Rounding) :
    expF (HFmt.fmt f) md' (decodeF (HFmt.fmt f) v) = r := by
  have hlt := encInf_lt_signBit f
  rw [specialRule_vexp] at h
  dsimp only at h
  split_ifs at h with hnan hzero hpos hneg <;> cases h
  · rw [decodeF_of_nan (fmt_hasInf f) hnan]
    rfl
  · obtain ⟨m, e, hdec, hm⟩ := decodeF_of_finite (fmt_hasInf f) hv (hzero ▸ encInf_pos f)
    rw [hdec, expF, if_pos (hm.2 hzero)]
  · rw [decodeF_of_inf (fmt_hasInf f) hv (by rw [hpos, Nat.mod_eq_of_lt hlt]), decide_eq_false (by omega)]
    rfl
  · rw [decodeF_of_inf (fmt_hasInf f) hv (by rw [hneg, Nat.add_mod_left, Nat.mod_eq_of_lt hlt]), decide_eq_true (by omega)]
    rfl

/-- ln x of a special operand, in every mode. -/
theorem logF_special (h : specialRule (.vlog tk d a md f k) f v = some r) (md' : Rounding) :
    logF (HFmt.fmt f) md' (decodeF (HFmt.fmt f) v) = r := by
  have hlt := encInf_lt_signBit f
  rw [specialRule_vlog] at h
  dsimp only at h
  split_ifs at h with hnan hzero hone hpos hneg <;> cases h
  · rw [decodeF_of_nan (fmt_hasInf f) hnan]
    rfl
  · obtain ⟨m, e, hdec, hm⟩ := decodeF_of_finite (fmt_hasInf f) hv (hzero ▸ encInf_pos f)
    rw [hdec, logF, if_pos (hm.2 hzero), encInf_true, flagDZ]
  · rw [hone, decodeF_encOne]
    simp [logF]
  · rw [decodeF_of_inf (fmt_hasInf f) hv (by rw [hpos, Nat.mod_eq_of_lt hlt]), decide_eq_false (by omega)]
    rfl
  · rcases (Nat.not_lt.1 hnan).eq_or_lt with hinf | hfin
    · rw [decodeF_of_inf (fmt_hasInf f) hv hinf, decide_eq_true hneg.le]
      rfl
    · obtain ⟨m, e, hdec, hm⟩ := decodeF_of_finite (fmt_hasInf f) hv hfin
      rw [hdec, decide_eq_true hneg.le, logF, if_neg (mt hm.1 hzero), if_pos rfl, flagNV]

/-- erf x of a special operand, in every mode. -/
theorem erfF_special (h : specialRule (.verf tk d a md f k) f v = some r) (md' : Rounding) :
    erfF (HFmt.fmt f) md' (decodeF (HFmt.fmt f) v) = r := by
  have hlt := encInf_lt_signBit f
  rw [specialRule_verf] at h
  dsimp only at h
  split_ifs at h with hnan hzero hinf <;> cases h
  · rw [decodeF_of_nan (fmt_hasInf f) hnan]
    rfl
  · obtain ⟨m, e, hdec, hm⟩ := decodeF_of_finite (fmt_hasInf f) hv (hzero ▸ encInf_pos f)
    rw [hdec, erfF, if_pos (hm.2 hzero), ← Fmt.signBit]
    by_cases hneg : (HFmt.fmt f).signBit ≤ v
    · have hv : v = (HFmt.fmt f).signBit := by rw [Nat.mod_eq_sub_mod hneg, Nat.mod_eq_of_lt (by omega)] at hzero; omega
      simp [hv]
    · rw [Nat.mod_eq_of_lt (by omega)] at hzero
      rw [decide_eq_false hneg, hzero, Bool.toNat_false, Nat.zero_mul]
  · rw [decodeF_of_inf (fmt_hasInf f) hv hinf, erfF]
    by_cases hneg : (HFmt.fmt f).signBit ≤ v
    · rw [Nat.mod_eq_sub_mod hneg, Nat.mod_eq_of_lt (by omega)] at hinf
      rw [decide_eq_true hneg, encOne_true, ← hinf, Nat.sub_sub_self hneg]
    · rw [Nat.mod_eq_of_lt (by omega)] at hinf
      rw [decide_eq_false hneg, hinf, Nat.sub_self, zero_add]

end

end

end Sys2Proof.Machine
end

section
/-! The settlement of the instruction in flight (07 R206, R211, R215, R223) and of O29. -/

namespace Sys2Proof.Machine

open Host

/-- An instance at reset but for its FMODE: whether an enabled exception arose depends on no more. -/
def Inst.withMode (w : Word) : Inst := { Inst.reset with sys := { Inst.reset.sys with fmode := w } }

section
variable {s : State} {g : CoreNo} {x : InFlight} {y : Settled}

/-- The exceptions that an instruction in flight raises by lane, in active elements alone. -/
def InFlight.raised (x : InFlight) (y : Settled) (l : Nat) : Flags := if active y.w x.mask l then (y.res l).2 else 0

/-- The FMODE that decides its traps: a predicate that is not quiet enables NV (07 R223). -/
def InFlight.trapMode (x : InFlight) (y : Settled) : Word := if y.force then x.fmode ||| 0x100 else x.fmode

/-- The state whose executing word is the instruction in flight. -/
def State.settling (s : State) (g : CoreNo) (x : InFlight) : State := { s with cur := ⟨g, .ve, x.pc, x.word, 0, x.stamp, false⟩ }

/-- With no enabled exception the results are written and the word retires. -/
theorem hollyhockSettle_retires (hx : (s.inst g).hollyhock = some x) (hy : x.settled = some y)
    (hquiet : (Inst.withMode (x.trapMode y)).quiet (x.raised y)) :
    let u := (s.settling g x).modInst g fun i =>
      ({ i with hollyhock := none }.raiseFlags (x.raised y)).writeV y.d
        (setElems y.w (i.oldV y.d) (active y.w x.mask) fun e => (y.res e).1)
    exec (.hollyhockSettle g) s =
      .next ((if isVq y.d then u.sink g else u).retireWord [] (if y.tk.ts then [defaultOut .ve] else [])) := by
  have hfpx : fpxOf (x.trapMode y) (x.raised y) = none := fpxOf_of_quiet hquiet
  unfold InFlight.trapMode InFlight.raised at hfpx
  rw [exec_hollyhockSettle, execHollyhockSettle]
  simp only [hx, hy, hfpx]
  rfl

/-- With one it traps FPX and gives back what it took. -/
theorem hollyhockSettle_traps (hx : (s.inst g).hollyhock = some x) (hy : x.settled = some y)
    (hloud : ¬(Inst.withMode (x.trapMode y)).quiet (x.raised y)) :
    let en := enabled (x.trapMode y)
    exec (.hollyhockSettle g) s = .next (((s.settling g x).modInst g fun i => i.dropHolly x y.tk.tw).raiseFpx (x.raised y)
      (fpxLanes en (x.raised y)) ((fpxUnion en (x.raised y)).zeroExtend 64)) := by
  intro en
  have hfpx : fpxOf (x.trapMode y) (x.raised y) = some (fpxLanes en (x.raised y), (fpxUnion en (x.raised y)).zeroExtend 64) :=
    fpxOf_of_not_quiet hloud
  unfold InFlight.trapMode InFlight.raised at hfpx
  rw [exec_hollyhockSettle, execHollyhockSettle]
  simp only [hx, hy, hfpx]
  rfl

/-- vexp, vlog and verf settle with Table 7.4's results for its operands, in every mode (07 R214). -/
theorem special_settled (hy : x.settled = some y) {f : HFmt} {e : Nat} {r : Nat × Flags}
    (hinstr : ∃ tk d a md k, x.instr = .vexp tk d a md f k ∨ x.instr = .vlog tk d a md f k ∨ x.instr = .verf tk d a md f k)
    (hr : specialRule x.instr f (elemAt (elemH f) (x.srcs.headD zeroLanes) e) = some r) : y.res e = r := by
  have hv := elemH_bound f ▸ elemAt_lt (elemH f) (x.srcs.headD zeroLanes) e
  unfold InFlight.settled at hy
  obtain ⟨tk, d, a, md, k, hinstr⟩ := hinstr
  generalize x.instr = i at hinstr hy hr
  obtain rfl | rfl | rfl := hinstr <;> cases hy
  · exact expF_special hv hr _
  · exact logF_special hv hr _
  · exact erfF_special hv hr _

end

/-- Settles O29: settlement by whether an enabled exception arose, the special operands by Table 7.4, and the predicates by
`signRule_settled`, whose determinants are those of the statement. -/
theorem hollyhockSettles : Obligations.HollyhockSettles := by
  intro s g x y hx hy t on fl en
  refine ⟨fun hquiet => hollyhockSettle_retires hx hy hquiet, fun hloud => ?_, fun f e r => special_settled hy, ?_⟩
  · obtain ⟨l, hl, hne⟩ := hloud
    exact ⟨fpxLanes en fl, fpxUnion en fl, fun l hl => fpxLanes_getLsbD _ _ hl, fun b _ => fpxUnion_getLsbD _ _ b,
      hollyhockSettle_traps hx hy fun hquiet => hne (hquiet l hl)⟩
  · intro t q f d np mark result hrule hlen w coord finite
    obtain ⟨sign, hdec, hres, hforce⟩ := signRule_settled hrule hy
    have hcoords : d * np ≤ x.srcs.length := by
      rw [hlen]
      exact Nat.mul_le_mul_right np (by split <;> omega)
    refine ⟨hforce, fun e _ => ⟨fun hinf => ?_, fun hfin => ?_⟩⟩
    · rw [hres]
      exact predicate_of_infinite hcoords hinf
    · rw [hres]
      exact predicate_decides hcoords hdec (fun ht => by rw [hlen, if_pos ht]) hfin

end Sys2Proof.Machine
end

section
/-! Runs of matrix words that complete or trap, and the pipelined loop (09 R268 to R270). -/

namespace Sys2Proof.Machine

open Host

section
variable {s t : State} {tk : Tok}

/-- A word of the VE, ME or CE that closes no segment completes with its effect and what its retirement adds. -/
theorem engineRunThen_completes {post : State → State} (htok : s.tokReady tk = true) :
    engineRunThen s tk [] [] false (.ok t) post = .next (post (s.wordDone t tk)) := by
  rw [engineRunThen_ok rfl (by simpa [State.tokReady] using htok) (Bool.false_and _)]
  simp [State.wordDone]

/-- A word of the VE, ME or CE that closes no segment completes with its effect. -/
theorem engineRun_completes (htok : s.tokReady tk = true) : engineRun s tk [] [] false (.ok t) = .next (s.wordDone t tk) :=
  engineRunThen_completes htok

/-- A failed check of a word's own traps before any wait (02 R491). -/
theorem engineRun_traps (close : Bool) (c : Cause) (v : Word) : engineRun s tk [] [] close (.error (.trap c v)) = .next (s.raise c v) := rfl

/-- A word that waits for a queue changes nothing (04 R138). -/
theorem engineRun_waits : engineRun s tk [] [] false (.error .wait) = .next s := rfl

end

-- The pipelined loop.

/-- The sequencer of an mloop at its first slot, that of the oldest stage of its first slot word (09 R269). -/
def State.firstSlot (s : State) (l : Fin 1024) (ii : Fin 64) (v : Word) : MLoop := ⟨s.cur.pc, l.val, ii.val, v, 0, 0, l.val / ii.val - 1⟩

/-- What the retirement of an mloop leaves of the matrix engine: its body skipped, or its sequencer at the first slot that issues. -/
def Inst.enterMloop (i : Inst) (s : State) (l : Fin 1024) (ii : Fin 64) (v : Word) : Inst :=
  if v = 0 then { i with me := { i.me with pc := s.cur.pc + 4 + 4 * l.val, loops := (s.inst s.cur.core).me.loops, held := false } }
  else { i with mloop := some (s.firstSlot l ii v) }.settleMloop

section
variable {s : State} {tk : Tok} {l : Fin 1024} {ii : Fin 64} (hok : mloopOk (s.inst s.cur.core).me s.cur.pc l.val ii.val = true)
  (htok : s.tokReady tk = true)
include hok htok

/-- An mloop within its limits, with its immediate count, enters its body. -/
theorem execMloop_immediate (n : Fin 128) : execMloop tk l ii false n s =
    .next ((s.wordDone s tk).modInst s.cur.core fun i => i.enterMloop s l ii (BitVec.ofNat 64 n.val)) := by
  unfold execMloop
  simp only [hok, check_true]
  exact engineRunThen_completes htok

/-- An mloop within its limits enters its body with the count that it pops from q8. -/
theorem execMloop_popped (n : Fin 128) {v : Word} {rest : List Word} (hq : (s.inst s.cur.core).qw[8] = v :: rest) :
    execMloop tk l ii true n s = .next ((s.wordDone
      ((s.modInst s.cur.core fun y => { y with qw := y.qw.set 8 rest }).sink s.cur.core) tk).modInst s.cur.core fun i => i.enterMloop s l ii v) := by
  have hpop : popQ8 s = .ok ((s.modInst s.cur.core fun y => { y with qw := y.qw.set 8 rest }).sink s.cur.core, v) := by
    simp only [popQ8, hq, List.isEmpty_cons, Bool.not_false, need_true, List.headD_cons]
    refine congrArg (fun x : State => Except.ok (x.sink s.cur.core, v)) (modInst_congr ?_)
    rw [hq, List.tail_cons]
  unfold execMloop
  simp only [hok, check_true, if_true, hpop]
  exact engineRunThen_completes htok

end

/-- A slot issues exactly when its stage has an iteration in this step (09 R269). -/
theorem squashed_eq_false_iff (m : MLoop) : m.squashed = false ↔ m.st ≤ m.c ∧ m.c - m.st < m.n.toNat := by
  simp only [MLoop.squashed, Bool.not_eq_false', decide_eq_true_eq]
  omega

/-- Settles O37: mloop by its two forms of count, and the order of its slots by the cases of `nextSlot`. -/
theorem pipelinedLoop : Obligations.PipelinedLoop := by
  refine ⟨?_, fun m => ⟨squashed_eq_false_iff m, fun h => if_pos h, fun h0 hw => ?_, fun h0 hw => ?_⟩⟩
  · intro s tk l ii n g st enter hok htok
    exact ⟨fun _ => execMloop_immediate hok htok n, fun v rest hq => execMloop_popped hok htok n hq⟩
  · simp [MLoop.nextSlot, h0, hw]
  · simp [MLoop.nextSlot, h0, Nat.not_lt.mpr hw]

end Sys2Proof.Machine
end

section
/-! The tile pool and the ranks (09 R252 to R254, 10 R286): each word by the check of the tile that it names. -/

namespace Sys2Proof.Machine

open Host

section
variable {i : Inst} {t : TReg}

/-- A tile that is allocated is found. -/
theorem tileAt_ok {x : Tile} (h : i.tiles[t] = some x) : i.tileAt t = .ok x := by
  unfold Inst.tileAt; rw [h]

/-- A tile that is not allocated traps BUFFER_RANGE with its number. -/
theorem tileAt_none (h : i.tiles[t] = none) : i.tileAt t = .error (.trap .bufferRange (BitVec.ofNat 64 t.val)) := by
  unfold Inst.tileAt; rw [h]; rfl

theorem tdCheck_of_form {x : Tile} {f : TileForm} (h : i.tiles[t] = some x) (hf : x.form = f) : tdCheck i t f = .ok x :=
  hf ▸ tdCheck_ok h

theorem tdCheck_none (h : i.tiles[t] = none) (f : TileForm) :
    tdCheck i t f = .error (.trap .bufferRange (BitVec.ofNat 64 t.val)) := by
  unfold tdCheck; rw [tileAt_none h]; rfl

/-- A tile of another form traps BUFFER_RANGE with 0x100 more. -/
theorem tdCheck_form {x : Tile} {f : TileForm} (h : i.tiles[t] = some x) (hf : x.form ≠ f) :
    tdCheck i t f = .error (.trap .bufferRange (BitVec.ofNat 64 (0x100 + t.val))) := by
  unfold tdCheck; rw [tileAt_ok h]
  simp [bind, Except.bind, check, hf]

end

section
variable {s : State} {tk : Tok} {d a : TReg}

/-- A word whose tile does not pass its check traps as that check does. -/
theorem engineRun_bind_traps {α : Type} {r : Res α} {c : Cause} {v : Word} (h : r = .error (.trap c v)) (f : α → Res State) :
    engineRun s tk [] [] false (r >>= f) = .next (s.raise c v) := by
  rw [h]; exact engineRun_traps false c v

/-- A word that changes the instance alone completes with that change, where its result is that change. -/
theorem engineRun_change (htok : s.tokReady tk = true) {r : Res State} {h : Inst → Inst} (hr : r = .ok (s.modInst s.cur.core h)) :
    engineRun s tk [] [] false r = .next (s.wordDone (s.modInst s.cur.core h) tk) := by
  rw [hr]; exact engineRun_completes htok

section
variable (htok : s.tokReady tk = true)
include htok

theorem execTalloc_makes {n : Fin 2048} {f : TileForm} (hfree : (s.inst s.cur.core).tiles[d] = none)
    (hroom : (s.inst s.cur.core).rowsUsed + n.val ≤ (s.inst s.cur.core).budget) : execTalloc tk d n f s =
    .next (s.wordDone (s.modInst s.cur.core fun y => y.setTile d (some ⟨f, List.replicate n.val zeroRow, 0⟩)) tk) := by
  unfold execTalloc
  exact engineRun_change htok (by simp [hfree, hroom, bind, Except.bind])

theorem execTfree_frees {x : Tile} (hx : (s.inst s.cur.core).tiles[d] = some x) :
    execTfree tk d s = .next (s.wordDone (s.modInst s.cur.core fun y => y.setTile d none) tk) := by
  unfold execTfree
  exact engineRun_change htok (by rw [tileAt_ok hx]; rfl)

theorem execTclr_clears {x : Tile} (hx : (s.inst s.cur.core).tiles[d] = some x) :
    execTclr tk d s = .next (s.wordDone (s.modInst s.cur.core fun y => y.setTile d (some
      (if x.form = .lr then { x with rank := 0 } else { x with rows := x.rows.map fun _ => zeroRow }))) tk) := by
  unfold execTclr
  exact engineRun_change htok (by rw [tileAt_ok hx]; rfl)

theorem execTmov_copies {x y : Tile} (hx : (s.inst s.cur.core).tiles[d] = some x) (hy : (s.inst s.cur.core).tiles[a] = some y)
    (hform : x.form = y.form) (hlen : x.rows.length = y.rows.length) :
    execTmov tk d a s = .next (s.wordDone (s.modInst s.cur.core fun z => z.setTile d (some y)) tk) := by
  unfold execTmov
  exact engineRun_change htok (by rw [tileAt_ok hx, tileAt_ok hy]; simp [hform, hlen, bind, Except.bind])

theorem execLrrank_sends {x : Tile} (hx : (s.inst s.cur.core).tiles[a] = some x) (hform : x.form = .lr)
    (hroom : (s.inst s.cur.core).qr[9].length < 8) : execLrrank tk a s = .next (s.wordDone ((s.modInst s.cur.core fun y =>
      { y with qr := y.qr.set 9 (y.qr[9] ++ [BitVec.ofNat 64 x.rank]) }).sink s.cur.core) tk) := by
  unfold execLrrank
  simp only [tdCheck_of_form hx hform, hroom, decide_true, need_true, bind, Except.bind]
  exact engineRun_completes htok

theorem execLrrankSet_takes {x : Tile} {v : Word} {rest : List Word} (hx : (s.inst s.cur.core).tiles[d] = some x) (hform : x.form = .lr)
    (hq : (s.inst s.cur.core).qw[8] = v :: rest) (hfit : v.toNat ≤ x.cap ∨ v.toNat = 64 ∧ x.rows.length = 64) :
    execLrrankSet tk d s = .next (s.wordDone ((s.modInst s.cur.core fun y =>
      { y.setTile d (some { x with rank := v.toNat }) with qw := y.qw.set 8 rest }).sink s.cur.core) tk) := by
  unfold execLrrankSet
  simp only [tdCheck_of_form hx hform, hq, List.isEmpty_cons, Bool.not_false, need_true, List.headD_cons, hfit, if_true, asLate_ok, bind, Except.bind]
  rw [engineRun_completes htok]
  refine congrArg (fun u : State => Outcome.next (s.wordDone (u.sink s.cur.core) tk)) (modInst_congr ?_)
  rw [hq, List.tail_cons]

end

theorem execTalloc_full {n : Fin 2048} {f : TileForm} (hfree : (s.inst s.cur.core).tiles[d] = none)
    (hfull : (s.inst s.cur.core).budget < (s.inst s.cur.core).rowsUsed + n.val) : execTalloc tk d n f s =
    .next (s.raise .slotexh (BitVec.ofNat 64 (d.val * 2 ^ 16 + n.val))) := by
  unfold execTalloc
  simp only [hfree, Option.isNone_none, check_true, bind, Except.bind]
  exact engineRun_bind_traps (if_neg (by simpa using hfull)) _

/-- Words that name one tile trap where it is not allocated. -/
theorem exec_tile_unallocated (hd : (s.inst s.cur.core).tiles[d] = none) {i : Instr} (hi : i ∈ [Instr.tfree tk d, .tclr tk d, .lrrankSet tk d]) :
    exec i s = .next (s.raise .bufferRange (BitVec.ofNat 64 d.val)) := by
  simp only [List.mem_cons, List.not_mem_nil, or_false] at hi
  rcases hi with rfl | rfl | rfl
  · exact engineRun_bind_traps (by rw [tileAt_none hd]; rfl) _
  · exact engineRun_bind_traps (tileAt_none hd) _
  · exact engineRun_bind_traps (tdCheck_none hd .lr) _

/-- tmov and lrrank trap where their source is not allocated, whatever the destination is. -/
theorem exec_source_unallocated (ha : (s.inst s.cur.core).tiles[a] = none) {i : Instr} (hi : i ∈ [Instr.tmov tk d a, .lrrank tk a]) :
    exec i s = .next (s.raise .bufferRange (BitVec.ofNat 64 a.val)) := by
  simp only [List.mem_cons, List.not_mem_nil, or_false] at hi
  rcases hi with rfl | rfl
  · exact engineRun_bind_traps (tileAt_none ha) _
  · exact engineRun_bind_traps (tdCheck_none ha .lr) _

theorem execTmov_unallocated {y : Tile} (hy : (s.inst s.cur.core).tiles[a] = some y) (hd : (s.inst s.cur.core).tiles[d] = none) :
    execTmov tk d a s = .next (s.raise .bufferRange (BitVec.ofNat 64 d.val)) := by
  unfold execTmov
  rw [tileAt_ok hy]
  exact engineRun_bind_traps (tileAt_none hd) _

theorem execTmov_unlike {x y : Tile} (hx : (s.inst s.cur.core).tiles[d] = some x) (hy : (s.inst s.cur.core).tiles[a] = some y)
    (hne : x.form ≠ y.form ∨ x.rows.length ≠ y.rows.length) :
    execTmov tk d a s = .next (s.raise .bufferRange (BitVec.ofNat 64 (0x100 + d.val))) := by
  have hbad : (y.form == x.form && y.rows.length == x.rows.length) = false := by
    rcases hne with h | h <;> simp [Ne.symm h]
  unfold execTmov
  rw [tileAt_ok hx, tileAt_ok hy]
  exact engineRun_bind_traps (r := check _ _ _) (if_neg (by simp [hbad])) _

end

/-- Settles O35: each word by its lemma, at the case of the clause. -/
theorem tilePool : Obligations.TilePool := by
  intro s tk d a n f g j done put htok
  exact ⟨fun hfree hroom => execTalloc_makes htok hfree hroom, fun hfree hfull => execTalloc_full hfree hfull,
    fun x hx => execTfree_frees htok hx, fun x hx => execTclr_clears htok hx,
    fun x y hx hy hform hlen => execTmov_copies htok hx hy hform hlen, fun x hx hform hroom => execLrrank_sends htok hx hform hroom,
    fun x v rest hx hform hq hfit => execLrrankSet_takes htok hx hform hq hfit,
    fun hd i hi => exec_tile_unallocated hd hi, fun ha i hi => exec_source_unallocated ha hi,
    fun y hy hd => execTmov_unallocated hy hd, fun x y hx hy hne => execTmov_unlike hx hy hne,
    fun y hy hform => engineRun_bind_traps (tdCheck_form hy hform) _, fun x hx hform => engineRun_bind_traps (tdCheck_form hx hform) _⟩

end Sys2Proof.Machine
end

section
/-! Lines of tiles to and from the VE and buffer C (09 R266, R267, 10 Table 10.5). -/

namespace Sys2Proof.Machine

open Host

section
variable {s : State} {tk : Tok} {t : TReg} {e : Dir} {n : Fin 64} {x : Tile}

/-- Lines of an allocated tile pass their check: any of a dense tile, rows within a low-rank one (10 Table 10.5). -/
theorem lineCheck_any {i : Inst} {n : Nat} (hx : i.tiles[t] = some x) (hlr : x.form = .lr → e = .row ∧ n < x.rows.length) :
    lineCheck i t none e n = .ok x := by
  unfold lineCheck
  rw [tileAt_ok hx]
  obtain ⟨form, rows, rank⟩ := x
  cases form with
  | d32 | d64 => rfl
  | lr =>
    obtain ⟨rfl, hn⟩ := hlr rfl
    have hline : (((none : Option Bool) != some true) && Dir.row == Dir.row && decide (n < rows.length)) = true := by simpa using hn
    simp only [bind, Except.bind, hline, check_true]

/-- The bytes of an element in a frame of C, and those of C that a whole tile takes (09 R267). -/
def Tile.elemSize (x : Tile) : Nat := if x.form = .d64 then 8 else 4
def Tile.frameBytes (x : Tile) : Nat := if x.form = .lr then 256 * x.rows.length else 4096 * x.elemSize

/-- A whole-tile move of an allocated tile within the claim of C passes its checks. -/
theorem frameCheck_ok {i : Inst} {n frame : Nat} (hx : i.tiles[t] = some x) (hlr : x.form = .lr → e = .row ∧ n = 0)
    (hclaim : claimCheck i .c (16384 * frame) x.frameBytes = .ok ()) :
    frameCheck i t e n frame = .ok (x, 16384 * frame, x.frameBytes) := by
  rw [Nat.mul_comm] at hclaim ⊢
  have hdir : (x.form != .lr || (e == .row && n == 0)) = true := by
    by_cases hform : x.form = .lr
    · simp [hlr hform]
    · simp [hform]
  unfold frameCheck
  simp only [tileAt_ok hx, hdir, check_true, bind, Except.bind]
  obtain ⟨form, rows, rank⟩ := x
  cases form <;> exact congrArg (Except.map fun _ => _) hclaim

/-- A byte of what is read from a space: that of its place, 0 behind the end. -/
theorem read_getElem? (m : Bytes) (lo n k : Nat) :
    ((m.read lo n).toArray[k]?).getD 0 = if k < n then m.get (lo + k) else 0 := by
  by_cases h : k < n <;> simp [Bytes.read, h]

section
variable (htok : s.tokReady tk = true) (hx : (s.inst s.cur.core).tiles[t] = some x)
include htok hx

section
variable (hlr : x.form = .lr → e = .row ∧ n.val < x.rows.length)
include hlr

theorem execMrd_sends (hroom : (s.inst s.cur.core).vq[0].length < 4) : execMrd tk t e n s =
    .next (s.wordDone ((s.modInst s.cur.core fun y => { y with vq := y.vq.set 0 (y.vq[0] ++
      [setElems x.entryElem zeroLanes (fun k => decide (k < x.entryElem.count)) (x.lineEntry e n.val)]) }).sink s.cur.core) tk) := by
  unfold execMrd
  simp only [lineCheck_any hx hlr, hroom, decide_true, need_true, bind, Except.bind]
  exact engineRun_completes htok

omit htok in
theorem execMrd_waits (hfull : (s.inst s.cur.core).vq[0].length = 4) : execMrd tk t e n s = .next s := by
  unfold execMrd
  simp only [lineCheck_any hx hlr, hfull, Nat.lt_irrefl, decide_false, bind, Except.bind]
  exact engineRun_waits

theorem execMwr_takes {v : Lanes} {rest : List Lanes} (hq : (s.inst s.cur.core).vq[1] = v :: rest) : execMwr tk t e n s =
    .next (s.wordDone ((s.modInst s.cur.core fun y =>
      { y.setTile t (some (x.putLines e n.val (fun _ => true) (elemAt x.entryElem v))) with vq := y.vq.set 1 rest }).sink s.cur.core) tk) := by
  unfold execMwr
  simp only [lineCheck_any hx hlr, hq, List.isEmpty_cons, Bool.not_false, need_true, List.headD_cons, bind, Except.bind]
  rw [engineRun_completes htok]
  refine congrArg (fun u : State => Outcome.next (s.wordDone (u.sink s.cur.core) tk)) (modInst_congr ?_)
  rw [hq, List.tail_cons]

end

section
variable {f : Fin 32} {h : Bool} (hlr : x.form = .lr → e = .row ∧ n.val = 0)
  (hclaim : claimCheck (s.inst s.cur.core) .c (16384 * (f.val + 32 * h.toNat)) x.frameBytes = .ok ())
include hlr hclaim

theorem execMldc_loads : execMldc tk t e n f h s = .next (s.wordDone (s.modInst s.cur.core fun y =>
    y.setTile t (some (x.ofElems fun r c => leNat ((List.range x.elemSize).map fun b =>
      if frameByte x e n.val r c + b < x.frameBytes
      then (s.inst s.cur.core).bufC.get (16384 * (f.val + 32 * h.toNat) + (frameByte x e n.val r c + b)) else 0)))) tk) := by
  unfold execMldc
  simp only [frameCheck_ok hx hlr hclaim, read_getElem?, bind, Except.bind]
  exact engineRun_completes htok

theorem execMstc_stores : execMstc tk t e n f h s = .next (s.wordDone ((s.modInst s.cur.core fun y =>
    { y with bufC := y.bufC.put (16384 * (f.val + 32 * h.toNat)) ((List.range (x.frameBytes / x.elemSize)).flatMap fun k =>
      let p := if x.form = .lr then (k / 64, k % 64) else lineElem e ((n.val + k / 64) % 64) (k % 64)
      leBytes x.elemSize (x.elem p.1 p.2)) }).sink s.cur.core) tk) := by
  unfold execMstc
  simp only [frameCheck_ok hx hlr hclaim, bind, Except.bind]
  exact engineRun_completes htok

end
end
end

/-- Settles O36: each word by its lemma, once its check of the tile holds. -/
theorem tileMoves : Obligations.TileMoves := by
  intro s tk t e n f h x g j frame w len htok hx hlr
  refine ⟨fun hroom => execMrd_sends htok hx hlr hroom, fun hfull => execMrd_waits hx hlr hfull,
    fun v rest hq => execMwr_takes htok hx hlr hq, ?_⟩
  intro hfirst hclaim loaded stored
  have hwhole : x.form = .lr → e = .row ∧ n.val = 0 := fun hform => ⟨(hlr hform).1, hfirst hform⟩
  exact ⟨execMldc_loads htok hx hwhole hclaim, execMstc_stores htok hx hwhole hclaim⟩

end Sys2Proof.Machine
end

section
/-! The assist path of a lost class, and the balanced digits of the slice method (11 R305, R313, R314). -/

namespace Sys2Proof.Machine

open Host

/-- An instruction of a class runs by the shared operation of the classes. -/
theorem exec_of_classedOf {i : Instr} {c : Classed} (h : classedOf i = some c) (s : State) :
    exec i s = classed s c.cls i c.tk c.se (c.res s) := by
  cases i
  case mmaF64 | mmaB16 | mmas | mmaF8 | mmaI8 | mmaF4 | mmaI4 | lrset | lrmul | lradd | lrcmp | lrden => cases h; rfl
  all_goals cases h

section
variable {s : State} {cls : Nat} {i : Instr} {tk : Tok} {se : Bool} {res : Res State}
  (hlost : (capvOf s.cores[s.cur.core].rung).testBit cls = false)
include hlost

/-- A word of a lost class whose own checks do not trap stands in the assist path (11 R305). -/
theorem classed_assists (hassist : (s.inst s.cur.core).assist = none) (hres : ∀ k v, res ≠ .error (.trap k v)) :
    classed s cls i tk se res = .next (s.modInst s.cur.core fun j =>
      { j with assist := some ⟨i, s.cur.pc, s.cur.word, s.cur.stamp, false, 0, false⟩ }) := by
  have hstand : s.modInst s.cur.core (fun j => { j with assist := some (j.assist.getD ⟨i, s.cur.pc, s.cur.word, s.cur.stamp, false, 0, false⟩) })
      = s.modInst s.cur.core fun j => { j with assist := some ⟨i, s.cur.pc, s.cur.word, s.cur.stamp, false, 0, false⟩ } :=
    modInst_congr (by rw [hassist]; rfl)
  unfold classed
  rw [if_neg (Bool.eq_false_iff.mp hlost), ← hstand]
  split
  · exact absurd rfl (hres _ _)
  · rfl

/-- A word of a lost class whose own check fails traps at once (02 R491). -/
theorem classed_traps {k : Cause} {v : Word} (hres : res = .error (.trap k v)) : classed s cls i tk se res = .next (s.raise k v) := by
  unfold classed
  rw [if_neg (Bool.eq_false_iff.mp hlost), hres]

end

-- Balanced digits.

section
variable {w : Nat} (hw : 2 ≤ w)
include hw

/-- A power of two is the double of the one before it. -/
theorem two_pow_pred : (2 : Int) ^ w = 2 * 2 ^ (w - 1) := by
  rw [← pow_succ', Nat.sub_add_cancel (by omega)]

/-- A digit lies in its balanced range (11 R314). -/
theorem digit_range (m : Int) : -2 ^ (w - 1) ≤ digit w m ∧ digit w m < 2 ^ (w - 1) := by
  have hpos : (0 : Int) < 2 ^ w := by positivity
  have hlo := Int.emod_nonneg (m + 2 ^ (w - 1)) hpos.ne'
  have hhi := Int.emod_lt_of_pos (m + 2 ^ (w - 1)) hpos
  unfold digit
  rw [two_pow_pred hw] at hhi hlo ⊢
  omega

omit hw in
/-- A digit leaves a multiple of the digits' base. -/
theorem digit_rest (m : Int) : digit w m + 2 ^ w * ((m - digit w m) / 2 ^ w) = m := by
  have hdvd : (2 : Int) ^ w ∣ m - digit w m := ⟨(m + 2 ^ (w - 1)) / 2 ^ w, by
    have := Int.emod_add_mul_ediv (m + 2 ^ (w - 1)) (2 ^ w)
    unfold digit
    omega⟩
  rw [Int.mul_ediv_cancel' hdvd]
  omega

omit hw in
@[simp] theorem balanced_length (n : Nat) (m : Int) : (balanced w n m).length = n := by
  induction n generalizing m with
  | zero => rfl
  | succ n ih => simp [balanced, ih]

theorem balanced_range (n : Nat) (m : Int) : ∀ d ∈ balanced w n m, -2 ^ (w - 1) ≤ d ∧ d < 2 ^ (w - 1) := by
  induction n generalizing m with
  | zero => simp [balanced]
  | succ n ih =>
    simp only [balanced, List.forall_mem_cons]
    exact ⟨digit_range hw m, ih _⟩

/-- n digits hold every number of magnitude at most 2^(w n - 2): their weighted sum is the number (11 R314). -/
theorem balanced_sum_le (n : Nat) (m : Int) (hm : |m| ≤ 2 ^ (w * (n + 1) - 2)) :
    ∑ s ∈ Finset.range (n + 1), (balanced w (n + 1) m).getD s 0 * 2 ^ (w * s) = m := by
  induction n generalizing m with
  | zero =>
    have hhalf : (2 : Int) ^ (w - 1) = 2 * 2 ^ (w - 2) := by rw [← pow_succ']; congr 1; omega
    have hpos : (0 : Int) < 2 ^ (w - 2) := by positivity
    rw [zero_add, mul_one, abs_le] at hm
    have hmod : (m + 2 ^ (w - 1)) % 2 ^ w = m + 2 ^ (w - 1) := by
      apply Int.emod_eq_of_lt <;> rw [hhalf] <;> [skip; rw [two_pow_pred hw, hhalf]] <;> omega
    simp [balanced, digit, hmod]
  | succ n ih =>
    obtain ⟨hlo, hhi⟩ := digit_range hw m
    have hrest := digit_rest (w := w) m
    set q := (m - digit w m) / 2 ^ w with hq
    have hsplit : (2 : Int) ^ (w * (n + 1 + 1) - 2) = 2 ^ w * 2 ^ (w * (n + 1) - 2) := by
      rw [← pow_add]
      congr 1
      have : 2 ≤ w * (n + 1) := le_trans hw (Nat.le_mul_of_pos_right _ (by omega))
      rw [show w * (n + 1 + 1) = w + w * (n + 1) by ring]
      omega
    have hbound : |q| ≤ 2 ^ (w * (n + 1) - 2) := by
      have hpos : (0 : Int) < 2 ^ (w - 1) := by positivity
      have hone : (1 : Int) ≤ 2 ^ (w * (n + 1) - 2) := one_le_pow₀ (by norm_num)
      rw [hsplit, two_pow_pred hw, abs_le] at hm
      rw [two_pow_pred hw] at hrest
      rw [abs_le]
      constructor <;> nlinarith [hm.1, hm.2]
    have hshift : ∀ s, (balanced w (n + 1 + 1) m).getD (s + 1) 0 * 2 ^ (w * (s + 1)) =
        2 ^ w * ((balanced w (n + 1) q).getD s 0 * 2 ^ (w * s)) := fun s => by
      rw [balanced, List.getD_cons_succ, Nat.mul_succ, pow_add]
      ring
    rw [Finset.sum_range_succ']
    simp only [hshift, ← Finset.mul_sum, ih q hbound]
    simp only [balanced, List.getD_cons_zero, mul_zero, pow_zero, mul_one]
    omega

/-- The digits of a number within the range of 11 R313 stand for it exactly. -/
theorem balanced_sum (n : Nat) {m : Int} (hm : m.natAbs < 2 ^ (w * n - 2)) :
    ∑ s ∈ Finset.range n, (balanced w n m).getD s 0 * 2 ^ (w * s) = m := by
  cases n with
  | zero =>
    have : m = 0 := by simpa using hm
    simp [this]
  | succ n =>
    refine balanced_sum_le hw n m ?_
    rw [Int.abs_eq_natAbs]
    exact_mod_cast hm.le

omit hw in
/-- A sum over the places of a list is the sum over its entries with their places. -/
theorem zipIdx_sum (l : List Int) (f : Nat → Int) :
    (l.zipIdx.map fun e => e.1 * f e.2).sum = ∑ s ∈ Finset.range l.length, l.getD s 0 * f s := by
  induction l using List.reverseRecOn with
  | nil => simp
  | append_singleton l x ih =>
    rw [List.zipIdx_append, List.map_append, List.sum_append, ih, List.length_append, List.length_singleton, Finset.sum_range_succ]
    congr 1
    · refine Finset.sum_congr rfl fun s hs => ?_
      rw [List.getD_append _ _ _ _ (Finset.mem_range.mp hs)]
    · simp

/-- A power of two that divides a number divides each of its digits at its place. -/
theorem balanced_dvd (n : Nat) {a : Nat} {m : Int} (hm : (2 : Int) ^ a ∣ m) (s : Nat) :
    (2 : Int) ^ a ∣ (balanced w n m).getD s 0 * 2 ^ (w * s) := by
  induction n generalizing a m s with
  | zero => simp [balanced]
  | succ n ih =>
    have hrest := digit_rest (w := w) m
    have hdigit : (2 : Int) ^ a ∣ digit w m := by
      rcases le_total a w with h | h
      · exact (Int.dvd_add_left (Dvd.dvd.mul_right (pow_dvd_pow 2 h) _)).mp (hrest.symm ▸ hm)
      · have hzero : digit w m = 0 := by
          obtain ⟨k, rfl⟩ := (pow_dvd_pow 2 h).trans hm
          have hlt : (2 : Int) ^ (w - 1) < 2 ^ w := pow_lt_pow_right₀ (by norm_num) (by omega)
          unfold digit
          rw [Int.add_comm, Int.add_mul_emod_self_left, Int.emod_eq_of_lt (by positivity) hlt, sub_self]
        simp [hzero]
    cases s with
    | zero => simpa [balanced] using hdigit
    | succ s =>
      have hq : (2 : Int) ^ (a - w) ∣ (m - digit w m) / 2 ^ w := by
        rcases le_total a w with h | h
        · simp [Nat.sub_eq_zero_of_le h]
        · have : (2 : Int) ^ w * 2 ^ (a - w) ∣ 2 ^ w * ((m - digit w m) / 2 ^ w) := by
            rw [← pow_add, Nat.add_sub_cancel' h]
            exact (Int.dvd_add_right hdigit).mp (hrest.symm ▸ hm)
          exact Int.dvd_of_mul_dvd_mul_left (by positivity) this
      have hdvd : (2 : Int) ^ a ∣ 2 ^ w * 2 ^ (a - w) := by
        rw [← pow_add]; exact pow_dvd_pow 2 (by omega)
      rw [balanced, List.getD_cons_succ, Nat.mul_succ, pow_add, ← mul_assoc, mul_comm]
      exact hdvd.trans (mul_dvd_mul_left _ (ih hq s))

end

end Sys2Proof.Machine
end

section
/-! The slice path of a group is exact (11 R315, R316): its sum, group by group, is that of the fused group rule (01 R36 to R38), whatever
path is taken. -/

namespace Sys2Proof.Machine

open Host

-- Numbers in units of a grid.

/-- The value of a finite number; a NaN and an infinity have none, and read 0. -/
def Num.val : Num → ℚ
  | .fin n m e => (if n then -1 else 1) * m * 2 ^ e
  | _ => 0

/-- A number loses nothing on a grid exactly when the grid is not finer than needed or its significand is a multiple of it (01 R43). -/
theorem truncUnits_exact_iff (n : Bool) (m : Nat) (e g : Int) :
    (truncUnits n m e g).2 = false ↔ g ≤ e ∨ 2 ^ (g - e).toNat ∣ m := by
  unfold truncUnits toUnits
  by_cases h : g ≤ e
  · simp [h]
  · simp [h, Nat.dvd_iff_mod_eq_zero]

/-- A number that loses nothing on a grid is its count of units. -/
theorem truncUnits_val {n : Bool} {m : Nat} {e g : Int} (h : (truncUnits n m e g).2 = false) :
    ((truncUnits n m e g).1 : ℚ) * 2 ^ g = (Num.fin n m e).val := by
  have scaled : ∀ k : Nat, (k : ℚ) * 2 ^ g = m * 2 ^ e → (((if n then -1 else 1) * (k : Int) : Int) : ℚ) * 2 ^ g = (Num.fin n m e).val := by
    intro k hk
    unfold Num.val
    push_cast
    rw [mul_assoc, hk, mul_assoc]
  have shift : ∀ a b : Int, a ≤ b → (2 : ℚ) ^ (b - a).toNat * 2 ^ a = 2 ^ b := fun a b hab => by
    rw [← zpow_natCast, ← zpow_add₀ (by norm_num), Int.toNat_of_nonneg (by omega), Int.sub_add_cancel]
  rw [truncUnits_exact_iff] at h
  unfold truncUnits toUnits
  by_cases hg : g ≤ e
  · simp only [hg, if_true]
    refine scaled _ ?_
    push_cast
    rw [mul_assoc, shift g e hg]
  · obtain ⟨k, hk⟩ := h.resolve_left hg
    simp only [hg, if_false, roundUp, Bool.false_eq_true]
    refine scaled _ ?_
    rw [hk, Nat.mul_div_cancel_left _ (by positivity), ← shift e g (by omega)]
    push_cast
    ring

theorem isFin_of_multiple {x : Num} {q : Int} (h : x.multiple q = true) : x.isFin = true := by
  cases x with
  | fin => rfl
  | nan | inf => cases h

/-- A multiple of 2^q is its units times 2^q. -/
theorem units_val {x : Num} {q : Int} (h : x.multiple q = true) : (x.units q : ℚ) * 2 ^ q = x.val := by
  cases x with
  | fin n m e => exact truncUnits_val (by simpa [Num.multiple] using h)
  | nan | inf => cases h

/-- The product of finite numbers has the product of their values (01 R37). -/
theorem product_val {a b : Num} (ha : a.isFin = true) (hb : b.isFin = true) : (product a b).1.val = a.val * b.val := by
  cases a with
  | nan | inf => cases ha
  | fin n m e =>
    cases b with
    | nan | inf => cases hb
    | fin n' m' e' =>
      simp only [product, Num.val, zpow_add₀ (two_ne_zero : (2 : ℚ) ≠ 0)]
      cases n <;> cases n' <;> push_cast <;> simp <;> ring

/-- Whole numbers of a grid that stand for a value are equal. -/
theorem eq_of_zpow_mul {a b : Int} {g : Int} (h : (a : ℚ) * 2 ^ g = b * 2 ^ g) : a = b := by
  exact_mod_cast mul_right_cancel₀ (zpow_ne_zero g two_ne_zero) h

/-- A lane of the accumulator keeps its value on a grid that its value is a multiple of. -/
theorem laneUnits_val {v g : Int} (h : 2 ^ g.toNat ∣ v) : (laneUnits v g : ℚ) * 2 ^ g = v := by
  have hexact : (truncUnits (decide (v < 0)) v.natAbs 0 g).2 = false := by
    rw [truncUnits_exact_iff]
    rcases le_or_gt g 0 with hg | hg
    · exact .inl hg
    · exact .inr (by simpa [← Int.natCast_dvd_natCast] using h)
  unfold laneUnits
  rw [truncUnits_val hexact]
  unfold Num.val
  rcases lt_or_ge v 0 with hv | hv
  · simp [hv, abs_of_neg (Int.cast_lt_zero.mpr hv : (v : ℚ) < 0)]
  · simp [not_lt.mpr hv, abs_of_nonneg (Int.cast_nonneg hv : (0 : ℚ) ≤ v)]

-- The largest exponent of a list.

/-- Sign, significand and exponent of a finite number. -/
def Num.parts : Num → Option (Bool × Nat × Int)
  | .fin n m e => some (n, m, e)
  | _ => none

/-- The nonzero numbers of a list. -/
def nonzeros (xs : List Num) : List (Bool × Nat × Int) := (xs.filterMap Num.parts).filter fun t => t.2.1 != 0

/-- The largest exponent found after some numbers, from the largest before them. -/
def topFrom (top : Int) (ts : List (Bool × Nat × Int)) : Int := ts.foldl (fun m x => max m (floorLog2 x.2.1 x.2.2)) top

theorem topLog_eq (xs : List Num) : topLog xs = match nonzeros xs with
    | [] => none
    | t :: rest => some (topFrom (floorLog2 t.2.1 t.2.2) rest) := by
  have step : ∀ (xs : List Num) (o : Option Int), xs.foldl (fun m x => match x with
      | .fin _ (k + 1) e => some (m.elim (floorLog2 (k + 1) e) (max · (floorLog2 (k + 1) e)))
      | _ => m) o = match o with
        | some top => some (topFrom top (nonzeros xs))
        | none => match nonzeros xs with
          | [] => none
          | t :: rest => some (topFrom (floorLog2 t.2.1 t.2.2) rest) := by
    intro xs
    induction xs with
    | nil => intro o; cases o <;> rfl
    | cons x xs ih =>
      intro o
      rw [List.foldl_cons, ih]
      cases x with
      | nan | inf => rfl
      | fin n m e =>
        cases m with
        | zero => rfl
        | succ k => cases o <;> rfl
  exact step xs none

theorem le_topFrom (top : Int) (ts : List (Bool × Nat × Int)) :
    top ≤ topFrom top ts ∧ ∀ t ∈ ts, floorLog2 t.2.1 t.2.2 ≤ topFrom top ts := by
  induction ts generalizing top with
  | nil => simp [topFrom]
  | cons t ts ih =>
    obtain ⟨htop, hall⟩ := ih (max top (floorLog2 t.2.1 t.2.2))
    exact ⟨(le_max_left ..).trans htop, List.forall_mem_cons.mpr ⟨(le_max_right ..).trans htop, hall⟩⟩

/-- No nonzero number of a list lies above the largest exponent. -/
theorem floorLog2_le_topLog {xs : List Num} {top : Int} (h : topLog xs = some top) {n : Bool} {m : Nat} {e : Int} (hx : .fin n m e ∈ xs)
    (hm : m ≠ 0) : floorLog2 m e ≤ top := by
  have hmem : (n, m, e) ∈ nonzeros xs :=
    List.mem_filter.mpr ⟨List.mem_filterMap.mpr ⟨_, hx, rfl⟩, by simpa using hm⟩
  rw [topLog_eq] at h
  cases hnz : nonzeros xs with
  | nil => rw [hnz] at hmem; cases hmem
  | cons t rest =>
    rw [hnz] at h hmem
    cases h
    rcases List.mem_cons.mp hmem with rfl | hmem
    · exact (le_topFrom _ _).1
    · exact (le_topFrom _ _).2 _ hmem

/-- A number of a list is below the double of the largest power of two in it. -/
theorem abs_val_lt {xs : List Num} {top : Int} (h : topLog xs = some top) {x : Num} (hx : x ∈ xs) : |x.val| < 2 ^ (top + 1) := by
  have hpos : (0 : ℚ) < 2 ^ (top + 1) := by positivity
  cases x with
  | nan | inf => simpa [Num.val] using hpos
  | fin n m e =>
    have habs : |(Num.fin n m e).val| = m * 2 ^ e := by
      unfold Num.val
      rw [abs_mul, abs_mul, abs_of_pos (by positivity : (0 : ℚ) < 2 ^ e), Nat.abs_cast]
      split <;> simp
    rw [habs]
    rcases eq_or_ne m 0 with rfl | hm
    · simpa using hpos
    · have hlog := floorLog2_le_topLog h hx hm
      have hm2 : (m : ℚ) < 2 ^ (m.log2 + 1) := by exact_mod_cast Nat.lt_log2_self
      calc (m : ℚ) * 2 ^ e < 2 ^ (m.log2 + 1) * 2 ^ e := by gcongr
        _ = 2 ^ (floorLog2 m e + 1) := by
          rw [← zpow_natCast, ← zpow_add₀ two_ne_zero]
          unfold floorLog2
          congr 1
          push_cast
          ring
        _ ≤ 2 ^ (top + 1) := zpow_le_zpow_right₀ (by norm_num) (by omega)

-- The fused group rule where every term lies on the grid.

/-- The group rule on finite terms: the sum of what is left of them on the grid, or a zero where all are zeros (01 R38). -/
theorem groupSum_finite {f : Fmt} {md : Rounding} {terms : List Num} {acc : Option Num}
    (hfin : ∀ x ∈ terms ++ acc.toList, x.isFin = true) : groupSum f md terms acc = match nonzeros (terms ++ acc.toList) with
    | [] => ((zeroSum md (((terms ++ acc.toList).filterMap Num.parts).map (·.1))).toNat * 2 ^ (f.ebits + f.mbits), flagIf false flagNV)
    | t :: rest =>
      let g := topFrom (floorLog2 t.2.1 t.2.2) rest - (if f.mbits = 52 then 109 else 49)
      let us := (nonzeros (terms ++ acc.toList)).map fun x => truncUnits x.1 x.2.1 x.2.2 g
      let sum := (us.map (·.1)).sum
      let fl := flagIf false flagNV ||| flagIf (us.any (·.2)) flagNX
      if sum = 0 then ((md == .rdn).toNat * 2 ^ (f.ebits + f.mbits), fl)
      else ((roundTo f md (decide (sum < 0)) sum.natAbs g false).1, fl ||| (roundTo f md (decide (sum < 0)) sum.natAbs g false).2) := by
  have none_is : ∀ p : Num → Bool, (∀ x, x.isFin = true → p x = false) → (terms ++ acc.toList).any p = false := fun p hp => by
    rw [List.any_eq_false]
    exact fun x hx => Bool.eq_false_iff.mp (hp x (hfin x hx))
  have hnan := none_is Num.isNan fun x hx => by cases x <;> first | rfl | cases hx
  have hinf : ∀ n, (terms ++ acc.toList).any (· == .inf n) = false := fun n =>
    none_is _ fun x hx => by cases x <;> first | rfl | cases hx
  have hsnan : acc.any Num.snan = false := by
    cases acc with
    | none => rfl
    | some x =>
      have := hfin x (by simp)
      cases x <;> first | rfl | cases this
  unfold groupSum
  simp only [hnan, hinf, hsnan, Bool.false_eq_true, if_false, Bool.and_false, Bool.or_self]
  rfl

/-- The units of the nonzero numbers add up to those of all. -/
theorem nonzeros_units_sum (xs : List Num) (g : Int) :
    ((nonzeros xs).map fun x => (truncUnits x.1 x.2.1 x.2.2 g).1).sum = (xs.map (·.units g)).sum := by
  have zero_units : ∀ n e, (truncUnits n 0 e g).1 = 0 := fun n e => by
    unfold truncUnits toUnits
    split <;> simp [roundUp]
  induction xs with
  | nil => rfl
  | cons x xs ih =>
    rw [List.map_cons, List.sum_cons, ← ih]
    cases x with
    | nan | inf => exact (zero_add _).symm
    | fin n m e =>
      rcases eq_or_ne m 0 with rfl | hm
      · simp [nonzeros, Num.parts, Num.units, zero_units]
      · simp [nonzeros, Num.parts, Num.units, hm]

theorem nonzeros_exact {xs : List Num} {g : Int} (h : ∀ x ∈ xs, x.multiple g = true) :
    ∀ t ∈ nonzeros xs, (truncUnits t.1 t.2.1 t.2.2 g).2 = false := by
  intro t ht
  obtain ⟨x, hx, hparts⟩ := List.mem_filterMap.mp (List.mem_filter.mp ht).1
  have hm := h x hx
  cases x with
  | nan | inf => cases hparts
  | fin n m e =>
    cases hparts
    simpa [Num.multiple] using hm

/-- The grid of a group whose largest term has exponent `top` (01 R38). -/
def gridOf (f : Fmt) (top : Int) : Int := top - (if f.mbits = 52 then 109 else 49)

/-- Where every term is a multiple of the grid, the group rule rounds the exact sum and drops nothing (01 R38). -/
theorem groupSum_exact {f : Fmt} {md : Rounding} {terms : List Num} {acc : Option Num} {top : Int}
    (htop : topLog (terms ++ acc.toList) = some top) (hall : ∀ x ∈ terms ++ acc.toList, x.multiple (gridOf f top) = true) :
    groupSum f md terms acc = roundUnits f md (((terms ++ acc.toList).map (·.units (gridOf f top))).sum) (gridOf f top) := by
  rw [groupSum_finite fun x hx => isFin_of_multiple (hall x hx), ← nonzeros_units_sum]
  have hexact := nonzeros_exact hall
  rw [topLog_eq] at htop
  cases hnz : nonzeros (terms ++ acc.toList) with
  | nil => rw [hnz] at htop; cases htop
  | cons t rest =>
    rw [hnz] at htop hexact
    cases htop
    have hdrop : ((t :: rest).map fun x => truncUnits x.1 x.2.1 x.2.2 (gridOf f (topFrom (floorLog2 t.2.1 t.2.2) rest))).any (·.2) = false := by
      rw [List.any_eq_false]
      intro u hu
      obtain ⟨x, hx, rfl⟩ := List.mem_map.mp hu
      exact Bool.eq_false_iff.mp (hexact x hx)
    unfold gridOf at hdrop ⊢
    simp only [hdrop, List.map_map, Function.comp_def, flagIf, Bool.false_eq_true, if_false, roundUnits]
    have hzero : ∀ fl : Flags, 0 ||| fl = fl := fun fl => BitVec.zero_or
    simp only [hzero]

-- The slice path.

theorem list_range_sum (n : Nat) (f : Nat → Int) : ((List.range n).map f).sum = ∑ s ∈ Finset.range n, f s := by
  induction n with
  | zero => rfl
  | succ n ih => simp [List.range_succ, Finset.sum_range_succ, ih]

theorem sum_list_comm {α : Type} (n : Nat) (l : List α) (f : α → Nat → Int) :
    ∑ s ∈ Finset.range n, (l.map fun p => f p s).sum = (l.map fun p => ∑ s ∈ Finset.range n, f p s).sum := by
  induction l with
  | nil => simp
  | cons p l ih => simp [Finset.sum_add_distrib, ih]

/-- The sum over the slices of one pair is the product of its numbers. -/
theorem slices_mul {w na nb : Nat} (hw : 2 ≤ w) {a b : Int} (ha : a.natAbs < 2 ^ (w * na - 2)) (hb : b.natAbs < 2 ^ (w * nb - 2)) :
    ∑ s ∈ Finset.range na, ∑ t ∈ Finset.range nb,
      (balanced w na a).getD s 0 * (balanced w nb b).getD t 0 * 2 ^ (w * (s + t)) = a * b := by
  calc _ = (∑ s ∈ Finset.range na, (balanced w na a).getD s 0 * 2 ^ (w * s)) *
        ∑ t ∈ Finset.range nb, (balanced w nb b).getD t 0 * 2 ^ (w * t) := by
        rw [Finset.sum_mul_sum]
        refine Finset.sum_congr rfl fun s _ => Finset.sum_congr rfl fun t _ => ?_
        rw [Nat.mul_add, pow_add]
        ring
    _ = a * b := by rw [balanced_sum hw na ha, balanced_sum hw nb hb]

/-- One slice product of pairs of whole numbers, as the sum over the pairs. -/
theorem sliceProduct_map (w na nb : Nat) (us : List (Int × Int)) (s t : Nat) :
    sliceProduct (us.map fun u => balanced w na u.1) (us.map fun u => balanced w nb u.2) s t =
      (us.map fun u => (balanced w na u.1).getD s 0 * (balanced w nb u.2).getD t 0).sum := by
  simp [sliceProduct, List.zipWith_map, List.zipWith_self]

/-- A power of two that divides every product divides each slice product, less the weight of its place. -/
theorem sliceProduct_dvd {w na nb : Nat} (hw : 2 ≤ w) {us : List (Int × Int)} {k : Nat} (h : ∀ u ∈ us, (2 : Int) ^ k ∣ u.1 * u.2) (s t : Nat) :
    (2 : Int) ^ k ∣ sliceProduct (us.map fun u => balanced w na u.1) (us.map fun u => balanced w nb u.2) s t * 2 ^ (w * (s + t)) := by
  rw [sliceProduct_map, ← List.sum_map_mul_right]
  refine List.dvd_sum fun x hx => ?_
  obtain ⟨u, hu, rfl⟩ := List.mem_map.mp hx
  obtain ⟨a, b, ha, hb, hab⟩ := exists_dvd_and_dvd_of_dvd_mul (h u hu)
  obtain ⟨i, hi, hai⟩ := (dvd_prime_pow Int.prime_two _).mp (Dvd.intro b hab.symm)
  obtain ⟨j, hj, hbj⟩ := (dvd_prime_pow Int.prime_two _).mp (Dvd.intro_left a hab.symm)
  have hda := balanced_dvd hw na (hai.symm.dvd.trans ha) s
  have hdb := balanced_dvd hw nb (hbj.symm.dvd.trans hb) t
  rw [hab, Nat.mul_add, pow_add, mul_mul_mul_comm]
  exact (mul_dvd_mul hai.dvd hbj.dvd).trans (mul_dvd_mul hda hdb)

/-- The sum of the slice path, where the products of the pairs are whole numbers of the grid (11 R315). -/
theorem sliceSum_exact {w na nb : Nat} (hw : 2 ≤ w) {qa qb eg : Int} {us : List (Int × Int × Int)}
    (ha : ∀ u ∈ us, u.1.natAbs < 2 ^ (w * na - 2)) (hb : ∀ u ∈ us, u.2.1.natAbs < 2 ^ (w * nb - 2))
    (hprod : ∀ u ∈ us, (u.1 * u.2.1 : ℚ) * 2 ^ (qa + qb) = u.2.2 * 2 ^ eg) :
    sliceSum w na nb qa qb eg (us.map (·.1)) (us.map (·.2.1)) = (us.map (·.2.2)).sum := by
  set pairs := us.map fun u => (u.1, u.2.1) with hpairs
  have hda : (us.map (·.1)).map (balanced w na) = pairs.map fun p => balanced w na p.1 := by simp [hpairs]
  have hdb : (us.map (·.2.1)).map (balanced w nb) = pairs.map fun p => balanced w nb p.2 := by simp [hpairs]
  have hgrid : ∀ p ∈ pairs, (2 : Int) ^ (eg - (qa + qb)).toNat ∣ p.1 * p.2 := by
    intro p hp
    obtain ⟨u, hu, rfl⟩ := List.mem_map.mp hp
    rcases le_or_gt (eg - (qa + qb)) 0 with hle | hgt
    · simp [Int.toNat_of_nonpos hle]
    · refine ⟨u.2.2, eq_of_zpow_mul (g := qa + qb) ?_⟩
      push_cast
      rw [hprod u hu, mul_right_comm, ← zpow_natCast, ← zpow_add₀ two_ne_zero, Int.toNat_of_nonneg hgt.le, mul_comm]
      congr 2
      ring
  have hlane : ∀ s t : Nat, (laneUnits (sliceProduct (pairs.map fun p => balanced w na p.1) (pairs.map fun p => balanced w nb p.2) s t)
      (eg - (qa + qb + ((w * (s + t) : Nat) : Int))) : ℚ) * 2 ^ eg =
      ((pairs.map fun p => (balanced w na p.1).getD s 0 * (balanced w nb p.2).getD t 0 * 2 ^ (w * (s + t))).sum : Int) * 2 ^ (qa + qb) := by
    intro s t
    have hdvd := sliceProduct_dvd (na := na) (nb := nb) hw hgrid s t
    have hfits : (2 : Int) ^ (eg - (qa + qb + ((w * (s + t) : Nat) : Int))).toNat ∣
        sliceProduct (pairs.map fun p => balanced w na p.1) (pairs.map fun p => balanced w nb p.2) s t := by
      rcases le_or_gt (eg - (qa + qb + ((w * (s + t) : Nat) : Int))) 0 with hle | hgt
      · rw [Int.toNat_of_nonpos hle, pow_zero]
        exact one_dvd _
      · have hsplit : (eg - (qa + qb)).toNat = (eg - (qa + qb + ((w * (s + t) : Nat) : Int))).toNat + w * (s + t) := by omega
        rw [hsplit, pow_add] at hdvd
        exact Int.dvd_of_mul_dvd_mul_right (by positivity) hdvd
    have hval := laneUnits_val hfits
    have hexp : (2 : ℚ) ^ eg = 2 ^ (eg - (qa + qb + ((w * (s + t) : Nat) : Int))) * (2 ^ (w * (s + t)) * 2 ^ (qa + qb)) := by
      rw [← zpow_natCast, ← zpow_add₀ two_ne_zero, ← zpow_add₀ two_ne_zero]
      congr 1
      ring
    rw [hexp, ← mul_assoc, hval, ← mul_assoc, sliceProduct_map, List.sum_map_mul_right]
    push_cast
    ring
  have hmul : (pairs.map fun p => ∑ s ∈ Finset.range na, ∑ t ∈ Finset.range nb,
      (balanced w na p.1).getD s 0 * (balanced w nb p.2).getD t 0 * 2 ^ (w * (s + t))) = us.map fun u => u.1 * u.2.1 := by
    rw [hpairs, List.map_map]
    exact List.map_congr_left fun u hu => slices_mul hw (ha u hu) (hb u hu)
  have hscale : ∀ l : List (Int × Int × Int), (∀ u ∈ l, (u.1 * u.2.1 : ℚ) * 2 ^ (qa + qb) = u.2.2 * 2 ^ eg) →
      ((l.map fun u => u.1 * u.2.1).sum : Int) * (2 : ℚ) ^ (qa + qb) = ((l.map (·.2.2)).sum : Int) * 2 ^ eg := by
    intro l hl
    induction l with
    | nil => simp
    | cons u l ih =>
      obtain ⟨hu, hl⟩ := List.forall_mem_cons.mp hl
      simp only [List.map_cons, List.sum_cons, Int.cast_add, Int.cast_mul, add_mul, hu, ih hl]
  refine eq_of_zpow_mul (g := eg) ?_
  rw [← hscale us hprod, ← hmul]
  unfold sliceSum
  simp only [hda, hdb, list_range_sum]
  simp only [← sum_list_comm, Int.cast_sum, Finset.sum_mul, hlane]

end Sys2Proof.Machine
end

section
/-! The slice method gives the native results (11 R313 to R318): a group by either path, a chain of groups on every rung, and the integer
products. -/

namespace Sys2Proof.Machine

open Host

section
variable {w na nb : Nat} {f : Fmt} {ps : List (Num × Num)} {acc : Option Num}

/-- The terms of a group: its products and the accumulator (01 R38). -/
def termsOf (ps : List (Num × Num)) (acc : Option Num) : List Num := ps.map (fun p => (product p.1 p.2).1) ++ acc.toList

/-- What holds of a group whose slice path is taken (11 R315). -/
structure OnSlices (w na nb : Nat) (f : Fmt) (ps : List (Num × Num)) (acc : Option Num) (qa qb eg : Int) : Prop where
  scaleA : ∃ ea, topLog (ps.map (·.1)) = some ea ∧ qa = ea - ((w * na : Nat) - 3 : Int)
  scaleB : ∃ eb, topLog (ps.map (·.2)) = some eb ∧ qb = eb - ((w * nb : Nat) - 3 : Int)
  grid : ∃ top, topLog (termsOf ps acc) = some top ∧ eg = gridOf f top
  pairs : ∀ p ∈ ps, p.1.multiple qa = true ∧ p.2.multiple qb = true
  terms : ∀ x ∈ termsOf ps acc, x.multiple eg = true

theorem slicePath_some {qa qb eg : Int} (h : slicePath w na nb f ps acc = some (qa, qb, eg)) : OnSlices w na nb f ps acc qa qb eg := by
  unfold slicePath at h
  dsimp only at h
  split at h
  · rename_i ea eb top hea heb htop
    rw [Option.ite_none_right_eq_some] at h
    obtain ⟨hok, hval⟩ := h
    obtain ⟨hpairs, hterms⟩ := Bool.and_eq_true_iff.mp hok
    simp only [Option.some.injEq, Prod.mk.injEq] at hval
    obtain ⟨rfl, rfl, rfl⟩ := hval
    exact ⟨⟨ea, hea, rfl⟩, ⟨eb, heb, rfl⟩, ⟨top, htop, rfl⟩, by simpa using hpairs, List.all_eq_true.mp hterms⟩
  · cases h

/-- An operand in units of its scale has two bits less than its digits (11 R313, R315). -/
theorem units_natAbs_lt {xs : List Num} {x : Num} {top q : Int} {k : Nat} (htop : topLog xs = some top) (hx : x ∈ xs)
    (hq : q = top - ((k : Nat) - 3 : Int)) (hm : x.multiple q = true) : (x.units q).natAbs < 2 ^ (k - 2) := by
  have hval := abs_val_lt htop hx
  have hexp : (2 : ℚ) ^ (top + 1) = 2 ^ ((k : Int) - 2) * 2 ^ q := by
    rw [← zpow_add₀ two_ne_zero]
    congr 1
    omega
  rw [← units_val hm, abs_mul, abs_of_pos (by positivity : (0 : ℚ) < 2 ^ q), hexp] at hval
  have hlt : |(x.units q : ℚ)| < 2 ^ ((k : Int) - 2) := lt_of_mul_lt_mul_right hval (by positivity)
  have hle : (2 : ℚ) ^ ((k : Int) - 2) ≤ 2 ^ (k - 2) := by
    rw [← zpow_natCast]
    exact zpow_le_zpow_right₀ (by norm_num) (by omega)
  have : ((x.units q).natAbs : ℚ) < 2 ^ (k - 2) := by
    rw [Nat.cast_natAbs]
    push_cast
    exact hlt.trans_le hle
  exact_mod_cast this

/-- A group by Primrose has the value and the flags of the native rule, on the slice path and on the fallback path (11 R316). -/
theorem primroseGroup_eq (hw : 2 ≤ w) (md : Rounding) :
    primroseGroup w na nb f md ps acc = groupSum f md (ps.map fun p => (product p.1 p.2).1) acc := by
  unfold primroseGroup
  split
  · rename_i qa qb eg hpath
    obtain ⟨⟨ea, hea, hqa⟩, ⟨eb, heb, hqb⟩, ⟨top, htop, heg⟩, hpairs, hterms⟩ := slicePath_some hpath
    have hus : ∀ u ∈ ps.map fun p => (p.1.units qa, p.2.units qb, (product p.1 p.2).1.units eg),
        ∃ p ∈ ps, u = (p.1.units qa, p.2.units qb, (product p.1 p.2).1.units eg) := fun u hu => by
      obtain ⟨p, hp, rfl⟩ := List.mem_map.mp hu
      exact ⟨p, hp, rfl⟩
    have hsum := sliceSum_exact (qa := qa) (qb := qb) (eg := eg) (na := na) (nb := nb) hw
      (us := ps.map fun p => (p.1.units qa, p.2.units qb, (product p.1 p.2).1.units eg))
      (fun u hu => by
        obtain ⟨p, hp, rfl⟩ := hus u hu
        exact units_natAbs_lt hea (List.mem_map_of_mem hp) hqa (hpairs p hp).1)
      (fun u hu => by
        obtain ⟨p, hp, rfl⟩ := hus u hu
        exact units_natAbs_lt heb (List.mem_map_of_mem hp) hqb (hpairs p hp).2)
      (fun u hu => by
        obtain ⟨p, hp, rfl⟩ := hus u hu
        obtain ⟨hma, hmb⟩ := hpairs p hp
        have hmp := hterms _ (List.mem_append_left _ (List.mem_map_of_mem (f := fun p : Num × Num => (product p.1 p.2).1) hp))
        dsimp only
        rw [units_val hmp, product_val (isFin_of_multiple hma) (isFin_of_multiple hmb), ← units_val hma, ← units_val hmb,
          zpow_add₀ two_ne_zero]
        ring)
    simp only [List.map_map, Function.comp_def] at hsum
    rw [groupSum_exact htop (heg ▸ hterms), ← heg]
    dsimp only
    rw [hsum, List.map_append, List.sum_append, List.map_map]
    cases acc <;> simp [Function.comp_def]
  · rfl

end

/-- One group on a rung: by slices of its width, or in the fallback path where it has none (11 R318). -/
def rungGroup (rung fa fb : Nat) (f : Fmt) (md : Rounding) (now : List (Num × Num)) (acc : Option Num) : Nat × Flags :=
  match sliceWidth rung with
  | some w => primroseGroup w (sliceCount w (sigBits fa)) (sliceCount w (sigBits fb)) f md now acc
  | none => groupSum f md (now.map fun p : Num × Num => (product p.1 p.2).1) acc

theorem sliceWidth_two_le {rung w : Nat} (h : sliceWidth rung = some w) : 2 ≤ w := by
  unfold sliceWidth at h
  split at h <;> cases h <;> decide

theorem rungGroup_eq (rung fa fb : Nat) (f : Fmt) (md : Rounding) (now : List (Num × Num)) (acc : Option Num) :
    rungGroup rung fa fb f md now acc = groupSum f md (now.map fun p => (product p.1 p.2).1) acc := by
  unfold rungGroup
  split
  · exact primroseGroup_eq (sliceWidth_two_le ‹_›) md
  · rfl

theorem primroseChain_succ (rung fa fb : Nat) (f : Fmt) (md : Rounding) (g n : Nat) (ps : List (Num × Num)) (x : Option Nat) (fl : Flags) :
    primroseChain rung fa fb f md g (n + 1) ps x fl = if ps.isEmpty then (x.getD 0, fl) else
      let r := rungGroup rung fa fb f md (ps.take g) (x.map (decodeF f))
      primroseChain rung fa fb f md g n (ps.drop g) (some r.1)
        (fl ||| r.2 ||| flagIf ((ps.take g).any fun p => (product p.1 p.2).2) flagNV) := rfl

/-- An element by Primrose has the value and the flags of the native chain of groups, on every rung. -/
theorem primroseChain_eq (rung fa fb : Nat) (f : Fmt) (md : Rounding) (g n : Nat) (ps : List (Num × Num)) (x : Option Nat) (fl : Flags) :
    primroseChain rung fa fb f md g n ps x fl = groupChain f md g n (ps.map fun p => product p.1 p.2) x fl := by
  induction n generalizing ps x fl with
  | zero => rfl
  | succ n ih =>
    rw [primroseChain_succ, rungGroup_eq, groupChain, List.isEmpty_map, ← List.map_take, ← List.map_drop]
    simp only [ih, List.any_map, List.map_map, Function.comp_def]

-- Integer products.

/-- A product of two operands of at most eight bits by slices is their product (11 R317). -/
theorem primroseProduct_eq (rung : Nat) {a b : Int} (ha : a.natAbs < 256) (hb : b.natAbs < 256) : primroseProduct rung a b = a * b := by
  have sliced : ∀ w, 2 ≤ w → 10 ≤ w * sliceCount w (sigBits 7) →
      ((List.range (sliceCount w (sigBits 7))).map fun s => ((List.range (sliceCount w (sigBits 7))).map fun t =>
        sliceProduct [balanced w (sliceCount w (sigBits 7)) a] [balanced w (sliceCount w (sigBits 7)) b] s t * 2 ^ (w * (s + t))).sum).sum
        = a * b := by
    intro w hw hn
    have hfits : 256 ≤ 2 ^ (w * sliceCount w (sigBits 7) - 2) := (Nat.pow_le_pow_right (by decide) (show 8 ≤ _ by omega) : 2 ^ 8 ≤ _)
    rw [← slices_mul hw (ha.trans_le hfits) (hb.trans_le hfits)]
    simp [list_range_sum, sliceProduct]
  unfold primroseProduct
  cases h : sliceWidth rung with
  | none => rfl
  | some w =>
    unfold sliceWidth at h
    split at h <;> cases h
    · exact sliced 8 (by decide) (by decide)
    · exact sliced 8 (by decide) (by decide)
    · exact sliced 4 (by decide) (by decide)

/-- A sum that leaves INT32. -/
def leavesInt32 (s : Int) : Bool := decide (s < -2 ^ 31 ∨ 2 ^ 31 ≤ s)

theorem intOf_twos {x : Int} (h : leavesInt32 x = false) : intOf true 32 (twos 32 x) = x := by
  simp only [leavesInt32, decide_eq_false_iff_not] at h
  unfold intOf twos
  by_cases hs : 2 ^ (32 - 1) ≤ (x % 2 ^ 32).toNat
  · rw [if_pos (by simpa using hs)]; omega
  · rw [if_neg (by simpa using hs)]; omega

/-- The running sums of a list of summands, the newest first, after some that are there. -/
def prefixSums (x : Int) (l : List Int) (qs : List Int) : List Int := qs.foldl (fun l q => (l.headD x + q) :: l) l

/-- A chain of wrapped additions ends at the wrapped sum, and has wrapped exactly when a sum before wrapping has left INT32 (01 R40). -/
theorem intChain_eq_prefixSums (x : Int) (qs : List Int) (l : List Int) (hhead : l.any leavesInt32 = false → leavesInt32 (l.headD x) = false) :
    intChain qs (intOf true 32 (twos 32 (l.headD x))) (l.any leavesInt32) =
      (intOf true 32 (twos 32 ((prefixSums x l qs).headD x)), (prefixSums x l qs).any leavesInt32) := by
  induction qs generalizing l with
  | nil => rfl
  | cons q qs ih =>
    have hleaves : (l.any leavesInt32 || leavesInt32 (intOf true 32 (twos 32 (l.headD x)) + q)) =
        ((l.headD x + q) :: l).any leavesInt32 := by
      rw [List.any_cons, Bool.or_comm]
      cases hany : l.any leavesInt32 with
      | true => simp
      | false => rw [intOf_twos (hhead hany)]
    have := ih ((l.headD x + q) :: l) fun h => by
      rw [List.any_cons, Bool.or_eq_false_iff] at h
      exact h.1
    rw [← hleaves] at this
    rw [intChain, twos_intOf_twos_add]
    exact this

/-- The integer products of an element by Primrose are those of the native rule (11 R317). -/
theorem primroseInt_eq (rung : Nat) {ps : List (Int × Int)} {x : Int} (hps : ∀ p ∈ ps, p.1.natAbs < 256 ∧ p.2.natAbs < 256)
    (hlo : -2 ^ 31 ≤ x) (hhi : x < 2 ^ 31) : primroseInt rung ps x = intChain (ps.map fun p => p.1 * p.2) x false := by
  have hx : leavesInt32 x = false := decide_eq_false (by omega)
  have hsums : ps.foldl (fun (l : List Int) (p : Int × Int) => (l.headD x + primroseProduct rung p.1 p.2) :: l) [] =
      prefixSums x [] (ps.map fun p => p.1 * p.2) := by
    rw [prefixSums, List.foldl_map]
    exact List.foldl_ext _ _ _ fun l p hp => by rw [primroseProduct_eq rung (hps p hp).1 (hps p hp).2]
  have := intChain_eq_prefixSums x (ps.map fun p => p.1 * p.2) [] fun _ => hx
  rw [List.headD_nil, intOf_twos hx] at this
  unfold primroseInt
  rw [hsums]
  exact this.symm

/-- Settles O33: the assist path by the two cases of `classed`, the slice method by the digits and the exactness of its sums. -/
theorem lostClassAssists : Obligations.LostClassAssists := by
  have hwidths : ∀ p ∈ [(0, none), (1, some 8), (2, some 8), (3, some 4), (4, none)], sliceWidth p.1 = p.2 := by decide
  have hcounts : ∀ p ∈ [(0, 8, 7, (1 : Int)), (0, 4, 14, 1), (1, 8, 4, 6), (1, 4, 7, 2), (2, 8, 2, 6), (2, 4, 3, 2), (3, 8, 2, 3),
      (3, 4, 4, 3), (4, 4, 2, 2), (5, 4, 2, 3)],
      sliceCount p.2.1 (sigBits p.1) = p.2.2.1 ∧ sliceBudget p.2.1 (sigBits p.1) = p.2.2.2 := by decide
  refine ⟨fun i s c hc hlost hassist => ⟨fun hres => ?_, fun k v hres => ?_⟩, fun rung w h => hwidths _ h,
    fun fmt w n b h => hcounts _ h, by decide, ?_,
    primroseChain_eq, fun rung ps x hps hlo hhi => primroseInt_eq rung hps hlo hhi⟩
  · rw [exec_of_classedOf hc]
    exact classed_assists hlost hassist hres
  · rw [exec_of_classedOf hc]
    exact classed_traps hlost hres
  · intro w n m hw hm
    refine ⟨balanced_length n m, balanced_range hw n m, ?_⟩
    rw [zipIdx_sum _ fun s => 2 ^ (w * s), balanced_length]
    exact balanced_sum hw n hm

end Sys2Proof.Machine
end

section
/-! Traps that wait, firmware's service, replay and the assist path (09 R273, 11 R306 to R311, 12 R341, 16 R421 to R424, R436, R437). -/

namespace Sys2Proof.Machine

open Host

variable {g : CoreNo} {s : State}

section
variable (hocc : s.cores[g].occupant.isSome = true) (hh : (s.inst g).handler = false) (hb : (s.inst g).boundary = true)
  (hfrozen : (s.inst g).assist.any (·.frozen) = false)
include hocc hh hb hfrozen

/-- Where the streams stand at their boundaries and nothing is frozen, TRAP_TAKE looks at what is pending (16 R424). -/
theorem execTrapTake_calm : execTrapTake g s = match (s.inst g).pending with
    | some p =>
      if p.route = .segment then (if p.served then .next s else .next (s.modInst g fun i => i.takeSegment p))
      else if p.route = .user ∨ p.served then .next (s.deliver g p)
      else .next s
    | none =>
      if (s.inst g).ceFaulted ∧ (s.inst g).ceSettled then match s.ceTrap g with
        | some p => .next (s.raiseOn g p)
        | none => .next s
      else .next s := by
  unfold execTrapTake
  simp only [hocc, hh, hb, hfrozen, Bool.not_false, Bool.and_self, Bool.not_true, Bool.false_eq_true, if_false] <;> rfl

theorem execTrapTake_delivers {p : Pending} (hp : (s.inst g).pending = some p) (hroute : p.route ≠ .segment)
    (hdue : p.route = .user ∨ p.served = true) : execTrapTake g s = .next (s.deliver g p) := by
  rw [execTrapTake_calm hocc hh hb hfrozen, hp]
  exact (if_neg hroute).trans (if_pos hdue)

theorem execTrapTake_segment {p : Pending} {v : Word × Word} (hp : (s.inst g).pending = some p) (hroute : p.route = .segment)
    (hserved : p.served = false) (hseg : p.seg = some v) : execTrapTake g s = .next (s.modInst g fun j => { j with
      pending := some { p with served := true, seg := none }, sys := { j.sys with segcnt := v.1, segsig := v.2 } }) := by
  have htake : (fun j : Inst => j.takeSegment p) = fun j : Inst => { j with
      pending := some { p with served := true, seg := none }, sys := { j.sys with segcnt := v.1, segsig := v.2 } } := by
    funext j
    unfold Inst.takeSegment
    rw [hseg]
  rw [execTrapTake_calm hocc hh hb hfrozen, hp, ← htake]
  exact (if_pos hroute).trans (if_neg (Bool.eq_false_iff.mp hserved))

theorem execTrapTake_copyFault {p : Pending} (hp : (s.inst g).pending = none) (hfault : (s.inst g).ceFaulted = true)
    (hsettled : (s.inst g).ceSettled = true) (htrap : s.ceTrap g = some p) : execTrapTake g s = .next (s.raiseOn g p) := by
  rw [execTrapTake_calm hocc hh hb hfrozen, hp, htrap]
  exact if_pos ⟨hfault, hsettled⟩

end

-- Firmware's service of a trap that it takes first.

section
variable {p : Pending} (hocc : s.cores[g].occupant.isSome = true) (hp : (s.inst g).pending = some p) (hroute : p.route = .firmware)
  (hserved : p.served = false) (hb : (s.inst g).boundary = true)
include hocc hp hroute hserved hb

/-- A trap that firmware takes first is served by its cause and firmware's answer (16 R422). -/
theorem execFirmwareFirstService_due (ans : Service) : execFirmwareFirstService g ans s =
    if p.cause = .poison then .next ({ s with notices := s.notices ++ [s.poisonRecord g p] }.deliver g { p with served := true })
    else match ans with
      | .unmappable => .next (s.deliver g { p with served := true })
      | .served ws =>
        if (s.inst g).pageTraps then .next ((s.writeWords ws).deliver g { p with served := true })
        else .next ((s.writeWords ws).modInst g fun j => j.serviced p.eng) := by
  obtain ⟨o, ho⟩ := Option.isSome_iff_exists.mp hocc
  unfold execFirmwareFirstService
  simp only [ho, hp, hroute, hserved, hb, ne_eq, not_true_eq_false, Bool.false_eq_true, Bool.not_true, or_self, if_false] <;> rfl

theorem execFirmwareFirstService_served (ws : List (Nat × Word)) (hc : p.cause ≠ .poison) :
    execFirmwareFirstService g (.served ws) s = .next (if (s.inst g).sys.tvec.getLsbD 1 then
      (s.writeWords ws).deliver g { p with served := true } else (s.writeWords ws).modInst g fun j => j.serviced p.eng) := by
  rw [execFirmwareFirstService_due hocc hp hroute hserved hb, if_neg hc]
  exact (apply_ite Outcome.next _ _ _).symm

/-- The record of a poison that no copy has met names the granule in memory, and no one is charged (LOG 62). -/
theorem execFirmwareFirstService_poison (ans : Service) (hc : p.cause = .poison) (hcopy : p.copy = none) {e : TlbEntry}
    (he : s.lookup (some g) (s.ctxOf g) p.tval.toNat = some e) : execFirmwareFirstService g ans s =
    .next (({ s with notices := s.notices ++ [.error .unattributed (.hbm (s.channelOf ((e.pa + (p.tval.toNat - e.va)) / 256)))
      ((e.pa + (p.tval.toNat - e.va)) / 32 * 32) 1 0xFFFF] } : State).deliver g { p with served := true }) := by
  have hrecord : s.poisonRecord g p = .error .unattributed (.hbm (s.channelOf ((e.pa + (p.tval.toNat - e.va)) / 256)))
      ((e.pa + (p.tval.toNat - e.va)) / 32 * 32) 1 0xFFFF := by
    unfold State.poisonRecord
    rw [hcopy, he]
    rfl
  rw [execFirmwareFirstService_due hocc hp hroute hserved hb, if_pos hc, hrecord]

end

-- The replay of a segment.

/-- The last checkpoint of an instance (16 R437). -/
def State.checkpointOf (s : State) (o : Occupant) : Option Saved :=
  s.checkpoints.find? fun x => x.task == o.task && x.ordinal == o.ordinal

/-- A saved context with the spill lines as they stand on a core, which are no part of it (16 R432). -/
def Saved.withSpill (x : Saved) (i : Inst) : Saved := { x with inst := { x.inst with spill := i.spill, spillBad := i.spillBad } }

section
variable {p : Pending} {o : Occupant} {t : Task} (hocc : s.cores[g].occupant = some o) (hp : (s.inst g).pending = some p)
  (hroute : p.route = .segment) (hserved : p.served = true) (hb : (s.inst g).boundary = true) (htask : s.taskOn g = some t)
include hocc hp hroute hserved hb htask

/-- Without replay or checkpoint the task is killed, and Foxglove tests the matrix engine (16 R437; LOG 85). -/
theorem execSegMismatchReplay_kills (b : Bool) (h : CoreNo) (hno : t.replay = false ∨ s.checkpointOf o = none) :
    execSegMismatchReplay g b h s = .next ((s.killTask o.task 0x10).foxTest (.me g) (!b)) := by
  have hkill : s.killOn g Cause.segMismatch.code = s.killTask o.task 0x10 := by
    unfold State.killOn
    rw [hocc]
    rfl
  unfold State.checkpointOf at hno
  unfold execSegMismatchReplay
  simp only [hocc, hp, hroute, hserved, hb, htask, ne_eq, not_true_eq_false, Bool.not_true, Bool.false_eq_true, or_self, if_false, hkill]
  cases hfind : s.checkpoints.find? fun x => x.task == o.task && x.ordinal == o.ordinal with
  | none => rfl
  | some x =>
    rw [hfind] at hno
    simp only [hno.resolve_right (by simp), Bool.not_false, if_true]

section
variable {x : Saved} (hreplay : t.replay = true) (hx : s.checkpointOf o = some x)
include hreplay hx

/-- With replay and checkpoint the instance goes back on its core, or to another one that 03 R98 allows (16 R437). -/
theorem execSegMismatchReplay_replays (b : Bool) (h : CoreNo) : execSegMismatchReplay g b h s =
    let u := (s.vacate g).foxTest (.me g) (!b)
    if b ∧ !s.cores[g].leaving then .next (s.carry (u.restoreOn (x.withSpill (s.inst g)) g) g g)
    else if (t.image.bind fun im => s.chooseCores im (fun _ => x.inst.sys.capreq.setWidth 16) [[o.ordinal]] h (u.unitDie t.id im)) =
      some [(o.ordinal, h)] ∧ s.cores[h].free then .next (s.carry (u.restoreOn (x.withSpill (s.inst g)) h) g h)
    else .next s := by
  unfold State.checkpointOf at hx
  unfold execSegMismatchReplay
  simp only [hocc, hp, hroute, hserved, hb, htask, hx, hreplay, ne_eq, not_true_eq_false, Bool.not_true, Bool.false_eq_true, or_self,
    if_false]
  cases t.image <;> rfl

end
end

-- The feeder's bad unit, and the assist path.

/-- A matrix word whose waits are over traps by a check on what it reads (09 R273). -/
theorem engineRun_late {t : State} {tk : Tok} {se : Bool} (h : t.matrixReady tk se) (c : Cause) (v : Word) :
    engineRun t tk [] [] se (.error (.late c v)) = .next (t.raise c v) := by
  obtain ⟨htok, hseg⟩ := h
  unfold engineRun engineRunThen
  unfold State.tokReady at htok
  simp only [List.append_nil, htok, hseg, Bool.false_eq_true, if_false, if_true]

theorem execMeFeederDecode_traps {cur : Cur} {instr : Instr} {c : Classed} {v : Word} (hfetch : s.fetch g .me = .run cur instr)
    (hc : classedOf instr = some c) (hres : c.res { s with cur := cur } = .error (.late .decode v))
    (hclass : (capvOf s.cores[g].rung).testBit c.cls = true) (hready : ({ s with cur := cur } : State).matrixReady c.tk c.se) :
    execMeFeederDecode g s = .next (({ s with cur := cur } : State).raise .decode v) := by
  unfold execMeFeederDecode
  simp only [hfetch, hc, hres, hclass, if_true]
  exact engineRun_late hready .decode v

section
variable {a : Assist} {c : Classed} (ha : (s.inst g).assist = some a) (hc : classedOf a.instr = some c)
include ha hc

/-- Once its instruction's waits are over and the streams stand at their boundaries, an assist freezes them (11 R306, R307). -/
theorem execAssistEnter_freezes (hfrozen : a.frozen = false) (hp : (s.inst g).pending = none) (hh : (s.inst g).handler = false)
    (hb : (s.inst g).boundary = true) (htok : (s.atAssist g a).tokReady c.tk = true)
    (hstreams : ∀ z ∈ c.streams, (s.inst g).slotReady z = true)
    (hmdq : c.sparse = true → ∃ e rest, (s.inst g).mdq = e :: rest ∧ e.landed = true) : execAssistEnter g s =
    .next (s.modInst g fun j => { j with assist := some { a with frozen := true, since := Config.clock s.tick } }) := by
  have hlanded : (!c.sparse || ((s.inst g).mdq.head?).any (·.landed)) = true := by
    cases hsparse : c.sparse with
    | false => rfl
    | true =>
      obtain ⟨e, rest, hq, hl⟩ := hmdq hsparse
      rw [hq]
      exact hl
  unfold execAssistEnter
  simp only [ha, hc, hfrozen, hp, hh, hb, htok, List.all_eq_true.mpr hstreams, hlanded]
  rfl

/-- The state in which an assisted instruction is committed: the assist is over, its resources are used, firmware's trap state holds
ASSIST_DONE, and the watchdog has stood still (11 R309, 05 R157). -/
def State.assisted (s : State) (g : CoreNo) (a : Assist) : State :=
  (s.atAssist g a).modCore g fun x =>
    { x with inst := { x.inst with assist := none }, aux := .used s.tick, fw := { x.fw with cause := 0x14 },
             watchdog := x.watchdog + (Config.clock s.tick - max a.since x.watchdog) }

/-- ASSIST_DONE commits the instruction as at native retirement (11 R309, R310). -/
theorem execAssistDone_commits {u : State} (hfrozen : a.frozen = true) (hleft : a.abandoned = false)
    (hready : (s.assisted g a).matrixReady c.tk c.se) (hres : c.res (s.assisted g a) = .ok u) :
    execAssistDone g s = .next ((s.assisted g a).matrixDone u c.tk c.se) := by
  have hrun : execAssistDone g s = engineRun (s.assisted g a) c.tk [] [] c.se (c.res (s.assisted g a)) := by
    unfold execAssistDone
    simp only [ha, hc, hfrozen, hleft]
    rfl
  rw [hrun]
  exact engineRun_done hready hres

end

/-- Settles O45: each clause by the lemma on its step. -/
theorem trapSteps : Obligations.TrapSteps := by
  intro g s i change
  refine ⟨fun hocc hh hb hfrozen => ⟨fun p hp hroute hdue => execTrapTake_delivers hocc hh hb hfrozen hp hroute hdue,
      fun p v hp hroute hserved hseg => execTrapTake_segment hocc hh hb hfrozen hp hroute hserved hseg,
      fun p hp hfault hsettled htrap => execTrapTake_copyFault hocc hh hb hfrozen hp hfault hsettled htrap⟩,
    fun p hocc hp hroute hserved hb => ⟨fun hc => ?_, fun ws hc => execFirmwareFirstService_served hocc hp hroute hserved hb ws hc,
      fun ans e hc hcopy he => execFirmwareFirstService_poison hocc hp hroute hserved hb ans hc hcopy he⟩,
    fun p o t b h hocc hp hroute hserved hb htask =>
      ⟨fun hno => execSegMismatchReplay_kills hocc hp hroute hserved hb htask b h hno, fun x hreplay hx => ⟨fun hstays => ?_, ?_⟩⟩,
    fun cur instr c v hfetch hc hres hclass hready => execMeFeederDecode_traps hfetch hc hres hclass hready,
    fun a c ha hc hfrozen hp hh hb htok hstreams hmdq => execAssistEnter_freezes ha hc hfrozen hp hh hb htok hstreams hmdq,
    fun a c u ha hc hfrozen hleft hready hres => execAssistDone_commits ha hc hfrozen hleft hready hres⟩
  · exact (execFirmwareFirstService_due hocc hp hroute hserved hb .unmappable).trans (if_neg hc)
  · refine (execSegMismatchReplay_replays hocc hp hroute hserved hb htask hreplay hx true h).trans ?_
    exact if_pos ⟨rfl, by rw [hstays]; rfl⟩
  · intro im him hfree hother u hchosen
    refine (execSegMismatchReplay_replays hocc hp hroute hserved hb htask hreplay hx b h).trans ?_
    rw [him]
    refine (if_neg ?_).trans (if_pos ⟨hchosen, hfree⟩)
    rintro ⟨hb', hstays⟩
    rcases hother with rfl | hleaving
    · cases hb'
    · rw [hleaving] at hstays
      cases hstays

end Sys2Proof.Machine
end

section
/-! The copy engine's hflag beside a tagged unit whose stored tile is longer than the unit (12 R351, 15 R409). -/

namespace Sys2Proof.Machine

open Host

/-- An hflag of the CE or of a helper that passes its checks completes with its four bytes written. -/
theorem execHflag_completes {s : State} {p q : CReg} (hsrc : s.cur.src ≠ .q0) (halign : (s.cReg p).toNat % 4 = 0)
    (hclaim : (s.cReg p).toNat + 4 ≤ (s.inst s.cur.core).claimA) (hidle : (s.inst s.cur.core).helperIdle = true)
    (htok : s.tokReady noTok = true) :
    execHflag p q s = .next (s.wordDone (s.copyBuf s.cur.core .a (s.cReg p).toNat (leBytes 4 (s.cReg q).toNat)) noTok) := by
  have hrange : claimCheck (s.inst s.cur.core) .a (s.cReg p).toNat 4 = .ok () := by
    simp [claimCheck, rangeCheck, Inst.claim, hclaim]
  unfold execHflag
  simp only [halign, hrange, hidle, beq_self_eq_true, check_true, need_true]
  refine (engineRunThen_completes htok).trans (congrArg Outcome.next (if_neg fun h => hsrc h.1))

/-- A CE word on core 0, whose buffer A holds, from offset 0, a stored tile of method 1 with all 64 words present: 265 bytes, more
than its unit of 256 has. c2 is the offset of the next unit and c3 is 1. -/
def longTile : State :=
  ({ State.reset with cur := { State.reset.cur with src := .ce } } : State).modCore 0 fun c =>
    { c with
      occupant := some ⟨0, 0⟩
      inst := { c.inst with
        c := (c.inst.c.set 2 256).set 3 1
        bufA := Bytes.put [] 0 (1 :: List.replicate 8 0xFF)
        tagsA := [(0, 265)]
        claimA := 512 } }

/-- The state after hflag c2, c3. -/
def longTileFlagged : State := longTile.wordDone (longTile.copyBuf 0 .a 256 (leBytes 4 1)) noTok

theorem exec_hflag_longTile : exec (.hflag 2 3) longTile = .next longTileFlagged := by
  rw [exec_hflag]
  exact execHflag_completes (by decide +kernel) (by decide +kernel) (by decide +kernel) (by decide +kernel) (by decide +kernel)

theorem longTileFlagged_not_trapped : ¬longTile.trapped longTileFlagged :=
  not_trapped (by decide +kernel) (by decide +kernel) (by decide +kernel) (by decide +kernel)

/-- Byte 247 of the unit is byte 256 of the buffer, the last of the stored tile. -/
theorem bufRead_longTile : (longTile.inst 0).bufRead .a 247 1 = .ok [0] := by decide +kernel

/-- It reads as the flag that hflag wrote at offset 256. -/
theorem bufRead_longTileFlagged : (longTileFlagged.inst 0).bufRead .a 247 1 = .ok [1] := by decide +kernel

/-- Refutes O53, in its clause on the bytes beside those of hflag: in `longTile` the stored tile of unit 0 reaches into unit 1, where
hflag writes, so byte 247 of the buffer reads as 0 before and as 1 after. The statement takes every state; no stored
tile that passes the entry check on LEN (at most 160, 15 Table 15.4) has 265 bytes. -/
theorem not_matrixFrame : ¬ Obligations.MatrixFrame := by
  unfold Obligations.MatrixFrame
  rintro ⟨-, copyEngine⟩
  obtain ⟨-, -, -, -, -, -, -, -, -, -, -, -, -, -, -, -, -, -, -, -, -, -, flagged, -⟩ :=
    copyEngine (.hflag 2 3) longTile longTileFlagged {} rfl rfl exec_hflag_longTile longTileFlagged_not_trapped
  have hbelow : (247 : Nat) < ((longTile.inst 0).c[(2 : CReg)]).toNat := by decide +kernel
  have hkept : (longTileFlagged.inst 0).bufRead .a 247 1 = .ok [0] := flagged 2 3 247 [0] rfl (.inl hbelow) bufRead_longTile
  rw [bufRead_longTileFlagged] at hkept
  cases hkept

end Sys2Proof.Machine
end

section
/-! Low-rank tiles (10 R281 to R290): each word by what its operands and its delivery to td give, and the ranks that trap RANKOVF. -/

namespace Sys2Proof.Machine

open Host

-- Operands, delivery and commit.

/-- A tile in factor state is a low-rank tile (10 R275), not one of 64-bit elements. -/
theorem Tile.form_ne_d64 {x : Tile} (h : x.factor = true) : x.form ≠ .d64 := by
  unfold Tile.factor at h
  obtain ⟨hform, -⟩ := Bool.and_eq_true_iff.mp h
  simp [eq_of_beq hform]

theorem lrOperand_ok {i : Inst} {t : TReg} {x : Tile} (h : i.tiles[t] = some x) (hform : x.form ≠ .d64) : lrOperand i t = .ok x := by
  unfold lrOperand
  simp only [tileAt_ok h, bne_iff_ne.mpr hform, check_true, ok_bind]

section
variable {i : Inst} {d : TReg} {t : Tile}

/-- Factors whose rank fits are written as factors (10 R289). -/
theorem deliverFactors_fits {r : Factors × Flags} (h : r.1.1.length ≤ t.cap) : deliverFactors i d t r = .ok (t.ofFactors r.1, r.2) :=
  if_pos h

/-- Under MRMODE 0 a rank above the cap traps RANKOVF (10 R290). -/
theorem deliverFactors_overflows {r : Factors × Flags} (hmode : i.rankMode = 0) (h : t.cap < r.1.1.length) :
    deliverFactors i d t r = rankOvf d r.1.1.length t.cap := by
  unfold deliverFactors
  simp [not_le.mpr h, hmode]

/-- A tile of 64 rows holds a dense sum (10 R284). -/
theorem deliverDense_fits {r : List (List Nat) × Flags} (h : t.rows.length = 64) : deliverDense i d t r = .ok (t.ofDense r.1, r.2) :=
  if_pos h

theorem workspace_ok {k : Nat} (h : i.rowsUsed + 2 * k ≤ i.budget) : workspace i d k = .ok () := by
  unfold workspace
  rw [decide_eq_true h]
  rfl

end

section
variable {s : State} {cls : Nat} {i : Instr} {tk : Tok} {se : Bool} {res : Res State}
  (hclass : (capvOf s.cores[s.cur.core].rung).testBit cls = true)
include hclass

/-- A word that commits a tile and its flags completes with them in td and MFLG (10 R279). -/
theorem classed_commits {d : TReg} {v : Tile} {f : Flags} (hready : s.matrixReady tk se) (hres : res = lrCommit s d (.ok (v, f))) :
    classed s cls i tk se res = .next (s.matrixDone (s.modInst s.cur.core fun z =>
      (z.setTile d (some v)).orMflg (f.zeroExtend 64)) tk se) :=
  classed_native hclass hready hres

/-- A word of a class that the core has, whose effect traps, takes that trap before any wait (02 R491). -/
theorem classed_native_traps {c : Cause} {v : Word} (hres : res = .error (.trap c v)) :
    classed s cls i tk se res = .next (s.raise c v) := by
  unfold classed
  rw [if_pos hclass, hres]
  exact engineRun_traps se c v

end

-- What each word computes.

section
variable {s : State} {d a b : TReg} {x y t : Tile}
  (hd : (s.inst s.cur.core).tiles[d] = some t) (ha : (s.inst s.cur.core).tiles[a] = some x)
include hd ha

section
variable (hb : (s.inst s.cur.core).tiles[b] = some y) (hform : t.form = .lr)
include hb hform

/-- lrmul delivers the product of its operands (10 R283). -/
theorem resLrmul_delivers (hx : x.form ≠ .d64) (hy : y.form ≠ .d64) (hfactor : x.factor = true ∨ y.factor = true) :
    resLrmul s d a b = lrCommit s d (deliverFactors (s.inst s.cur.core) d t (lrProduct x y)) := by
  unfold resLrmul lrProduct
  simp only [lrOperand_ok ha hx, lrOperand_ok hb hy, tdCheck_of_form hd hform, ok_bind]
  cases hfx : x.factor with
  | true => cases y.factor <;> rfl
  | false =>
    rw [hfactor.resolve_left (Bool.eq_false_iff.mp hfx)]
    rfl

/-- lradd of two factor pairs delivers their concatenation (10 R284). -/
theorem resLradd_concatenates {n : Bool} (hfx : x.factor = true) (hfy : y.factor = true) :
    resLradd s d a b n = lrCommit s d (deliverFactors (s.inst s.cur.core) d t
      ((x.factors.1 ++ (if n then y.factors.1.map (·.map negBit) else y.factors.1), x.factors.2 ++ y.factors.2), 0)) := by
  unfold resLradd
  simp only [lrOperand_ok ha (Tile.form_ne_d64 hfx), lrOperand_ok hb (Tile.form_ne_d64 hfy), tdCheck_of_form hd hform, ok_bind, hfx, hfy,
    Bool.and_self, if_true]

/-- lradd with an operand in dense state delivers the dense sum (10 R284). -/
theorem resLradd_sums {n : Bool} (hx : x.form ≠ .d64) (hy : y.form ≠ .d64) (hdense : (x.factor && y.factor) = false) :
    resLradd s d a b n = lrCommit s d (deliverDense (s.inst s.cur.core) d t (lrDenseSum x y n)) := by
  unfold resLradd
  simp only [lrOperand_ok ha hx, lrOperand_ok hb hy, tdCheck_of_form hd hform, ok_bind, hdense, Bool.false_eq_true, if_false]
  rfl

end

/-- lrden commits the dense matrix (10 R285). -/
theorem resLrden_densifies {c : Bool} (hx : x.form = .lr) (hform : t.form = .d32 ∨ t.form = .lr ∧ t.rows.length = 64)
    (hsame : d ≠ a ∨ x.factor = false ∧ c = true) :
    resLrden s d a c = lrCommit s d (.ok (t.ofDense (lrDensified x t c).1, (lrDensified x t c).2)) := by
  have hcheck : ((t.form == .d32 || (t.form == .lr && t.rows.length == 64)) && (d != a || (!x.factor && c))) = true := by
    simpa using ⟨hform, hsame⟩
  unfold resLrden lrDensified
  simp only [tdCheck_of_form ha hx, tileAt_ok hd, hcheck, check_true, ok_bind]
  cases c with
  | true =>
    cases x.factor with
    | true => rfl
    | false => simp only [if_true, Bool.false_eq_true, if_false]
  | false =>
    simp only [Bool.false_eq_true, if_false, pure_bind]
    cases x.factor <;> rfl

/-- lrcmp commits the recompressed factors (10 R287). -/
theorem resLrcmp_recompresses (hx : x.form = .lr) (hform : t.form = .lr)
    (hroom : x.rank = 0 ∨ (s.inst s.cur.core).rowsUsed + 2 * x.rank ≤ (s.inst s.cur.core).budget) :
    resLrcmp s d a = lrCommit s d (.ok (t.ofFactors (lrRecompressed (s.inst s.cur.core) x t).1,
      (lrRecompressed (s.inst s.cur.core) x t).2)) := by
  unfold resLrcmp
  simp only [tdCheck_of_form ha hx, tdCheck_of_form hd hform, ok_bind]
  split
  · rfl
  · rw [workspace_ok (hroom.resolve_left ‹_›)]
    rfl

end

/-- lrset loads both factors of td from its streams and consumes them (10 R282). -/
theorem resLrset_loads {s : State} {d : TReg} {p q : Sys2Proof.ZReg} {t : Tile} {xa xb : Array (Nat × Nat)}
    (hd : (s.inst s.cur.core).tiles[d] = some t) (hform : t.form = .lr)
    (hstreams : streamsReady (s.inst s.cur.core) p q 1 1 (64 * t.cap) (64 * t.cap) xa xb) :
    resLrset s d p q = .ok (s.modInst s.cur.core fun z =>
      ((z.setTile d (some { t with
        rank := t.cap
        rows := rowsOf t.rows.length fun r c =>
          if r < t.cap then (xa[64 * r + c]?).elim 0 (·.1) else (xb[64 * (r - t.cap) + c]?).elim 0 (·.1) })).consume (64 * t.cap) p).consume
        (64 * t.cap) q) := by
  unfold Tile.cap at hstreams ⊢
  obtain ⟨hip, hiq, hsp, hsq, hxa, hxb⟩ := hstreams
  unfold resLrset
  simp only [tdCheck_of_form hd hform, hip, hiq, hsp, hsq, hxa, hxb, Bool.and_self, need_true, ok_bind]

/-- A rank from q8 that td cannot hold traps RANKOVF once the word's tokens are there (10 R286, R290). -/
theorem execLrrankSet_overflows {s : State} {tk : Tok} {d : TReg} {t : Tile} {v : Word} {rest : List Word}
    (hd : (s.inst s.cur.core).tiles[d] = some t) (hform : t.form = .lr) (hq : (s.inst s.cur.core).qw[8] = v :: rest)
    (hcap : t.cap < v.toNat) (hdense : ¬(v.toNat = 64 ∧ t.rows.length = 64)) (htok : s.tokReady tk = true) :
    execLrrankSet tk d s = .next (s.raise .rankovf (BitVec.ofNat 64 (d.val + min v.toNat 255 * 2 ^ 8 + t.cap * 2 ^ 16))) := by
  have hfit : ¬(v.toNat ≤ t.cap ∨ v.toNat = 64 ∧ t.rows.length = 64) := not_or.mpr ⟨not_le.mpr hcap, hdense⟩
  unfold execLrrankSet
  simp only [tdCheck_of_form hd hform, hq, List.isEmpty_cons, Bool.not_false, need_true, List.headD_cons, if_neg hfit, ok_bind]
  exact engineRun_late ⟨htok, Bool.false_and _⟩ .rankovf _

/-- Settles O34: each word by what it delivers or commits, and RANKOVF by a delivery that overflows and by a rank that td cannot hold. -/
theorem lowRankResults : Obligations.LowRankResults := by
  constructor
  · intro s tk d a b n x y t g j wrote sum hclass hready hd ha hb
    refine ⟨?_, ?_, ?_, ?_, ?_, ?_⟩
    · intro hform hx hy hfactor hfits
      refine classed_commits hclass hready ?_
      rw [resLrmul_delivers hd ha hb hform hx hy hfactor, deliverFactors_fits hfits]
    · intro hform hfx hfy hfits
      refine classed_commits hclass hready ?_
      rw [resLradd_concatenates hd ha hb hform hfx hfy, deliverFactors_fits hfits]
    · intro hform hrows hx hy hdense
      refine classed_commits hclass hready ?_
      rw [resLradd_sums hd ha hb hform hx hy hdense, deliverDense_fits hrows]
    · intro c hx hform hsame
      exact classed_commits hclass hready (resLrden_densifies hd ha hx hform hsame)
    · intro hform hx hroom
      exact classed_commits hclass hready (resLrcmp_recompresses hd ha hx hform hroom)
    · intro p q e xa xb hform hclose hstreams
      exact classed_native hclass hclose (resLrset_loads hd hform hstreams)
  · intro s tk d a b x y t g j tval hd hform
    constructor
    · intro hclass hmode ha hb hx hy hfactor hover
      refine classed_native_traps hclass ?_
      rw [resLrmul_delivers hd ha hb hform hx hy hfactor, deliverFactors_overflows hmode hover]
      rfl
    · intro v rest hq hcap hdense htok
      exact execLrrankSet_overflows hd hform hq hcap hdense htok

end Sys2Proof.Machine
end

section
/-! No step raises a rung (11 R298, R304, 15 R398): the state at which an action acts keeps what the step began with, and every action
that answers a next state keeps that. -/

namespace Sys2Proof.Machine

open Host

/-- Whatever next state is answered keeps what s has. -/
def State.KeepsNext (s : State) (o : Outcome State Fault Refusal) : Prop := ∀ t, o = .next t → s.Keeps t

theorem State.KeepsNext.next {s t : State} (h : s.Keeps t) : s.KeepsNext (.next t) := by
  intro u hu
  cases hu
  exact h

theorem GoodOrHost.keepsNext {s : State} {i : Instr} {o : Outcome State Fault Refusal} (h : GoodOrHost s i o) : s.KeepsNext o := by
  intro t ht
  rcases h with ⟨u, rfl, hu⟩ | ⟨pa, rfl, -⟩
  · exact State.KeepsNext.next hu t ht
  · cases ht

theorem exec_keepsNext (i : Instr) (s : State) : s.KeepsNext (exec i s) := (exec_goodOrHost i s).keepsNext

theorem perform_keepsNext (s : State) (f : Fetched) : s.KeepsNext (perform s f) := by
  cases f with
  | idle => exact .next (.refl s)
  | trap cur c v => exact .next ((setCur_keeps s cur).trans (raise_keeps _ c v))
  | run cur i => exact (runWord_good cur i s).keepsNext

theorem execFirmware_keepsNext (g : CoreNo) (w w1 : Word32) (s : State) : s.KeepsNext (execFirmware g w w1 s) := by
  rcases execFirmware_good g w w1 s with ⟨t, ht, hkeeps⟩ | ⟨i, x, y, -, hgood⟩
  · rw [ht]; exact .next hkeeps
  · exact hgood.keepsNext

theorem act_keepsNext (a : Action) (s : State) : s.KeepsNext (act a s) := by
  cases a with
  | issue g src => exact perform_keepsNext s _
  | packet r =>
    rw [act]
    cases hturn : s.turn r with
    | inl t => exact .next (turn_keeps s r t hturn)
    | inr i => exact exec_keepsNext i s
  | mailbox g =>
    rw [act]
    cases hturn : s.mailTurn g with
    | inl t => exact .next (mailTurn_keeps s g t hturn)
    | inr i => exact exec_keepsNext i s
  | event i =>
    rw [act]
    split
    · exact exec_keepsNext i s
    · exact .next (.refl s)
  | firmware g w w1 => exact execFirmware_keepsNext g w w1 s
  | early g e => exact .next (early_keeps s g e)
  | landPart g copy p => exact .next (landPart_keeps s g copy p)
  | sectorRead g copy pa => exact .next (sectorRead_keeps s g copy pa)
  | setRoot ctx root => exact .next (setRoot_keeps s ctx root)
  | setRing r grant base logSize stateAddr slice => exact .next (setRing_keeps s r grant base logSize stateAddr slice)
  | ringReady r => exact .next (ringReady_keeps r s)
  | decrement => exact .next (settleDecrement_keeps s)
  | pieceStart task g => exact .next (pieceStart_keeps s task g)
  | pieceStep g => exact .next (pieceStep_keeps s g)
  | release => exact .next (release_keeps s)
  | setPod n => exact .next (setPod_keeps s n)
  | setPeer ctx m peer => exact .next (setPeer_keeps s ctx m peer)
  | setRoutes m links => exact .next (setRoutes_keeps s m links)
  | setGroup grp modules live epoch ctx => exact .next (setGroup_keeps s grp modules live epoch ctx)
  | setBar1 pa => exact .next (setBar1_keeps s pa)
  | setPodTimeout ns => exact .next (setPodTimeout_keeps s ns)
  | dmaIn pa data => exact .next (dmaIn_keeps s pa data)
  | dmaOut pa n => exact .next (dmaOut_keeps s pa n)
  | setFloor v => exact .next (setFloor_keeps s v)
  | setMargins limits => exact .next (setMargins_keeps s limits)
  | report => exact .next (report_keeps s)
  | flitFlush l => exact .next (flitFlush_keeps s l)
  | deliver l => exact .next (landOldest_keeps s l)
  | reply => exact .next (reply_keeps s)
  | setFar l m => exact .next (setFar_keeps s l m)
  | hopLost m => exact .next (hopLost_keeps s m)
  | heartbeat m => exact .next (heartbeat_keeps s m)
  | moduleFailed m => exact .next (moduleFailed_keeps s m)
  | setHostEnd e => exact .next (setHostEnd_keeps s e)
  | hostRead bar a n => exact .next (hostRead_keeps s bar a n)
  | setHelper h => exact .next (setHelper_keeps s h)
  | tornRecord k => exact .next (tornRecord_keeps s k)

theorem begin_keeps (s : State) : s.Keeps s.begin.2 := by
  unfold State.begin
  cases s.agenda with
  | nil => exact .of_parts rfl rfl rfl
  | cons a rest => exact .of_parts rfl rfl rfl

theorem step_keepsNext (s : State) : s.KeepsNext (step s) := fun t ht =>
  (begin_keeps s).trans (act_keepsNext s.begin.1 s.begin.2 t ht)

/-- Settles O59: a next state keeps the rungs of cores and banks, and those of the channels. -/
theorem rungsOnlyStepDown : Obligations.RungsOnlyStepDown := fun s t hstep =>
  have hkeeps := step_keepsNext s t hstep
  ⟨hkeeps.core, hkeeps.channels⟩

end Sys2Proof.Machine
end

section
/-! Tests of the units on the ladders (11 R298, R300 to R303, R311, 15 R398): what a margin test and Foxglove answer, and what a rung down
changes. -/

namespace Sys2Proof.Machine

open Host

/-- A unit steps down k rungs, one after another. -/
def State.stepDown (s : State) (u : AgedUnit) (k : Nat) : State := (List.range k).foldl (fun t _ => t.stepUnit u) s

/-- The rungs that a margin test steps a unit down (11 R300). -/
def failedRungs (fails again : Bool) : Nat := if fails then (if again then 2 else 1) else 0

-- What the tests answer.

theorem stepDown_failedRungs (s : State) (u : AgedUnit) (fails again : Bool) :
    (if fails then (if again then (s.stepUnit u).stepUnit u else s.stepUnit u) else s) = s.stepDown u (failedRungs fails again) := by
  cases fails with
  | false => rfl
  | true => cases again <;> rfl

section
variable {s : State} (hd : s.power = .d0)
include hd

theorem execMarginTest_core {u : AgedUnit} {g : CoreNo} (hu : unitCore u = some g) (fails again : Bool) : execMarginTest u fails again s =
    .next (if s.cores[g].empty then s.stepDown u (failedRungs fails again)
      else if (s.withdraw g).saveFits g then (s.withdraw g).ask ((s.withdraw g).together g) .service else s) := by
  simp only [execMarginTest, hd, hu, ne_eq, not_true_eq_false, if_false, stepDown_failedRungs]

theorem execMarginTest_channel (c : Fin 1024) (fails again : Bool) : execMarginTest (.channel c) fails again s =
    .next (if s.quiet then s.flushAll.stepDown (.channel c) (failedRungs fails again) else s.quiesce) := by
  simp only [execMarginTest, hd, unitCore, ne_eq, not_true_eq_false, if_false, stepDown_failedRungs]

theorem execFoxglove_empty {u : AgedUnit} {g : CoreNo} (hu : unitCore u = some g) (he : s.cores[g].empty = true) (fails : Bool) :
    execFoxglove u fails s = .next (s.foxTest u fails) := by
  simp only [execFoxglove, hd, hu, he, ne_eq, not_true_eq_false, if_false, if_true]

theorem execFoxglove_asks {u : AgedUnit} {g : CoreNo} (hu : unitCore u = some g) (he : s.cores[g].empty = false)
    (hno : u ≠ .me g ∨ (s.inst g).assist.any (·.abandoned) = false) (fails : Bool) : execFoxglove u fails s = .next (s.askTest g) := by
  have hassist : ¬(u = .me g ∧ (s.inst g).assist.any (·.abandoned) = true) := by
    rintro ⟨hme, habandoned⟩
    rcases hno with h | h
    · exact h hme
    · rw [h] at habandoned; cases habandoned
  simp only [execFoxglove, hd, hu, he, hassist, ne_eq, not_true_eq_false, if_false, Bool.false_eq_true]

theorem execFoxglove_restarts {g : CoreNo} {a : Assist} (he : s.cores[g].empty = false) (ha : (s.inst g).assist = some a)
    (habandoned : a.abandoned = true) (fails : Bool) :
    execFoxglove (.me g) fails s = .next ((s.foxTest (.me g) fails).restartAssist g) := by
  simp only [execFoxglove, hd, unitCore, he, ha, habandoned, Option.any_some, ne_eq, not_true_eq_false, if_false, Bool.false_eq_true,
    and_self, if_true]

theorem execFoxglove_channel (c : Fin 1024) (fails : Bool) : execFoxglove (.channel c) fails s = .next (s.foxTest (.channel c) fails) := by
  simp only [execFoxglove, hd, unitCore, ne_eq, not_true_eq_false, if_false]

end

-- A rung down.

@[simp] theorem stepDown_zero (s : State) (u : AgedUnit) : s.stepDown u 0 = s := rfl

theorem stepDown_succ (s : State) (u : AgedUnit) (k : Nat) : s.stepDown u (k + 1) = (s.stepDown u k).stepUnit u := by
  simp only [State.stepDown, List.range_succ, List.foldl_append, List.foldl_cons, List.foldl_nil]

/-- A view of the state that one rung down keeps is kept by any number of them. -/
theorem stepDown_keep {γ : Type} (view : State → γ) {u : AgedUnit} (h : ∀ t : State, view (t.stepUnit u) = view t) (s : State) (k : Nat) :
    view (s.stepDown u k) = view s := foldl_keep view _ (fun t _ => h t) _ s

/-- A rung that falls by one at each step, at most to the last, has fallen by k after k steps. -/
theorem stepDown_rung {u : AgedUnit} {last : Nat} (rung : State → Nat) (h : ∀ t : State, rung (t.stepUnit u) = min last (rung t + 1))
    (s : State) (hs : rung s ≤ last) (k : Nat) : rung (s.stepDown u k) = min last (rung s + k) := by
  induction k with
  | zero => rw [stepDown_zero]; omega
  | succ k ih => rw [stepDown_succ, h, ih]; omega

theorem stepMe_rung (s : State) (g : CoreNo) : (s.stepMe g).cores[g].rung.val = min 4 (s.cores[g].rung.val + 1) := by
  unfold State.stepMe
  simp only [Fin.getElem_fin]
  split
  · simp only [writeRecord_cores, modCore_core]
    omega
  · omega

theorem stepMe_inst (s : State) (g : CoreNo) : (s.stepMe g).inst g = s.inst g := by
  unfold State.stepMe
  split
  · simp only [State.inst, writeRecord_cores, Fin.getElem_fin, modCore_core]
  · rfl

theorem stepMe_mem (s : State) (g : CoreNo) : (s.stepMe g).mem = s.mem := by
  unfold State.stepMe
  split <;> rfl

theorem nextRung3_val (r : Fin 3) : (nextRung3 r).val = min 2 (r.val + 1) := by revert r; decide

theorem setBanks_banks (c : Core) (b : Buf) (v : Vector (Fin 3) 16) : (c.setBanks b v).banks b = v := by cases b <;> rfl

theorem stepBank_rung (s : State) (g : CoreNo) (b : Buf) (m : Fin 16) :
    (((s.stepBank g b m).cores[g].banks b)[m]).val = min 2 (((s.cores[g].banks b)[m]).val + 1) := by
  unfold State.stepBank
  split
  case isTrue h => rw [h]; rfl
  case isFalse =>
    simp only [writeRecord_cores, Fin.getElem_fin, modCore_core, setBanks_banks, Vector.getElem_set_self, nextRung3_val]

theorem stepBank_mem (s : State) (g : CoreNo) (b : Buf) (m : Fin 16) : (s.stepBank g b m).mem = s.mem := by
  unfold State.stepBank
  split <;> rfl

-- Any number of rungs down.

theorem stepDown_me_rung (s : State) (g : CoreNo) (k : Nat) :
    ((s.stepDown (.me g) k).cores[g].rung).val = min 4 (s.cores[g].rung.val + k) :=
  stepDown_rung (u := .me g) (fun t => t.cores[g].rung.val) (fun t => stepMe_rung t g) s (Nat.le_of_lt_succ s.cores[g].rung.isLt) k

theorem stepDown_me_inst (s : State) (g : CoreNo) (k : Nat) : (s.stepDown (.me g) k).inst g = s.inst g :=
  stepDown_keep (u := .me g) (fun t => t.inst g) (fun t => stepMe_inst t g) s k

theorem stepDown_me_mem (s : State) (g : CoreNo) (k : Nat) : (s.stepDown (.me g) k).mem = s.mem :=
  stepDown_keep (u := .me g) (fun t => t.mem) (fun t => stepMe_mem t g) s k

theorem stepDown_bank_rung (s : State) (g : CoreNo) (b : Buf) (m : Fin 16) (k : Nat) :
    (((s.stepDown (.bank g b m) k).cores[g].banks b)[m]).val = min 2 (((s.cores[g].banks b)[m]).val + k) :=
  stepDown_rung (u := .bank g b m) (fun t => ((t.cores[g].banks b)[m]).val) (fun t => stepBank_rung t g b m) s
    (Nat.le_of_lt_succ ((s.cores[g].banks b)[m]).isLt) k

theorem stepDown_bank_mem (s : State) (g : CoreNo) (b : Buf) (m : Fin 16) (k : Nat) : (s.stepDown (.bank g b m) k).mem = s.mem :=
  stepDown_keep (u := .bank g b m) (fun t => t.mem) (fun t => stepBank_mem t g b m) s k

-- A channel's first step, and its capacity reduction.

theorem stepChannel_first {s : State} {c : Fin 1024} (h : s.channels[c] = 0) : (s.stepChannel c).channels = s.channels.set c 1 := by
  unfold State.stepChannel
  rw [if_pos h, writeRecord_channels]

/-- A channel at rung 1 posts its capacity reduction when none is posted (15 R399). -/
theorem postReduction_posts {s : State} {c : Fin 1024} (h : s.channels[c] = 1) (hnone : s.reduction = none) :
    s.postReduction c = { s with
      reduction := some c
      notices := s.notices ++ [.capacity ((s.liveChannels - 1) * (888 * 2 ^ 20) - 2 ^ 31) (s.liveChannels * (888 * 2 ^ 20) - 2 ^ 31)] } :=
  if_pos ⟨h, by rw [hnone]; rfl⟩

theorem execCapacityReduction_posts {s : State} (hd : s.power = .d0) (c : Fin 1024) :
    execCapacityReduction c s = .next (s.postReduction c) := by
  rw [execCapacityReduction, if_pos hd]

-- An assist that restarts.

theorem foxTest_me_inst (s : State) (g : CoreNo) (fails : Bool) : (s.foxTest (.me g) fails).inst g = s.inst g := by
  cases fails with
  | false => rfl
  | true => exact stepMe_inst s g

section
variable {s : State} {g : CoreNo} {a : Assist} (ha : (s.inst g).assist = some a)
include ha

theorem restartAssist_inst :
    (s.restartAssist g).inst g = { s.inst g with assist := some { a with frozen := false, abandoned := false } } := by
  simp only [State.restartAssist, ha]
  simp only [State.inst, Fin.getElem_fin, modCore_core]

theorem restartAssist_rung : (s.restartAssist g).cores[g].rung = s.cores[g].rung := by
  simp only [State.restartAssist, ha, Fin.getElem_fin, modCore_core]

theorem restartAssist_notices : (s.restartAssist g).notices = s.notices := by
  simp only [State.restartAssist, ha, modCore_notices]

end

end Sys2Proof.Machine
end

section
/-! The retirement of a channel on a quiesced module (15 R399; LOG 31): every byte of the range that stays keeps its value. -/

namespace Sys2Proof.Machine

open Host

/-- The words of moved page-table entries put into memory. -/
def putWords (l : List (Nat × Word)) (m : Bytes) : Bytes := l.foldl (fun m w => m.put w.1 (leBytes 8 w.2.toNat)) m

/-- The cells of a memory of n channels where they stand once one channel is gone. -/
def movedCells (n : Nat) (m : Bytes) : Bytes := m.filterMap fun c => (movedPa n c.1).map fun a => (a, c.2)

-- Moving the cells.

theorem get_putWords_out {a : Nat} : ∀ (l : List (Nat × Word)) (m : Bytes), (∀ w ∈ l, ¬(w.1 ≤ a ∧ a < w.1 + 8)) →
    (putWords l m).get a = m.get a := by
  intro l
  induction l with
  | nil => exact fun _ _ => rfl
  | cons w t ih =>
    intro m h
    have hw := h w List.mem_cons_self
    have hput := get_put_out m w.1 a (leBytes 8 w.2.toNat) (by rw [leBytes_length]; omega)
    exact (ih _ fun x hx => h x (List.mem_cons_of_mem _ hx)).trans hput

/-- A byte reads at its new place as it read at its old one, where no other byte comes to that place. -/
theorem get_filterMap {f : Nat → Option Nat} {a b : Nat} (hab : f a = some b) (hinj : ∀ k, f k = some b → k = a) (m : Bytes) :
    Bytes.get (m.filterMap fun c => (f c.1).map fun x => (x, c.2)) b = m.get a := by
  induction m with
  | nil => rfl
  | cons c t ih =>
    by_cases hc : c.1 = a
    · have hf : f c.1 = some b := hc ▸ hab
      simp only [List.filterMap_cons, hf, Option.map_some, Bytes.get, if_pos hc, if_true]
    · cases hf : f c.1 with
      | none => simpa only [List.filterMap_cons, hf, Option.map_none, Bytes.get, if_neg hc] using ih
      | some x =>
        have hx : x ≠ b := fun hxb => hc (hinj _ (hxb ▸ hf))
        simpa only [List.filterMap_cons, hf, Option.map_some, Bytes.get, if_neg hc, if_neg hx] using ih

theorem movedPa_inj {n a k b : Nat} (ha : movedPa n a = some b) (hk : movedPa n k = some b) : k = a := by
  rcases Nat.lt_trichotomy k a with h | h | h
  · exact absurd (movedPa_lt h hk ha) (lt_irrefl b)
  · exact h
  · exact absurd (movedPa_lt h ha hk) (lt_irrefl b)

theorem get_movedCells {n a b : Nat} (h : movedPa n a = some b) (m : Bytes) : (movedCells n m).get b = m.get a :=
  get_filterMap h (fun _ hk => movedPa_inj h hk) m

theorem movedPa_eq (n pa : Nat) : movedPa n pa =
    if n * (888 * 2 ^ 20) - 2 ^ 31 ≤ pa then (if pa < 888 * 2 ^ 20 then none else some (pa - 888 * 2 ^ 20))
    else if n * (888 * 2 ^ 20) - 2 ^ 31 - 888 * 2 ^ 20 ≤ pa then none else some pa := rfl

/-- Below the range that goes an address stays. -/
theorem movedPa_below {n a : Nat} (h : a < n * (888 * 2 ^ 20) - 2 ^ 31 - 888 * 2 ^ 20) : movedPa n a = some a := by
  rw [movedPa_eq, if_neg (by omega), if_neg (by omega)]

/-- The firmware region comes down by one channel. -/
theorem movedPa_above {n a : Nat} (hn : 4 ≤ n) (h : n * (888 * 2 ^ 20) - 2 ^ 31 ≤ a) : movedPa n a = some (a - 888 * 2 ^ 20) := by
  rw [movedPa_eq, if_pos (by omega), if_neg (by omega)]

-- The retired state.

/-- Which entries move is a matter of memory and of the live channels alone. -/
theorem movedEntries_congr {s t : State} (hmem : t.mem = s.mem) (hchannels : t.channels = s.channels) (n : Nat)
    (levels : List (Nat × Nat × Nat)) : ∀ table, t.movedEntries n levels table = s.movedEntries n levels table := by
  have htop : t.paTop = s.paTop := by simp only [State.paTop, State.liveChannels, hchannels]
  induction levels with
  | nil => exact fun _ => rfl
  | cons lv rest ih =>
    intro table
    obtain ⟨lv, sh, k⟩ := lv
    simp only [State.movedEntries, hmem, htop, ih]

theorem flushAll_bare (s : State) : s.flushAll.bareCaches = s.bareCaches := by
  unfold State.flushAll
  generalize List.finRange 192 = l
  refine Eq.trans (foldl_keep State.bareCaches (fun (s : State) (l : L2Line) => if l.dirty = 0 then s else s.writeBack l.line l.writer l.dirty)
    (fun t x => ?_) _ _) (foldl_keep State.bareCaches State.flushL1 flushL1_bare l s)
  split
  · rfl
  · exact writeBack_bare ..

theorem poisonAll_bare (s : State) (l : List Nat) : (l.foldl State.poisonGranule s).bareCaches = s.bareCaches :=
  foldl_keep State.bareCaches State.poisonGranule (fun _ _ => rfl) l s

/-- The entries of a module's page tables that move when one of its channels retires. -/
def State.movedWords (s : State) : List (Nat × Word) := s.roots.flatMap fun e => s.movedEntries s.liveChannels pageLevels e.2

theorem execChannelRetire_retires {s : State} {c : Fin 1024} (bad : List Nat) (hd : s.power = .d0) (hred : s.reduction = some c)
    (hquiet : s.quiet = true) : ∃ t, execChannelRetire c bad s = .next t ∧ t.channels = s.channels.set c 2 ∧ t.reduction = none ∧
      t.l1 = [] ∧ t.l2 = [] ∧ t.mem = movedCells s.liveChannels (putWords s.movedWords s.mem) := by
  have hguard : ¬(s.reduction ≠ some c ∨ s.power ≠ .d0) := by simp [hred, hd]
  unfold execChannelRetire
  rw [if_neg hguard, hquiet]
  simp only [Bool.not_true, Bool.false_eq_true, if_false]
  generalize ((bad.filter _).eraseDups) = lost
  set u := lost.foldl State.poisonGranule s.flushAll with hu
  have hbare : u.bareTlb = s.bareTlb := bareTlb_of_bareCaches ((poisonAll_bare _ lost).trans (flushAll_bare s))
  have hwords : (u.roots.flatMap fun e => u.movedEntries s.liveChannels pageLevels e.2) = s.movedWords := by
    simp only [State.movedWords, bare_roots hbare, movedEntries_congr (bare_mem hbare) (bare_channels hbare)]
  have hl1 : u.l1 = [] := foldl_keep (fun t : State => t.l1) State.poisonGranule (fun _ _ => rfl) lost s.flushAll
  have hl2 : u.l2 = [] := foldl_keep (fun t : State => t.l2) State.poisonGranule (fun _ _ => rfl) lost s.flushAll
  refine ⟨_, rfl, ?_, rfl, hl1, hl2, ?_⟩
  · rw [writeRecord_channels, bare_channels hbare]
  · rw [writeRecord_mem, hwords, bare_mem hbare]
    rfl

/-- The bytes of the range that stays, and those of the firmware region at its new place, beside the entries that move. -/
theorem movedCells_get {s : State} (hn : 4 ≤ s.liveChannels) {a : Nat} (hentry : ∀ w ∈ s.movedWords, ¬(w.1 ≤ a ∧ a < w.1 + 8)) :
    (a < s.liveChannels * (888 * 2 ^ 20) - 2 ^ 31 - 888 * 2 ^ 20 →
      (movedCells s.liveChannels (putWords s.movedWords s.mem)).get a = s.mem.get a) ∧
    (s.liveChannels * (888 * 2 ^ 20) - 2 ^ 31 ≤ a →
      (movedCells s.liveChannels (putWords s.movedWords s.mem)).get (a - 888 * 2 ^ 20) = s.mem.get a) := by
  have hput := get_putWords_out s.movedWords s.mem hentry
  exact ⟨fun h => (get_movedCells (movedPa_below h) _).trans hput, fun h => (get_movedCells (movedPa_above hn h) _).trans hput⟩

end Sys2Proof.Machine
end

section
/-! The classes of error (15 R395, R397, R400 to R402, Table 15.2): what each row poisons and records. -/

namespace Sys2Proof.Machine

open Host

-- Poison.

@[simp] theorem poisonGranule_notices (s : State) (gr : Nat) : (s.poisonGranule gr).notices = s.notices := rfl

theorem poisonGranule_poisoned (s : State) (gr : Nat) : (s.poisonGranule gr).poisoned (32 * gr) 32 = true := by
  simp [State.poisoned, State.poisonGranule]

/-- Poisoning of a granule leaves a granule that is poisoned so. -/
theorem poisoned_poisonGranule {s : State} {x : Nat} (h : s.poisoned (32 * x) 32 = true) (gr : Nat) :
    (s.poisonGranule gr).poisoned (32 * x) 32 = true := by
  by_cases hx : x = gr
  · exact hx ▸ poisonGranule_poisoned s gr
  · obtain ⟨e, he, hin⟩ := List.any_eq_true.mp h
    have hgr : e.granule ≠ gr := by have := of_decide_eq_true hin; omega
    exact List.any_eq_true.mpr ⟨e, List.mem_cons_of_mem _ (List.mem_filter.mpr ⟨he, bne_iff_ne.mpr hgr⟩), hin⟩

theorem poisoned_poisonAll {x : Nat} : ∀ (l : List Nat) (s : State), s.poisoned (32 * x) 32 = true ∨ x ∈ l →
    (l.foldl State.poisonGranule s).poisoned (32 * x) 32 = true := by
  intro l
  induction l with
  | nil =>
    intro s h
    exact h.resolve_right List.not_mem_nil
  | cons y t ih =>
    intro s h
    refine ih _ ?_
    rcases h with h | h
    · exact .inl (poisoned_poisonGranule h y)
    · rcases List.mem_cons.mp h with rfl | h
      · exact .inl (poisonGranule_poisoned s x)
      · exact .inr h

theorem poisonAll_notices (l : List Nat) (s : State) : (l.foldl State.poisonGranule s).notices = s.notices :=
  foldl_keep (fun t : State => t.notices) State.poisonGranule poisonGranule_notices l s

/-- A metadata granule holds the state of 111 granules beside one of its own (15 R393). -/
theorem metadataPeers_length (s : State) (gr : Nat) : (s.metadataPeers gr).length ≤ 111 := by
  unfold State.metadataPeers
  extract_lets n k idx
  have hidx : idx ∈ (List.range 112).map fun j => idx / 112 * 112 + j :=
    List.mem_map.mpr ⟨idx % 112, List.mem_range.mpr (Nat.mod_lt _ (by decide)), by omega⟩
  have hlt := List.length_filterMap_lt_length_iff_exists
    (f := fun x => if x = idx ∨ 888 * 2 ^ 15 ≤ x then none else some (8 * (x / 8 * n + k) + x % 8)).mpr ⟨idx, hidx, if_pos (.inl rfl)⟩
  rw [List.length_map, List.length_range] at hlt
  exact Nat.le_of_lt_succ hlt

-- A line that leaves its cache: what was recorded before stands.

theorem no_more_notices (l : List Notice) : ∃ rs, l = l ++ rs := ⟨[], (List.append_nil l).symm⟩

theorem insertL2_notices (s : State) (l : L2Line) : ∃ rs, (s.insertL2 l).notices = s.notices ++ rs := by
  unfold State.insertL2
  dsimp only
  split
  · exact no_more_notices _
  · split
    · exact ⟨_, rfl⟩
    · exact no_more_notices _

theorem migrate_notices (s : State) (l : L2Line) : ∃ rs, (s.migrate l).notices = s.notices ++ rs := by
  unfold State.migrate
  split
  · dsimp only
    split
    · exact no_more_notices _
    · exact insertL2_notices _ _
  · exact no_more_notices _

theorem touchL2_notices (s : State) (g : Option CoreNo) (line : Nat) (m : BitVec 4) (d : Fin 8) (w : Bool) (ctx : Nat)
    (pin : Option (CoreNo × Fin 8 × Nat)) : ∃ rs, (s.touchL2 g line m d w ctx pin).notices = s.notices ++ rs := by
  unfold State.touchL2
  split
  · exact migrate_notices _ _
  · exact insertL2_notices _ _

theorem drainL1_notices (s : State) (g : CoreNo) (line : Nat) (out : BitVec 4) (writer : Nat) :
    ∃ rs, (s.drainL1 g line out writer).notices = s.notices ++ rs := by
  unfold State.drainL1
  exact touchL2_notices ..

theorem settleLine_notices (s : State) (line : Nat) (x : CacheSite) : ∃ rs, (s.settleLine line x).notices = s.notices ++ rs := by
  unfold State.settleLine
  split
  · split
    · split
      · exact no_more_notices _
      · exact drainL1_notices ..
    · exact no_more_notices _
  · split
    · exact ⟨_, rfl⟩
    · exact no_more_notices _

theorem dropLine_notices (s : State) (line : Nat) (x : CacheSite) : ∃ rs, (s.dropLine line x).notices = s.notices ++ rs := by
  cases x <;> exact settleLine_notices s line _

theorem settleLine_bare (s : State) (line : Nat) (x : CacheSite) : (s.settleLine line x).bareCaches = s.bareCaches := by
  unfold State.settleLine
  split
  · split
    · split
      · rfl
      · exact drainL1_bare ..
    · rfl
  · split <;> rfl

theorem dropLine_mem (s : State) (line : Nat) (x : CacheSite) : (s.dropLine line x).mem = s.mem := by
  have hmem := bare_mem (bareTlb_of_bareCaches (settleLine_bare s line x))
  cases x <;> exact hmem

/-- The line that leaves a cache takes its granules' copies there with it. -/
theorem dropLine_cacheCopy (s : State) (gr : Nat) (x : CacheSite) : (s.dropLine (gr / 8) x).cacheCopy gr x = none := by
  cases x with
  | l1d g =>
    refine Option.map_eq_none_iff.mpr (List.find?_eq_none.mpr fun l hl => ?_)
    have hgone := (List.mem_filter.mp hl).2
    simp only [Bool.not_eq_true', Bool.and_eq_false_iff] at hgone
    rcases hgone with h | h <;> simp [h]
  | l2 =>
    refine Option.map_eq_none_iff.mpr (List.find?_eq_none.mpr fun l hl => ?_)
    have hgone := (List.mem_filter.mp hl).2
    simp only [bne_iff_ne] at hgone
    simp [hgone]

-- The rows of Table 15.2.

@[simp] theorem note_notices (s : State) (c : ErrorClass) (u : ErrorUnit) (gr n ctx : Nat) :
    (s.note c u gr n ctx).notices = s.notices ++ [.error c u (32 * gr) n ctx] := rfl

/-- An error in a cache is reported where the cache holds a copy of the granule. -/
def State.errorThere (s : State) (gr : Nat) (x : Option CacheSite) : Prop := x.all (fun y => (s.cacheCopy gr y).isSome) = true

theorem errorThere_of_copied {s : State} {gr : Nat} {x : Option CacheSite} (h : ∀ y, x = some y → ∃ d v, s.cacheCopy gr y = some (d, v)) :
    s.errorThere gr x := by
  cases x with
  | none => rfl
  | some y =>
    obtain ⟨d, v, hcopy⟩ := h y rfl
    simp [State.errorThere, hcopy]

/-- A last-writer tag names a context that can be charged (15 R397). -/
def State.knownWriter (s : State) (v : Nat) : Prop := v ≠ 0xFFFF ∧ (v = 0 ∨ (s.roots.lookup v).isSome = true)

theorem knownWriter_iff (s : State) (v : Nat) : (v != 0xFFFF && (v == 0 || (s.roots.lookup v).isSome)) = true ↔ s.knownWriter v := by
  simp [State.knownWriter]

/-- The rows on device memory and its copies in the caches: all but those on a spill line and on the assists. -/
def memoryRow : ErrorCase → Bool
  | .spillLine _ => false
  | .assistResource _ => false
  | _ => true

section
variable {s : State} {gr : Nat}

theorem memoryError_corrected {x : Option CacheSite} (h : s.errorThere gr x) :
    s.memoryError (.corrected x) gr = s.note .corrected (s.unitAt gr x) gr 1 0xFFFF := if_pos h

theorem memoryError_miscorrected {x : Option CacheSite} {bs : List Byte} (h : s.errorThere gr x) (hbs : bs.length = 32)
    (hgood : s.poisoned (32 * gr) 32 = false) : s.memoryError (.miscorrected x bs) gr =
      { s with mem := s.mem.put (32 * gr) bs }.note .corrected (s.unitAt gr x) gr 1 0xFFFF :=
  if_pos ⟨hbs, by rw [hgood]; rfl, h⟩

theorem memoryError_hbmRead (h : s.cachedLine gr = false) :
    s.memoryError .hbmRead gr = (s.poisonSector gr).note .unattributed (s.hbmUnit gr) (gr / 2 * 2) 2 0xFFFF :=
  if_neg (Bool.eq_false_iff.mp h)

theorem memoryError_partialData (h : s.partWrite gr = true) :
    s.memoryError .partialData gr = (s.poisonGranule gr).note .deferred (s.hbmUnit gr) gr 1 (s.lastWriter gr) := if_pos h

theorem memoryError_partialMetadata (h : s.partWrite gr = true) : s.memoryError .partialMetadata gr =
    (((s.metadataPeers gr).foldl State.poisonGranule (s.poisonGranule gr)).note .deferred (s.hbmUnit gr) gr 1 (s.lastWriter gr)).note
      .unattributed (s.hbmUnit gr) ((s.metadataPeers gr).headD gr) (s.metadataPeers gr).length 0xFFFF := if_pos h

/-- The granules whose metadata is lost are poisoned, and two records are posted (15 Table 15.2). -/
theorem memoryError_partialMetadata_poisons (h : s.partWrite gr = true) : ∃ (t : State) (gs : List Nat) (k : Nat),
    s.memoryError .partialMetadata gr = t ∧ t.poisoned (32 * gr) 32 = true ∧ (∀ x ∈ gs, t.poisoned (32 * x) 32 = true) ∧
      gs.length ≤ 111 ∧ t.notices = s.notices ++ [.error .deferred (s.hbmUnit gr) (32 * gr) 1 (s.lastWriter gr),
        .error .unattributed (s.hbmUnit gr) k gs.length 0xFFFF] := by
  refine ⟨_, s.metadataPeers gr, 32 * (s.metadataPeers gr).headD gr, memoryError_partialMetadata h,
    poisoned_poisonAll (s.metadataPeers gr) _ (.inl (poisonGranule_poisoned s gr)),
    fun x hx => poisoned_poisonAll (s.metadataPeers gr) _ (.inr hx), metadataPeers_length s gr, ?_⟩
  simp only [note_notices, poisonAll_notices, poisonGranule_notices, List.append_assoc, List.cons_append, List.nil_append]

theorem memoryError_writeBackPoisoned (h : s.dirtyLine gr = true)
    (hpoison : (s.poison.any fun e => e.granule == gr && (e.l2 ||| e.l1) != 0) = true) : s.memoryError .writeBackPoisoned gr =
      (s.poisonGranule gr).note .deferred (s.hbmUnit gr) gr 1 (s.lastWriter gr) := if_pos ⟨h, hpoison⟩

theorem memoryError_dirtyCached {x : CacheSite} {v : Nat} (h : s.cacheCopy gr x = some (true, v)) (hknown : s.knownWriter v) :
    s.memoryError (.dirtyCached x) gr = (s.poisonGranule gr).note .deferred (s.unitAt gr x) gr 1 v := by
  simp only [State.memoryError, h, (knownWriter_iff s v).mpr hknown, if_true]

theorem memoryError_dirtyCachedUntagged {x : CacheSite} {v : Nat} (h : s.cacheCopy gr x = some (true, v)) (hknown : ¬s.knownWriter v) :
    s.memoryError (.dirtyCachedUntagged x) gr = (s.poisonSector gr).note .unattributed (s.unitAt gr x) (gr / 2 * 2) 2 0xFFFF := by
  simp only [State.memoryError, h, if_neg (mt (knownWriter_iff s v).mp hknown)]

/-- A clean copy goes and is fetched again; what goes with its line is recorded before it. -/
theorem memoryError_cleanCached {x : CacheSite} {v : Nat} (h : s.cacheCopy gr x = some (false, v)) :
    s.memoryError (.cleanCached x) gr = (s.dropLine (gr / 8) x).note .corrected (s.unitAt gr x) gr 1 0xFFFF := by
  simp only [State.memoryError, h]

theorem memoryError_cleanCached_drops {x : CacheSite} {v : Nat} (h : s.cacheCopy gr x = some (false, v)) :
    ∃ t, s.memoryError (.cleanCached x) gr = t ∧ t.mem = s.mem ∧ t.cacheCopy gr x = none ∧
      ∃ rs, t.notices = s.notices ++ rs ++ [.error .corrected (s.unitAt gr x) (32 * gr) 1 0xFFFF] := by
  obtain ⟨rs, hrs⟩ := dropLine_notices s (gr / 8) x
  have hcopy : ((s.dropLine (gr / 8) x).note .corrected (s.unitAt gr x) gr 1 0xFFFF).cacheCopy gr x = none :=
    (by cases x <;> rfl : _ = (s.dropLine (gr / 8) x).cacheCopy gr x).trans (dropLine_cacheCopy s gr x)
  exact ⟨_, memoryError_cleanCached h, dropLine_mem s _ x, hcopy, rs, by rw [note_notices, hrs]⟩

/-- An error of device memory or of a cache is one of an address below the end of PA, while the module runs. -/
theorem execErrorDetected_memory (hin : 32 * gr < s.paTop) (hd : s.power = .d0) {c : ErrorCase} {t : State} (hc : memoryRow c = true)
    (h : s.memoryError c gr = t) : execErrorDetected c gr s = .next t := by
  have hguard : ¬(s.paTop ≤ 32 * gr ∨ s.power ≠ .d0) := not_or.mpr ⟨not_le.mpr hin, not_not.mpr hd⟩
  unfold execErrorDetected
  split
  · cases hc
  · cases hc
  · rw [if_neg hguard, h]

theorem execErrorDetected_spillLine {g : CoreNo} (ho : s.cores[g].occupant.isSome = true) (hlen : 32 * gr < (s.inst g).spillLen) :
    execErrorDetected (.spillLine g) gr s = .next ((s.modInst g fun i => { i with spillBad := gr / 8 :: i.spillBad }).note
      .deferred (.spill g.val) (gr / 8 * 8) 8 (s.ctxOf g)) := if_pos ⟨ho, hlen⟩

/-- An error in a resource of the assists abandons the assist that has frozen the streams (11 R311). -/
theorem execErrorDetected_assistResource (gr : Nat) {g : CoreNo} {a : Assist} (ha : (s.inst g).assist = some a) (hfrozen : a.frozen = true)
    (hgoes : a.abandoned = false) : execErrorDetected (.assistResource g) gr s =
      .next (s.modInst g fun i => { i with assist := some { a with abandoned := true } }) := by
  have hany : ((s.inst g).assist.any fun a => a.frozen && !a.abandoned) = true := by simp [ha, hfrozen, hgoes]
  have habandon : s.abandonAssist g = s.modInst g fun i => { i with assist := some { a with abandoned := true } } :=
    modInst_congr (by rw [ha]; rfl)
  rw [← habandon]
  exact if_pos hany

end

end Sys2Proof.Machine
end

section
/-! Ageing (11 R298 to R311, 15 R395 to R402): the tests, the ladders, the retirement of a channel and the classes of error together. -/

namespace Sys2Proof.Machine

open Host

/-- Settles O47: the tests by what they answer, the rungs by how many steps a unit goes down, the retirement by where each byte comes to
stand, and each row of Table 15.2 by its lemma. -/
theorem ageingSteps : Obligations.AgeingSteps := by
  intro s fails again hd steps n fox
  refine ⟨?empty, ?occupied, ?abandoned, ?channel, ?me, ?bank, ?halved, ?posted, ?retired, ?errors⟩
  case empty =>
    intro g u hu he
    refine ⟨?_, execFoxglove_empty hd hu he fails⟩
    rw [exec_marginTest, execMarginTest_core hd hu, if_pos he]
    rfl
  case occupied =>
    intro g u hu he s1
    refine ⟨?_, fun hno => execFoxglove_asks hd hu he hno fails⟩
    rw [exec_marginTest, execMarginTest_core hd hu, if_neg (Bool.eq_false_iff.mp he)]
  case abandoned =>
    intro g a he ha habandoned
    have hassist : ((s.foxTest (.me g) fails).inst g).assist = some a := by rw [foxTest_me_inst, ha]
    exact ⟨_, execFoxglove_restarts hd he ha habandoned fails, restartAssist_rung hassist, restartAssist_notices hassist,
      by rw [restartAssist_inst hassist, foxTest_me_inst]⟩
  case channel => exact fun c => ⟨execMarginTest_channel hd c fails again, execFoxglove_channel hd c fails⟩
  case me => exact fun k g => ⟨stepDown_me_rung s g k, stepDown_me_inst s g k, stepDown_me_mem s g k⟩
  case bank => exact fun k g b m => ⟨stepDown_bank_rung s g b m k, stepDown_bank_mem s g b m k⟩
  case halved => exact fun c h => stepChannel_first h
  case posted => exact fun c h hnone => by rw [exec_capacityReduction, execCapacityReduction_posts hd, postReduction_posts h hnone]
  case retired =>
    intro c bad hred hquiet hn size top entry
    obtain ⟨t, ht, hchannels, hreduction, hl1, hl2, hmem⟩ := execChannelRetire_retires bad hd hred hquiet
    refine ⟨t, ht, hchannels, hreduction, hl1, hl2, fun a hentry => ?_⟩
    rw [hmem]
    refine movedCells_get hn fun w hw hin => hentry ?_
    obtain ⟨e, he, hwe⟩ := List.mem_flatMap.mp hw
    exact ⟨e, he, w, hwe, hin⟩
  case errors =>
    intro gr hin w hbm copied known rec' both
    have hmemory {c : ErrorCase} {t : State} (hc : memoryRow c = true) (h : s.memoryError c gr = t) :
        exec (.errorDetected c gr) s = .next t := execErrorDetected_memory hin hd hc h
    refine ⟨?_, ⟨rfl, fun _ => rfl, ?_⟩, ?_, ?_, ?_, ?_, ?_, ?_, ?_, ?_, ?_⟩
    · exact fun x hx => ⟨hmemory rfl (memoryError_corrected (errorThere_of_copied hx)),
        fun bs hbs hgood => hmemory rfl (memoryError_miscorrected (errorThere_of_copied hx) hbs hgood)⟩
    · intro e he
      simp only [State.unitAt, he]
    · exact fun h => hmemory rfl (memoryError_hbmRead h)
    · intro h
      obtain ⟨t, gs, k, ht, hposts⟩ := memoryError_partialMetadata_poisons h
      exact ⟨hmemory rfl (memoryError_partialData h), t, gs, k, hmemory rfl ht, hposts⟩
    · exact fun h hpoison => hmemory rfl (memoryError_writeBackPoisoned h hpoison)
    · exact fun x v h => ⟨fun hknown => hmemory rfl (memoryError_dirtyCached h hknown),
        fun hknown => hmemory rfl (memoryError_dirtyCachedUntagged h hknown)⟩
    · intro x v h
      obtain ⟨t, ht, hdrops⟩ := memoryError_cleanCached_drops h
      exact ⟨t, hmemory rfl ht, hdrops⟩
    · exact fun g => hmemory rfl rfl
    · exact hmemory rfl rfl
    · exact fun g a ha hfrozen hgoes => execErrorDetected_assistResource gr ha hfrozen hgoes
    · exact fun g ho hlen => execErrorDetected_spillLine ho hlen

end Sys2Proof.Machine
end

section
/-! The issue of copies (12 R323, R326 to R335, R352, 13 R365, R368, 14 R385, R388, 18 R467 to R472). -/

namespace Sys2Proof.Machine

open Host

-- How a word of the CE ends.

section
variable {s t : State} {tk : Tok}

/-- A word of the CE that leaves a copy in flight retires with it. -/
theorem ceRun_issues {f : Res (State × Bool)} (htok : s.tokReady tk = true) (hf : f = .ok (t, true)) :
    ceRun s tk f = .next (s.wordDone t tk) := by
  subst hf
  refine (engineRunThen_completes htok).trans (congrArg Outcome.next (if_neg ?_))
  simp

/-- A word of the CE that leaves no copy in flight retires, and from q0 it pushes its record (12 R346). -/
theorem ceRun_recorded {f : Res (State × Bool)} (htok : s.tokReady tk = true) (hf : f = .ok (t, false)) :
    ceRun s tk f = .next (s.recorded (s.wordDone t tk)) := by
  subst hf
  unfold ceRun State.recorded
  dsimp only
  rw [show Except.map Prod.fst (Except.ok (ε := Stop) (t, false)) = .ok t from rfl, engineRunThen_completes htok]
  simp only [Bool.not_false, and_true]

theorem ceNow_completes {f : Res State} (htok : s.tokReady tk = true) (hf : f = .ok t) :
    ceNow s tk f = .next (s.recorded (s.wordDone t tk)) :=
  ceRun_recorded htok (hf ▸ rfl)

end

-- The checks of a copy, and what its issue reserves.

section
variable {s : State}

theorem pairLen_ok {q : CReg} (h : decide (s.lenOf q < 2 ^ 31) = true) : pairLen s q = .ok (s.lenOf q) := by
  change (check (decide (s.lenOf q < 2 ^ 31)) _ _ >>= fun _ => Except.ok (s.lenOf q)) = _
  rw [h, check_true, ok_bind]

theorem claimCheck_ok {i : Inst} {b : Buf} {off n : Nat} (h : i.inClaim (some b) off n = true) : claimCheck i b off n = .ok () := by
  rw [Inst.inClaim, Option.all_some] at h
  rw [claimCheck, rangeCheck, h, check_true]

theorem slotCheck_ok {i : Inst} {z : ZReg} {n : Nat} (h : i.slotHolds z n = true) : slotCheck i z n = .ok () := by
  unfold slotCheck
  unfold Inst.slotHolds at h
  cases hr : i.ringOf z with
  | none => rfl
  | some r => rw [hr, Option.all_some] at h; simp only [h, check_true]

theorem ringCheck_ok {i : Inst} {z : ZReg} {p n : Nat} (h : ((i.ringOf z).isSome && i.slotHolds z n) = true) :
    ringCheck i z p n = .ok () := by
  obtain ⟨hring, hslot⟩ := Bool.and_eq_true_iff.1 h
  rw [ringCheck, hring, slotCheck_ok hslot]
  rfl

theorem reserveSlot_ok {z : ZReg} (h : (s.inst s.cur.core).ringFree z = true) :
    s.reserveSlot z = .ok (s.reserved z, (s.inst s.cur.core).slotAtR z) := by
  unfold State.reserveSlot State.reserved Inst.slotAtR
  unfold Inst.ringFree at h
  dsimp only
  cases hr : (s.inst s.cur.core).ringOf z with
  | none => rfl
  | some r =>
    rw [hr, Option.all_some] at h
    simp only [h, need_true, ok_bind, Option.map_some]

/-- A reservation leaves the copies in flight as they are. -/
@[simp] theorem modRing_copies (i : Inst) (b : Buf) (n : Fin 8) (f : BufRing → BufRing) : (i.modRing b n f).copies = i.copies := by
  cases b <;> rfl

@[simp] theorem reserved_cur (z : ZReg) : (s.reserved z).cur = s.cur := by
  unfold State.reserved
  split <;> rfl

@[simp] theorem reserved_copies (z : ZReg) : ((s.reserved z).inst s.cur.core).copies = (s.inst s.cur.core).copies := by
  unfold State.reserved
  split
  · rw [modInst_inst, modRing_copies]
  · rfl

/-- A copy issues while fewer than 64 are in flight (12 R323). -/
theorem startCopy_ok {i : Instr} {x : CopySpec} (h : (s.inst s.cur.core).copies.length < 64) :
    s.startCopy i x = .ok (s.issued i x, true) := by
  unfold State.startCopy State.issued
  simp only [h, decide_true, need_true, ok_bind]
  exact congrArg (fun y => Except.ok (y, true)) (modInst_congr rfl)

theorem startUnlessEmpty_empty {i : Instr} {x : CopySpec} (h : x.len = 0) : s.startUnlessEmpty i x = .ok (s, false) := if_pos h

theorem startUnlessEmpty_issues {i : Instr} {x : CopySpec} (hlen : x.len ≠ 0) (h : (s.inst s.cur.core).copies.length < 64) :
    s.startUnlessEmpty i x = .ok (s.issued i x, true) := (if_neg hlen).trans (startCopy_ok h)

end

-- Each word by its entry of `copyRule`.

/-- What f, the meaning of a word that issues a copy, gives where the checks of its rule hold: the copy in flight where there is room for
it, and nothing in flight where its length is 0. -/
structure CopyRule.Runs (r : CopyRule) (i : Instr) (s : State) (f : Res (State × Bool)) : Prop where
  issues : r.ok = true → r.spec.len ≠ 0 → r.room = true → (s.inst s.cur.core).copies.length < 64 →
    f = .ok (r.after ((r.before (r.always s)).issued i r.spec), true)
  empty : r.ok = true → r.spec.len = 0 → f = .ok (r.always s, false)

@[simp] theorem streamCheck_true (n reason : Nat) : streamCheck true n reason = .ok () := rfl

section
variable {s : State} {r : CopyRule}

/-- A word that starts its copy without a reservation, unless its length is 0. -/
theorem CopyRule.Runs.of_start {i : Instr} {f : Res (State × Bool)} (hbefore : r.before = id) (hafter : r.after = id)
    (hkeeps : ((r.always s).inst (r.always s).cur.core).copies = (s.inst s.cur.core).copies)
    (h : r.ok = true → f = (r.always s).startUnlessEmpty i r.spec) : r.Runs i s f := by
  refine ⟨fun hok hlen _ hcopies => ?_, fun hok hlen => (h hok).trans (startUnlessEmpty_empty hlen)⟩
  rw [hbefore, hafter, h hok]
  exact startUnlessEmpty_issues hlen (by rw [hkeeps]; exact hcopies)

theorem cpn_runs (tk : Tok) (p q : Sys2Proof.ZReg) (a : AReg) (o : Bool) (h : copyRule s (.cpn tk p q a o) = some r) :
    ∃ f, execCpn tk p q a o s = ceRun s r.tk f ∧ r.Runs (.cpn tk p q a o) s f := by
  cases h
  refine ⟨_, rfl, fun hok hlen hroom hcopies => ?_, fun hok hlen => ?_⟩ <;> dsimp only at hok hlen ⊢ <;>
    rw [Bool.and_eq_true, Bool.and_eq_true] at hok <;> obtain ⟨⟨hsrc, hfit⟩, hslot⟩ := hok <;>
    simp only [Bool.not_or, ← bne.eq_1, hsrc, hfit, slotCheck_ok hslot, streamCheck_true, ok_bind]
  · dsimp only at hroom
    simp only [hcopies, decide_true, Bool.or_true, need_true, ok_bind, if_neg hlen, reserveSlot_ok hroom]
    exact startCopy_ok (by simpa using hcopies)
  · simp only [hlen, beq_self_eq_true, Bool.true_or, need_true, ok_bind, if_true, id]

theorem lytChecks_ok {i : Inst} {p q : Sys2Proof.ZReg} {m : Word} (h : (lytChecks i p q m matches .ok _) = true) :
    lytChecks i p q m = .ok () := by
  split at h
  · next x hx => exact hx
  · cases h

theorem lyt_runs (tk : Tok) (p q : Sys2Proof.ZReg) (a : AReg) (m : CReg) (o : Bool) (h : copyRule s (.lyt tk p q a m o) = some r) :
    ∃ f, execLyt tk p q a m o s = ceRun s r.tk f ∧ r.Runs (.lyt tk p q a m o) s f := by
  cases h
  unfold execLyt
  dsimp only
  split <;> rename_i hq
  on_goal 1 => rw [if_pos hq]
  on_goal 2 => rw [if_neg hq]
  all_goals
    refine ⟨_, rfl, fun hok hlen hroom hcopies => ?_, fun hok hlen => ?_⟩ <;> dsimp only at hok hlen ⊢ <;>
      rw [Bool.and_eq_true] at hok <;> obtain ⟨hchecks, hslot⟩ := hok <;>
      simp only [lytChecks_ok hchecks, slotCheck_ok hslot, ok_bind]
    · dsimp only at hroom
      rw [Bool.and_eq_true, decide_eq_true_eq] at hroom
      obtain ⟨hlyts, hring⟩ := hroom
      simp only [hcopies, hlyts, and_self, decide_true, Bool.or_true, need_true, ok_bind, if_neg hlen, reserveSlot_ok hring]
      exact startCopy_ok (by simpa using hcopies)
    · simp only [hlen, beq_self_eq_true, Bool.true_or, need_true, ok_bind, if_true, id]

@[simp] theorem setKeep_cur (g : CoreNo) (n : Fin 8) (base : Word) (len : Nat) : (s.setKeep g n base len).cur = s.cur := rfl

@[simp] theorem setKeep_copies (g : CoreNo) (n : Fin 8) (base : Word) (len : Nat) :
    ((s.setKeep g n base len).inst g).copies = (s.inst g).copies := by
  rw [State.setKeep, modInst_inst]
  rfl

theorem keepLen_ok {q : CReg}
    (h : (decide (s.lenOf q < 2 ^ 31) && (s.cReg q).toNat % 256 == 0 && s.lenOf q % 256 == 0) = true) : keepLen s q = .ok (s.lenOf q) := by
  rw [Bool.and_eq_true, Bool.and_eq_true] at h
  obtain ⟨⟨hn, hstart⟩, hlines⟩ := h
  simp only [keepLen, pairLen_ok hn, hstart, hlines, check_true, ok_bind]

theorem keepF_runs (tk : Tok) (k : Fin 8) (q : CReg) (a : AReg) (h : copyRule s (.keepF tk k q a) = some r) :
    ∃ f, execKeepF tk k q a s = ceRun s r.tk f ∧ r.Runs (.keepF tk k q a) s f := by
  cases h
  exact ⟨_, rfl, .of_start rfl rfl (setKeep_copies ..) fun hok => by rw [keepLen_ok hok]; rfl⟩

theorem flushLen_ok {tk : Tok} {q : CReg} (hok : (copyRule.flushRule s tk q).ok = true) : flushLen s q = .ok (s.lenOf q) := by
  dsimp only [copyRule.flushRule] at hok
  rw [Bool.and_eq_true, Bool.and_eq_true] at hok
  obtain ⟨⟨hn, hstart⟩, hlen⟩ := hok
  simp only [flushLen, pairLen_ok hn, hstart, hlen, Bool.and_self, check_true, ok_bind]

theorem cflush_runs (tk : Tok) (q : CReg) (a : AReg) (x : Bool) (h : copyRule s (.cflush tk q a x) = some r) :
    ∃ f, execCflush tk q a x s = ceRun s r.tk f ∧ r.Runs (.cflush tk q a x) s f := by
  cases h
  exact ⟨_, rfl, .of_start rfl rfl rfl fun hok => by rw [flushLen_ok hok]; rfl⟩

theorem cinv_runs (tk : Tok) (q : CReg) (a : AReg) (h : copyRule s (.cinv tk q a) = some r) :
    ∃ f, execCinv tk q a s = ceRun s r.tk f ∧ r.Runs (.cinv tk q a) s f := by
  cases h
  exact ⟨_, rfl, .of_start rfl rfl rfl fun hok => by rw [flushLen_ok hok]; rfl⟩

theorem spillChecks_ok {tk : Tok} {p q : CReg} {b : Buf} {base : Word} (hok : (copyRule.spillRule s tk p q b base).ok = true) :
    spillChecks s p q b = .ok (s.lenOf q) := by
  dsimp only [copyRule.spillRule] at hok
  simp only [Bool.and_eq_true] at hok
  obtain ⟨⟨⟨⟨hn, hstart⟩, hlen⟩, harea⟩, hclaim⟩ := hok
  simp only [spillChecks, rangeCheck, pairLen_ok hn, hstart, hlen, harea, claimCheck_ok hclaim, check_true, ok_bind]

theorem spill_runs (tk : Tok) (p q : CReg) (a : AReg) (b : Buf) (o : Bool) (h : copyRule s (.spill tk p q a b o) = some r) :
    ∃ f, execSpill tk p q a b o s = ceRun s r.tk f ∧ r.Runs (.spill tk p q a b o) s f := by
  cases h
  exact ⟨_, rfl, .of_start rfl rfl rfl fun hok => by rw [spillChecks_ok hok]; rfl⟩

theorem fill_runs (tk : Tok) (p q : CReg) (a : AReg) (b : Buf) (o : Bool) (h : copyRule s (.fill tk p q a b o) = some r) :
    ∃ f, execFill tk p q a b o s = ceRun s r.tk f ∧ r.Runs (.fill tk p q a b o) s f := by
  cases h
  exact ⟨_, rfl, .of_start rfl rfl rfl fun hok => by rw [spillChecks_ok hok]; rfl⟩

theorem peerCheck_ok {m : Nat} (h : (s.peerOf (s.ctxOf s.cur.core) m).isSome = true) :
    peerCheck s m = .ok ((s.peerOf (s.ctxOf s.cur.core) m).getD 0) := by
  obtain ⟨x, hx⟩ := Option.isSome_iff_exists.1 h
  simp only [peerCheck, hx, Option.getD_some]

theorem cprm_runs (tk : Tok) (p q : CReg) (a : AReg) (m : Fin 64) (o : Bool) (z : Fin 8) (h : copyRule s (.cprm tk p q a m o z) = some r) :
    ∃ f, execCprm tk p q a m o z s = ceRun s r.tk f ∧ r.Runs (.cprm tk p q a m o z) s f := by
  cases h
  refine ⟨_, rfl, .of_start rfl rfl rfl fun hok => ?_⟩
  dsimp only at hok
  rw [Bool.and_eq_true] at hok
  obtain ⟨hn, hpeer⟩ := hok
  rw [pairLen_ok hn, ok_bind, peerCheck_ok hpeer]
  rfl

theorem sig_runs (tk : Tok) (p q : CReg) (m : Fin 64) (x : Bool) (i : Instr) :
    ∃ f, issueSig s tk p q m x i = ceRun s tk f ∧ (copyRule.sigRule s tk p q m x).Runs i s f := by
  refine ⟨_, rfl, fun hok hlen hroom hcopies => ?_, fun hok hlen => ?_⟩
  · dsimp only [copyRule.sigRule] at hok
    rw [Bool.and_eq_true] at hok
    obtain ⟨hpeer, halign⟩ := hok
    simp only [peerCheck_ok hpeer, atomBytes, halign, check_true, ok_bind]
    exact startCopy_ok hcopies
  · cases x <;> cases hlen

theorem coll_runs (tk : Tok) (p : CReg) (i : Instr) (hsrc : s.cur.src ≠ .q3) :
    ∃ f, issueColl s tk p i = ceRun s tk f ∧ (copyRule.collRule s tk p).Runs i s f := by
  have hq3 : (s.cur.src == .q3) = false := beq_false_of_ne hsrc
  refine ⟨_, rfl, fun hok hlen hroom hcopies => ?_, fun hok hlen => nomatch hlen⟩
  dsimp only [copyRule.collRule] at hok
  simp only [hq3, Bool.false_eq_true, if_false, hok, check_true, startCopy_ok hcopies, ok_bind]
  rfl

theorem datmClose_runs (tk : Tok) (p : CReg) (a : AReg) (x : Bool) (h : copyRule s (.datmClose tk p a x) = some r) :
    ∃ f, execDatmClose tk p a x s = ceRun s r.tk f ∧ r.Runs (.datmClose tk p a x) s f := by
  cases h
  refine ⟨_, rfl, fun hok hlen hroom hcopies => ?_, fun hok hlen => nomatch hlen⟩
  dsimp only at hok ⊢
  rw [Bool.and_eq_true] at hok
  obtain ⟨hnum, hwindow⟩ := hok
  simp only [windowCheck, hnum, hwindow, check_true, startCopy_ok hcopies, ok_bind]
  split <;> rfl

theorem takeSeq_cur (g : CoreNo) (n : Nat) : (s.takeSeq g n).2.cur = s.cur := by
  unfold State.takeSeq
  split <;> rfl

theorem cpatm_runs (tk : Tok) (p q : CReg) (a : AReg) (c : AmoOp) (x e o : Bool) (z : ListSrc)
    (h : copyRule s (.cpatm tk p q a c x e o z) = some r) :
    ∃ f, execCpatm tk p q a c x e o z s = ceRun s r.tk f ∧ r.Runs (.cpatm tk p q a c x e o z) s f := by
  cases h
  refine ⟨_, rfl, fun hok hlen hroom hcopies => ?_, fun hok hlen => ?_⟩ <;> dsimp only at hok hlen ⊢ <;>
    simp only [Bool.and_eq_true, decide_eq_true_eq] at hok <;> obtain ⟨⟨⟨hpos, hshort, hrecords, halign⟩, hopen⟩, hclaim⟩ := hok
  · have hopen : e = true → (s.lenOf q ≤ 8192 ∧ (s.cReg p).toNat < 64) ∧ s.windowOpenFor s.cur.core (s.cReg p).toNat = true := by
      rintro rfl
      simpa using hopen
    have hqueue : (s.lenOf q != 0 && s.lenOf q % 16 == 0 && (!e || decide (s.lenOf q ≤ 8192))) = true := by
      cases e
      · simp [hrecords, hlen]
      · simp [hrecords, hlen, hopen rfl]
    have hwin : (!e || (decide ((s.cReg p).toNat < 64) && s.windowOpenFor s.cur.core (s.cReg p).toNat)) = true := by
      cases e
      · rfl
      · simp [hopen rfl]
    simp only [pairLen_ok (decide_eq_true hshort), ok_bind]
    change (check (s.lenOf q != 0 && s.lenOf q % 16 == 0 && (!e || decide (s.lenOf q ≤ 8192))) _ _ >>= _) = _
    rw [hqueue, halign, hwin]
    simp only [check_true, ok_bind, beq_self_eq_true]
    have hissue : ∀ y : CopySpec, (if e then s.takeSeq s.cur.core (s.cReg p).toNat else (0, s)).2.startCopy (.cpatm tk p q a c x e o z) y =
        .ok ((if e then (s.takeSeq s.cur.core (s.cReg p).toNat).2 else s).issued (.cpatm tk p q a c x e o z) y, true) := by
      intro y
      cases e
      · exact startCopy_ok hcopies
      · exact startCopy_ok (by simpa only [if_true, takeSeq_cur, takeSeq_inst] using hcopies)
    split
    · next b hb =>
      rw [claimCheck_ok (hb ▸ hclaim), ok_bind, hissue]
      cases e <;> rfl
    · rw [hissue]
      cases e <;> rfl
  · omega

theorem claims_ok {i : Inst} {x : Option Buf} {off n : Nat} (h : i.inClaim x off n = true) : ∀ b, x = some b → claimCheck i b off n = .ok () :=
  fun _ hb => claimCheck_ok (hb ▸ h)

theorem cpx_runs (tk : Tok) (p q : CReg) (a : AReg) (x : CpxDst) (o : Bool) (z : Fin 8) (h : copyRule s (.cpx tk p q a x o z) = some r) :
    ∃ f, execCpx tk p q a x o z s = ceRun s r.tk f ∧ r.Runs (.cpx tk p q a x o z) s f := by
  cases h
  refine ⟨_, rfl, fun hok hlen hroom hcopies => ?_, fun hok hlen => ?_⟩ <;> dsimp only at hok hlen ⊢ <;>
    simp only [Bool.and_eq_true] at hok <;> obtain ⟨⟨⟨⟨hn, hstart⟩, hlines⟩, hring⟩, hdest⟩ := hok <;>
    simp only [pairLen_ok hn, hstart, hlines, check_true, ok_bind]
  · dsimp only at hroom
    simp only [hcopies, decide_true, Bool.or_true, need_true, ok_bind, if_neg hlen]
    cases x with
    | ring =>
      simp only [if_true, ringCheck_ok hring, cpxDstBuf, ok_bind, reserveSlot_ok hroom]
      exact startCopy_ok (by simpa using hcopies)
    | mem =>
      simp only [reduceCtorEq, if_false, cpxDstBuf, if_true]
      exact startCopy_ok hcopies
    | w | a | c =>
      simp only [reduceCtorEq, if_false, cpxDstBuf, claimCheck_ok hdest, ok_bind]
      exact startCopy_ok hcopies
  · simp only [beq_iff_eq.2 hlen, Bool.true_or, need_true, ok_bind, if_pos hlen, id]
    cases x with
    | ring => simp only [if_true, ringCheck_ok hring, cpxDstBuf, ok_bind]
    | mem => simp only [reduceCtorEq, if_false, cpxDstBuf]
    | w | a | c => simp only [reduceCtorEq, if_false, cpxDstBuf, claimCheck_ok hdest, ok_bind]

theorem cp_runs (tk : Tok) (p q : CReg) (a : AReg) (x : CpDst) (y : CpSrc) (o : Bool) (z : Fin 8) (h : copyRule s (.cp tk p q a x y o z) = some r) :
    ∃ f, execCp tk p q a x y o z s = ceRun s r.tk f ∧ r.Runs (.cp tk p q a x y o z) s f := by
  cases h
  refine ⟨_, rfl, fun hok hlen hroom hcopies => ?_, fun hok hlen => ?_⟩ <;> dsimp only at hok hlen ⊢ <;>
    simp only [Bool.and_eq_true] at hok <;> obtain ⟨⟨⟨⟨⟨hn, hmdq⟩, hve⟩, hring⟩, hsource⟩, hdest⟩ := hok <;>
    have hsource := claims_ok hsource <;> simp only [pairLen_ok hn, hmdq, hve, check_true, ok_bind] <;>
    generalize cpSrcBuf y = b at hsource
  · dsimp only at hroom
    simp only [if_neg hlen]
    cases x with
    | ring =>
      have hring' := ringCheck_ok (p := p.val) hring
      have hfree := reserveSlot_ok (Bool.and_eq_true_iff.1 hroom).1
      cases b <;> simp only [if_true, hring', hsource, cpDstBuf, ok_bind, hcopies, decide_true, need_true, hfree] <;>
        exact startCopy_ok (by simpa using hcopies)
    | mdq =>
      have hfree : decide ((s.inst s.cur.core).mdq.length < 8) = true := (Bool.and_eq_true_iff.1 hroom).2
      cases b <;> simp only [reduceCtorEq, if_false, hsource, cpDstBuf, ok_bind, if_true, hfree, need_true] <;>
        exact startCopy_ok (by simpa using hcopies)
    | mem | ve =>
      cases b <;> simp only [reduceCtorEq, if_false, hsource, cpDstBuf, ok_bind, or_true, if_true] <;> exact startCopy_ok hcopies
    | w | a | c =>
      have hdest' := claimCheck_ok hdest
      cases b <;> simp only [reduceCtorEq, if_false, hsource, cpDstBuf, hdest', ok_bind] <;> exact startCopy_ok hcopies
  · simp only [if_pos hlen, id]
    cases x with
    | ring =>
      have hring' := ringCheck_ok (p := p.val) hring
      cases b <;> simp only [if_true, hring', hsource, cpDstBuf, ok_bind]
    | mem | mdq | ve => cases b <;> simp only [reduceCtorEq, if_false, hsource, cpDstBuf, ok_bind]
    | w | a | c =>
      have hdest' := claimCheck_ok hdest
      cases b <;> simp only [reduceCtorEq, if_false, hsource, cpDstBuf, hdest', ok_bind]

/-- A word with an entry of `copyRule` that does not come from q3 runs as the entry says. -/
theorem exec_runs {i : Instr} (h : copyRule s i = some r) (hsrc : s.cur.src ≠ .q3) : ∃ f, exec i s = ceRun s r.tk f ∧ r.Runs i s f := by
  cases i
  case cp => exact cp_runs _ _ _ _ _ _ _ _ h
  case cpn => exact cpn_runs _ _ _ _ _ h
  case cpx => exact cpx_runs _ _ _ _ _ _ _ h
  case lyt => exact lyt_runs _ _ _ _ _ _ h
  case keepF => exact keepF_runs _ _ _ _ h
  case cflush => exact cflush_runs _ _ _ _ h
  case cinv => exact cinv_runs _ _ _ h
  case cpatm => exact cpatm_runs _ _ _ _ _ _ _ _ _ h
  case cprm => exact cprm_runs _ _ _ _ _ _ _ h
  case sigSt | sigAdd => cases h; exact sig_runs _ _ _ _ _ _
  case collAr | collRs | collAg | collBc => cases h; exact coll_runs _ _ _ hsrc
  case spill => exact spill_runs _ _ _ _ _ _ h
  case fill => exact fill_runs _ _ _ _ _ _ h
  case datmClose => exact datmClose_runs _ _ _ _ h
  all_goals cases h

/-- Without its kind an entry of q3 is a multiple of 64 (18 R474). -/
theorem descriptor_aligned (v : Word) : ((v &&& ~~~(0x3F : Word)).toNat % 64 == 0) = true := by
  have hlow : v &&& ~~~(0x3F : Word) &&& 0x3F = 0 := by rw [BitVec.and_assoc, BitVec.not_and_self]; exact BitVec.and_zero
  have hmod := congrArg BitVec.toNat hlow
  rw [BitVec.toNat_and, show (0x3F : Word).toNat = 2 ^ 6 - 1 from rfl, Nat.and_two_pow_sub_one_eq_mod] at hmod
  exact beq_iff_eq.2 hmod

/-- A collective of q3 takes its descriptor's address from the entry, without its kind, and its place in the order of results (18 R474). -/
theorem issueColl_q3 {tk : Tok} {p : CReg} {i : Instr} {v : Word} {rest : List Word} (htok : s.tokReady tk = true) (hsrc : s.cur.src = .q3)
    (hq : (s.inst s.cur.core).qw[3] = v :: rest) (hcopies : (s.inst s.cur.core).copies.length < 64) :
    issueColl s tk p i = .next (s.wordDone ((s.issued i { (copyRule.collRule s tk p).spec with p := v &&& ~~~(0x3F : Word) }).modInst
      s.cur.core fun y => { y with q3Order := y.q3Order ++ [((s.inst s.cur.core).nextId, none)] }) tk) := by
  refine ceRun_issues htok ?_
  simp only [hsrc, hq, beq_self_eq_true, if_true, List.headD_cons, descriptor_aligned, check_true, startCopy_ok hcopies, ok_bind]
  rfl

end

/-- Settles O38: a word runs as its entry of `copyRule` says, and a collective of q3 by the address in its entry. -/
theorem copyIssues : Obligations.CopyIssues := by
  intro i s r hrule htok g j
  refine ⟨fun hsrc hok hlen hroom hcopies => ?_, fun hsrc hok hlen => ?_, fun v rest hsrc hcoll hq hcopies => ?_⟩
  · obtain ⟨f, hexec, hruns⟩ := exec_runs hrule hsrc
    rw [hexec]
    exact ceRun_issues htok (hruns.issues hok hlen hroom hcopies)
  · obtain ⟨f, hexec, hruns⟩ := exec_runs hrule hsrc
    rw [hexec]
    exact ceRun_recorded htok (hruns.empty hok hlen)
  · cases i
    case collAr | collRs | collAg | collBc => cases hrule; exact issueColl_q3 htok hsrc hq hcopies
    all_goals cases hcoll

end Sys2Proof.Machine
end

section
/-! The words of the copy engine that leave no copy (12 R334, R338, R339, R342 to R344, R350, R351, 13 R365, R366, 14 R388). -/

namespace Sys2Proof.Machine

open Host

section
variable {s t : State} {tk : Tok}

/-- An entry of `ceNowRule` whose checks hold. -/
theorem entry_eq {x : Tok} {b : Bool} {u : State} (h : some (x, b, u) = some (tk, true, t)) : x = tk ∧ b = true ∧ u = t := by
  simpa only [Option.some.injEq, Prod.mk.injEq] using h

/-- A push to q11 that has a free place (05 R151). -/
theorem push_now {tk' : Tok} {v w : Word} (h : some (ceNowRule.push s tk' w) = some (tk, true, t)) (hv : v = w) :
    ceNow s tk' (pushQ11 s v) = ceNow s tk (.ok t) := by
  subst hv
  obtain ⟨rfl, hok, rfl⟩ := entry_eq h
  have hroom : s.hasRoomRead s.cur.core 11 = true := hok
  simp only [pushQ11, hroom, need_true, ok_bind]

theorem pf_now {tk' : Tok} {q : CReg} {l : Bool} {z : Fin 8} (h : ceNowRule s (.pf tk' q l z) = some (tk, true, t)) :
    execPf tk' q l z s = ceNow s tk (.ok t) := by
  obtain ⟨rfl, hok, rfl⟩ := entry_eq h
  unfold execPf
  simp only [pairLen_ok hok, ok_bind]

theorem keep_now {tk' : Tok} {k : Fin 8} {q : CReg} (h : ceNowRule s (.keep tk' k q) = some (tk, true, t)) :
    execKeep tk' k q s = ceNow s tk (.ok t) := by
  obtain ⟨rfl, hok, rfl⟩ := entry_eq h
  unfold execKeep
  rw [keepLen_ok hok, ok_bind]

theorem acset_now {tk' : Tok} {q : CReg} {a : AReg} (h : ceNowRule s (.acset tk' q a) = some (tk, true, t)) :
    execAcset tk' q a s = ceNow s tk (.ok t) := by
  obtain ⟨rfl, -, rfl⟩ := entry_eq h
  exact congrArg (fun u => ceNow s _ (.ok u)) (modInst_congr rfl)

theorem acadd_now {tk' : Tok} {q : CReg} {a : AReg} (h : ceNowRule s (.acadd tk' q a) = some (tk, true, t)) :
    execAcadd tk' q a s = ceNow s tk (.ok t) := by
  obtain ⟨rfl, -, rfl⟩ := entry_eq h
  exact congrArg (fun u => ceNow s _ (.ok u)) (modInst_congr rfl)

theorem acwait_now {tk' : Tok} {a : AReg} (h : ceNowRule s (.acwait tk' a) = some (tk, true, t)) :
    execAcwait tk' a s = ceNow s tk (.ok t) := by
  obtain ⟨rfl, hok, rfl⟩ := entry_eq h
  obtain ⟨hover, hzero⟩ := Bool.and_eq_true_iff.1 hok
  have hdone : ((s.inst s.cur.core).a[a].value.sle 0) = true := hzero
  unfold execAcwait
  simp only [hover, hdone, check_true, need_true, ok_bind]

theorem cgetPop_now {tk' : Tok} {p : CReg} (h : ceNowRule s (.cgetPop tk' p) = some (tk, true, t)) :
    execCgetPop tk' p s = ceNow s tk (.ok t) := by
  dsimp only [ceNowRule] at h
  split at h
  · cases h
  · next v rest hq =>
    obtain ⟨rfl, -, rfl⟩ := entry_eq h
    simp only [execCgetPop, hq]

theorem cgetC_now {tk' : Tok} {p : CReg} (h : ceNowRule s (.cgetC tk' p) = some (tk, true, t)) :
    execCgetC tk' p s = ceNow s tk (.ok t) := push_now h rfl

theorem cgetCur_now {tk' : Tok} {p : Sys2Proof.ZReg} (h : ceNowRule s (.cgetCur tk' p) = some (tk, true, t)) :
    execCgetCur tk' p s = ceNow s tk (.ok t) := push_now h (BitVec.ofNat_toNat ..).symm

theorem cgetScale_now {tk' : Tok} {p : Sys2Proof.ZReg} (h : ceNowRule s (.cgetScale tk' p) = some (tk, true, t)) :
    execCgetScale tk' p s = ceNow s tk (.ok t) := push_now h (BitVec.ofNat_toNat ..).symm

theorem cgetAc_now {tk' : Tok} {n : AReg} (h : ceNowRule s (.cgetAc tk' n) = some (tk, true, t)) :
    execCgetAc tk' n s = ceNow s tk (.ok t) := push_now h rfl

theorem cgetLi_now {tk' : Tok} {p : CReg} {i : BitVec 16} (h : ceNowRule s (.cgetLi tk' p i) = some (tk, true, t)) :
    execCgetLi tk' p i s = ceNow s tk (.ok t) := by
  obtain ⟨rfl, -, rfl⟩ := entry_eq h
  rfl

theorem cadd_now {tk' : Tok} {p q : CReg} {i : BitVec 16} (h : ceNowRule s (.cadd tk' p q i) = some (tk, true, t)) :
    execCadd tk' p q i s = ceNow s tk (.ok t) := by
  obtain ⟨rfl, -, rfl⟩ := entry_eq h
  refine congrArg (fun u => ceNow s _ (.ok u)) (modInst_congr ?_)
  have hsum : (s.inst s.cur.core).c[q] + i.signExtend 64 = BitVec.ofInt 64 ((s.cReg q).toInt + i.toInt) := by
    rw [BitVec.ofInt_add, BitVec.ofInt_toInt]
    rfl
  rw [hsum]

theorem hret_now {c : BitVec 8} (h : ceNowRule s (.hret c) = some (tk, true, t)) : execHret c s = ceNow s tk (.ok t) := by
  obtain ⟨rfl, hok, rfl⟩ := entry_eq h
  have hneed : ((s.inst s.cur.core).helperIdle && decide ((s.inst s.cur.core).qr[4].length < queueDepth 4)) = true := hok
  unfold execHret
  simp only [hneed, need_true, ok_bind]
  cases (s.inst s.cur.core).helper <;> rfl

theorem hflag_now {p q : CReg} (h : ceNowRule s (.hflag p q) = some (tk, true, t)) : execHflag p q s = ceNow s tk (.ok t) := by
  obtain ⟨rfl, hok, rfl⟩ := entry_eq h
  rw [Bool.and_eq_true, decide_eq_true_eq] at hok
  obtain ⟨⟨halign, hclaim⟩, hidle⟩ := hok
  have hrange : claimCheck (s.inst s.cur.core) .a (s.cReg p).toNat 4 = .ok () := claimCheck_ok (by simp [Inst.inClaim, Inst.claim, hclaim])
  unfold execHflag
  simp only [halign, hrange, hidle, beq_self_eq_true, check_true, need_true, ok_bind]
  rfl

theorem scfg_now {tk' : Tok} {p : Sys2Proof.ZReg} {q : CReg} (h : ceNowRule s (.scfg tk' p q) = some (tk, true, t)) :
    execScfg tk' p q s = ceNow s tk (.ok t) := by
  dsimp only [ceNowRule] at h
  split at h
  · cases h
  · next bs hread =>
    obtain ⟨rfl, hok, rfl⟩ := entry_eq h
    rw [Bool.and_eq_true, decide_eq_true_eq, Option.isNone_iff_eq_none] at hok
    obtain ⟨halign, hreason⟩ := hok
    simp only [execScfg, hread, halign, hreason, beq_self_eq_true, check_true, ok_bind]

theorem datmOpen_now {tk' : Tok} {p q : CReg} {o : Bool} (h : ceNowRule s (.datmOpen tk' p q o) = some (tk, true, t)) :
    execDatmOpen tk' p q o s = ceNow s tk (.ok t) := by
  dsimp only [ceNowRule] at h
  split at h
  · next oc x hoc hx =>
    split at h
    · next hw =>
      obtain ⟨rfl, hok, rfl⟩ := entry_eq h
      rw [decide_eq_true_eq] at hok
      simp only [execDatmOpen, hoc, hx, hw, windowCheck, hok, decide_true, check_true, ok_bind, and_self]
    · next w hw =>
      obtain ⟨rfl, hok, rfl⟩ := entry_eq h
      rw [Bool.and_eq_true, decide_eq_true_eq] at hok
      obtain ⟨⟨hnum, hn, hkey, hfree, hnew⟩, happlying⟩ := hok
      have hnew' : (!w.joined.any fun y => y.ordinal == oc.ordinal) = true := by simpa using hnew
      simp only [execDatmOpen, hoc, hx, hw, windowCheck, hnum, decide_true, check_true, ok_bind, happlying, need_true, hn, hkey, hfree, hnew',
        beq_self_eq_true, beq_iff_eq, Bool.and_self]
  · cases h

/-- A word with an entry of `ceNowRule` whose checks hold, and whose waits are over, takes the effect of its entry. -/
theorem exec_eq_ceNow {i : Instr} (h : ceNowRule s i = some (tk, true, t)) : exec i s = ceNow s tk (.ok t) := by
  cases i
  case pf => exact pf_now h
  case keep => exact keep_now h
  case unkeep => cases h; rfl
  case acset => exact acset_now h
  case acadd => exact acadd_now h
  case acwait => exact acwait_now h
  case cgetPop => exact cgetPop_now h
  case cgetC => exact cgetC_now h
  case cgetCur => exact cgetCur_now h
  case cgetScale => exact cgetScale_now h
  case cgetAc => exact cgetAc_now h
  case cgetLi => exact cgetLi_now h
  case cadd => exact cadd_now h
  case scfg => exact scfg_now h
  case hret => exact hret_now h
  case hflag => exact hflag_now h
  case datmOpen => exact datmOpen_now h
  all_goals cases h

end

/-- Settles O39: a word takes the effect of its entry of `ceNowRule`, and the overrun check of acwait precedes its waits. -/
theorem copyControl : Obligations.CopyControl := by
  intro i s t tk hrule htok
  refine ⟨?_, fun a hover => ?_⟩
  · rw [exec_eq_ceNow hrule]
    exact ceNow_completes htok rfl
  · rw [exec_acwait, execAcwait, hover]
    rfl

end Sys2Proof.Machine
end

section
/-! Bits of byte strings and byte spaces (00 R6, 01 R18): what reading and putting some bits of them does. -/

namespace Sys2Proof.Machine

open Host

/-- Bit n of a little-endian number is that of its byte. -/
theorem testBit_leNat (l : List Byte) (n : Nat) : (leNat l).testBit n = (l.getD (n / 8) 0).getLsbD (n % 8) := by
  induction l generalizing n with
  | nil => simp [leNat]
  | cons b t ih =>
    rw [leNat, Nat.add_comm, Nat.testBit_two_pow_mul_add (i := 8) _ b.isLt]
    by_cases h : n < 8
    · rw [if_pos h, Nat.div_eq_of_lt h, Nat.mod_eq_of_lt h]
      rfl
    · rw [if_neg h, ih, show n / 8 = (n - 8) / 8 + 1 by omega, show n % 8 = (n - 8) % 8 by omega]
      rfl

/-- A bit of the little-endian bytes of a number. -/
theorem getLsbD_leBytes (k v n : Nat) : ((leBytes k v).getD (n / 8) 0).getLsbD (n % 8) = (decide (n < 8 * k) && v.testBit n) := by
  induction k generalizing v n with
  | zero => simp [leBytes]
  | succ k ih =>
    by_cases h : n < 8
    · rw [Nat.div_eq_of_lt h, Nat.mod_eq_of_lt h]
      change (BitVec.ofNat 8 v).getLsbD n = _
      simp only [BitVec.getLsbD_ofNat, h, show n < 8 * (k + 1) by omega]
    · have hbyte := ih (v / 256) (n - 8)
      rw [show (256 : Nat) = 2 ^ 8 from rfl, Nat.testBit_div_two_pow, show n - 8 + 8 = n by omega] at hbyte
      rw [leBytes, show n / 8 = (n - 8) / 8 + 1 by omega, show n % 8 = (n - 8) % 8 by omega, List.getD_cons_succ]
      refine hbyte.trans ?_
      rw [show decide (n - 8 < 8 * k) = decide (n < 8 * (k + 1)) by simp; omega]

/-- A bit of a byte space after some bytes have been put. -/
theorem bitOf_put (m : Bytes) (a : Nat) (bs : List Byte) (n : Nat) :
    bitOf (m.put a bs) n = if 8 * a ≤ n ∧ n < 8 * (a + bs.length) then (bs.getD ((n - 8 * a) / 8) 0).getLsbD ((n - 8 * a) % 8)
      else bitOf m n := by
  unfold bitOf
  split
  · rw [show n / 8 = a + (n - 8 * a) / 8 by omega, get_put_in _ _ _ _ (by omega), show n % 8 = (n - 8 * a) % 8 by omega]
  · rw [get_put_out _ _ _ _ (by omega)]

/-- A bit of some bytes read of a byte space. -/
theorem getLsbD_read (m : Bytes) (a k n : Nat) :
    ((m.read a k).getD (n / 8) 0).getLsbD (n % 8) = (decide (n < 8 * k) && bitOf m (8 * a + n)) := by
  unfold bitOf Bytes.read
  by_cases h : n < 8 * k
  · rw [show (8 * a + n) / 8 = a + n / 8 by omega, show (8 * a + n) % 8 = n % 8 by omega]
    simp [h, show n / 8 < k by omega]
  · simp [h, show ¬ n / 8 < k by omega]

/-- A bit of a field read of some bytes. -/
theorem testBit_bitsAt (bs : List Byte) (r w j : Nat) (hr : r < 8) :
    (bitsAt bs r w).testBit j = (decide (j < w) && (bs.getD ((r + j) / 8) 0).getLsbD ((r + j) % 8)) := by
  unfold bitsAt
  rw [Nat.testBit_mod_two_pow, Nat.testBit_div_two_pow, testBit_leNat, Nat.mod_eq_of_lt hr, Nat.div_eq_of_lt hr, Nat.add_comm j r]
  by_cases h : j < w
  · simp [h, List.getD_eq_getElem?_getD, show (r + j) / 8 < (r + w + 7) / 8 by omega]
  · simp [h]

/-- A bit of a number after the w bits from bit r up have been replaced. -/
theorem testBit_replace (old r w v n : Nat) :
    (old - old / 2 ^ r % 2 ^ w * 2 ^ r + v % 2 ^ w * 2 ^ r).testBit n =
      if r ≤ n ∧ n < r + w then v.testBit (n - r) else old.testBit n := by
  have hlow : old % 2 ^ r < 2 ^ r := Nat.mod_lt _ (Nat.two_pow_pos r)
  have hmid : v % 2 ^ w < 2 ^ w := Nat.mod_lt _ (Nat.two_pow_pos w)
  have hsplit : old = 2 ^ r * (2 ^ w * (old / 2 ^ r / 2 ^ w) + old / 2 ^ r % 2 ^ w) + old % 2 ^ r := by
    rw [Nat.div_add_mod, Nat.div_add_mod]
  have hnew : old - old / 2 ^ r % 2 ^ w * 2 ^ r + v % 2 ^ w * 2 ^ r =
      2 ^ r * (2 ^ w * (old / 2 ^ r / 2 ^ w) + v % 2 ^ w) + old % 2 ^ r := by
    generalize old / 2 ^ r % 2 ^ w = x at hsplit ⊢
    generalize old / 2 ^ r / 2 ^ w = y at hsplit ⊢
    generalize old % 2 ^ r = z at hsplit ⊢
    rw [hsplit, Nat.mul_add, Nat.mul_add, Nat.mul_comm x, Nat.mul_comm (v % _)]
    omega
  rw [hnew, Nat.testBit_two_pow_mul_add _ hlow, Nat.testBit_two_pow_mul_add _ hmid]
  by_cases h1 : n < r
  · rw [if_pos h1, if_neg (by omega), Nat.testBit_mod_two_pow]; simp [h1]
  · by_cases h2 : n - r < w
    · rw [if_neg h1, if_pos h2, if_pos (by omega), Nat.testBit_mod_two_pow]; simp [h2]
    · rw [if_neg h1, if_neg h2, if_neg (by omega), Nat.testBit_div_two_pow, Nat.testBit_div_two_pow]
      congr 1; omega

/-- The bytes of a space after the w bits from bit `first` up have been replaced by those of v. -/
def BitsPut (old new : Bytes) (first w v : Nat) : Prop :=
  ∀ n, bitOf new n = if first ≤ n ∧ n < first + w then v.testBit (n - first) else bitOf old n

/-- Replacing w bits of the bytes that hold them, and putting these bytes back. -/
theorem bitsPut_putBits (m : Bytes) (off r w v : Nat) (hr : r < 8) :
    BitsPut m (m.put off (putBits (m.read off ((r + w + 7) / 8)) r w v)) (8 * off + r) w v := by
  have hbytes : putBits (m.read off ((r + w + 7) / 8)) r w v = leBytes ((r + w + 7) / 8)
      (leNat (m.read off ((r + w + 7) / 8)) - leNat (m.read off ((r + w + 7) / 8)) / 2 ^ r % 2 ^ w * 2 ^ r + v % 2 ^ w * 2 ^ r) := by
    simp [putBits, Nat.div_eq_of_lt hr, Nat.mod_eq_of_lt hr, List.take_of_length_le, List.drop_of_length_le]
  intro n
  rw [hbytes, bitOf_put, leBytes_length, getLsbD_leBytes, testBit_replace, testBit_leNat, getLsbD_read]
  by_cases hin : 8 * off + r ≤ n ∧ n < 8 * off + r + w
  · rw [if_pos hin, if_pos (by omega), if_pos (by omega), show n - 8 * off - r = n - (8 * off + r) by omega]
    simp [show n - 8 * off < 8 * ((r + w + 7) / 8) by omega]
  · rw [if_neg hin]
    split
    · rw [if_neg (by omega), show 8 * off + (n - 8 * off) = n by omega]
      simp [show n - 8 * off < 8 * ((r + w + 7) / 8) by omega]
    · rfl

/-- Putting whole bytes. -/
theorem bitsPut_leBytes (m : Bytes) (off w v : Nat) (hw : w % 8 = 0) :
    BitsPut m (m.put off (leBytes ((w + 7) / 8) (v % 2 ^ w))) (8 * off) w v := by
  intro n
  rw [bitOf_put, leBytes_length, getLsbD_leBytes, Nat.testBit_mod_two_pow]
  by_cases hin : 8 * off ≤ n ∧ n < 8 * off + w
  · rw [if_pos hin, if_pos (by omega)]
    simp [show n - 8 * off < 8 * ((w + 7) / 8) by omega, show n - 8 * off < w by omega]
  · rw [if_neg hin, if_neg (by omega)]

/-- With no part left to put, the bytes are as before. -/
theorem partsStand_nil (m : Bytes) (origin : Nat) : partsStand m m origin [] :=
  ⟨fun _ _ => rfl, fun _ _ h => nomatch h⟩

/-- One part put, and then the others. -/
theorem partsStand_cons {old mid new : Bytes} {origin : Nat} {bit : Int} {w v : Nat} {l : List (Int × Nat × Nat)}
    (hput : BitsPut old mid (8 * (origin : Int) + bit).toNat w v) (hrest : partsStand mid new origin l) :
    partsStand old new origin ((bit, w, v) :: l) := by
  obtain ⟨hfree, hheld⟩ := hrest
  refine ⟨fun n hn => ?_, fun k e hk hlater j hj => ?_⟩
  · rw [hfree n fun e he => hn e (List.mem_cons_of_mem _ he), hput, if_neg (hn _ (List.mem_cons_self ..))]
  · cases k with
    | zero =>
      obtain rfl : (bit, w, v) = e := by simpa using hk
      have hnone : ∀ f ∈ l, ¬ ((8 * (origin : Int) + f.1).toNat ≤ (8 * (origin : Int) + bit).toNat + j ∧
          (8 * (origin : Int) + bit).toNat + j < (8 * (origin : Int) + f.1).toNat + f.2.1) := by
        intro f hf
        obtain ⟨m, hm⟩ := List.mem_iff_getElem?.1 hf
        have hapart := hlater (m + 1) f (Nat.succ_pos m) hm
        dsimp only at hapart hj
        omega
      dsimp only at hj ⊢
      rw [hfree _ hnone, hput, if_pos (by omega)]
      congr 1; omega
    | succ k => exact hheld k e hk (fun m f hm hf => hlater (m + 1) f (Nat.succ_lt_succ hm) hf) j hj

end Sys2Proof.Machine
end

section
/-! SUPPORT. What a change of the instance on a core leaves: every translation, and what reads of memory return. -/

namespace Sys2Proof.Machine

open Host

section
variable (s : State) (g : CoreNo) (f : Inst → Inst)

theorem modInst_walk (ctx va : Nat) (l : List (Nat × Nat × Nat)) (table : Nat) :
    (s.modInst g f).walk ctx va l table = s.walk ctx va l table := by
  induction l generalizing table with
  | nil => rfl
  | cons e t ih =>
    have hrest : ∀ pa, (s.modInst g f).walk ctx va t pa = s.walk ctx va t pa := ih
    unfold State.walk
    rw [funext hrest]
    rfl

theorem modInst_lookup (h : Option CoreNo) (ctx va : Nat) : (s.modInst g f).lookup h ctx va = s.lookup h ctx va := by
  have hfresh : (s.modInst g f).fresh ctx va = s.fresh ctx va :=
    congrArg (Option.bind _) (funext fun root => modInst_walk s g f ctx va pageLevels root)
  have hused : ∀ k : CoreNo, (s.modInst g f).used k ctx va = s.used k ctx va := fun k => by
    have htlb : (s.modInst g f).cached k ctx va = s.cached k ctx va := by
      unfold State.cached
      rw [show (s.modInst g f).cores[k].tlb = s.cores[k].tlb from modInst_tlb ..]
      rfl
    unfold State.used
    rw [htlb, hfresh]
    rfl
  unfold State.lookup
  rw [hfresh, funext hused]

@[simp] theorem modInst_translate (h : Option CoreNo) (ctx va : Nat) (n : Need) :
    (s.modInst g f).translate h ctx va n = s.translate h ctx va n := by
  unfold State.translate
  rw [modInst_lookup]
  rfl

@[simp] theorem modInst_runs (h : Option CoreNo) (ctx : Nat) (n : Need) (l : List (Nat × Nat)) :
    (s.modInst g f).runs h ctx n l = s.runs h ctx n l := by
  induction l with
  | nil => rfl
  | cons e t ih => rw [State.runs, State.runs, modInst_translate, ih]

@[simp] theorem modInst_readV (h : Option CoreNo) (ctx va n : Nat) : (s.modInst g f).readV h ctx va n = s.readV h ctx va n := by
  have hpieces : ∀ l, (s.modInst g f).readPieces h ctx l = s.readPieces h ctx l := by
    intro l
    induction l with
    | nil => rfl
    | cons e t ih =>
      rw [State.readPieces, State.readPieces, modInst_translate, ih]
      rfl
  exact hpieces _

@[simp] theorem modInst_ctxOf (h : CoreNo) : (s.modInst g f).ctxOf h = s.ctxOf h := by
  have hon : (s.modInst g f).taskOn h = s.taskOn h := by
    unfold State.taskOn
    rw [show (s.modInst g f).cores[h].occupant = s.cores[h].occupant from modInst_occupant ..]
    rfl
  unfold State.ctxOf
  rw [hon]
  rfl

/-- The context of a core after a sink event. -/
@[simp] theorem sink_ctxOf (h : CoreNo) : (s.sink g).ctxOf h = s.ctxOf h := by
  have hon : (s.sink g).taskOn h = s.taskOn h := by
    unfold State.taskOn
    rw [show (s.sink g).cores[h].occupant = s.cores[h].occupant from ?_]
    · rfl
    · by_cases e : h = g
      · subst e; simp [State.sink]
      · exact congrArg Core.occupant (modCore_other _ _ _ _ e)
  unfold State.ctxOf
  rw [hon]
  rfl

end

/-- Writes of runs by a core change memory by what memory held. -/
theorem writeRuns_mem_congr {s t : State} (h : t.mem = s.mem) (k : CoreNo) (ctx : Nat) (l : List (Nat × Nat)) (bs : List Byte) :
    (t.writeRuns (some k) ctx l bs).mem = (s.writeRuns (some k) ctx l bs).mem := by
  induction l generalizing s t bs with
  | nil => exact h
  | cons e l ih => exact ih (congrArg (fun m : Bytes => m.put e.1 (bs.take e.2)) h) _

@[simp] theorem writeRuns_inst (s : State) (k : CoreNo) (ctx : Nat) (l : List (Nat × Nat)) (bs : List Byte) (h : CoreNo) :
    (s.writeRuns (some k) ctx l bs).inst h = s.inst h := by
  induction l generalizing s bs with
  | nil => rfl
  | cons e l ih => exact ih _ _

end Sys2Proof.Machine
end

section
/-! SUPPORT. What the reads of a copy leave as it was: memory, the buffers and the spill area (12 R328, 14 R370). -/

namespace Sys2Proof.Machine

open Host

/-- From s to t memory, the spill area, the tags and the context of core g have not changed, and its buffers hold what `bufs` says. -/
structure State.BufsBecome (g : CoreNo) (bufs : Buf → Bytes) (s t : State) : Prop where
  mem : t.mem = s.mem
  ctx : t.ctxOf g = s.ctxOf g
  spill : (t.inst g).spill = (s.inst g).spill
  tags : (t.inst g).tags = (s.inst g).tags
  buf : (t.inst g).buf = bufs

/-- From s to t memory, the spill area, the tags, the buffers and the context of core g have not changed. -/
abbrev State.Untouched (g : CoreNo) (s t : State) : Prop := State.BufsBecome g (s.inst g).buf s t

section
variable {g : CoreNo} {s t u : State} {bufs bufs' : Buf → Bytes}

theorem State.Untouched.refl (s : State) : State.Untouched g s s := ⟨rfl, rfl, rfl, rfl, rfl⟩

theorem State.BufsBecome.trans (h : State.BufsBecome g bufs s t) (k : State.BufsBecome g bufs' t u) : State.BufsBecome g bufs' s u :=
  ⟨k.mem.trans h.mem, k.ctx.trans h.ctx, k.spill.trans h.spill, k.tags.trans h.tags, k.buf⟩

theorem State.BufsBecome.keeps (h : State.BufsBecome g bufs s t) (k : State.Untouched g t u) : State.BufsBecome g bufs s u :=
  ⟨k.mem.trans h.mem, k.ctx.trans h.ctx, k.spill.trans h.spill, k.tags.trans h.tags, k.buf.trans h.buf⟩

theorem State.Untouched.then (h : State.Untouched g s t) (k : State.Untouched g t u) : State.Untouched g s u := h.keeps k

theorem State.Untouched.of_bare (h : t.bareTlb = s.bareTlb) : State.Untouched g s t :=
  ⟨bare_mem h, bare_ctxOf h g, by rw [bare_inst h], by rw [bare_inst h], by rw [bare_inst h]⟩

theorem State.Untouched.sink (s : State) : State.Untouched g s (s.sink g) := by constructor <;> simp

/-- A change of the instance that leaves the tags and the spill area. -/
theorem State.BufsBecome.modInst {f : Inst → Inst} (hbuf : (f (s.inst g)).buf = bufs) (htags : (f (s.inst g)).tags = (s.inst g).tags)
    (hspill : (f (s.inst g)).spill = (s.inst g).spill) : State.BufsBecome g bufs s (s.modInst g f) := by
  constructor <;> simp [hbuf, htags, hspill]

theorem State.Untouched.modCopy (s : State) (id : Nat) (f : Copy → Copy) : State.Untouched g s (s.modInst g fun i => i.modCopy id f) :=
  State.BufsBecome.modInst (funext fun b => by cases b <;> rfl) (funext fun b => by cases b <;> rfl) rfl

theorem State.Untouched.ite {p : Prop} [Decidable p] (ht : State.Untouched g s t) (hu : State.Untouched g s u) :
    State.Untouched g s (if p then t else u) := by
  split
  · exact ht
  · exact hu

end

section
variable (s : State) (g : CoreNo) (c : Copy)

theorem noteRange_untouched (va n : Nat) (d : Fin 8) (w : Bool) : State.Untouched g s (s.noteRange g va n d w) :=
  .of_bare (noteSpan_bare ..)

theorem noteHeld_untouched (va n : Nat) (d : Fin 8) : State.Untouched g s (s.noteHeld g va n d) := by
  refine .of_bare (bareTlb_of_bareCaches (foldl_keep State.bareCaches _ (fun b p => ?_) _ s))
  split
  · exact foldl_keep State.bareCaches _ (fun b l => by split <;> simp) _ b
  · rfl

theorem keepBytes_untouched (space : Nat) (as : List Nat) : State.Untouched g s (s.keepBytes g c space as) :=
  .ite (.modCopy ..) (.refl s)

theorem readAhead_untouched (space a : Nat) : State.Untouched g s (s.readAhead g c space a) :=
  .ite (.modCopy ..) (.refl s)

theorem readEdges_untouched (space lo n : Nat) : State.Untouched g s (s.readEdges g c space lo n) := by
  unfold State.readEdges
  have hfirst : State.Untouched g s (if lo % 4 = 0 then s else s.readAhead g c space lo) := .ite (.refl s) (readAhead_untouched ..)
  exact .ite hfirst (hfirst.then (readAhead_untouched ..))

theorem sourceBytes_untouched (space a n : Nat) (d : Fin 8) :
    Within (fun r => State.Untouched g s r.1) (s.sourceBytes g c space a n d) := by
  unfold State.sourceBytes
  dsimp only
  split
  · exact Within.map ((Within.any _).imp fun _ _ => readEdges_untouched ..)
  · exact Within.map ((Within.any _).imp fun _ _ => (readEdges_untouched ..).then (noteRange_untouched ..))

theorem placeGet_untouched (pl : Place) (d : Fin 8) (bit : Int) (w : Nat) :
    Within (fun r => State.Untouched g s r.1) (s.placeGet g c pl d bit w) :=
  Within.map ((sourceBytes_untouched _ _ _ _ _ _ _).imp fun _ h => h)

theorem readParts_untouched (l : List (Int × Nat)) (pl : Place) (d : Fin 8) :
    Within (fun r => State.Untouched g s r.1) (s.readParts g c pl d l) := by
  induction l generalizing s c with
  | nil => exact Within.pair (.refl s)
  | cons e t ih =>
    exact Within.bind (placeGet_untouched _ _ _ _ _ _ _) fun v h => Within.bind (ih v.1 _) fun _ k => Within.pair (h.then k)

theorem cpBytes_untouched (y : CpSrc) (d : Fin 8) (u off n : Nat) :
    Within (fun r => State.Untouched g s r.1) (s.cpBytes g c y d u off n) := by
  unfold State.cpBytes
  cases y
  case mem | w | a | c => exact sourceBytes_untouched _ _ _ _ _ _ _
  case ve =>
    refine Within.ite (Within.error _) (Within.ite (Within.pair (.modCopy ..)) ?_)
    split
    · exact Within.error _
    · exact Within.pair (State.Untouched.then (State.BufsBecome.modInst (funext fun b => by cases b <;> rfl) (funext fun b => by cases b <;> rfl) rfl) (.sink _))

theorem tileBytes_untouched (x va n : Nat) (d : Fin 8) : Within (fun r => State.Untouched g s r.1) (s.tileBytes g c x va n d) :=
  Within.map ((Within.any _).imp fun _ _ => .ite (noteHeld_untouched ..) (noteRange_untouched ..))

theorem readHeader_untouched (v n : Nat) (d : Fin 8) : Within (fun r => State.Untouched g s r.1) (s.readHeader g c v n d) := by
  unfold State.readHeader
  refine Within.then fun hb => ?_
  split
  · exact Within.error _
  · exact Within.map ((tileBytes_untouched _ _ _ _ _ _ _).imp fun _ h => h)

theorem readTile_untouched (v n t : Nat) (d : Fin 8) : Within (fun r => State.Untouched g s r.1) (s.readTile g c v n t d) := by
  unfold State.readTile
  refine Within.bind (readHeader_untouched _ _ _ _ _ _) fun hd h => ?_
  refine Within.ite (Within.map ((tileBytes_untouched _ _ _ _ _ _ _).imp fun _ k => h.then k)) ?_
  refine Within.bind (tileBytes_untouched _ _ _ _ _ _ _) fun eb k => ?_
  split
  · exact Within.error _
  · exact Within.ok (h.then k)
  · exact Within.map ((tileBytes_untouched _ _ _ _ _ _ _).imp fun _ m => (h.then k).then m)

end

end Sys2Proof.Machine
end

section
/-! SUPPORT. The bytes of its source that a copy reads are those that stand there, as long as it has written none of them itself
(12 R328, 14 R370, R373). -/

namespace Sys2Proof.Machine

open Host

/-- The bytes of a space of core g: 0 memory, 1 to 3 a buffer. -/
def State.spaceBytes (s : State) (g : CoreNo) (space : Nat) : Bytes :=
  match bufOf space with
  | some b => (s.inst g).buf b
  | none => s.mem

theorem spaceBytes_buf {space : Nat} {b : Buf} (h : bufOf space = some b) (s : State) (g : CoreNo) :
    s.spaceBytes g space = (s.inst g).buf b := by rw [State.spaceBytes, h]

theorem spaceBytes_mem {space : Nat} (h : bufOf space = none) (s : State) (g : CoreNo) : s.spaceBytes g space = s.mem := by
  rw [State.spaceBytes, h]

/-- A copy has replaced no byte of its source, and what it has read ahead of a space is what these bytes hold. -/
def Copy.SeesNow (c : Copy) (space : Nat) (m : Bytes) : Prop :=
  c.kept = [] ∧ ∀ e ∈ c.ahead, e.1.1 = space → e.2 = m.get e.1.2

/-- The copy with an id on core g sees a space as it stands. -/
def State.SeesNow (s : State) (g : CoreNo) (id space : Nat) : Prop :=
  ∃ c, (s.inst g).copy id = some c ∧ c.SeesNow space (s.spaceBytes g space)

/-- Some bytes that a copy has read ahead of a space, with their addresses. -/
def Copy.readsAhead (x : Copy) (space : Nat) (got : List (Nat × Byte)) : Copy :=
  let fresh := fun e : Nat × Byte => (x.ahead.lookup (space, e.1)).isNone && (x.kept.lookup (space, e.1)).isNone
  { x with ahead := x.ahead ++ (got.filter fresh).map fun e => ((space, e.1), e.2) }

@[simp] theorem bufOf_bufCode (b : Buf) : bufOf (bufCode b) = some b := by cases b <;> rfl

section
variable {c : Copy} {space : Nat} {m : Bytes}

theorem Copy.SeesNow.readsAhead (h : c.SeesNow space m) {got : List (Nat × Byte)} (hgot : ∀ e ∈ got, e.2 = m.get e.1) :
    (c.readsAhead space got).SeesNow space m := by
  obtain ⟨hkept, hahead⟩ := h
  refine ⟨hkept, fun e he hspace => ?_⟩
  rcases List.mem_append.1 he with he | he
  · exact hahead e he hspace
  · obtain ⟨x, hx, rfl⟩ := List.mem_map.1 he
    exact hgot x (List.mem_of_mem_filter hx)

/-- A byte that has not been replaced is seen as it stands. -/
theorem Copy.SeesNow.sees (h : c.SeesNow space m) (a : Nat) : c.sees space a (m.get a) = some (m.get a) := by
  obtain ⟨hkept, hahead⟩ := h
  unfold Copy.sees
  cases hl : c.ahead.lookup (space, a) with
  | none => simp [hkept]
  | some v =>
    obtain ⟨l1, l2, hsplit, -⟩ := List.lookup_eq_some_iff.1 hl
    exact congrArg some (hahead ((space, a), v) (by simp [hsplit]) rfl)

theorem Copy.SeesNow.seesAll (h : c.SeesNow space m) (as : List Nat) : c.seesAll space as (as.map m.get) = .ok (as.map m.get) := by
  unfold Copy.seesAll
  have hall : (as.zip (as.map m.get)).map (fun e => c.sees space e.1 e.2) = (as.map m.get).map some := by
    rw [show as.zip (as.map m.get) = as.map fun a => (a, m.get a) by simpa using List.zip_map' (f := fun a => a) (g := m.get) (l := as)]
    simp [h.sees]
  have hnone : ((as.map m.get).map some).findIdx? (fun b => b.isNone) = none := by simp
  split
  · rfl
  · dsimp only
    rw [hall, hnone]
    simp [List.filterMap_map]

end

/-- The copy with an id after a change of that copy. -/
theorem copy_modCopy (i : Inst) (id : Nat) {f : Copy → Copy} (hf : ∀ x, (f x).id = x.id) :
    (i.modCopy id f).copy id = (i.copy id).map f := by
  unfold Inst.copy Inst.modCopy
  rw [List.find?_map]
  have hid : ((fun c : Copy => c.id == id) ∘ fun c => if c.id == id then f c else c) = fun c => c.id == id := by
    funext c
    rw [Function.comp_apply]
    split <;> simp [hf]
  rw [hid]
  cases hc : i.copies.find? fun c => c.id == id with
  | none => rfl
  | some c => simp [show c.id = id by simpa using List.find?_some hc]

section
variable {s : State} {g : CoreNo} {id space : Nat}

theorem State.Untouched.spaceBytes {t : State} (h : State.Untouched g s t) : t.spaceBytes g space = s.spaceBytes g space := by
  unfold State.spaceBytes
  rw [h.mem, h.buf]

theorem State.SeesNow.of_inst {t : State} (h : s.SeesNow g id space) (hu : State.Untouched g s t) (hi : t.inst g = s.inst g) :
    t.SeesNow g id space := by
  unfold State.SeesNow
  rw [hi, hu.spaceBytes]
  exact h

/-- What a copy reads ahead of a space without stored tiles is what stands there. -/
theorem readAhead_eq (c : Copy) (a : Nat) (hplain : ∀ b, bufOf space = some b → (s.inst g).tags b = []) :
    ∃ got : List (Nat × Byte), (∀ e ∈ got, e.2 = (s.spaceBytes g space).get e.1) ∧
      s.readAhead g c space a = if c.readSpace = some space then s.modInst g fun i => i.modCopy c.id fun x => x.readsAhead space got else s := by
  refine ⟨_, fun e he => ?_, rfl⟩
  split at he
  next b hb =>
    rw [spaceBytes_buf hb]
    rw [bufRead_plain (hplain b hb)] at he
    dsimp only [Bytes.read] at he
    rw [List.zip_map'] at he
    obtain ⟨k, hk, rfl⟩ := List.mem_map.1 he
    rfl
  next hb =>
    rw [spaceBytes_mem hb]
    split at he
    next pa _ =>
      split at he
      · cases he
      · obtain ⟨k, hk, rfl⟩ := List.mem_map.1 he
        rfl
    next => cases he

theorem readAhead_seesNow {c : Copy} (h : s.SeesNow g c.id space) (hplain : ∀ b, bufOf space = some b → (s.inst g).tags b = []) (a : Nat) :
    (s.readAhead g c space a).SeesNow g c.id space := by
  obtain ⟨got, hgot, heq⟩ := readAhead_eq c a hplain
  have hbytes := (readAhead_untouched s g c space a).spaceBytes (space := space)
  unfold State.SeesNow
  rw [hbytes, heq]
  split
  · obtain ⟨x, hx, hsees⟩ := h
    refine ⟨x.readsAhead space got, ?_, hsees.readsAhead hgot⟩
    rw [modInst_inst, copy_modCopy (f := fun x => x.readsAhead space got) _ _ fun _ => rfl, hx]
    rfl
  · exact h

theorem readEdges_seesNow {c : Copy} (h : s.SeesNow g c.id space) (hplain : ∀ b, bufOf space = some b → (s.inst g).tags b = [])
    (lo n : Nat) : (s.readEdges g c space lo n).SeesNow g c.id space := by
  unfold State.readEdges
  by_cases hlo : lo % 4 = 0
  · rw [if_pos hlo]
    split
    · exact h
    · exact readAhead_seesNow h hplain _
  · have hfirst := readAhead_seesNow h hplain lo
    rw [if_neg hlo]
    split
    · exact hfirst
    · exact readAhead_seesNow hfirst (fun b hb => by rw [(readAhead_untouched ..).tags]; exact hplain b hb) _

/-- The copy that stands in flight, as a read of it finds it. -/
theorem State.SeesNow.mine {c : Copy} (h : s.SeesNow g c.id space) :
    (s.mine g c).SeesNow space (s.spaceBytes g space) ∧ (s.mine g c).id = c.id := by
  obtain ⟨x, hx, hsees⟩ := h
  rw [State.mine, hx]
  exact ⟨hsees, by simpa using List.find?_some hx⟩

/-- A read of a piece of memory reads the bytes of its physical runs. -/
theorem readPieces_runs {ctx : Nat} {l : List (Nat × Nat)} {bs : List Byte} (h : s.readPieces (some g) ctx l = .ok bs) :
    ∃ rs, s.runs (some g) ctx .read l = .ok rs ∧ bs = (runAddrs rs).map s.mem.get := by
  induction l generalizing bs with
  | nil => exact ⟨[], rfl, (Except.ok.inj h).symm⟩
  | cons e t ih =>
    unfold State.readPieces at h
    split at h
    · cases h
    · next pa hpa =>
      split at h
      · cases h
      · split at h
        · cases h
        · next bs' hrest =>
          obtain ⟨rs, hrs, rfl⟩ := ih hrest
          refine ⟨(pa, e.2) :: rs, by rw [State.runs, hpa, hrs], ?_⟩
          rw [← Except.ok.inj h]
          simp [runAddrs, Bytes.read, List.map_map, Function.comp_def]

/-- A copy that sees memory as it stands reads what a read of the context returns. -/
theorem readFor_ok {c : Copy} {va n : Nat} {r : List Byte} (hc : c.SeesNow 0 s.mem) (h : s.readV (some g) (s.ctxOf g) va n = .ok r) :
    s.readFor g c va n = .ok r := by
  obtain ⟨rs, hrs, rfl⟩ := readPieces_runs h
  unfold State.readFor State.copyRead
  rw [h, hrs]
  simp only [memStop, ok_bind, hc.seesAll]

theorem readAhead_modInst (c : Copy) (a : Nat) : ∃ f, s.readAhead g c space a = s.modInst g f := by
  unfold State.readAhead
  dsimp only
  split
  · exact ⟨_, rfl⟩
  · exact ⟨id, (modInst_of_eq rfl).symm⟩

theorem readEdges_modInst (c : Copy) (lo n : Nat) : ∃ f, s.readEdges g c space lo n = s.modInst g f := by
  unfold State.readEdges
  obtain ⟨f, hf⟩ : ∃ f, (if lo % 4 = 0 then s else s.readAhead g c space lo) = s.modInst g f := by
    split
    · exact ⟨id, (modInst_of_eq rfl).symm⟩
    · exact readAhead_modInst ..
  dsimp only
  rw [hf]
  split
  · exact ⟨f, rfl⟩
  · obtain ⟨k, hk⟩ := readAhead_modInst (s := s.modInst g f) (g := g) (space := space) c (lo + n - 1)
    exact ⟨_, hk.trans (modInst_modInst ..)⟩

/-- A copy that sees memory as it stands reads its source there as a read of the context returns it. -/
theorem sourceBytes_memory {c : Copy} {a n : Nat} {r : List Byte} (hc : s.SeesNow g c.id 0)
    (h : s.readV (some g) (s.ctxOf g) a n = .ok r) (d : Fin 8) : ∃ t, s.sourceBytes g c 0 a n d = .ok (t, r) := by
  have hsees := (readEdges_seesNow hc (fun b hb => nomatch hb) a n).mine.1
  have hread : (s.readEdges g c 0 a n).readV (some g) ((s.readEdges g c 0 a n).ctxOf g) a n = .ok r := by
    obtain ⟨f, hf⟩ := readEdges_modInst (s := s) (g := g) (space := 0) c a n
    rw [hf, modInst_readV, modInst_ctxOf]
    exact h
  exact ⟨_, congrArg (Except.map _) (readFor_ok hsees hread)⟩

/-- A copy that sees a buffer without stored tiles as it stands reads the bytes of its source there, and still sees it so. -/
theorem sourceBytes_buffer {c : Copy} {b : Buf} (hc : s.SeesNow g c.id (bufCode b)) (htags : (s.inst g).tags b = []) (a n : Nat) (d : Fin 8) :
    ∃ t, s.sourceBytes g c (bufCode b) a n d = .ok (t, ((s.inst g).buf b).read a n) ∧ t.SeesNow g c.id (bufCode b) := by
  have hplain : ∀ x, bufOf (bufCode b) = some x → (s.inst g).tags x = [] := fun x hx => by
    rw [bufOf_bufCode] at hx; cases hx; exact htags
  have hsees := readEdges_seesNow hc hplain a n
  have hkeeps := readEdges_untouched s g c (bufCode b) a n
  refine ⟨_, ?_, hsees⟩
  have hbytes := hsees.mine.1
  rw [spaceBytes_buf (bufOf_bufCode b)] at hbytes
  unfold State.sourceBytes State.bufReadFor State.copyBufRead
  rw [bufOf_bufCode]
  dsimp only
  rw [bufRead_plain (by rw [hkeeps.tags]; exact htags), hkeeps.buf] 
  rw [hkeeps.buf] at hbytes
  have hseen := hbytes.seesAll ((List.range n).map (a + ·))
  rw [List.map_map] at hseen
  simp only [bufStop, Except.map, Bytes.read]
  exact congrArg (fun x => Except.ok (_, x)) (congrArg (fun e : Except Nat (List Byte) => e.toOption.getD _) hseen)

/-- A range of whole words is read at once. -/
theorem readEdges_aligned (c : Copy) {lo n : Nat} (hlo : lo % 4 = 0) (hn : n % 4 = 0) : s.readEdges g c space lo n = s := by
  unfold State.readEdges
  rw [if_pos hlo, if_pos (by omega)]

end

end Sys2Proof.Machine
end

section
/-! The reads of a copy that has replaced no byte of its source (12 R328, R332, 14 R370). -/

namespace Sys2Proof.Machine

open Host

section
variable {s : State} {g : CoreNo} {c : Copy} {b : Buf}

/-- The w bits at a bit position of a buffer, as a copy reads them. -/
theorem placeGet_buffer {pl : Place} (hpl : pl.buf = some b) (hc : s.SeesNow g c.id (bufCode b)) (htags : (s.inst g).tags b = [])
    {bit : Int} (hbit : 0 ≤ 8 * (pl.origin : Int) + bit) (w : Nat) (d : Fin 8) :
    ∃ t v, s.placeGet g c pl d bit w = .ok (t, v) ∧ t.SeesNow g c.id (bufCode b) ∧
      ∀ j, v.testBit j = (decide (j < w) && bitOf ((s.inst g).buf b) ((8 * (pl.origin : Int) + bit).toNat + j)) := by
  have hr : (bit % 8).toNat < 8 := by omega
  have hfirst : (8 * (pl.origin : Int) + bit).toNat = 8 * ((pl.origin : Int) + bit / 8).toNat + (bit % 8).toNat := by omega
  obtain ⟨t, hread, hsees⟩ := sourceBytes_buffer hc htags ((pl.origin : Int) + bit / 8).toNat (((bit % 8).toNat + w + 7) / 8) d
  refine ⟨t, bitsAt (((s.inst g).buf b).read ((pl.origin : Int) + bit / 8).toNat (((bit % 8).toNat + w + 7) / 8)) (bit % 8).toNat w,
    ?_, hsees, fun j => ?_⟩
  · unfold State.placeGet
    rw [hpl]
    exact congrArg (Except.map _) hread
  · rw [testBit_bitsAt _ _ _ _ hr, getLsbD_read, hfirst, Nat.add_assoc (8 * _)]
    by_cases hj : j < w
    · simp only [hj, decide_true, Bool.true_and, show (bit % 8).toNat + j < 8 * (((bit % 8).toNat + w + 7) / 8) by omega]
    · simp [hj]

/-- The parts of a buffer, as a copy reads them one after another. -/
theorem readParts_buffer {pl : Place} (hpl : pl.buf = some b) (hc : s.SeesNow g c.id (bufCode b)) (htags : (s.inst g).tags b = [])
    (l : List (Int × Nat)) (hl : ∀ e ∈ l, 0 ≤ 8 * (pl.origin : Int) + e.1) (d : Fin 8) :
    ∃ t vs, s.readParts g c pl d l = .ok (t, vs) ∧ vs.length = l.length ∧ ∀ k e, l[k]? = some e → ∀ j,
      (vs.getD k 0).testBit j = (decide (j < e.2) && bitOf ((s.inst g).buf b) ((8 * (pl.origin : Int) + e.1).toNat + j)) := by
  induction l generalizing s c with
  | nil => exact ⟨s, [], rfl, rfl, fun k e h => nomatch h⟩
  | cons e l ih =>
    obtain ⟨t, v, hget, hsees, hv⟩ := placeGet_buffer hpl hc htags (hl e (List.mem_cons_self ..)) e.2 d
    have hkeeps := placeGet_untouched s g c pl d e.1 e.2 _ hget
    have hmine : (t.mine g c).id = c.id := hsees.mine.2
    obtain ⟨u, vs, hrest, hlen, hvs⟩ := ih (s := t) (c := t.mine g c) (by rw [hmine]; exact hsees) (by rw [hkeeps.tags]; exact htags)
      fun x hx => hl x (List.mem_cons_of_mem _ hx)
    refine ⟨u, v :: vs, ?_, congrArg (· + 1) hlen, fun k x hk j => ?_⟩
    · rw [State.readParts, hget, ok_bind, hrest, ok_bind]
    · cases k with
      | zero =>
        obtain rfl : e = x := by simpa using hk
        exact hv j
      | succ k => rw [← hkeeps.buf]; exact hvs k x hk j

/-- A copy that has written nothing and read nothing ahead sees every space as it stands. -/
theorem State.SeesNow.start (hcopy : (s.inst g).copy c.id = some c) (hahead : c.ahead = []) (hkept : c.kept = []) (space : Nat) :
    s.SeesNow g c.id space :=
  ⟨c, hcopy, hkept, by simp [hahead]⟩

/-- A copy that has written nothing and read nothing ahead reads a range of a buffer as a read of it returns: of a buffer without stored
tiles, or whole words. -/
theorem sourceBytes_bufRead (hcopy : (s.inst g).copy c.id = some c) (hahead : c.ahead = []) (hkept : c.kept = []) {a n : Nat} {r : List Byte}
    (hread : (s.inst g).bufRead b a n = .ok r) (hform : (s.inst g).tags b = [] ∨ a % 4 = 0 ∧ n % 4 = 0) (d : Fin 8) :
    ∃ t, s.sourceBytes g c (bufCode b) a n d = .ok (t, r) := by
  rcases hform with htags | ⟨ha, hn⟩
  · obtain ⟨t, ht, -⟩ := sourceBytes_buffer (.start hcopy hahead hkept _) htags a n d
    rw [bufRead_plain htags] at hread
    exact ⟨t, by rw [ht, Except.ok.inj hread]⟩
  · refine ⟨s, ?_⟩
    have hmine : s.mine g c = c := by rw [State.mine, hcopy]; rfl
    have hall : ∀ as, c.seesAll (bufCode b) as r = .ok r := fun as => if_pos (by simp [hahead, hkept])
    unfold State.sourceBytes State.bufReadFor State.copyBufRead
    rw [readEdges_aligned c ha hn, bufOf_bufCode]
    dsimp only
    rw [hread, hmine]
    simp only [bufStop, Except.map, hall]
    rfl

/-- What a copy that has written nothing and read nothing ahead reads of its source. -/
theorem copy_reads (hahead : c.ahead = []) (hkept : c.kept = []) (hcopy : (s.inst g).copy c.id = some c) :
    (∀ a n d r, s.readV (some g) (s.ctxOf g) a n = .ok r → ∃ t, s.sourceBytes g c 0 a n d = .ok (t, r) ∧ t.mem = s.mem) ∧
    (∀ b a n d r, (s.inst g).bufRead b a n = .ok r → (s.inst g).tags b = [] ∨ a % 4 = 0 ∧ n % 4 = 0 →
      ∃ t, s.sourceBytes g c (bufCode b) a n d = .ok (t, r) ∧ t.mem = s.mem) := by
  refine ⟨fun a n d r h => ?_, fun b a n d r h hform => ?_⟩
  · obtain ⟨t, ht⟩ := sourceBytes_memory (.start hcopy hahead hkept 0) h d
    exact ⟨t, ht, (sourceBytes_untouched _ _ _ _ _ _ _ _ ht).mem⟩
  · obtain ⟨t, ht⟩ := sourceBytes_bufRead hcopy hahead hkept h hform d
    exact ⟨t, ht, (sourceBytes_untouched _ _ _ _ _ _ _ _ ht).mem⟩

end

end Sys2Proof.Machine
end

section
/-! What a unit of a copy that lands counts (12 R337, R338, 18 R474). -/

namespace Sys2Proof.Machine

open Host

/-- An arrival counter after pieces of at most 256 of n bytes have been counted. -/
def Arrival.afterPieces (a : Arrival) (n k : Nat) : Arrival :=
  ⟨BitVec.ofInt 32 (a.value.toInt - Nat.min n (256 * k)),
    a.overrun || (List.range k).any fun j => decide ((BitVec.ofInt 32 (a.value.toInt - Nat.min n (256 * (j + 1)))).toInt < 0)⟩

theorem Arrival.piece_afterPieces (a : Arrival) (n k : Nat) :
    (a.afterPieces n k).piece (Nat.min 256 (n - 256 * k)) = a.afterPieces n (k + 1) := by
  have hvalue : BitVec.ofInt 32 (a.value.toInt - Nat.min n (256 * k)) - BitVec.ofNat 32 (Nat.min 256 (n - 256 * k)) =
      BitVec.ofInt 32 (a.value.toInt - Nat.min n (256 * (k + 1))) := by
    rw [← BitVec.ofInt_natCast, BitVec.sub_eq_add_neg, ← BitVec.ofInt_neg, ← BitVec.ofInt_add]
    congr 1
    simp only [Nat.min_def]
    split <;> split <;> split <;> omega
  unfold Arrival.piece Arrival.afterPieces
  dsimp only
  rw [hvalue, List.range_succ, List.any_append, Bool.or_assoc]
  simp [BitVec.slt]

/-- The bytes of a unit are counted in pieces. -/
theorem Arrival.count_eq (a : Arrival) (n : Nat) : a.count n = a.afterPieces n ((n + 255) / 256) := by
  have hpieces : ∀ k, (List.range k).foldl (fun a k => a.piece (Nat.min 256 (n - 256 * k))) a = a.afterPieces n k := by
    intro k
    induction k with
    | zero => simp [Arrival.afterPieces]
    | succ k ih => rw [List.range_succ, List.foldl_append, ih]; exact a.piece_afterPieces n k
  exact hpieces _

section
variable (i : Inst) (c : Copy) (u n : Nat)

theorem countPiece_eq : ∃ a, i.countPiece c n = { i with a := a } := by
  unfold Inst.countPiece
  split
  · exact ⟨_, rfl⟩
  · exact ⟨i.a, rfl⟩

theorem countPiece_counted {a : AReg} (hsrc : c.src ≠ .q3) (ha : counterOf c.instr = some a) :
    (i.countPiece c n).a = i.a.set a (i.a[a].count n) := by
  rw [Inst.countPiece, if_neg hsrc, ha]

theorem countPiece_other {a : AReg} (h : c.src = .q3 ∨ counterOf c.instr ≠ some a) : (i.countPiece c n).a[a] = i.a[a] := by
  unfold Inst.countPiece
  split
  · next x hx =>
    split at hx
    · cases hx
    · next hsrc =>
      have hne : x ≠ a := fun e => h.elim hsrc fun h => h (e ▸ hx)
      simp [Fin.val_ne_of_ne hne]
  · rfl

theorem landSlot_eq : ∃ ringsW ringsA, i.landSlot c = { i with ringsW := ringsW, ringsA := ringsA } := by
  unfold Inst.landSlot
  split
  · next r _ => cases hb : r.buf <;> exact ⟨_, _, rfl⟩
  · exact ⟨i.ringsW, i.ringsA, rfl⟩

theorem allLanded_eq : ∃ mdq ringsW ringsA, i.allLanded c = { i with mdq := mdq, ringsW := ringsW, ringsA := ringsA } := by
  obtain ⟨ringsW, ringsA, hslot⟩ := landSlot_eq i c
  unfold Inst.allLanded
  rw [hslot]
  split
  · exact ⟨_, _, _, rfl⟩
  · exact ⟨i.mdq, _, _, rfl⟩

/-- A unit that lands changes the counter, the copies, the data and the rings' slots. -/
theorem unitLanded_eq : ∃ copies mdq ringsW ringsA,
    i.unitLanded c u n = { i with a := (i.countPiece c n).a, copies := copies, mdq := mdq, ringsW := ringsW, ringsA := ringsA } := by
  obtain ⟨a, ha⟩ := countPiece_eq i c n
  unfold Inst.unitLanded
  dsimp only
  rw [ha]
  split
  · generalize hmod : Inst.modCopy _ _ _ = j
    obtain ⟨mdq, ringsW, ringsA, hall⟩ := allLanded_eq j (c.land u)
    rw [hall, ← hmod]
    exact ⟨_, mdq, ringsW, ringsA, rfl⟩
  · exact ⟨_, i.mdq, i.ringsW, i.ringsA, rfl⟩

/-- A unit of a copy that lands counts its bytes into the copy's counter, and changes no other counter, register, tile or buffer. -/
theorem unitLanded_counts :
    let t := i.unitLanded c u n
    (∀ a, c.src ≠ .q3 → counterOf c.instr = some a →
      t.a[a].value = BitVec.ofInt 32 (i.a[a].value.toInt - n) ∧
      t.a[a].overrun = (i.a[a].overrun || (List.range ((n + 255) / 256)).any fun k =>
        decide ((BitVec.ofInt 32 (i.a[a].value.toInt - min n (256 * (k + 1)))).toInt < 0))) ∧
    (∀ a, c.src = .q3 ∨ counterOf c.instr ≠ some a → t.a[a] = i.a[a]) ∧
    t.s = i.s ∧ t.c = i.c ∧ t.z = i.z ∧ t.v = i.v ∧ t.tiles = i.tiles ∧ t.bufW = i.bufW ∧ t.bufA = i.bufA ∧ t.bufC = i.bufC := by
  obtain ⟨copies, mdq, ringsW, ringsA, heq⟩ := unitLanded_eq i c u n
  dsimp only
  rw [heq]
  refine ⟨fun a hsrc ha => ?_, fun a h => countPiece_other i c n h, rfl, rfl, rfl, rfl, rfl, rfl, rfl, rfl⟩
  have hall : Nat.min n (256 * ((n + 255) / 256)) = n := Nat.min_eq_left (by omega)
  dsimp only
  rw [countPiece_counted i c n hsrc ha, Arrival.count_eq]
  simp [Arrival.afterPieces, hall]

end

/-- A unit that lands leaves memory, the buffers and the spill area. -/
theorem unitDone_untouched (s : State) (g : CoreNo) (c : Copy) (u n : Nat) : State.Untouched g s (s.unitDone g c u n) := by
  obtain ⟨copies, mdq, ringsW, ringsA, heq⟩ := unitLanded_eq (s.inst g) c u n
  refine State.BufsBecome.modInst ?_ ?_ ?_
  · rw [heq]; exact funext fun b => by cases b <;> rfl
  · rw [heq]; exact funext fun b => by cases b <;> rfl
  · rw [heq]

/-- A unit whose bytes have moved lands. -/
theorem landUnit_moved {s t : State} {g : CoreNo} {c : Copy} {u : Nat} (h : s.moveUnit g c u = .ok t) :
    ∃ n, s.landUnit g c u = .ok (t.unitDone g c u n) := by
  refine ⟨(s.inst g).unitCount c u, ?_⟩
  unfold State.landUnit
  rw [h]
  unfold State.moveUnit at h
  cases hc : c.instr
  case cprm | sigSt | sigAdd => rw [hc] at h; cases h
  all_goals rfl

end Sys2Proof.Machine
end

section
/-! Where a copy puts bytes: into a buffer without stored tiles, and into memory (12 R328, 14 R373, 15 R409). -/

namespace Sys2Proof.Machine

open Host

/-- From s to t buffer b has become m, and nothing else has changed of memory, the spill area, the buffers and their tags. -/
abbrev State.BufBecomes (g : CoreNo) (b : Buf) (m : Bytes) (s t : State) : Prop :=
  State.BufsBecome g (Function.update (s.inst g).buf b m) s t

section
variable {s t u : State} {g : CoreNo} {c : Copy} {b : Buf} {m : Bytes}

theorem State.BufBecomes.after (h : State.Untouched g s t) (k : State.BufBecomes g b m t u) : State.BufBecomes g b m s u := by
  have hbufs := State.BufsBecome.trans h k
  rw [h.buf] at hbufs
  exact hbufs

/-- A buffer changed twice. -/
theorem State.BufBecomes.again {m' : Bytes} (h : State.BufBecomes g b m' s t) (k : State.BufBecomes g b m t u) : State.BufBecomes g b m s u := by
  have hbufs := State.BufsBecome.trans h k
  rw [h.buf, Function.update_idem] at hbufs
  exact hbufs

theorem State.BufBecomes.buf_eq (h : State.BufBecomes g b m s t) : (t.inst g).buf b = m := by rw [h.buf, Function.update_self]

theorem State.BufBecomes.onlyBuf (h : State.BufBecomes g b m s t) : s.onlyBuf t g b :=
  ⟨h.mem, h.spill, fun x hx => by rw [h.buf, Function.update_of_ne hx]⟩

/-- The unit of a copy that has changed one buffer lands. -/
theorem State.BufBecomes.lands {n : Nat} (hmove : s.moveUnit g c n = .ok t) (h : State.BufBecomes g b m s t) :
    ∃ t, s.landUnit g c n = .ok t ∧ (t.inst g).buf b = m ∧ s.onlyBuf t g b := by
  obtain ⟨k, hland⟩ := landUnit_moved hmove
  have hdone : State.BufBecomes g b m s (t.unitDone g c n k) := State.BufsBecome.keeps h (unitDone_untouched ..)
  exact ⟨_, hland, hdone.buf_eq, hdone.onlyBuf⟩

theorem setBuf_buf (i : Inst) (b : Buf) (m : Bytes) : (i.setBuf b m).buf = Function.update i.buf b m := by
  funext x
  cases b <;> cases x <;> rfl

theorem setBuf_tags (i : Inst) (b : Buf) (m : Bytes) : (i.setBuf b m).tags = i.tags := by
  funext x
  cases b <;> cases x <;> rfl

theorem setBuf_spill (i : Inst) (b : Buf) (m : Bytes) : (i.setBuf b m).spill = i.spill := by cases b <;> rfl

/-- Bytes written to a buffer without stored tiles. -/
theorem bufWrite_plain {i : Inst} (h : i.tags b = []) (free : Nat → Byte) (off : Nat) (bs : List Byte) :
    i.bufWrite free b off bs = i.setBuf b ((i.buf b).put off bs) := by
  have hkeep : ∀ l : List Nat, l.foldl (fun i u => i.untag free b u) i = i := by
    intro l
    induction l with
    | nil => rfl
    | cons u l ih => rw [List.foldl_cons, Inst.untag, h]; exact ih
  unfold Inst.bufWrite
  rw [hkeep]

/-- A copy's write to a buffer without stored tiles. -/
theorem bufWriteFor_becomes (h : (s.inst g).tags b = []) (c : Copy) (off : Nat) (bs : List Byte) :
    State.BufBecomes g b (((s.inst g).buf b).put off bs) s (s.bufWriteFor g c b off bs) := by
  have hkept := keepBytes_untouched s g c (bufCode b) ((List.range bs.length).map (off + ·))
  refine .after hkept (State.BufsBecome.keeps (State.BufsBecome.modInst ?_ ?_ ?_) (.sink _))
  · rw [bufWrite_plain (by rw [hkept.tags]; exact h), setBuf_buf, hkept.buf]
  · rw [bufWrite_plain (by rw [hkept.tags]; exact h), setBuf_tags]
  · rw [bufWrite_plain (by rw [hkept.tags]; exact h), setBuf_spill]

/-- The unit of a copy that has written to one buffer what it has read lands. -/
theorem bufWriteFor_lands {off n : Nat} {bs : List Byte} (hkeeps : State.Untouched g s t) (htags : (s.inst g).tags b = [])
    (hmove : s.moveUnit g c n = .ok (t.bufWriteFor g c b off bs)) :
    ∃ t, s.landUnit g c n = .ok t ∧ (t.inst g).buf b = ((s.inst g).buf b).put off bs ∧ s.onlyBuf t g b := by
  have hput := State.BufBecomes.after hkeeps (bufWriteFor_becomes (by rw [hkeeps.tags]; exact htags) c off bs)
  rw [hkeeps.buf] at hput
  exact hput.lands hmove

theorem keepBytes_modInst (s : State) (g : CoreNo) (c : Copy) (space : Nat) (as : List Nat) : ∃ f, s.keepBytes g c space as = s.modInst g f := by
  unfold State.keepBytes
  split
  · exact ⟨_, rfl⟩
  · exact ⟨id, (modInst_of_eq rfl).symm⟩

/-- A change of the instance on a core leaves what a write of its context does to memory. -/
theorem writeV_modInst {ctx va : Nat} {bs : List Byte} {v : State} (h : s.writeV (some g) ctx va bs = .ok v) (f : Inst → Inst) :
    ∃ w, (s.modInst g f).writeV (some g) ctx va bs = .ok w ∧ w.mem = v.mem ∧ w.inst g = f (s.inst g) := by
  unfold State.writeV at h ⊢
  rw [modInst_runs]
  split at h
  · cases h
  · exact ⟨_, rfl, by rw [← Except.ok.inj h]; exact writeRuns_mem_congr (modInst_mem ..) .., by simp⟩

/-- A copy's write to memory changes it as a write of its context does, and no buffer. -/
theorem writeFor_writes {va : Nat} {bs : List Byte} {v : State} (h : s.writeV (some g) (s.ctxOf g) va bs = .ok v) (c : Copy) (d : Fin 8) :
    ∃ t, s.writeFor g c va bs d = .ok t ∧ t.mem = v.mem ∧ (t.inst g).buf = (s.inst g).buf := by
  obtain ⟨rs, hrs⟩ : ∃ rs, s.runs (some g) (s.ctxOf g) .write (pieces va bs.length) = .ok rs := by
    unfold State.writeV at h
    split at h
    · cases h
    · exact ⟨_, ‹_›⟩
  have hkept := keepBytes_untouched s g c 0 (runAddrs rs)
  obtain ⟨f, hf⟩ := keepBytes_modInst s g c 0 (runAddrs rs)
  obtain ⟨w, hw, hmem, hinst⟩ := writeV_modInst h f
  have hnote := noteRange_untouched w g va bs.length d true
  refine ⟨(w.noteRange g va bs.length d true).sink g, ?_, ?_, ?_⟩
  · unfold State.writeFor State.copyWrite
    rw [hrs]
    simp only [memStop, ok_bind, hkept.ctx]
    rw [hf, hw]
    rfl
  · rw [sink_mem, hnote.mem, hmem]
  · rw [sink_inst, hnote.buf, hinst, ← hkept.buf, hf, modInst_inst]

end

end Sys2Proof.Machine
end

section
/-! What the units of cp, spill and fill write (12 R328 to R330, 13 R368). -/

namespace Sys2Proof.Machine

open Host

section
variable {s t : State} {g : CoreNo} {c : Copy} {u : Nat} {b : Buf}

/-- The bytes of a unit of a cp from byte `lo` of its destination up, its source's but where its source range overlaps the destination:
there they are open (12 R330; LOG 2). -/
def State.cpLaid (s : State) (c : Copy) (x : CpDst) (off lo : Nat) (r : List Byte) : List Byte :=
  let same := c.readSpace.isSome && c.readSpace == c.cpSpace x
  let lap := fun k : Nat => same && decide (c.q.toNat ≤ k ∧ k < c.q.toNat + c.len)
  r.zipIdx.map fun e => if lap (lo + e.2) then Config.freeByte s.tick (off + e.2) else e.1

@[simp] theorem cpLaid_length (s : State) (c : Copy) (x : CpDst) (off lo : Nat) (r : List Byte) : (s.cpLaid c x off lo r).length = r.length := by
  simp [State.cpLaid]

/-- Where the source range does not overlap the destination, its bytes arrive. -/
theorem cpLaid_apart {x : CpDst} {off lo k : Nat} {r : List Byte} (hk : k < r.length)
    (hapart : c.readSpace = c.cpSpace x → ¬ (c.q.toNat ≤ lo + k ∧ lo + k < c.q.toNat + c.len)) :
    (s.cpLaid c x off lo r).getD k 0 = r.getD k 0 := by
  have hlap : ¬ ((c.readSpace.isSome && c.readSpace == c.cpSpace x) && decide (c.q.toNat ≤ lo + k ∧ lo + k < c.q.toNat + c.len)) = true := by
    simp only [Bool.and_eq_true, beq_iff_eq, decide_eq_true_eq]
    exact fun h => hapart h.1.2 h.2
  rw [List.getD_eq_getElem _ _ ((cpLaid_length ..).symm ▸ hk), List.getD_eq_getElem _ _ hk]
  unfold State.cpLaid
  rw [List.getElem_map, List.getElem_zipIdx, Nat.zero_add]
  exact if_neg hlap

theorem moveCp_delivers {x : CpDst} {y : CpSrc} {d : Fin 8} {db : Nat} {r : List Byte} (hdb : (s.inst g).dstBase c = db)
    (hbytes : s.cpBytes g c y d u ((unitSpan db c.len u).1 - db) (unitSpan db c.len u).2 = .ok (t, r)) :
    s.moveCp g c x y d u = t.cpDeliver g c x d u ((unitSpan db c.len u).1 - db) (unitSpan db c.len u).1
      (s.cpLaid c x ((unitSpan db c.len u).1 - db) (unitSpan db c.len u).1 r) := by
  subst hdb
  unfold State.moveCp
  dsimp only
  rw [hbytes]
  rfl

section
variable {tk : Tok} {p q : CReg} {a : AReg} {x : CpDst} {y : CpSrc} {o : Bool} {z : Fin 8} (hinstr : c.instr = .cp tk p q a x y o z)
include hinstr

theorem moveUnit_cp : s.moveUnit g c u = s.moveCp g c x y z u := by rw [State.moveUnit, hinstr]

theorem dstBase_cp (hve : x ≠ .ve) (hmdq : x ≠ .mdq) (i : Inst) : i.dstBase c = (c.slot.map i.slotBase).getD c.p.toNat := by
  unfold Inst.dstBase
  rw [hinstr]
  cases c.slot with
  | some r => rfl
  | none => exact if_neg (not_or.2 ⟨hmdq, hve⟩)

/-- A cp into a typed buffer or a ring slot delivers to that buffer. -/
theorem cpDeliver_buffer (hmem : x ≠ .mem) (hve : x ≠ .ve) (hmdq : x ≠ .mdq) (hslot : x = .ring ↔ c.slot.isSome = true) {i : Inst}
    (hdst : i.copyDst c = some b) (d : Fin 8) (off lo : Nat) (bs : List Byte) :
    s.cpDeliver g c x d u off lo bs = .ok (s.bufWriteFor g c b lo bs) := by
  unfold Inst.copyDst at hdst
  rw [hinstr] at hdst
  cases x
  case mem => exact absurd rfl hmem
  case ve => exact absurd rfl hve
  case mdq => exact absurd rfl hmdq
  case ring =>
    obtain ⟨r, hr⟩ := Option.isSome_iff_exists.1 (hslot.1 rfl)
    rw [hr] at hdst
    cases hdst
    rw [State.cpDeliver, hr]
  case w | a | c =>
    have hnone : c.slot = none := Option.not_isSome_iff_eq_none.1 fun h => nomatch hslot.2 h
    rw [hnone] at hdst
    cases hdst
    rfl

end

/-- A unit of a spill puts its bytes into the spill area. -/
theorem moveSpill_writes {t : State} {r : List Byte}
    (hread : s.sourceBytes g c (bufCode b) (c.q.toNat + ((unitSpan c.p.toNat c.len u).1 - c.p.toNat)) (unitSpan c.p.toNat c.len u).2 0 = .ok (t, r)) :
    ∃ v, s.moveSpill g c b u = .ok v ∧ (v.inst g).spill = (s.inst g).spill.put (unitSpan c.p.toNat c.len u).1 r ∧ v.mem = s.mem ∧
      (v.inst g).buf = (s.inst g).buf := by
  have hkeeps := sourceBytes_untouched _ _ _ _ _ _ _ _ hread
  refine ⟨_, by unfold State.moveSpill; dsimp only; rw [hread]; rfl, ?_, ?_, ?_⟩
  · rw [sink_inst, modInst_inst]
    exact congrArg (fun m : Bytes => m.put (unitSpan c.p.toNat c.len u).1 r) hkeeps.spill
  · exact hkeeps.mem
  · rw [sink_inst, modInst_inst, ← hkeeps.buf]
    exact funext fun x => by cases x <;> rfl

/-- A unit of a fill whose spill lines are good puts their bytes into its buffer. -/
theorem moveFill_writes {lo : Nat} (hlo : lo = c.p.toNat + ((unitSpan c.q.toNat c.len u).1 - c.q.toNat))
    (hgood : ∀ k < (unitSpan c.q.toNat c.len u).2, (lo + k) / 256 ∉ (s.inst g).spillBad) :
    s.moveFill g c b u = .ok (s.bufWriteFor g c b (unitSpan c.q.toNat c.len u).1
      ((s.inst g).spill.read lo (unitSpan c.q.toNat c.len u).2)) := by
  subst hlo
  have hnone : ((List.range (unitSpan c.q.toNat c.len u).2).find? fun k =>
      (s.inst g).spillBad.contains ((c.p.toNat + ((unitSpan c.q.toNat c.len u).1 - c.q.toNat) + k) / 256)) = none := by
    rw [List.find?_eq_none]
    intro k hk
    simpa using hgood k (List.mem_range.1 hk)
  unfold State.moveFill
  dsimp only
  rw [hnone]

end

end Sys2Proof.Machine
end

section
/-! What the units of cpx into a buffer and of the copies between streams write (12 R331 to R333, R354, 15 R408, R409). -/

namespace Sys2Proof.Machine

open Host

section
variable {s t : State} {g : CoreNo} {c : Copy} {u : Nat} {b : Buf}

/-- A cpx into a typed buffer or a ring slot moves tiles into that buffer. -/
theorem moveUnit_cpx {tk : Tok} {p q : CReg} {a : AReg} {x : CpxDst} {o : Bool} {z : Fin 8} (hinstr : c.instr = .cpx tk p q a x o z)
    (hdst : (s.inst g).copyDst c = some b) :
    s.moveUnit g c u = s.moveTiles g c b ((c.slot.map (s.inst g).slotBase).getD c.p.toNat) z u := by
  unfold Inst.copyDst at hdst
  rw [hinstr] at hdst
  rw [State.moveUnit, hinstr]
  dsimp only
  unfold State.moveCpx
  cases hslot : c.slot with
  | some r =>
    rw [hslot] at hdst
    cases hdst
    rfl
  | none =>
    rw [hslot] at hdst
    rw [show cpxDstBuf x = some b from hdst]
    rfl

section
variable {base : Nat} {d : Fin 8} {h : CHeader} (haligned : base % 256 = 0)
include haligned

/-- A plain tile is written as it is. -/
theorem moveTiles_plain {bs : List Byte} (hread : s.readTile g c c.q.toNat c.len u d = .ok (t, h, .plain bs)) :
    s.moveTiles g c b base d u = .ok (t.bufWriteFor g c b (unitSpan base c.len u).1 bs) := by
  unfold State.moveTiles
  dsimp only
  rw [if_pos haligned, hread]
  rfl

variable {bs : List Byte} {e : Nat} (hread : s.readTile g c c.q.toNat c.len u d = .ok (t, h, .stored bs e))
include hread

/-- A stored tile for the feeder is placed. -/
theorem moveTiles_placed (hexp : h.exp = 3) (hb : b ≠ .c) :
    s.moveTiles g c b base d u = .ok ((t.modInst g fun i => i.placeTile b ((unitSpan base c.len u).1 / 256) bs).sink g) := by
  unfold State.moveTiles
  dsimp only
  rw [if_pos haligned, hread, ok_bind]
  exact if_pos ⟨hexp, hb⟩

/-- Another stored tile is expanded on the way. -/
theorem moveTiles_expanded (hother : h.exp ≠ 3 ∨ b = .c) {full : List Byte} (hfull : expandTile bs = some full) :
    s.moveTiles g c b base d u = .ok (t.bufWriteFor g c b (unitSpan base c.len u).1 full) := by
  unfold State.moveTiles
  dsimp only
  rw [if_pos haligned, hread, ok_bind]
  refine (if_neg fun h => hother.elim (fun k => k h.1) fun k => h.2 k).trans ?_
  rw [hfull]

/-- A stored tile that fails its Content check faults at its entry. -/
theorem moveTiles_bad (hother : h.exp ≠ 3 ∨ b = .c) (hbad : expandTile bs = none) :
    s.moveTiles g c b base d u = .error (.fault .decode (BitVec.ofNat 64 e)) := by
  unfold State.moveTiles
  dsimp only
  rw [if_pos haligned, hread, ok_bind]
  refine (if_neg fun h => hother.elim (fun k => k h.1) fun k => h.2 k).trans ?_
  rw [hbad]
  rfl

end

/-- In a unit aligned to its destination's blocks the first byte begins a block. -/
theorem unitSpan_aligned {base : Nat} (haligned : base % 256 = 0) (len u : Nat) : 256 * ((unitSpan base len u).1 / 256) = (unitSpan base len u).1 := by
  have hfirst : (unitSpan base len u).1 = 256 * (base / 256 + u) := Nat.max_eq_right (by omega)
  omega

theorem setTags_buf (i : Inst) (b : Buf) (l : List (Nat × Nat)) : (i.setTags b l).buf = i.buf := by
  funext x
  cases b <;> cases x <;> rfl

theorem setTags_spill (i : Inst) (b : Buf) (l : List (Nat × Nat)) : (i.setTags b l).spill = i.spill := by cases b <;> rfl

theorem setTags_tags {b : Buf} (hb : b ≠ .c) (i : Inst) (l : List (Nat × Nat)) : (i.setTags b l).tags b = l := by
  cases b
  case c => exact absurd rfl hb
  all_goals rfl

theorem placeTile_buf (i : Inst) (b : Buf) (u : Nat) (l : List Byte) :
    (i.placeTile b u l).buf = Function.update i.buf b ((i.buf b).put (256 * u) (l ++ List.replicate (256 - l.length) 0)) := by
  rw [Inst.placeTile, setTags_buf, setBuf_buf]

theorem placeTile_spill (i : Inst) (b : Buf) (u : Nat) (l : List Byte) : (i.placeTile b u l).spill = i.spill := by
  rw [Inst.placeTile, setTags_spill, setBuf_spill]

theorem placeTile_tags {i : Inst} (hb : b ≠ .c) (h : i.tags b = []) (u : Nat) (l : List Byte) :
    (i.placeTile b u l).tags b = [(u, l.length)] := by
  rw [Inst.placeTile, setTags_tags hb, h]
  rfl

/-- A unit whose stored tile has been placed for the feeder lands. -/
theorem placed_lands {k : Nat} {l : List Byte} (hkeeps : State.Untouched g s t) (hb : b ≠ .c) (htags : (s.inst g).tags b = [])
    (hmove : s.moveUnit g c u = .ok ((t.modInst g fun i => i.placeTile b k l).sink g)) :
    ∃ v, s.landUnit g c u = .ok v ∧ s.onlyBuf v g b ∧ (v.inst g).tags b = [(k, l.length)] ∧
      (v.inst g).buf b = ((s.inst g).buf b).put (256 * k) (l ++ List.replicate (256 - l.length) 0) := by
  obtain ⟨n, hland⟩ := landUnit_moved hmove
  have hdone := unitDone_untouched ((t.modInst g fun i => i.placeTile b k l).sink g) g c u n
  have hbuf : ((((t.modInst g fun i => i.placeTile b k l).sink g).unitDone g c u n).inst g).buf =
      Function.update (s.inst g).buf b (((s.inst g).buf b).put (256 * k) (l ++ List.replicate (256 - l.length) 0)) := by
    rw [hdone.buf, sink_inst, modInst_inst, placeTile_buf, hkeeps.buf]
  refine ⟨_, hland, ⟨hdone.mem.trans hkeeps.mem, ?_, fun x hx => by rw [hbuf, Function.update_of_ne hx]⟩, ?_, by rw [hbuf, Function.update_self]⟩
  · rw [hdone.spill, sink_inst, modInst_inst, placeTile_spill, hkeeps.spill]
  · rw [hdone.tags, sink_inst, modInst_inst, placeTile_tags hb (by rw [hkeeps.tags]; exact htags)]

-- Copies between streams.

/-- w bits put into a buffer without stored tiles. -/
theorem placePut_buffer {pl : Place} (hpl : pl.buf = some b) (htags : (s.inst g).tags b = []) {bit : Int} (hbit : 0 ≤ 8 * (pl.origin : Int) + bit)
    (c : Copy) (d : Fin 8) (w v : Nat) :
    ∃ t m, s.placePut g c pl d bit w v = .ok t ∧ State.BufBecomes g b m s t ∧
      BitsPut ((s.inst g).buf b) m (8 * (pl.origin : Int) + bit).toNat w v := by
  have hr : (bit % 8).toNat < 8 := by omega
  have hfirst : (8 * (pl.origin : Int) + bit).toNat = 8 * ((pl.origin : Int) + bit / 8).toNat + (bit % 8).toNat := by omega
  unfold State.placePut
  rw [hpl, hfirst]
  dsimp only
  split
  next hpart =>
    refine ⟨_, _, ?_, bufWriteFor_becomes htags c _ _, bitsPut_putBits _ _ _ _ _ hr⟩
    rw [State.copyBufRead, bufRead_plain htags]
    rfl
  next hwhole =>
    have hzero : (bit % 8).toNat = 0 ∧ w % 8 = 0 := by
      simp only [Bool.or_eq_true, bne_iff_ne, not_or, not_not] at hwhole
      omega
    refine ⟨_, _, rfl, bufWriteFor_becomes htags .., ?_⟩
    rw [hzero.1, Nat.zero_add]
    exact bitsPut_leBytes _ _ _ _ hzero.2

/-- Parts put one after another into a buffer without stored tiles. -/
theorem writeParts_buffer {pl : Place} (hpl : pl.buf = some b) (htags : (s.inst g).tags b = []) (l : List (Int × Nat × Nat))
    (hl : ∀ e ∈ l, 0 ≤ 8 * (pl.origin : Int) + e.1) (c : Copy) (d : Fin 8) :
    ∃ t m, s.writeParts g c pl d l = .ok t ∧ State.BufBecomes g b m s t ∧ partsStand ((s.inst g).buf b) m pl.origin l := by
  induction l generalizing s c with
  | nil => exact ⟨s, _, rfl, ⟨rfl, rfl, rfl, rfl, (Function.update_eq_self ..).symm⟩, partsStand_nil ..⟩
  | cons e l ih =>
    obtain ⟨t, m, hput, hbuf, hbits⟩ := placePut_buffer hpl htags (hl e (List.mem_cons_self ..)) c d e.2.1 e.2.2
    obtain ⟨v, m', hrest, hbuf', hparts⟩ := ih (s := t) (by rw [hbuf.tags]; exact htags) (fun x hx => hl x (List.mem_cons_of_mem _ hx)) (t.mine g c)
    rw [hbuf.buf_eq] at hparts
    exact ⟨v, m', by rw [State.writeParts, hput, ok_bind, hrest], hbuf.again hbuf', partsStand_cons hbits hparts⟩

/-- Whole bytes put into memory. -/
theorem placePut_bytes {pl : Place} (hpl : pl.buf = none) {bit : Int} {w : Nat} (hr : (bit % 8).toNat = 0) (hw : w % 8 = 0) (v : Nat) {x : State}
    (hwrite : s.writeV (some g) (s.ctxOf g) (BitVec.ofInt 64 ((pl.origin : Int) + bit / 8)).toNat (leBytes (w / 8) (v % 2 ^ w)) = .ok x)
    (c : Copy) (d : Fin 8) : ∃ t, s.placePut g c pl d bit w v = .ok t ∧ t.mem = x.mem := by
  obtain ⟨t, ht, hmem, -⟩ := writeFor_writes hwrite c d
  unfold State.placePut
  rw [hpl, hr]
  dsimp only
  rw [if_neg (by simp [hw]), show (0 + w + 7) / 8 = w / 8 by omega, ht]
  exact ⟨_, rfl, hmem⟩

/-- A range without a poisoned byte has no first one. -/
theorem poisonAt_clean {pa n : Nat} (h : s.poisoned pa n = false) : s.poisonAt pa n = none := by
  unfold State.poisonAt
  rw [List.find?_eq_none]
  intro k hk hbad
  have hlt := List.mem_range.1 hk
  obtain ⟨e, he, hin⟩ := List.any_eq_true.1 hbad
  refine Bool.eq_false_iff.1 h (List.any_eq_true.2 ⟨e, he, ?_⟩)
  simp only [decide_eq_true_eq] at hin ⊢
  omega

/-- A part of a byte put into memory changes its 64-byte sector. -/
theorem placePut_sector {pl : Place} (hpl : pl.buf = none) {bit : Int} {w : Nat} (hpart : (bit % 8).toNat ≠ 0 ∨ ((bit % 8).toNat + w) % 8 ≠ 0)
    (v : Nat) {va pa : Nat} (hva : va = (BitVec.ofInt 64 ((pl.origin : Int) + bit / 8)).toNat)
    (htrans : s.translate (some g) (s.ctxOf g) (va / 64 * 64) .write = .ok pa) (hclean : s.poisoned pa 64 = false) (c : Copy) (d : Fin 8) :
    ∃ t, s.placePut g c pl d bit w v = .ok t ∧ t.mem = s.mem.put pa
      (putBits (((s.mine g c).sectors.lookup (va / 64 * 64)).getD (s.mem.read pa 64)) (8 * (va - va / 64 * 64) + (bit % 8).toNat) w v) := by
  subst hva
  unfold State.placePut
  rw [hpl]
  dsimp only
  rw [if_pos (by simpa using hpart), htrans]
  dsimp only
  rw [poisonAt_clean hclean]
  refine ⟨_, rfl, ?_⟩
  rw [modInst_mem, sink_mem, bare_mem (noteAccess_bare ..), physWrite_mem, (keepBytes_untouched ..).mem]

/-- A unit of a copy between streams puts its parts in order: what it has read of them, or what Larkspur has. -/
theorem moveUnit_parts {dst : Place} (hdst : (s.inst g).placeOf c.zp c.slot = dst) {vs : List Nat} {c1 : Copy}
    (hkind : (∃ tk p q a o, c.instr = .cpn tk p q a o) ∧
          s.readParts g c ((s.inst g).placeOf c.zq none) c.zq.dist ((unitParts dst.origin c.parts u).map fun e => (e.1, e.2.2)) = .ok (t, vs) ∧
          c1 = t.mine g c ∨
        (∃ tk p q a m o, c.instr = .lyt tk p q a m o) ∧ c.started = true ∧ t = s ∧ c1 = c ∧
          vs = (unitParts dst.origin c.parts u).map fun e => (c.input.getD (e.1.toNat / 64) 0).toNat / 2 ^ (e.1.toNat % 64) % 2 ^ e.2.2) :
    s.moveUnit g c u = t.writeParts g c1 dst c.zp.dist (((unitParts dst.origin c.parts u).zip vs).map fun e => (e.1.2.1, e.1.2.2, e.2)) ∧
      State.Untouched g s t := by
  subst hdst
  rcases hkind with ⟨⟨tk, p, q, a, o, hinstr⟩, hread, rfl⟩ | ⟨⟨tk, p, q, a, m, o, hinstr⟩, hstarted, rfl, rfl, rfl⟩
  · refine ⟨?_, readParts_untouched _ _ _ _ _ _ _ hread⟩
    rw [State.moveUnit, hinstr]
    dsimp only
    unfold State.moveCpn
    dsimp only
    rw [hread]
    rfl
  · refine ⟨?_, .refl _⟩
    rw [State.moveUnit, hinstr]
    dsimp only
    unfold State.moveLyt
    rw [hstarted]
    refine (if_neg (by simp)).trans (congrArg _ ?_)
    generalize unitParts _ c1.parts u = l
    rw [List.map_zip_eq_zipWith, List.zipWith_map_right, List.zipWith_self]
    rfl

end

end Sys2Proof.Machine
end

section
/-! Which bytes a unit of a copy writes, and what it counts (12 R328 to R333, R337, R338, R341, R352 to R354, 13 R368, 14 R373, 15 R408,
R409). -/

namespace Sys2Proof.Machine

open Host

section
variable {s : State} {g : CoreNo} {c : Copy} {u : Nat}

/-- The destination of a unit of a cp: memory, a typed buffer or a ring slot. -/
theorem cp_lands {tk : Tok} {p q : CReg} {a : AReg} {x : CpDst} {y : CpSrc} {o : Bool} {z : Fin 8} (hinstr : c.instr = .cp tk p q a x y o z)
    (hve : x ≠ .ve) (hmdq : x ≠ .mdq) {base : Nat} (hbase : (c.slot.map (s.inst g).slotBase).getD c.p.toNat = base) {t : State} {r : List Byte}
    (hbytes : s.cpBytes g c y z u ((unitSpan base c.len u).1 - base) (unitSpan base c.len u).2 = .ok (t, r)) :
    ∃ bs : List Byte, bs.length = r.length ∧
      (∀ k < r.length, (c.readSpace = c.cpSpace x → ¬ (c.q.toNat ≤ (unitSpan base c.len u).1 + k ∧
        (unitSpan base c.len u).1 + k < c.q.toNat + c.len)) → bs.getD k 0 = r.getD k 0) ∧
      (∀ v, x = .mem → c.slot = none → t.writeV (some g) (s.ctxOf g) ((unitSpan base c.len u).1 % 2 ^ 64) bs = .ok v →
        ∃ t, s.landUnit g c u = .ok t ∧ t.mem = v.mem ∧ ∀ b, (t.inst g).buf b = (s.inst g).buf b) ∧
      ∀ b, x ≠ .mem → (x = .ring ↔ c.slot.isSome = true) → (s.inst g).copyDst c = some b → (s.inst g).tags b = [] →
        ∃ t, s.landUnit g c u = .ok t ∧ (t.inst g).buf b = ((s.inst g).buf b).put (unitSpan base c.len u).1 bs ∧ s.onlyBuf t g b := by
  have hkeeps := cpBytes_untouched _ _ _ _ _ _ _ _ _ hbytes
  have hmove := (moveUnit_cp hinstr).trans (moveCp_delivers ((dstBase_cp hinstr hve hmdq _).trans hbase) hbytes)
  refine ⟨s.cpLaid c x ((unitSpan base c.len u).1 - base) (unitSpan base c.len u).1 r, cpLaid_length ..,
    fun k hk hapart => cpLaid_apart hk hapart, fun v hmem _ hwrite => ?_, fun b hmem hslot hdst htags => ?_⟩
  · subst hmem
    rw [← hkeeps.ctx] at hwrite
    obtain ⟨w, hw, hmem, hbuf⟩ := writeFor_writes hwrite c z
    obtain ⟨n, hland⟩ := landUnit_moved (hmove.trans hw)
    have hdone := unitDone_untouched w g c u n
    exact ⟨_, hland, hdone.mem.trans hmem, fun b => by rw [hdone.buf, hbuf, hkeeps.buf]⟩
  · rw [cpDeliver_buffer hinstr hmem hve hmdq hslot hdst] at hmove
    exact bufWriteFor_lands hkeeps htags hmove

/-- A unit of a spill lands in the spill area. -/
theorem spill_lands {tk : Tok} {p q : CReg} {a : AReg} {b : Buf} {o : Bool} (hinstr : c.instr = .spill tk p q a b o) {t : State} {r : List Byte}
    (hread : s.sourceBytes g c (bufCode b) (c.q.toNat + ((unitSpan c.p.toNat c.len u).1 - c.p.toNat)) (unitSpan c.p.toNat c.len u).2 0 = .ok (t, r)) :
    ∃ t, s.landUnit g c u = .ok t ∧ (t.inst g).spill = (s.inst g).spill.put (unitSpan c.p.toNat c.len u).1 r ∧ t.mem = s.mem ∧
      ∀ x, (t.inst g).buf x = (s.inst g).buf x := by
  obtain ⟨v, hv, hspill, hmem, hbuf⟩ := moveSpill_writes hread
  obtain ⟨n, hland⟩ := landUnit_moved ((show s.moveUnit g c u = _ by rw [State.moveUnit, hinstr]).trans hv)
  have hdone := unitDone_untouched v g c u n
  exact ⟨_, hland, hdone.spill.trans hspill, hdone.mem.trans hmem, fun x => by rw [hdone.buf, hbuf]⟩

/-- A unit of a fill lands in its buffer. -/
theorem fill_lands {tk : Tok} {p q : CReg} {a : AReg} {b : Buf} {o : Bool} (hinstr : c.instr = .fill tk p q a b o)
    (htags : (s.inst g).tags b = []) {lo : Nat} (hlo : lo = c.p.toNat + ((unitSpan c.q.toNat c.len u).1 - c.q.toNat))
    (hgood : ∀ k < (unitSpan c.q.toNat c.len u).2, (lo + k) / 256 ∉ (s.inst g).spillBad) :
    ∃ t, s.landUnit g c u = .ok t ∧ (t.inst g).buf b = ((s.inst g).buf b).put (unitSpan c.q.toNat c.len u).1
      ((s.inst g).spill.read lo (unitSpan c.q.toNat c.len u).2) ∧ s.onlyBuf t g b :=
  bufWriteFor_lands (.refl s) htags ((show s.moveUnit g c u = _ by rw [State.moveUnit, hinstr]).trans (moveFill_writes hlo hgood))

/-- A unit of a cpx into a buffer lands as its tile is: plain, placed for the feeder, or expanded. -/
theorem cpx_lands {tk : Tok} {p q : CReg} {a : AReg} {x : CpxDst} {o : Bool} {z : Fin 8} (hinstr : c.instr = .cpx tk p q a x o z) {b : Buf}
    (hdst : (s.inst g).copyDst c = some b) (htags : (s.inst g).tags b = []) {base : Nat}
    (hbase : (c.slot.map (s.inst g).slotBase).getD c.p.toNat = base) (haligned : base % 256 = 0) {t : State} {h : CHeader} {form : TileForm'}
    (hread : s.readTile g c c.q.toNat c.len u z = .ok (t, h, form)) :
    (∀ bs, form = .plain bs → ∃ t, s.landUnit g c u = .ok t ∧ (t.inst g).buf b = ((s.inst g).buf b).put (unitSpan base c.len u).1 bs ∧
      s.onlyBuf t g b) ∧
    ∀ bs e, form = .stored bs e →
      (h.exp = 3 → b ≠ .c → ∃ t, s.landUnit g c u = .ok t ∧ s.onlyBuf t g b ∧ (t.inst g).tags b = [((unitSpan base c.len u).1 / 256, bs.length)] ∧
        (t.inst g).buf b = ((s.inst g).buf b).put (unitSpan base c.len u).1 (bs ++ List.replicate (256 - bs.length) 0)) ∧
      (h.exp ≠ 3 ∨ b = .c →
        (∀ full, expandTile bs = some full → ∃ t, s.landUnit g c u = .ok t ∧
          (t.inst g).buf b = ((s.inst g).buf b).put (unitSpan base c.len u).1 full ∧ s.onlyBuf t g b) ∧
        (expandTile bs = none → s.landUnit g c u = .error (.fault .decode (BitVec.ofNat 64 e)))) := by
  have hkeeps := readTile_untouched _ _ _ _ _ _ _ _ hread
  have hunit : s.moveUnit g c u = s.moveTiles g c b base z u := by rw [moveUnit_cpx hinstr hdst, hbase]
  refine ⟨fun bs hform => ?_, fun bs e hform => ⟨fun hexp hb => ?_, fun hother => ⟨fun full hfull => ?_, fun hbad => ?_⟩⟩⟩ <;> subst hform
  · exact bufWriteFor_lands hkeeps htags (hunit.trans (moveTiles_plain haligned hread))
  · obtain ⟨v, hland, honly, htag, hbuf⟩ := placed_lands hkeeps hb htags (hunit.trans (moveTiles_placed haligned hread hexp hb))
    rw [unitSpan_aligned haligned] at hbuf
    exact ⟨v, hland, honly, htag, hbuf⟩
  · exact bufWriteFor_lands hkeeps htags (hunit.trans (moveTiles_expanded haligned hread hother hfull))
  · rw [State.landUnit, hinstr]
    exact congrArg (Except.map _) (hunit.trans (moveTiles_bad haligned hread hother hbad))

/-- A unit of a copy between streams lands part by part. -/
theorem parts_land {dst : Place} {t : State} {c1 : Copy} {puts : List (Int × Nat × Nat)}
    (hmove : s.moveUnit g c u = t.writeParts g c1 dst c.zp.dist puts) (hkeeps : State.Untouched g s t) :
    (∀ b, dst.buf = some b → (s.inst g).tags b = [] → (∀ e ∈ puts, 0 ≤ 8 * (dst.origin : Int) + e.1) →
      ∃ t, s.landUnit g c u = .ok t ∧ partsStand ((s.inst g).buf b) ((t.inst g).buf b) dst.origin puts ∧ s.onlyBuf t g b) ∧
    (dst.buf = none → ∀ v, t.writeParts g c1 dst c.zp.dist puts = .ok v → ∃ t, s.landUnit g c u = .ok t ∧ t.mem = v.mem) := by
  refine ⟨fun b hb htags hbits => ?_, fun _ v hv => ?_⟩
  · obtain ⟨v, m, hv, hbuf, hstand⟩ := writeParts_buffer hb (by rw [hkeeps.tags]; exact htags) puts hbits c1 c.zp.dist
    obtain ⟨w, hland, hw, honly⟩ := (State.BufBecomes.after hkeeps hbuf).lands (hmove.trans hv)
    rw [hkeeps.buf, ← hw] at hstand
    exact ⟨w, hland, hstand, honly⟩
  · obtain ⟨n, hland⟩ := landUnit_moved (hmove.trans hv)
    exact ⟨_, hland, (unitDone_untouched v g c u n).mem⟩

/-- Where a cp finds the bytes of a unit. -/
theorem cpBytes_from {y : CpSrc} {off sp ad : Nat} (h : c.cpFrom y off = some (sp, ad)) (z : Fin 8) (n : Nat) :
    s.cpBytes g c y z u off n = s.sourceBytes g c sp ad n z := by
  cases y
  case ve => cases h
  all_goals cases h; rfl

end

/-- Settles O44: a unit that lands counts its bytes into its copy's counter alone, and each kind of copy puts the bytes of its source
where its unit stands, as each lemma above says of one kind. -/
theorem arrivalCounting : Obligations.ArrivalCounting := by
  unfold Obligations.ArrivalCounting
  refine ⟨unitLanded_counts, fun g s c u => ?_⟩
  intro i ctx first size base lo n dst src parts
  have hbase : (c.slot.map (s.inst g).slotBase).getD c.p.toNat = base := by
    cases hslot : c.slot <;> simp [base, hslot, i]
  refine ⟨fun hahead hkept hcopy => ?_, fun tk p q a x y o z hinstr hve hmdq => ⟨fun sp ad h => cpBytes_from h z n, fun t r h => ?_⟩,
    fun tk p q a b o t r hinstr => spill_lands hinstr, fun tk p q a b o hinstr htags => fill_lands hinstr htags rfl,
    fun tk p q a x o z b t h form hinstr hdst htags haligned hread => cpx_lands hinstr hdst htags hbase haligned hread,
    fun vs t c1 hkind => ?_, fun d bit w v hmem => ⟨fun hr hw x hx => ?_, fun hpart pa htrans hclean => ?_⟩⟩
  · obtain ⟨hmemory, hbuffer⟩ := copy_reads hahead hkept hcopy
    refine ⟨hmemory, hbuffer, fun b d l hsrc htags hbits => ?_⟩
    exact readParts_buffer hsrc (.start hcopy hahead hkept _) htags l hbits d
  · exact cp_lands hinstr hve hmdq hbase h
  · obtain ⟨hmove, hkeeps⟩ := moveUnit_parts rfl hkind
    exact parts_land hmove hkeeps
  · exact placePut_bytes hmem hr hw v hx c d
  · exact placePut_sector hmem hpart v rfl htrans hclean c d

end Sys2Proof.Machine
end

section
/-! Memory keeps its form (LOG 3): what every step keeps. -/

namespace Sys2Proof.Machine

open Host

/-- Settles O58: a next state keeps the form of memory, as `step_keepsNext` says. -/
theorem stepKeepsMemory : Obligations.StepKeepsMemory := fun s t hwf hstep => (step_keepsNext s t hstep).mem hwf

end Sys2Proof.Machine
end

section
/-! amo and cas (14 R379 to R381). -/

namespace Sys2Proof.Machine

open Host

/-- An atomic access to a mapped address passes its check before the wait (14 R380). -/
theorem atomPre_mapped {s : State} {a : SReg} {w : Bool} {p : Nat}
    (h : s.mapped s.cur.core (s.readS s.cur.core a) (atomBytes w) .both p) : atomPre s a w = .ok () := by
  unfold atomPre
  rw [mapped_scalarAddr h]
  exact ite_self _

/-- Of a number, its n little-endian bytes show what it leaves modulo 2^(8n). -/
theorem leBytes_mod (n v : Nat) : leBytes n (v % 2 ^ (8 * n)) = leBytes n v := by
  induction n generalizing v with
  | zero => rfl
  | succ k ih =>
    have hpow : 2 ^ (8 * (k + 1)) = 256 * 2 ^ (8 * k) := by rw [Nat.mul_succ, Nat.pow_add, Nat.mul_comm]
    rw [leBytes, leBytes, hpow, Nat.mod_mul_right_div_self, ih]
    congr 1
    exact BitVec.eq_of_toNat_eq (by simp)

/-- What an amo leaves in memory and in the caches (14 R379). -/
def State.amoApplied (s : State) (g : CoreNo) (ea : Word) (pa n : Nat) (c : AmoOp) (x : Word) : State :=
  ((s.physWrite pa (leBytes n (atomicNew c n (leNat (s.mem.read pa n)) x.toNat))).noteAccess false g ea.toNat pa n 2 true).sink g

theorem atomApply_eq (s : State) (g : CoreNo) (ea : Word) (pa : Nat) (c : AmoOp) (w : Bool) (x : Word) :
    s.atomApply g ea.toNat pa 2 c w x = (leNat (s.mem.read pa (atomBytes w)), s.amoApplied g ea pa (atomBytes w) c x) := by
  rw [State.atomApply, newValue_eq_atomicNew, State.amoApplied]

/-- amo at a mapped address applies its operation and completes (14 R379, R380). -/
theorem exec_amo_done {s t : State} {d a b : SReg} {o : AmoOrder} {w : Bool} {c : AmoOp} {pa p : Nat} (hready : s.scuReady [a, b] (some d))
    (hmapped : (s.pushLink s.cur.core).mapped s.cur.core (s.readS s.cur.core a) (atomBytes w) .both pa)
    (hbefore : s.mapped s.cur.core (s.readS s.cur.core a) (atomBytes w) .both p)
    (hdone : s.scuDone ((s.pushLink s.cur.core).amoApplied s.cur.core (s.readS s.cur.core a) pa (atomBytes w) c (s.readS s.cur.core b))
      [a, b] (some d) (atomicOld c (atomBytes w) (leNat ((s.pushLink s.cur.core).mem.read pa (atomBytes w)))) = .ok t) :
    exec (.amo d a b o w c) s = .next t := by
  rw [exec_amo, execAmo]
  refine scuRun_done (r := ((s.pushLink s.cur.core).amoApplied s.cur.core (s.readS s.cur.core a) pa (atomBytes w) c (s.readS s.cur.core b),
    atomicOld c (atomBytes w) (leNat ((s.pushLink s.cur.core).mem.read pa (atomBytes w))))) hready (atomPre_mapped hbefore) ?_ hdone
  simp only [List.map_cons, List.getD_cons_zero, List.getD_cons_succ, mapped_scalarAddr hmapped, Except.map, atomApply_eq,
    oldValue_eq_atomicOld (mem_read_lt _ pa _)]

/-- What a cas leaves in memory and in the caches (14 R381). -/
def State.casApplied (s : State) (g : CoreNo) (ea : Word) (pa n : Nat) (expected new : Word) : State :=
  if leNat (s.mem.read pa n) = expected.toNat % 2 ^ (8 * n) then s.amoApplied g ea pa n .swap new
  else s.noteAccess false g ea.toNat pa n 2 false

/-- A swap writes its operand. -/
theorem amoApplied_swap (s : State) (g : CoreNo) (ea : Word) (pa n : Nat) (x : Word) : s.amoApplied g ea pa n .swap x =
    ((s.physWrite pa (leBytes n x.toNat)).noteAccess false g ea.toNat pa n 2 true).sink g := by
  rw [State.amoApplied, show atomicNew .swap n (leNat (s.mem.read pa n)) x.toNat = x.toNat % 2 ^ (8 * n) from rfl, leBytes_mod]

/-- cas on a register, at a mapped address, compares and completes (14 R381). -/
theorem exec_cas_done {s t : State} {d a b : SReg} {o : AmoOrder} {w : Bool} {pa p : Nat} (hd : d.val < 48)
    (hready : s.scuReady [a, b, d] (some d))
    (hmapped : (s.pushLink s.cur.core).mapped s.cur.core (s.readS s.cur.core a) (atomBytes w) .both pa)
    (hbefore : s.mapped s.cur.core (s.readS s.cur.core a) (atomBytes w) .both p)
    (hdone : s.scuDone ((s.pushLink s.cur.core).casApplied s.cur.core (s.readS s.cur.core a) pa (atomBytes w) (s.readS s.cur.core d)
      (s.readS s.cur.core b)) [a, b, d] (some d) (atomicOld .swap (atomBytes w) (leNat ((s.pushLink s.cur.core).mem.read pa (atomBytes w))))
        = .ok t) :
    exec (.cas d a b o w) s = .next t := by
  have hplain : isQueue d = false := decide_eq_false (by omega)
  rw [exec_cas, execCas]
  refine scuRun_done (r := ((s.pushLink s.cur.core).casApplied s.cur.core (s.readS s.cur.core a) pa (atomBytes w) (s.readS s.cur.core d)
    (s.readS s.cur.core b), atomicOld .swap (atomBytes w) (leNat ((s.pushLink s.cur.core).mem.read pa (atomBytes w))))) hready ?_ ?_ hdone
  · rw [hplain, atomPre_mapped hbefore]
    rfl
  · simp only [List.map_cons, List.getD_cons_zero, List.getD_cons_succ, mapped_scalarAddr hmapped, Except.map, atomApply_eq,
      oldValue_eq_atomicOld (mem_read_lt _ pa _), beq_iff_eq, State.casApplied]

/-- cas on a queue traps before anything else but the directions of its operands (14 R381). -/
theorem exec_cas_queue {s : State} {d a b : SReg} {o : AmoOrder} {w : Bool} (hd : 48 ≤ d.val)
    (hops : operandChecks s.cur.core [a, b, d] (some d) = .ok ()) :
    exec (.cas d a b o w) s = .next (s.raise .queueProtocol (BitVec.ofNat 64 d.val)) := by
  have hqueue : isQueue d = true := decide_eq_true hd
  rw [exec_cas, execCas]
  refine scuRun_refused hops ?_
  rw [hqueue]
  rfl

/-- Settles O11: a d that names a register by `exec_cas_done`, one that names a queue by `exec_cas_queue`. -/
theorem compareAndSwap : Obligations.CompareAndSwap := by
  intro d a b o w s t pa g s0 n ea old swapped u
  refine ⟨fun hd hready hmapped hbefore hdone => ?_, fun hd hops => exec_cas_queue hd hops⟩
  obtain ⟨p, hp⟩ := hbefore
  have hold : atomicOld .swap n old = extended (n == 4) n old := by cases w <;> rfl
  have happlied : s0.casApplied g ea pa n (s.readS g d) (s.readS g b) = u := by
    simp only [State.casApplied, amoApplied_swap]
    rfl
  refine exec_cas_done hd hready hmapped hp ?_
  change s.scuDone (s0.casApplied g ea pa n (s.readS g d) (s.readS g b)) [a, b, d] (some d) (atomicOld .swap n old) = .ok t
  rw [hold, happlied]
  exact hdone

end Sys2Proof.Machine
end

section
/-! The application of a window (14 R391): what its updates leave in each doubleword. -/

namespace Sys2Proof.Machine

open Host

/-- A bit of the number that some bytes of a space make. -/
theorem testBit_read (m : Bytes) (a k n : Nat) : (leNat (m.read a k)).testBit n = (decide (n < 8 * k) && bitOf m (8 * a + n)) := by
  rw [testBit_leNat, getLsbD_read]

/-- The k bytes that stand o bytes up in a doubleword. -/
theorem read_within (m : Bytes) (a o k : Nat) (h : o + k ≤ 8) :
    leNat (m.read a 8) / 2 ^ (8 * o) % 2 ^ (8 * k) = leNat (m.read (a + o) k) := by
  refine Nat.eq_of_testBit_eq fun n => ?_
  rw [Nat.testBit_mod_two_pow, Nat.testBit_div_two_pow, testBit_read, testBit_read, show 8 * a + (n + 8 * o) = 8 * (a + o) + n by omega]
  by_cases hn : n < 8 * k
  · simp [hn, show n + 8 * o < 64 by omega]
  · simp [hn]

/-- A doubleword after k of its bytes, o bytes up, have been put. -/
theorem read_put_within (m : Bytes) (a o k v : Nat) (h : o + k ≤ 8) :
    leNat ((m.put (a + o) (leBytes k v)).read a 8) =
      leNat (m.read a 8) - leNat (m.read (a + o) k) * 2 ^ (8 * o) + v % 2 ^ (8 * k) * 2 ^ (8 * o) := by
  refine Nat.eq_of_testBit_eq fun n => ?_
  rw [← read_within m a o k h, testBit_replace, testBit_read, testBit_read, bitOf_put, leBytes_length, getLsbD_leBytes]
  by_cases hin : 8 * o ≤ n ∧ n < 8 * o + 8 * k
  · rw [if_pos hin, if_pos (by omega), show 8 * a + n - 8 * (a + o) = n - 8 * o by omega]
    simp [show n < 64 by omega, show n - 8 * o < 8 * k by omega]
  · rw [if_neg hin, if_neg (by omega)]

/-- Bytes put elsewhere leave a doubleword as it is. -/
theorem read_put_apart (m : Bytes) (a pa : Nat) (bs : List Byte) (h : a + 8 ≤ pa ∨ pa + bs.length ≤ a) :
    (m.put pa bs).read a 8 = m.read a 8 := by
  refine List.map_congr_left fun i hi => get_put_out _ _ _ _ ?_
  have := List.mem_range.1 hi
  omega

/-- The target of an update is a multiple of its width (14 R386). -/
def Update.aligned (u : Update) : Prop := u.pa % atomBytes u.w32 = 0

/-- The memory after an update of a window is applied. -/
theorem applyUpdate_mem (s : State) (ctx : Nat) (u : Update) : (s.applyUpdate ctx u).mem = s.mem.put u.pa
    (leBytes (atomBytes u.w32) (atomicNew u.op (atomBytes u.w32) (leNat (s.mem.read u.pa (atomBytes u.w32))) u.operand.toNat)) := by
  rw [← newValue_eq_atomicNew]
  exact bare_mem (bareTlb_of_bareCaches (accessL2_bare ..))

/-- A doubleword after one update: chained where the target lies in it, as it was elsewhere (14 R391). -/
theorem applyUpdate_dword (s : State) (ctx : Nat) {u : Update} (hu : u.aligned) {a : Nat} (ha : a % 8 = 0) :
    leNat ((s.applyUpdate ctx u).mem.read a 8) =
      if dwordOf u.pa = a then chained (leNat (s.mem.read a 8)) u else leNat (s.mem.read a 8) := by
  have hfits : u.pa % 8 + atomBytes u.w32 ≤ 8 := by
    unfold Update.aligned at hu
    cases hw : u.w32 <;> simp only [hw, atomBytes, if_true, Bool.false_eq_true, if_false] at hu ⊢ <;> omega
  rw [applyUpdate_mem]
  split
  case isTrue hin =>
    have hpa : u.pa = a + u.pa % 8 := by unfold dwordOf at hin; omega
    have hold := read_within s.mem a (u.pa % 8) (atomBytes u.w32) hfits
    have hnew := read_put_within s.mem a (u.pa % 8) (atomBytes u.w32)
      (atomicNew u.op (atomBytes u.w32) (leNat (s.mem.read u.pa (atomBytes u.w32))) u.operand.toNat) hfits
    rw [← hpa] at hold hnew
    rw [hnew, ← hold]
    rfl
  case isFalse hout =>
    rw [read_put_apart]
    rw [leBytes_length]
    unfold dwordOf at hout
    omega

/-- A doubleword after updates of a window have been applied one after another. -/
theorem applyUpdates_dword (ctx : Nat) {l : List Update} (hl : ∀ u ∈ l, u.aligned) {a : Nat} (ha : a % 8 = 0) (s : State) :
    leNat ((l.foldl (fun s u => s.applyUpdate ctx u) s).mem.read a 8) =
      (l.filter fun u => dwordOf u.pa == a).foldl chained (leNat (s.mem.read a 8)) := by
  induction l generalizing s with
  | nil => rfl
  | cons u l ih =>
    obtain ⟨hu, hrest⟩ := List.forall_mem_cons.1 hl
    rw [List.foldl_cons, ih hrest, applyUpdate_dword s ctx hu ha]
    by_cases hin : dwordOf u.pa = a
    · rw [if_pos hin, List.filter_cons_of_pos (by simpa using hin), List.foldl_cons]
    · rw [if_neg hin, List.filter_cons_of_neg (by simpa using hin)]

theorem mem_insertUpdate {okey : Bool} {u v : Update} : ∀ {l : List Update}, v ∈ insertUpdate okey u l → v = u ∨ v ∈ l
  | [], h => .inl (List.mem_singleton.1 h)
  | w :: l, h => by
    unfold insertUpdate at h
    split at h
    · exact List.mem_cons.1 h
    · rcases List.mem_cons.1 h with rfl | h
      · exact .inr (List.mem_cons_self ..)
      · exact (mem_insertUpdate h).imp_right (List.mem_cons_of_mem _)

/-- Sorting adds no update. -/
theorem mem_sortUpdates {okey : Bool} {l : List Update} {u : Update} (h : u ∈ sortUpdates okey l) : u ∈ l := by
  suffices hacc : ∀ acc : List Update, u ∈ l.foldl (fun acc u => insertUpdate okey u acc) acc → u ∈ acc ∨ u ∈ l by
    simpa using hacc [] h
  clear h
  induction l with
  | nil => exact fun acc h => .inl h
  | cons v l ih =>
    intro acc h
    rcases ih _ h with h | h
    · rcases mem_insertUpdate h with rfl | h
      · exact .inr (List.mem_cons_self ..)
      · exact .inl h
    · exact .inr (List.mem_cons_of_mem _ h)

/-- The updates of a window that are applied: in the order of their keys, those of a poisoned doubleword apart (14 R391). -/
def State.appliedUpdates (s : State) (w : Window) : List Update :=
  (sortUpdates w.okey w.updates).filter fun u => !s.poisoned (dwordOf u.pa) 8

/-- Of the updates that are applied, those of one doubleword: none where it is poisoned. -/
theorem appliedUpdates_of_dword (s : State) (w : Window) (a : Nat) : (s.appliedUpdates w).filter (fun u => dwordOf u.pa == a) =
    if s.poisoned a 8 then [] else (sortUpdates w.okey w.updates).filter fun u => dwordOf u.pa == a := by
  unfold State.appliedUpdates
  rw [List.filter_filter]
  split
  case isTrue hbad =>
    refine List.filter_eq_nil_iff.2 fun u _ => ?_
    by_cases hu : dwordOf u.pa = a
    · simp [hu, hbad]
    · simp [hu]
  case isFalse hgood =>
    refine List.filter_congr fun u _ => ?_
    by_cases hu : dwordOf u.pa = a
    · simp [hu, hgood]
    · simp [hu]

/-- A window that applies: the memory it leaves, and that it is Idle (14 R391, Table 14.6). -/
theorem execWindowApply_applies {s : State} {task : Nat} {win : Fin 64} {t : Task} {w : Window} (ht : s.task task = some t)
    (hw : t.window win.val = some w) (happlying : s.applying task w = true) : ∃ t', execWindowApply task win s = .next t' ∧
      (∀ x ∈ t'.tasks, x.id = task → ∀ y ∈ x.windows, y.num ≠ win) ∧
      t'.mem = ((s.appliedUpdates w).foldl (fun s u => s.applyUpdate t.ctx u) s).mem := by
  unfold execWindowApply
  simp only [ht, hw, happlying, Bool.not_true, Bool.false_eq_true, if_false]
  refine ⟨_, rfl, fun x hx hid y hy => ?_, ?_⟩
  · rw [modTask_tasks] at hx
    obtain ⟨z, -, rfl⟩ := List.mem_map.1 hx
    split at hy
    case isTrue => simpa using (List.mem_filter.1 hy).2
    case isFalse hne =>
      rw [if_neg hne] at hid
      exact absurd (beq_iff_eq.2 hid) hne
  · rw [modTask_mem]
    refine foldl_keep (fun x : State => x.mem) _ (fun u j => ?_) _ _
    split <;> rfl

/-- Settles O10: an amo by `exec_amo_done`, and a window by what its updates leave of each doubleword. -/
theorem atomicOperation : Obligations.AtomicOperation := by
  refine ⟨fun d a b o w c s t pa hready => ?_, fun s task win t w ht hw happlying haligned => ?_⟩
  · intro g s0 n ea old hmapped hbefore hdone
    obtain ⟨p, hp⟩ := hbefore
    exact exec_amo_done hready hmapped hp hdone
  · obtain ⟨t', hexec, hidle, hmem⟩ := execWindowApply_applies ht hw happlying
    refine ⟨t', (exec_windowApply ..).trans hexec, hidle, fun a ha => ?_⟩
    have happlied : ∀ u ∈ s.appliedUpdates w, u.aligned := fun u hu => haligned u (mem_sortUpdates (List.mem_filter.1 hu).1)
    rw [hmem, applyUpdates_dword t.ctx happlied ha, appliedUpdates_of_dword]
    split <;> rfl

end Sys2Proof.Machine
end

section
/-! fence, tkw and tks of the SCU in the slot of a branch whose link waits (04 R118, 14 R377; LOG 79). -/

namespace Sys2Proof.Machine

open Host

/-- An SCU word in the slot of a branch whose link cannot be pushed now waits (04 R118; LOG 79). -/
theorem scuRun_link_waits {s : State} {srcs : List SReg} {dst : Option SReg} {f : State → List Word → Res (State × Word)}
    (hops : operandChecks s.cur.core srcs dst = .ok ()) (hlink : s.linkCheck s.cur.core = .error .wait) :
    scuRun s srcs dst (.ok ()) f = .next s := by
  simp only [scuRun, hops, hlink, bind, Except.bind, settle]

/-- A fence waits with the link of its branch, whatever its scope. -/
theorem exec_fence_link_waits {s : State} (hlink : s.linkCheck s.cur.core = .error .wait) (sc : FenceScope) (k : FenceKind) :
    exec (.fence sc k) s = .next s := by
  rw [exec_fence, execFence]
  exact scuRun_link_waits rfl hlink

/-- The instance on core 0 in the slot of a jalr that links into q13, the port to core 1, where no instance of its launch stands any
more (05 R155). -/
def linkToNobody : State := State.reset.modCore 0 fun c =>
  { c with occupant := some ⟨0, 0⟩, inst := { c.inst with slot := some ⟨0, 0, 64, true, some (61, 8), []⟩ } }

/-- Refutes O12, in its clause on a fence that has nothing to wait for: in `linkToNobody` fence.core.ld has no remote command to wait for,
but it stands in the slot of a branch whose link cannot be pushed, and waits with it; the clause says that it retires. -/
theorem not_fenceAndTokens : ¬ Obligations.FenceAndTokens := by
  intro h
  obtain ⟨hfence, -⟩ := h linkToNobody
  have hretires := hfence .core .ld (fun hpod => nomatch hpod.1)
  rw [exec_fence_link_waits (by decide +kernel)] at hretires
  have hslot := congrArg (fun t : State => (t.inst 0).slot.isSome) (Outcome.next.inj hretires)
  exact absurd hslot (by decide +kernel)

end Sys2Proof.Machine
end

section
/-! Traps that nothing handles (16 R422, R426). -/

namespace Sys2Proof.Machine

open Host

/-- The task on a core is killed with a detail: the core is free, and the task is done with an error and holds no window (03 R104). -/
def State.KilledOn (t : State) (g : CoreNo) (task detail : Nat) : Prop :=
  t.cores[g].occupant = none ∧ ∀ x ∈ t.tasks, x.id = task → x.phase = .done 1 detail ∧ x.windows = []

/-- A killed task's windows are abandoned (14 R388). -/
theorem killTask_windows {s : State} {id d : Nat} {x : Task} (hx : x ∈ (s.killTask id d).tasks) (hid : x.id = id) : x.windows = [] := by
  obtain ⟨y, -, rfl⟩ := List.mem_map.1 hx
  by_cases h : y.id = id
  · simp [h]
  · simp [h] at hid

theorem killOn_kills {s : State} {g : CoreNo} {o : Occupant} (ho : s.cores[g].occupant = some o) (d : Nat) :
    (s.killOn g d).KilledOn g o.task d := by
  refine ⟨(killOn_core s g d).1, ?_⟩
  rw [State.killOn, ho]
  exact fun x hx hid => ⟨killTask_phase hx hid, killTask_windows hx hid⟩

/-- A delivery that TVEC does not take, or that finds the handler running, kills (16 R422, R426). -/
theorem deliver_kills {s : State} {g : CoreNo} {p : Pending} (h : (s.inst g).handler = true ∨ (s.inst g).sys.tvec.getLsbD 0 = false) :
    s.deliver g p = s.killOn g p.cause.code := by
  have hno : ((s.inst g).sys.tvec.getLsbD 0 && !(s.inst g).handler) = false := by
    rcases h with h | h
    · rw [h, Bool.not_true, Bool.and_false]
    · rw [h, Bool.false_and]
  exact if_neg (Bool.eq_false_iff.1 hno)

/-- A user cause in the handler, or at a boundary where TVEC is not enabled, kills as it is raised (16 R422, R426). -/
theorem raiseOn_kills {s : State} {g : CoreNo} {p : Pending} (hr : p.route = .user)
    (h : (s.inst g).handler = true ∨
      (s.inst g).boundary = true ∧ (s.inst g).pending = none ∧ (s.inst g).sys.tvec.getLsbD 0 = false) :
    s.raiseOn g p = s.killOn g p.cause.code := by
  unfold State.raiseOn
  by_cases hh : (s.inst g).handler = true
  · simp only [hh, hr, and_self, if_true]
  · obtain ⟨hb, hp, hv⟩ := h.resolve_left hh
    simp only [hh, hp, hb, hr, false_and, and_self, if_true, Bool.false_eq_true, if_false]
    exact deliver_kills (.inr hv)

/-- Settles O16: the trap is raised outside a slot, where it kills, and a delivery kills by `deliver_kills`. -/
theorem unhandledTrapKills : Obligations.UnhandledTrapKills := by
  intro s c v o g i killed ho
  refine ⟨fun hfw _ hslot hr h => ?_, fun p h => ?_⟩
  · have hbare := bareTlb_of_bareCaches (walked_bare s c v)
    have hinst : (s.walked c v).inst s.cur.core = i := bare_inst hbare _
    rw [raise_outside_slot hfw hslot, raiseOn_kills hr (by rw [hinst]; exact h)]
    exact killOn_kills ((bare_occupant hbare g).trans ho) _
  · rw [deliver_kills h]
    exact killOn_kills ho _

end Sys2Proof.Machine
end

section
/-! Stream control of the VE, the ME and the CE (16 R428 to R436, 06 R200, 09 R268, 12 R345). -/

namespace Sys2Proof.Machine

open Host

section
variable {s t : State} {tk : Tok} {f : Res State} {post : State → State}

/-- A word of the VE, ME or CE that closes no segment completes with its effect when its tokens are there. -/
theorem engineRunThen_done (htok : s.tokReady tk = true) (hf : f = .ok t) :
    engineRunThen s tk [] [] false f post = .next (post (s.wordDone t tk)) := by
  rw [engineRunThen_ok hf (by simpa [State.tokReady] using htok) rfl]
  simp [State.wordDone]

/-- A word that closes the open segment of its stream, when nothing broke it (16 R436). -/
theorem engineRunThen_closes (htok : s.tokReady tk = true) (hf : f = .ok t)
    (hseg : (((s.inst s.cur.core).stream s.cur.src.engine).count s.cur.word).mismatch = false) :
    engineRunThen s tk [] [] true f post = .next (post ((s.wordDone t tk).modInst s.cur.core fun i =>
      i.modStream s.cur.src.engine fun x => { x with seg := none })) := by
  rw [engineRunThen_ok hf (by simpa [State.tokReady] using htok) (by rw [hseg]; rfl)]
  simp [State.wordDone]

/-- A word that closes a broken segment raises SEG_MISMATCH (16 R436). -/
theorem engineRunThen_mismatch
    (hseg : (((s.inst s.cur.core).stream s.cur.src.engine).count s.cur.word).mismatch = true) :
    engineRunThen s tk [] [] true (.ok t) post = .next (s.raiseSegment (((s.inst s.cur.core).stream s.cur.src.engine).count s.cur.word)) := by
  simp only [engineRunThen, hseg, Bool.and_self, if_true]

end

section
variable {s t : State} {tk : Tok} {l : Nat} {popped : Res (State × Word)} {v : Word}

/-- The state after a loop word with count v enters its body, or skips it (04 R123, 06 R200). -/
def State.loopEntered (s t : State) (tk : Tok) (l : Nat) (v : Word) : State :=
  let e := s.cur.src.engine
  let st := (s.inst s.cur.core).stream e
  (s.wordDone t tk).modInst s.cur.core fun x => x.modStream e fun y =>
    if v = 0 then { y with pc := s.cur.pc + 4 + 4 * l, loops := st.loops }
    else { y with pc := s.cur.pc + 4, loops := ⟨s.cur.pc + 4, s.cur.pc + 4 * l, v⟩ :: st.loops }

/-- A loop beyond its limits traps ILLEGAL (06 R200). -/
theorem engineLoop_illegal (hok : loopOk s.cur.src.engine ((s.inst s.cur.core).stream s.cur.src.engine) s.cur.pc l = false)
    (imm : Option Nat) : engineLoop s tk l imm popped = .next (s.raise .illegal (s.cur.word.zeroExtend 64)) := by
  simp only [engineLoop, hok, check, Bool.false_eq_true, if_false, bind, Except.bind, Except.map, engineRunThen]

section
variable (hok : loopOk s.cur.src.engine ((s.inst s.cur.core).stream s.cur.src.engine) s.cur.pc l = true)
include hok

/-- A loop within its limits that has its count, immediate or popped, enters its body with it (06 R200). -/
theorem engineLoop_enters (htok : s.tokReady tk = true) {imm : Option Nat}
    (hcount : (imm = none ∧ popped = .ok (t, v)) ∨ ∃ n, imm = some n ∧ t = s ∧ v = BitVec.ofNat 64 n) :
    engineLoop s tk l imm popped = .next (s.loopEntered t tk l v) := by
  have hrun : engineLoop s tk l imm popped = engineRunThen s tk [] [] false (.ok t) fun u => u.modCurStream s.cur fun x =>
      { x with pc := (enterLoop ((s.inst s.cur.core).stream s.cur.src.engine) s.cur.pc l v).1,
               loops := (enterLoop ((s.inst s.cur.core).stream s.cur.src.engine) s.cur.pc l v).2 } := by
    rcases hcount with ⟨rfl, rfl⟩ | ⟨n, rfl, rfl, rfl⟩ <;> simp only [engineLoop, hok, check_true, ok_bind, Except.map]
  rw [hrun, engineRunThen_done htok rfl]
  simp only [State.loopEntered, State.modCurStream, enterLoop]
  split <;> rfl

/-- A loop whose count is not there yet waits (06 R200). -/
theorem engineLoop_waits (hpop : popped = .error .wait) : engineLoop s tk l none popped = .next s := by
  simp only [engineLoop, hok, hpop, check_true, bind, Except.bind, Except.map, engineRunThen, Bool.false_and, Bool.false_eq_true, if_false]

end

/-- An immediate count, which is at least 1, enters the body (02 R56). -/
theorem loopEntered_immediate {n : Fin 8192} (hn : 0 < n.val) : s.loopEntered t tk l (BitVec.ofNat 64 n.val) =
    (s.wordDone t tk).modInst s.cur.core fun x => x.modStream s.cur.src.engine fun y =>
      { y with pc := s.cur.pc + 4,
               loops := ⟨s.cur.pc + 4, s.cur.pc + 4 * l, BitVec.ofNat 64 n.val⟩ :: ((s.inst s.cur.core).stream s.cur.src.engine).loops } := by
  have hne : BitVec.ofNat 64 n.val ≠ 0 := fun h => by
    have hzero : n.val % 2 ^ 64 = 0 := congrArg BitVec.toNat h
    omega
  simp only [State.loopEntered, if_neg hne]

end

/-- The loop words of the three engines: each is the shared loop, with the queue that its popped count comes from. -/
theorem exec_loopWord {i : Instr} {tk : Tok} {l : Fin 1024} {c : Bool} {n : Fin 8192} (s : State)
    (h : i ∈ [Instr.veLoop tk l c n, .meLoop tk l c n, .ceLoop tk l c n]) :
    ∃ popped, exec i s = engineLoop s tk l.val (if c then none else some n.val) popped := by
  simp only [List.mem_cons, List.not_mem_nil, or_false] at h
  rcases h with rfl | rfl | rfl
  · exact ⟨_, exec_veLoop ..⟩
  · exact ⟨_, exec_meLoop ..⟩
  · exact ⟨_, exec_ceLoop ..⟩

section
variable {s : State} {tk : Tok} {l : Fin 1024} (n : Fin 8192)
  (hok : loopOk s.cur.src.engine ((s.inst s.cur.core).stream s.cur.src.engine) s.cur.pc l.val = true)
include hok

/-- The popped count of a VE loop is doubleword 0 of vq2 (06 R200). -/
theorem exec_veLoop_pops (htok : s.tokReady tk = true) (hq : (s.inst s.cur.core).vq[2] ≠ []) : exec (.veLoop tk l true n) s =
    .next (s.loopEntered ((s.modInst s.cur.core fun x => { x with vq := x.vq.set 2 x.vq[2].tail }).sink s.cur.core) tk l.val
      (BitVec.ofInt 64 (baseOf ((s.inst s.cur.core).vq[2].headD zeroLanes)))) := by
  have hready : (s.inst s.cur.core).vReadable 26 = true := by
    change (!(s.inst s.cur.core).vq[2].isEmpty) = true
    simpa using hq
  rw [exec_veLoop, execVeLoop]
  refine engineLoop_enters hok htok (.inl ⟨rfl, ?_⟩)
  rw [hready, need_true, ok_bind, dword0_eq]
  rfl

theorem exec_veLoop_waits (hq : (s.inst s.cur.core).vq[2] = []) : exec (.veLoop tk l true n) s = .next s := by
  have hready : (s.inst s.cur.core).vReadable 26 = false := by
    change (!(s.inst s.cur.core).vq[2].isEmpty) = false
    rw [hq]
    rfl
  rw [exec_veLoop, execVeLoop]
  exact engineLoop_waits hok (by rw [hready]; rfl)

/-- The popped count of an ME loop comes from q8 (09 R268). -/
theorem exec_meLoop_pops (htok : s.tokReady tk = true) {v : Word} {rest : List Word} (hq : (s.inst s.cur.core).qw[8] = v :: rest) :
    exec (.meLoop tk l true n) s =
      .next (s.loopEntered ((s.modInst s.cur.core fun x => { x with qw := x.qw.set 8 rest }).sink s.cur.core) tk l.val v) := by
  have htail : s.modInst s.cur.core (fun x => { x with qw := x.qw.set 8 x.qw[8].tail }) =
      s.modInst s.cur.core fun x => { x with qw := x.qw.set 8 rest } := modInst_congr (by simp only [hq, List.tail_cons])
  rw [exec_meLoop, execMeLoop]
  refine engineLoop_enters hok htok (.inl ⟨rfl, ?_⟩)
  simp only [popQ8, hq, List.isEmpty_cons, Bool.not_false, need_true, ok_bind, htail, List.headD_cons]

theorem exec_meLoop_waits (hq : (s.inst s.cur.core).qw[8] = []) : exec (.meLoop tk l true n) s = .next s := by
  rw [exec_meLoop, execMeLoop]
  exact engineLoop_waits hok (by rw [popQ8, hq]; rfl)

/-- The popped count of a CE loop comes from q10 (12 R345). -/
theorem exec_ceLoop_pops (htok : s.tokReady tk = true) {v : Word} {rest : List Word} (hq : (s.inst s.cur.core).qw[10] = v :: rest) :
    exec (.ceLoop tk l true n) s =
      .next (s.loopEntered ((s.modInst s.cur.core fun x => { x with qw := x.qw.set 10 rest }).sink s.cur.core) tk l.val v) := by
  rw [exec_ceLoop, execCeLoop]
  exact engineLoop_enters hok htok (.inl ⟨rfl, by rw [hq]⟩)

theorem exec_ceLoop_waits (hq : (s.inst s.cur.core).qw[10] = []) : exec (.ceLoop tk l true n) s = .next s := by
  rw [exec_ceLoop, execCeLoop]
  exact engineLoop_waits hok (by rw [hq])

end

/-- Outside the handler a stream that stands just past a safe issues nothing while a request is pending (16 R430). -/
theorem mayIssue_held {j : Inst} (hh : j.handler = false) : (j.ve.held = true → j.mayIssue true .ve = false) ∧
    (j.me.held = true → j.mayIssue true .me = false) ∧ (j.ce.held = true → j.mayIssue true .ce = false) := by
  refine ⟨fun h => ?_, fun h => ?_, fun h => ?_⟩ <;> simp [Inst.mayIssue, h, hh]

/-- end of the three engines closes the segment, and its stream stands at it (16 R434). -/
theorem engineEnd_closes {s : State} {tk : Tok} (htok : s.tokReady tk = true)
    (hseg : (((s.inst s.cur.core).stream s.cur.src.engine).count s.cur.word).mismatch = false) : engineEnd s tk =
    .next (((s.wordDone (s.sink s.cur.core) tk).modInst s.cur.core fun i => i.modStream s.cur.src.engine fun x => { x with seg := none }).modInst
      s.cur.core fun i => i.modStream s.cur.src.engine fun x =>
        { x with ended := true, pc := ((s.inst s.cur.core).stream s.cur.src.engine).pc,
                 loops := ((s.inst s.cur.core).stream s.cur.src.engine).loops }) := by
  rw [engineEnd, engineRunThen_closes htok rfl hseg]
  rfl

/-- end of the three engines over a broken segment (16 R436). -/
theorem engineEnd_mismatch {s : State} (tk : Tok)
    (hseg : (((s.inst s.cur.core).stream s.cur.src.engine).count s.cur.word).mismatch = true) :
    engineEnd s tk = .next (s.raiseSegment (((s.inst s.cur.core).stream s.cur.src.engine).count s.cur.word)) := by
  rw [engineEnd]
  exact engineRunThen_mismatch hseg

section
variable {tk : Tok} {i : Instr}

theorem exec_seg {cnt : BitVec 24} {crc : BitVec 16} (s : State) (h : i ∈ [Instr.veSeg tk cnt crc, .meSeg tk cnt crc, .ceSeg tk cnt crc]) :
    exec i s = engineSeg s tk cnt crc := by
  simp only [List.mem_cons, List.not_mem_nil, or_false] at h
  rcases h with rfl | rfl | rfl
  · exact exec_veSeg ..
  · exact exec_meSeg ..
  · exact exec_ceSeg ..

theorem exec_safe (s : State) (h : i ∈ [Instr.veSafe tk, .meSafe tk, .ceSafe tk]) : exec i s = engineSafe s tk := by
  simp only [List.mem_cons, List.not_mem_nil, or_false] at h
  rcases h with rfl | rfl | rfl
  · exact exec_veSafe ..
  · exact exec_meSafe ..
  · exact exec_ceSafe ..

theorem exec_end (s : State) (h : i ∈ [Instr.veEnd tk, .meEnd tk, .ceEnd tk]) : exec i s = engineEnd s tk := by
  simp only [List.mem_cons, List.not_mem_nil, or_false] at h
  rcases h with rfl | rfl | rfl
  · exact exec_veEnd ..
  · exact exec_meEnd ..
  · exact exec_ceEnd ..

theorem exec_nop (s : State) (h : i ∈ [Instr.meNop tk, .ceNop tk]) : exec i s = engineRun s tk [] [] false (.ok s) := by
  simp only [List.mem_cons, List.not_mem_nil, or_false] at h
  rcases h with rfl | rfl
  · exact exec_meNop ..
  · exact exec_ceNop ..

end

/-- Settles O31: the words by the shared operation that each is, the popped counts by the lemma on each engine's queue. -/
theorem engineStreamControl : Obligations.EngineStreamControl := by
  refine ⟨fun s tk htok => ?words, fun s tk l n => ?popped, fun j => mayIssue_held⟩
  case words =>
    intro g e st change
    refine ⟨fun cnt crc i hi => ?seg, fun i hi => ?safe, fun i hi => ?ends, fun i hi => ?nop, fun l n hn i hi hok => ?loop,
      fun l c n i hi hbad => ?limits⟩
    case seg =>
      rw [exec_seg s hi, engineSeg]
      exact ⟨fun hm => (if_neg (Bool.eq_false_iff.1 hm)).trans (engineRunThen_done htok rfl), fun hm => if_pos hm⟩
    case safe =>
      rw [exec_safe s hi, engineSafe]
      exact engineRunThen_done htok rfl
    case ends =>
      rw [exec_end s hi]
      exact ⟨engineEnd_closes htok, engineEnd_mismatch tk⟩
    case nop =>
      rw [exec_nop s hi, engineRun]
      exact engineRunThen_done htok rfl
    case loop =>
      obtain ⟨popped, hloop⟩ := exec_loopWord s hi
      rw [hloop]
      exact (engineLoop_enters hok htok (.inr ⟨_, rfl, rfl, rfl⟩)).trans (congrArg Outcome.next (loopEntered_immediate hn))
    case limits =>
      obtain ⟨popped, hloop⟩ := exec_loopWord s hi
      rw [hloop]
      exact engineLoop_illegal hbad _
  case popped =>
    intro g j e st enter hok htok
    exact ⟨exec_veLoop_pops n hok htok, exec_veLoop_waits n hok, fun v rest => exec_meLoop_pops n hok htok, exec_meLoop_waits n hok,
      fun v rest => exec_ceLoop_pops n hok htok, exec_ceLoop_waits n hok⟩

end Sys2Proof.Machine
end

section
/-! Command packets (17 R442 to R456). -/

namespace Sys2Proof.Machine

open Host

-- Memory as the command processor reaches it.

theorem cpRead_ok {s : State} {ctx va n : Nat} {bs : List Byte} (h : s.readV none ctx va n = .ok bs) (k : Nat) : s.cpRead k ctx va n = .ok bs := by
  rw [State.cpRead, h]

theorem cpWrite_ok {s t : State} {ctx va : Nat} {bs : List Byte} (h : s.writeV none ctx va bs = .ok t) (k : Nat) :
    s.cpWrite k ctx va bs = .ok t := by
  rw [State.cpWrite, h]

/-- An agent's write of some bytes is one to memory past the L1Ds, and changes of the caches (15 R397). -/
theorem agentWrite_bare (s : State) (ctx pa : Nat) {bs : List Byte} (hbs : bs ≠ []) :
    ∃ p, (s.agentWrite ctx pa bs).bareTlb = State.bareTlb { s.physWrite pa bs with partials := p } := by
  unfold State.agentWrite
  rw [if_neg (by simpa using hbs)]
  refine ⟨_, bareTlb_of_bareCaches (foldl_keep State.bareCaches _ (fun u l => ?_) _ _)⟩
  split <;> simp

theorem agentWrite_mem (s : State) (ctx pa : Nat) {bs : List Byte} (hbs : bs ≠ []) : (s.agentWrite ctx pa bs).mem = s.mem.put pa bs := by
  obtain ⟨p, h⟩ := agentWrite_bare s ctx pa hbs
  exact bare_mem h

/-- Of no bytes, a write is none. -/
theorem agentWrite_empty (s : State) (ctx pa : Nat) : s.agentWrite ctx pa [] = s := rfl

theorem agentWrite_rings (s : State) (ctx pa : Nat) (bs : List Byte) : (s.agentWrite ctx pa bs).rings = s.rings := by
  by_cases hbs : bs = []
  · rw [hbs, agentWrite_empty]
  · obtain ⟨p, h⟩ := agentWrite_bare s ctx pa hbs
    exact (bare_rings h).trans rfl

/-- A write to memory changes no ring. -/
theorem writeV_rings {s t : State} {ctx va : Nat} {bs : List Byte} (h : s.writeV none ctx va bs = .ok t) : t.rings = s.rings := by
  have hruns : ∀ (l : List (Nat × Nat)) (s : State) (bs : List Byte), (s.writeRuns none ctx l bs).rings = s.rings := by
    intro l
    induction l with
    | nil => exact fun s bs => rfl
    | cons r l ih => exact fun s bs => (ih _ _).trans (agentWrite_rings ..)
  unfold State.writeV at h
  split at h
  · cases h
  · cases h
    exact hruns ..

-- The steps of a packet.

section
variable {s t u : State} {h : Pkt}

/-- A packet whose write of RIDX meets no fault completes (17 R442, R446). -/
theorem completePacket_done (hdone : t.packetDone h = .ok u) (s : State) : completePacket s t h.ring h.len = .next u := by
  dsimp only [State.packetDone] at hdone
  cases hw : t.writeV none t.rings[h.ring].ctx (t.rings[h.ring].stateAddr.toNat + 8)
      (leBytes 8 (t.rings[h.ring].ridx + BitVec.ofNat 64 (64 * h.len)).toNat) with
  | error e => rw [hw] at hdone; cases hdone
  | ok v =>
    rw [hw] at hdone
    cases hdone
    simp only [completePacket, cpWrite_ok hw]

/-- A store of a packet that meets no fault goes on with the rest (17 R445). -/
theorem packetStore_done {va : Nat} {bs : List Byte} {r : Fin 256} (hw : s.writeV none s.rings[r].ctx va bs = .ok t)
    (k : State → Outcome State Fault Refusal) : packetStore s r va bs k = k t := by
  simp only [packetStore, cpWrite_ok hw]

/-- The stores of WRITE that meet no fault go on with the rest, and change no ring (17 R445). -/
theorem packetStores_done {r : Fin 256} (k : State → Outcome State Fault Refusal) {ws : List Word} : ∀ {s : State} {va : Nat},
    s.storeWords s.rings[r].ctx va ws = .ok t → packetStores r s va ws k = k t ∧ t.rings = s.rings := by
  induction ws with
  | nil =>
    intro s va hs
    cases hs
    exact ⟨rfl, rfl⟩
  | cons w ws ih =>
    intro s va hs
    cases hw : s.writeV none s.rings[r].ctx va (leBytes 8 w.toNat) with
    | error e => rw [State.storeWords, hw] at hs; cases hs
    | ok v =>
      rw [State.storeWords, hw] at hs
      have hrings := writeV_rings hw
      obtain ⟨hk, hkept⟩ := ih (s := v) (by rw [hrings]; exact hs)
      exact ⟨(packetStore_done hw _).trans hk, hkept.trans hrings⟩

-- Each packet.

theorem exec_signal_done {a v : Word} {w : Bool} (hw : s.writeV none s.rings[h.ring].ctx a.toNat (leBytes (if w then 4 else 8) v.toNat) = .ok t)
    (hdone : t.packetDone h = .ok u) : exec (.signal h a v w) s = .next u :=
  (packetStore_done hw _).trans (completePacket_done hdone t)

theorem exec_write_done {a : Word} {ws : List Word} (hw : s.storeWords s.rings[h.ring].ctx a.toNat ws = .ok t)
    (hdone : t.packetDone h = .ok u) : exec (.write h a ws) s = .next u :=
  (packetStores_done _ hw).1.trans (completePacket_done hdone t)

theorem exec_writeSignal_done {a sa v : Word} {ws : List Word} {r : State} (hw : s.storeWords s.rings[h.ring].ctx a.toNat ws = .ok r)
    (hsignal : r.writeV none s.rings[h.ring].ctx sa.toNat (leBytes 8 v.toNat) = .ok t) (hdone : t.packetDone h = .ok u) :
    exec (.writeSignal h a ws sa v) s = .next u := by
  obtain ⟨hstores, hrings⟩ := packetStores_done
    (fun x => packetStore x h.ring sa.toNat (leBytes 8 v.toNat) fun y => completePacket y y h.ring h.len) hw
  exact hstores.trans ((packetStore_done (by rw [hrings]; exact hsignal) _).trans (completePacket_done hdone t))

theorem exec_mark_done {a : Word} (ha : a ≠ 0)
    (hw : s.writeV none s.rings[h.ring].ctx a.toNat (leBytes 4 (s.rings[h.ring].ridx.toNat / 64)) = .ok t)
    (hdone : t.packetDone h = .ok u) : exec (.mark h a) s = .next u :=
  (if_neg ha).trans ((packetStore_done hw _).trans (completePacket_done hdone t))

theorem exec_mark_none (hdone : s.packetDone h = .ok u) : exec (.mark h 0) s = .next u := completePacket_done hdone s

/-- A condition that a packet reads holds where Table 4.6 says so. -/
theorem condHolds_isSome (c : WCond) (w : Bool) (raw : Nat) (b : Word) : (condHolds c w raw b).isSome = monitorHolds c w raw b.toNat := by
  rw [condHolds_words, wordHolds_eq]
  cases monitorHolds c w raw b.toNat <;> rfl

section
variable {a v : Word} {c : WCond} {w : Bool} {bs : List Byte}

theorem exec_wait_satisfied (hread : s.readV none s.rings[h.ring].ctx a.toNat (if w then 4 else 8) = .ok bs)
    (hc : monitorHolds c w (leNat bs) v.toNat = true) (hdone : s.packetDone h = .ok u) : exec (.wait h a v c w) s = .next u := by
  simp only [exec_wait, execWait, hread, condHolds_isSome, hc, if_true]
  exact completePacket_done hdone s

theorem exec_wait_holds (hread : s.readV none s.rings[h.ring].ctx a.toNat (if w then 4 else 8) = .ok bs)
    (hc : monitorHolds c w (leNat bs) v.toNat = false) :
    exec (.wait h a v c w) s = .next (s.modCmdRing h.ring fun y => { y with waiting := true }) := by
  simp only [exec_wait, execWait, hread, condHolds_isSome, hc, Bool.false_eq_true, if_false]

theorem exec_wait_parks {va : Nat} (hread : s.readV none s.rings[h.ring].ctx a.toNat (if w then 4 else 8) = .error (.pageR, va)) :
    exec (.wait h a v c w) s = .next (s.modCmdRing h.ring fun y => { y with st := .parked, waiting := false }) := by
  simp only [exec_wait, execWait, hread]

end

section
variable {ctx : Nat} {a v : Word}

/-- Whether a core of a context has an access in part performed, over the cores. -/
theorem any_midAccess (s : State) (ctx : Nat) : ((List.finRange 192).any fun g => s.ctxOf g == ctx && (s.inst g).midAccess) = true ↔
    ∃ g, s.ctxOf g = ctx ∧ (s.inst g).midAccess = true := by
  simp

theorem exec_inval_done (hfw : s.rings[h.ring].grant = .firmware) (hidle : ∀ g, s.ctxOf g = ctx → (s.inst g).midAccess = false)
    (hdone : (s.invalidated ctx a.toNat v.toNat).packetDone h = .ok u) : exec (.inval h ctx a v) s = .next u := by
  have hno : ¬ ((List.finRange 192).any fun g => s.ctxOf g == ctx && (s.inst g).midAccess) = true := by
    rw [any_midAccess]
    rintro ⟨g, hg, hmid⟩
    exact absurd hmid (by rw [hidle g hg]; exact Bool.false_ne_true)
  rw [exec_inval, execInval, if_neg (not_not.2 hfw), if_neg hno]
  exact completePacket_done hdone s

theorem exec_inval_waits (hfw : s.rings[h.ring].grant = .firmware) (hmid : ∃ g, s.ctxOf g = ctx ∧ (s.inst g).midAccess = true) :
    exec (.inval h ctx a v) s = .next s := by
  rw [exec_inval, execInval, if_neg (not_not.2 hfw), if_pos ((any_midAccess s ctx).2 hmid)]

theorem exec_inval_stops (huser : s.rings[h.ring].grant ≠ .firmware) : exec (.inval h ctx a v) s = .next (s.ringFault h.ring 0x06) :=
  if_pos huser

end

theorem exec_node_done {a v : Word} {succ : List Word} (hroom : (s.nodes.filter fun n => n.stage == .armed).length < 4096)
    (hdone : let id := (s.nodes.map (·.id)).foldl Nat.max 0 + 1
      ({ s with nodes := s.nodes ++ [⟨id, h.ring, s.rings[h.ring].ctx, a, v, succ, .armed⟩] } : State).packetDone h = .ok u) :
    exec (.node h a v succ) s = .next u :=
  (if_neg (Nat.not_le.2 hroom)).trans (completePacket_done hdone s)

theorem exec_launch_done {a : Word} {n : Nat}
    (haccept : acceptRecords h.ring s.rings[h.ring].ctx a.toNat (n - s.rings[h.ring].accepted) s.rings[h.ring].accepted s = (t, true))
    (hdone : t.packetDone h = .ok u) : exec (.launch h a n) s = .next u := by
  simp only [exec_launch, execLaunch, haccept, if_true]
  exact completePacket_done hdone t

/-- The table of tracked tasks has a place while it holds fewer than 1,024 (17 R452). -/
theorem trackRoom_one (s : State) : s.trackRoom 1 = true ↔ s.tasks.length < 1024 := by
  unfold State.trackRoom
  rw [decide_eq_true_iff]
  omega

/-- The four transforms are one packet, that of `transformPacket`. -/
theorem exec_transform {i : Instr} (hi : transformOf i = some h) (s : State) : exec i s = transformPacket h i s := by
  unfold transformOf at hi
  split at hi <;> cases hi <;> rfl

theorem exec_transform_done {i : Instr} (hi : transformOf i = some h) (hroom : s.tasks.length < 1024)
    (haccept : s.acceptTransform (some h.ring) none s.rings[h.ring].ctx i = some t) (hdone : t.packetDone h = .ok u) : exec i s = .next u := by
  rw [exec_transform hi, transformPacket, (trackRoom_one s).2 hroom]
  simp only [Bool.not_true, Bool.false_eq_true, if_false, haccept]
  exact completePacket_done hdone s

end

/-- Settles O40: each packet by the lemma on it. -/
theorem packets : Obligations.Packets := by
  intro h s t u a v x
  exact ⟨fun w => exec_signal_done, fun ws => exec_write_done, fun ws sa r => exec_writeSignal_done, exec_mark_done, exec_mark_none,
    fun c w bs hread => ⟨exec_wait_satisfied hread, exec_wait_holds hread⟩, fun c w va => exec_wait_parks,
    fun ctx hfw => ⟨exec_inval_done hfw, exec_inval_waits hfw⟩, fun ctx => exec_inval_stops, fun succ hroom => exec_node_done hroom,
    fun n => exec_launch_done, fun i y hi hroom => exec_transform_done hi hroom⟩

end Sys2Proof.Machine
end

section
/-! The mailbox (17 R459, Table 17.10). -/

namespace Sys2Proof.Machine

open Host

/-- What a request of the mailbox leaves with its answer: q5's oldest entry taken, and status and value pushed (17 R459). -/
def State.answered (t : State) (g : CoreNo) (status v : Nat) : Outcome State Fault Refusal :=
  .next ((t.modInst g fun i =>
    { i with qw := i.qw.set 5 i.qw[5].tail, qr := i.qr.set 5 (i.qr[5] ++ [BitVec.ofNat 64 (status * 2 ^ 56 + v % 2 ^ 56)]) }).sink g)

/-- q5's read side has a place for a reply while it holds fewer than four (05 R150). -/
theorem hasRoomRead_reply {s : State} {g : CoreNo} (h : (s.inst g).qr[5].length < 4) : s.hasRoomRead g 5 = true := decide_eq_true h

/-- With a place for the reply, the oldest request is answered (17 R459). -/
theorem answer_answered {s : State} {g : CoreNo} (h : (s.inst g).qr[5].length < 4) (status v : Nat) :
    answer s g status v = s.answered g status v :=
  if_pos (hasRoomRead_reply h)

/-- A request for pre-emption changes no instance (16 R429). -/
theorem ask_inst (s : State) (l : List CoreNo) (r : Request) (g : CoreNo) : (s.ask l r).inst g = s.inst g := by
  refine foldl_keep (fun x : State => x.inst g) _ (fun u k => ?_) l s
  by_cases hk : g = k
  · subst hk
    exact (congrArg Core.inst (modCore_core u g (·.asked r))).trans rfl
  · exact congrArg Core.inst (modCore_other u k g _ hk)

section
variable {s : State} {g : CoreNo} (arg : BitVec 56)

/-- The instances of a request leave together, and their save fits the store (16 R433). -/
def State.saves (s : State) (g : CoreNo) : Prop := s.together g ≠ [] ∧ s.saveFits g = true

theorem not_saves {s : State} {g : CoreNo} : ¬ s.saves g ↔ (s.together g).isEmpty = true ∨ (!s.saveFits g) = true := by
  rw [State.saves, not_and_or, not_not, List.isEmpty_iff, Bool.not_eq_true, Bool.not_eq_true']

theorem exec_checkpoint_refused (hroom : (s.inst g).qr[5].length < 4) (h : ¬ s.saves g) :
    exec (.checkpoint g arg) s = s.answered g 2 0 :=
  (if_pos (not_saves.1 h)).trans (answer_answered hroom 2 0)

theorem exec_checkpoint_asks (h : s.saves g) : exec (.checkpoint g arg) s =
    .next ((((s.modCore g fun c => { c with replyOwed := true }).modInst g fun i => { i with qw := i.qw.set 5 i.qw[5].tail }).sink g).ask
      (s.together g) .checkpoint) :=
  if_neg fun hno => not_saves.2 hno h

theorem exec_yield_refused (hroom : (s.inst g).qr[5].length < 4) (h : ¬ s.saves g) : exec (.yield g arg) s = s.answered g 2 0 :=
  (if_pos ((not_saves.1 h).imp_right .inl)).trans (answer_answered hroom 2 0)

/-- A YIELD whose save fits is firmware's to grant (LOG 23). -/
theorem exec_yield_decided (hroom : (s.inst g).qr[5].length < 4) (h : s.saves g) : exec (.yield g arg) s =
    if Config.policy s.tick 32 then s.answered g 2 0 else (s.ask (s.together g) .yield).answered g 0 0 := by
  have hfits : ¬ ((s.together g).isEmpty = true ∨ (!s.saveFits g) = true) := fun hno => not_saves.2 hno h
  by_cases hp : Config.policy s.tick 32 = true
  · rw [if_pos hp]
    exact (if_pos (.inr (.inr hp))).trans (answer_answered hroom 2 0)
  · rw [if_neg hp]
    have hgrant : ¬ ((s.together g).isEmpty = true ∨ (!s.saveFits g) = true ∨ Config.policy s.tick 32 = true) := fun hno =>
      hp ((or_assoc.2 hno).resolve_left hfits)
    exact (if_neg hgrant).trans ((if_pos (hasRoomRead_reply hroom)).trans (answer_answered (by rw [ask_inst]; exact hroom) 0 0))

end

/-- Settles O41: a request that is only answered by `answer_answered`, CHECKPOINT and YIELD by the lemmas on them. -/
theorem mailbox : Obligations.Mailbox := by
  intro g arg s hroom taken answered fits
  exact ⟨answer_answered hroom 0 _, answer_answered hroom 0 _, answer_answered hroom 0 _, fun code => answer_answered hroom 1 0,
    fun h => ⟨exec_checkpoint_refused arg hroom h, exec_yield_refused arg hroom h⟩,
    fun h => ⟨exec_checkpoint_asks arg h, exec_yield_decided arg hroom h⟩⟩

end Sys2Proof.Machine
end

section
/-! Power: bring-up, the loss of power, D3hot, quotes and updates (19 R475 to R483). -/

namespace Sys2Proof.Machine

open Host

-- The loss of power (19 R477, R482).

/-- The rung that bring-up loads: the larger of the unit's own and the recorded one, within bounds (19 R477). -/
theorem loadRung_val {n : Nat} [NeZero n] (r : Fin n) (k : Nat) : (loadRung r k).val = min (n - 1) (max r.val k) :=
  Nat.mod_eq_of_lt (by have := r.isLt; change min (n - 1) (max r.val k) < n; omega)

/-- What the loss of power leaves of a state: memory reads zero, no instance stands on a core, flash stays, and the rungs are those of
their records (19 R477, R482; LOG 3, LOG 66). -/
def State.LostTo (s t : State) : Prop :=
  t.mem = [] ∧ t.flash.slots = s.flash.slots ∧ t.flash.records = s.flash.records ∧
    (∀ n : Fin 1024, t.channels[n].val = min 2 (max s.channels[n].val (s.flash.at' 2 n.val))) ∧
    ∀ g : CoreNo, t.cores[g].occupant = none ∧ t.cores[g].rung.val = min 4 (max s.cores[g].rung.val (s.flash.at' 0 g.val))

theorem bare_lost (s : State) (p : Power) (step : Nat) : s.LostTo (s.bare p step) := by
  refine ⟨rfl, rfl, rfl, fun n => ?_, fun g => ⟨?_, ?_⟩⟩
  · simp only [State.bare, Fin.getElem_fin, Vector.getElem_ofFn, loadRung_val]
  · simp only [State.bare, Fin.getElem_fin, Vector.getElem_ofFn, Core.boot]
    rfl
  · simp only [State.bare, Fin.getElem_fin, Vector.getElem_ofFn, Core.boot, loadRung_val]

/-- What is lost shows in memory, flash, channels and cores alone. -/
theorem State.LostTo.congr {s t u : State} (h : s.LostTo t) (hmem : u.mem = t.mem) (hslots : u.flash.slots = t.flash.slots)
    (hrecords : u.flash.records = t.flash.records) (hchannels : u.channels = t.channels) (hcores : u.cores = t.cores) : s.LostTo u := by
  unfold State.LostTo
  rw [hmem, hslots, hrecords, hchannels, hcores]
  exact h

-- What the root checks (19 R475, R476).

theorem rooted_iff (f : Flash) : f.rooted = true ↔ ∃ h, f.helper = some h ∧ (Config.rootKeys h).identity = f.certificate := by
  unfold Flash.rooted Flash.keys
  cases f.helper <;> simp

/-- The slot holds an image that the root accepts (19 R476). -/
def Flash.good (f : Flash) (k : Fin 2) : Prop :=
  Config.sha256 f.slots[k].code.body = f.slots[k].code.digest ∧
    Config.quaminSigned f.slots[k].code.digest f.slots[k].code.signature = true ∧ f.floor ≤ f.slots[k].version

theorem accepts_iff (f : Flash) (k : Fin 2) : f.accepts f.slots[k] = true ↔ f.good k := by
  unfold Flash.accepts Flash.good
  rw [Bool.and_eq_true, Bool.and_eq_true, beq_iff_eq, decide_eq_true_iff, and_assoc]

/-- The slot that the root boots is good, and no good one has a higher version (19 R476). -/
theorem pick_some {f : Flash} {k : Fin 2} (h : f.pick = some k) :
    f.good k ∧ ∀ j, f.good j → f.slots[j].version ≤ f.slots[k].version := by
  dsimp only [Flash.pick] at h
  split at h
  case isTrue h0 =>
    cases h
    refine ⟨(accepts_iff f 0).1 h0.1, Fin.forall_fin_two.2 ⟨fun _ => le_rfl, fun h1 => h0.2.resolve_left ?_⟩⟩
    rw [(accepts_iff f 1).2 h1]
    exact Bool.false_ne_true
  case isFalse h0 =>
    split at h
    case isTrue h1 =>
      cases h
      refine ⟨(accepts_iff f 1).1 h1, Fin.forall_fin_two.2 ⟨fun hgood => ?_, fun _ => le_rfl⟩⟩
      exact Nat.le_of_lt (Nat.lt_of_not_le fun hle => h0 ⟨(accepts_iff f 0).2 hgood, .inr hle⟩)
    case isFalse => cases h

/-- Where no slot is good the root boots none (19 R476). -/
theorem pick_none {f : Flash} (h : ∀ k, ¬ f.good k) : f.pick = none := by
  cases hp : f.pick with
  | none => rfl
  | some k => exact absurd (pick_some hp).1 (h k)

-- Bring-up (19 R479).

/-- Of a rising list the first element of a kind is below every other one. -/
theorem find?_le {p : Nat → Bool} {j k : Nat} {l : List Nat} (hl : l.Pairwise (· < ·)) (hj : j ∈ l) (hp : p j = true)
    (hk : l.find? p = some k) : k ≤ j := by
  induction hl with
  | nil => cases hj
  | @cons a l ha _ ih =>
    by_cases hpa : p a = true
    · rw [List.find?_cons_of_pos hpa] at hk
      cases hk
      rcases List.mem_cons.1 hj with rfl | hj
      · exact le_rfl
      · exact Nat.le_of_lt (ha j hj)
    · rw [List.find?_cons_of_neg hpa] at hk
      rcases List.mem_cons.1 hj with rfl | hj
      · exact absurd hp hpa
      · exact ih hj hk

/-- The step at which bring-up fails, if one does (19 R479). -/
def State.failedStep (s : State) : Option Nat := [1, 2, 3, 4, 5, 6, 7].find? s.stepFails

/-- The step that fails is one of the seven, and no later than any other that would (19 R479). -/
theorem failedStep_some {s : State} {k : Nat} (h : s.failedStep = some k) :
    1 ≤ k ∧ k ≤ 7 ∧ s.stepFails k = true ∧ ∀ j, 1 ≤ j → j ≤ 7 → s.stepFails j = true → k ≤ j := by
  have hmem : ∀ j : Nat, j ∈ [1, 2, 3, 4, 5, 6, 7] ↔ 1 ≤ j ∧ j ≤ 7 := fun j => by
    simp only [List.mem_cons, List.not_mem_nil, or_false]
    omega
  obtain ⟨h1, h7⟩ := (hmem k).1 (List.mem_of_find?_eq_some h)
  exact ⟨h1, h7, List.find?_some h, fun j hj1 hj7 hj => find?_le (by decide) ((hmem j).2 ⟨hj1, hj7⟩) hj h⟩

/-- Where no step fails none of the seven would (19 R479). -/
theorem failedStep_none {s : State} (h : s.failedStep = none) {j : Nat} (hj : j ∈ [1, 2, 3, 4, 5, 6, 7]) : s.stepFails j = false :=
  Bool.eq_false_iff.2 (List.find?_eq_none.1 h j hj)

section
variable {s : State}

theorem stepFails_root : s.stepFails 1 = true ↔ ¬ ∃ h, s.flash.helper = some h ∧ (Config.rootKeys h).identity = s.flash.certificate := by
  rw [← rooted_iff, Bool.not_eq_true]
  exact Iff.of_eq (Bool.not_eq_true' _)

theorem stepFails_slot : s.stepFails 2 = true ↔ s.flash.pick = none := Option.isNone_iff_eq_none

theorem stepFails_port : s.stepFails 6 = true ↔ trainPort s.hostEnd = none := Option.isNone_iff_eq_none

/-- The module held in reset at a step of bring-up (19 R479). -/
def State.heldAt (s : State) (k : Nat) : State :=
  { s.bare .held (k - 1) with
    port := if 7 ≤ k then trainPort s.hostEnd else none, faultSignal := false, notices := s.notices ++ [.bringUp k] }

/-- The module after bring-up (19 R479). -/
def State.broughtUp (s : State) : State :=
  { s.bare .d0 7 with
    port := trainPort s.hostEnd, faultSignal := false, flash := { s.flash with running := s.flash.pick.getD s.flash.running },
    notices := s.notices ++ [.ready] }

theorem heldAt_lost (s : State) (k : Nat) : s.LostTo (s.heldAt k) := by
  refine (bare_lost s .held (k - 1)).congr ?_ ?_ ?_ ?_ ?_ <;> simp only [State.heldAt]

theorem broughtUp_lost (s : State) : s.LostTo s.broughtUp := (bare_lost s .d0 7).congr rfl rfl rfl rfl rfl

theorem tripped_lost (s : State) : s.LostTo { s.bare .tripped 0 with faultSignal := true } :=
  (bare_lost s .tripped 0).congr rfl rfl rfl rfl rfl

section
variable (hd0 : s.power ≠ .d0) (hd3 : s.power ≠ .d3hot)
include hd0 hd3

theorem exec_powerOn_held {k : Nat} (hk : s.failedStep = some k) : exec .powerOn s = .next (s.heldAt k) := by
  rw [exec_powerOn, execPowerOn, if_neg (not_or.2 ⟨hd0, hd3⟩)]
  rw [State.failedStep] at hk
  simp only [hk]
  rfl

theorem exec_powerOn_ready (hk : s.failedStep = none) : exec .powerOn s = .next s.broughtUp := by
  rw [exec_powerOn, execPowerOn, if_neg (not_or.2 ⟨hd0, hd3⟩)]
  rw [State.failedStep] at hk
  simp only [hk]
  rfl

end

/-- The image that runs after bring-up is the good one of the higher version (19 R476). -/
theorem broughtUp_running (hk : s.failedStep = none) :
    s.flash.good s.broughtUp.flash.running ∧
      ∀ j, s.flash.good j → s.flash.slots[j].version ≤ s.flash.slots[s.broughtUp.flash.running].version := by
  have hslot : s.flash.pick ≠ none := fun h => by
    have := failedStep_none hk (j := 2) (by decide)
    rw [stepFails_slot.2 h] at this
    cases this
  obtain ⟨k, hpick⟩ := Option.ne_none_iff_exists'.1 hslot
  have hrun : s.broughtUp.flash.running = k := congrArg (Option.getD · s.flash.running) hpick
  subst hrun
  exact pick_some hpick

-- Power states (19 R482).

/-- No work is pending: no instance, no task, and every ring idle or parked (19 R482). -/
theorem idle_rests (h : s.idle = true) : (∀ g : CoreNo, s.cores[g].occupant = none ∧ s.cores[g].shadow = none) ∧ s.tasks = [] ∧
    ∀ r : Fin 256, s.rings[r].st = .idle ∨ s.rings[r].st = .parked := by
  simp only [State.idle, Bool.and_eq_true, List.all_eq_true, List.isEmpty_iff] at h
  obtain ⟨⟨⟨⟨⟨⟨hcores, htasks⟩, hrings⟩, -⟩, -⟩, -⟩, -⟩ := h
  refine ⟨fun g => ?_, htasks, fun r => ?_⟩
  · have hempty := hcores s.cores[g] (Vector.mem_toList_iff.2 (Vector.getElem_mem _))
    simp only [Core.empty, Bool.and_eq_true, Option.isNone_iff_eq_none] at hempty
    exact hempty.1
  · have hdone := hrings s.rings[r] (Vector.mem_toList_iff.2 (Vector.getElem_mem _))
    simp only [State.ringDone, Bool.or_eq_true, Bool.and_eq_true, beq_iff_eq] at hdone
    exact (hdone.imp_right And.left).symm

theorem exec_d3hotEntry_idle (hp : s.power = .d0) (hb : s.bringUp = 7) (hidle : s.idle = true) :
    ∃ t, exec .d3hotEntry s = .next t ∧ t.power = .d3hot ∧ t.mem = s.mem ∧ t.l1 = [] ∧ t.l2 = [] := by
  have hmem : s.flushAll.mem = s.mem := bare_mem (bareTlb_of_bareCaches (flushAll_bare s))
  refine ⟨{ s.flushAll with power := .d3hot }, ?_, rfl, ?_, ?_, ?_⟩
  · rw [exec_d3hotEntry, execD3hotEntry, if_pos ⟨hp, hb.ge, hidle⟩]
  · simp only [hmem]
  · simp only [State.flushAll]
  · simp only [State.flushAll]

theorem exec_d3hotEntry_busy (hidle : s.idle = false) : exec .d3hotEntry s = .next s := by
  rw [exec_d3hotEntry, execD3hotEntry, if_neg fun h => Bool.eq_false_iff.1 hidle h.2.2]

end

/-- Settles O48: bring-up by its first step that fails, the loss of power by `bare_lost`, and the others by the lemmas on them. -/
theorem powerSteps : Obligations.PowerSteps := by
  intro s f lost good rooted
  have hlost : ∀ t, s.LostTo t → lost t := fun t ht => ht
  refine ⟨fun hd0 hd3 => ?powerOn, fun hp => ?trip, ⟨_, rfl, hlost _ (bare_lost ..), rfl⟩, fun w => rfl,
    fun hp hb => ⟨fun hidle => ?d3hot, exec_d3hotEntry_busy⟩,
    fun hp => congrArg Outcome.next (if_pos hp), fun hp => ⟨fun nonce => ?quote, fun v code => congrArg Outcome.next (if_pos hp)⟩⟩
  case powerOn =>
    cases hk : s.failedStep with
    | some k =>
      obtain ⟨h1, h7, hfails, hfirst⟩ := failedStep_some hk
      refine ⟨_, exec_powerOn_held hd0 hd3 hk, hlost _ (heldAt_lost s k), rfl, .inr ⟨rfl, ?_, ?_⟩,
        fun h => ⟨rfl, ?_⟩, fun hroot hbad => ⟨rfl, ?_⟩, fun hport => ⟨rfl, ?_⟩⟩
      · change k - 1 < 7
        omega
      · change s.notices ++ [.bringUp k] = s.notices ++ [.bringUp (k - 1 + 1)]
        rw [Nat.sub_add_cancel h1]
      · have := hfirst 1 le_rfl (by decide) (stepFails_root.2 h)
        change k - 1 = 0
        omega
      · have := hfirst 2 (by decide) (by decide) (stepFails_slot.2 (pick_none hbad))
        have hne : k ≠ 1 := fun h => stepFails_root.1 (h ▸ hfails) hroot
        change k - 1 = 1
        omega
      · have := hfirst 6 (by decide) (by decide) (stepFails_port.2 hport)
        change k - 1 ≤ 5
        omega
    | none =>
      have hroot : rooted := not_not.1 fun h => Bool.eq_false_iff.1 (failedStep_none hk (by decide)) (stepFails_root.2 h)
      have hport : trainPort s.hostEnd ≠ none := fun h => Bool.eq_false_iff.1 (failedStep_none hk (by decide)) (stepFails_port.2 h)
      obtain ⟨hgood, hhigher⟩ := broughtUp_running hk
      exact ⟨_, exec_powerOn_ready hd0 hd3 hk, hlost _ (broughtUp_lost s), rfl, .inl ⟨rfl, rfl, hroot, hgood, hhigher, rfl, hport, rfl⟩,
        fun h => absurd hroot h, fun _ hbad => absurd hgood (hbad _), fun h => absurd h hport⟩
  case trip => exact ⟨_, congrArg Outcome.next (if_neg hp), hlost _ (tripped_lost s), rfl, rfl⟩
  case d3hot =>
    obtain ⟨hcores, htasks, hrings⟩ := idle_rests hidle
    exact ⟨hcores, htasks, hrings, exec_d3hotEntry_idle hp hb hidle⟩
  case quote => exact ⟨_, _, _, _, _, _, _, congrArg Outcome.next (if_pos hp)⟩

end Sys2Proof.Machine
end

section
/-! Rings, tasks and nodes (15 R399, 17 R439 to R457). -/

namespace Sys2Proof.Machine

open Host

-- Firmware's tables and the states of rings (16 R412, 17 R439, R446 to R449).

section
variable {s : State} {r : Fin 256}

/-- A descriptor that firmware may write is written, and its ring is IDLE at its RIDX (17 R439, LOG 94). -/
theorem setRing_written {grant : Grant} {base stateAddr : Word} {logSize slice : Nat} {bs : List Byte} (hslot : s.rings[r].st ≠ .active)
    (howner : r.val < 8 → grant = .firmware) (hsize : 12 ≤ logSize ∧ logSize ≤ 24) (hbase : base.toNat % 2 ^ logSize = 0)
    (haddr : stateAddr.toNat % 64 = 0) (hup : s.bringUp = 7)
    (hread : s.readV none (CmdRing.ctx ⟨grant, base, logSize, stateAddr, slice, .idle, BitVec.ofNat 64 (leNat bs), 0, false, false⟩)
      (stateAddr.toNat + 8) 8 = .ok bs) :
    s.setRing r grant base logSize stateAddr slice =
      { s with rings := s.rings.set r ⟨grant, base, logSize, stateAddr, slice, .idle, BitVec.ofNat 64 (leNat bs), 0, false, false⟩ } := by
  have hown : (if r.val < 8 then decide (grant = .firmware) else true) = true := by
    split
    · exact decide_eq_true (howner ‹_›)
    · rfl
  have hok : decide (12 ≤ logSize ∧ logSize ≤ 24 ∧ base.toNat % 2 ^ logSize = 0 ∧ stateAddr.toNat % 64 = 0) = true :=
    decide_eq_true ⟨hsize.1, hsize.2, hbase, haddr⟩
  have hgo : ¬ (s.rings[r].st = .active ∨ (!(if r.val < 8 then decide (grant = .firmware) else true)) = true ∨
      (!decide (12 ≤ logSize ∧ logSize ≤ 24 ∧ base.toNat % 2 ^ logSize = 0 ∧ stateAddr.toNat % 64 = 0)) = true ∨ s.bringUp < 7) := by
    rw [hown, hok, hup]
    rintro (h | h | h | h)
    · exact hslot h
    all_goals exact absurd h (by decide)
  refine (if_neg hgo).trans ?_
  cases grant <;> dsimp only [CmdRing.ctx] at hread <;> simp only [hread]

theorem setRoot_written {ctx root : Nat} (hctx : ctx ≤ 0xFFFE) (halign : root % 4096 = 0) (htop : root < s.paTop) :
    s.setRoot ctx (some root) = { s with roots := (ctx, root) :: s.roots.filter fun e => e.1 != ctx } := by
  simp only [State.setRoot, Nat.not_lt.2 hctx, if_false, halign, htop, and_self, if_true]

/-- An idle ring becomes ready when WIDX has moved on (17 R449). -/
theorem ringReady_ready {w : Word} (hst : s.rings[r].st = .idle) (hgrant : s.rings[r].grant ≠ .none) (hp : s.power = .d0) (hup : s.bringUp = 7)
    (hq : s.quiescing = false) (hw : s.blockWord s.rings[r] 0 = .ok w) (hne : w ≠ s.rings[r].ridx) :
    s.ringReady r = s.modCmdRing r fun y => { y with st := .ready } := by
  have hgo : ¬ (s.rings[r].st ≠ .idle ∨ s.rings[r].grant = .none ∨ s.power ≠ .d0 ∨ s.bringUp < 7 ∨ s.quiescing = true) := by
    rw [hst, hp, hup, hq]
    rintro (h | h | h | h | h)
    case inr.inl => exact hgrant h
    all_goals exact absurd h (by decide)
  simp only [State.ringReady, if_neg hgo, hw, if_neg hne]

/-- With a slot free a ready ring takes it, unless the module is quiesced (17 R449, 15 R399). -/
theorem exec_slotGrant_ready (hst : s.rings[r].st = .ready) (hp : s.power = .d0) (hup : s.bringUp = 7)
    (hfree : (s.rings.toList.filter fun y => y.st == .active).length < 64) :
    exec (.slotGrant r) s = if s.quiescing then .next s else .next (s.modCmdRing r fun y => { y with st := .active }) := by
  rw [exec_slotGrant, execSlotGrant]
  cases hq : s.quiescing
  · exact if_pos ⟨hst, hfree, hp, hup.ge, rfl⟩
  · exact if_neg fun h => Bool.false_ne_true h.2.2.2.2

/-- A slice ends between packets (17 R446). -/
theorem exec_ringSliceExpiry_between (hst : s.rings[r].st = .active) (hacc : s.rings[r].accepted = 0) (hbegun : s.rings[r].begun = false) :
    exec (.ringSliceExpiry r) s = .next (s.modCmdRing r fun y => { y with st := .ready, waiting := false }) := by
  have hyields : s.rings[r].yields = true := by
    rw [CmdRing.yields, hst, hacc, hbegun]
    rfl
  exact if_pos hyields

theorem exec_ringPark_waiting (hst : s.rings[r].st = .active) (hwait : s.rings[r].waiting = true) :
    exec (.ringPark r) s = .next (s.modCmdRing r fun y => { y with st := .parked, waiting := false }) :=
  if_pos ⟨hst, hwait⟩

/-- No ring is re-armed while the module is quiesced (15 R399). -/
theorem exec_ringRearm_quiesced (hq : s.quiescing = true) : exec (.ringRearm r) s = .next s := if_pos (.inr hq)

section
variable {bs : List Byte} {h : Pkt} {a v : Word} {c : WCond} {w : Bool} (hpub : s.published r s.rings[r] = .ok (some bs))
  (hdec : decodePacket r bs = .ok (.wait h a v c w))
include hpub hdec

/-- A parked ring whose WAIT can be read becomes ready (17 R447). -/
theorem exec_ringRearm_ready (hst : s.rings[r].st = .parked) (hq : s.quiescing = false)
    (hpage : s.translate none s.rings[r].ctx a.toNat .read ≠ .error .pageR) :
    exec (.ringRearm r) s = .next (s.modCmdRing r fun y => { y with st := .ready }) := by
  have hgo : ¬ (s.rings[r].st ≠ .parked ∨ s.quiescing = true) := by
    rw [hst, hq]
    decide
  rw [exec_ringRearm, execRingRearm]
  -- Of the match on the translation, `hpage` leaves the other alternative.
  simp only [if_neg hgo, hpub, hdec]

/-- A parked ring whose page is not there waits for it, or stops where it cannot be mapped (17 R447). -/
theorem exec_ringRearm_absent (hst : s.rings[r].st = .parked) (hq : s.quiescing = false)
    (hpage : s.translate none s.rings[r].ctx a.toNat .read = .error .pageR) :
    exec (.ringRearm r) s = .next (if Config.policy s.tick 30 then s.ringFault r 0x07 else s) := by
  have hgo : ¬ (s.rings[r].st ≠ .parked ∨ s.quiescing = true) := by
    rw [hst, hq]
    decide
  rw [exec_ringRearm, execRingRearm]
  simp only [if_neg hgo, hpub, hdec, hpage]
  split <;> rfl

/-- The WAIT of a ring that waits reads again (17 R445). -/
theorem exec_waitSatisfied_reads (hst : s.rings[r].st = .active) (hwait : s.rings[r].waiting = true) :
    exec (.waitSatisfied r) s = exec (.wait h a v c w) s := by
  have hgo : ¬ (s.rings[r].st ≠ .active ∨ (!s.rings[r].waiting) = true) := by
    rw [hst, hwait]
    decide
  rw [exec_waitSatisfied, execWaitSatisfied, exec_wait]
  simp only [if_neg hgo, hpub, hdec]

end

/-- A stopped ring restarts at an index (17 R448). -/
theorem exec_ringRestart_stopped {ridx w : Word} {t : State} (hst : s.rings[r].st = .stopped)
    (hwrite : s.writeV none s.rings[r].ctx (s.rings[r].stateAddr.toNat + 8) (leBytes 8 ridx.toNat) = .ok t)
    (hw : t.blockWord s.rings[r] 0 = .ok w) : exec (.ringRestart r ridx) s = .next (t.modCmdRing r fun y =>
      { y with st := if w = ridx then .idle else .ready, ridx := ridx, accepted := 0, begun := false, waiting := false }) := by
  rw [exec_ringRestart, execRingRestart]
  simp only [hst, ne_eq, not_true_eq_false, if_false, State.cpStore, cpWrite_ok hwrite, hw]

end

-- Tasks (17 R451, R452, R456, R457).

/-- A core that drops the work of the task of its piece is free of the piece. -/
theorem drop_piece {c : Core} {p : PieceRun} (h : c.piece = some p) : (c.drop p.task).piece = none := by
  have hmine : (c.piece.any fun q => q.task == p.task) = true := by simp [h]
  exact if_pos hmine

theorem pieceEnd_core (s : State) (g : CoreNo) (p : PieceRun) (n : Nat) : (s.pieceEnd g p n).cores[g] = s.cores[g].drop p.task :=
  modCore_core s g (·.drop p.task)

section
variable {s : State} {t : Task}

section
variable (ht : s.task t.id = some t) (hphase : t.phase = .waiting) (hdeps : t.deps = []) (hplace : s.noPlacement = false)
include hphase hdeps hplace

/-- A task without dependences is not kept from dispatch where placement goes on (17 R452). -/
theorem dispatch_open : ¬ (t.phase ≠ .waiting ∨ (!t.deps.isEmpty) = true ∨ s.noPlacement = true) := by
  simp [hphase, hdeps, hplace]

include ht

theorem exec_taskDispatch_image {i : Image} {u : State} (hwork : t.work = .image i) (hdata : s.writeV none t.ctx t.data.toNat i.data = .ok u) :
    exec (.taskDispatch t.id) s = .next (u.modTask t.id fun y => { y with phase := .dispatched }) := by
  rw [exec_taskDispatch, execTaskDispatch]
  simp only [ht, if_neg (dispatch_open hphase hdeps hplace), hwork, cpWrite_ok hdata, State.setPhase]

theorem exec_taskDispatch_transform {i : Instr} (hwork : t.work = .transform i) : exec (.taskDispatch t.id) s =
    .next (s.modTask t.id fun y => { y with phase := if (s.transformSize t.ctx i).1 = 0 then .done 0 0 else .dispatched }) := by
  rw [exec_taskDispatch, execTaskDispatch]
  simp only [ht, if_neg (dispatch_open hphase hdeps hplace), hwork, State.setPhase]

end

section
variable {i : Instr} {g : CoreNo} (ht : s.task t.id = some t) (hwork : t.work = .transform i)
include ht hwork

/-- The next piece of a dispatched transform takes a free core (17 R456, LOG 70). -/
theorem pieceStart_takes (hphase : t.phase = .dispatched)
    (hnext : t.next < ((s.transformSize t.ctx i).1 + (s.transformSize t.ctx i).2 - 1) / (s.transformSize t.ctx i).2)
    (hfree : s.cores[g].free = true) (hplace : s.noPlacement = false) : s.pieceStart t.id g =
      (s.modCore g fun y => { y with piece := some ⟨t.id, t.next, t.next * (s.transformSize t.ctx i).2⟩ }).modTask t.id fun y =>
        { y with next := y.next + 1 } := by
  simp only [State.pieceStart, ht, hwork, hphase, pieceCount, Nat.not_le.2 hnext, hfree, hplace, Bool.not_true, Bool.false_eq_true,
    or_self, if_false]

variable {p : PieceRun} (hpiece : s.cores[g].piece = some p) (htask : p.task = t.id)
include hpiece htask

/-- A piece does the next part of its work (17 R456). -/
theorem pieceStep_works (hpart : p.part < min (s.transformSize t.ctx i).1 ((p.num + 1) * (s.transformSize t.ctx i).2)) {u : State}
    (hdone : s.pieceWork g p i = .ok u) : s.pieceStep g = u := by
  have hmore : ¬ Nat.min (s.transformSize t.ctx i).1 ((p.num + 1) * (s.transformSize t.ctx i).2) ≤ p.part := Nat.not_le.2 hpart
  simp only [State.pieceStep, hpiece, htask, ht, hwork, if_neg hmore, hdone]

/-- A piece without a part left is finished, and its core is free of it (17 R457). -/
theorem pieceStep_ends (hpart : min (s.transformSize t.ctx i).1 ((p.num + 1) * (s.transformSize t.ctx i).2) ≤ p.part) :
    (s.pieceStep g).cores[g].piece = none := by
  have hend : Nat.min (s.transformSize t.ctx i).1 ((p.num + 1) * (s.transformSize t.ctx i).2) ≤ p.part := hpart
  have hstep : s.pieceStep g = s.pieceEnd g p (pieceCount (s.transformSize t.ctx i)) := by
    simp only [State.pieceStep, hpiece, htask, ht, hwork, if_pos hend]
  rw [hstep]
  exact (congrArg Core.piece (pieceEnd_core s g p _)).trans (drop_piece hpiece)

end

/-- A completion store that meets no fault, or is not asked for (17 R457). -/
theorem completionStore_done {u v : State} {a : Word} {bs : List Byte} {ctx : Nat} (k : Nat)
    (h : (if a ≠ 0 ∧ a.toNat % 8 = 0 then u.writeV none ctx a.toNat bs else .ok u) = .ok v) :
    (if storeAddr a then u.cpStore k ctx a.toNat bs else some u) = some v := by
  have hiff : storeAddr a = true ↔ a ≠ 0 ∧ a.toNat % 8 = 0 := by simp [storeAddr]
  by_cases ha : a ≠ 0 ∧ a.toNat % 8 = 0
  · rw [if_pos ha] at h
    rw [if_pos (hiff.2 ha), State.cpStore, cpWrite_ok h]
  · rw [if_neg ha] at h
    rw [if_neg (mt hiff.1 ha), Except.ok.inj h]

/-- The state in which a finished task is tracked no longer (17 R457). -/
def State.untracked (s : State) (id : Nat) : State :=
  { s with
    tasks := (s.tasks.filter fun y : Task => y.id != id).map fun y : Task => { y with deps := y.deps.filter (· != id) }
    spillLocks := s.spillLocks.filter fun k => k.task != id }

/-- A finished task with no window that applies completes: its status word, then its signal, then its node (17 R457, LOG 87). -/
theorem exec_taskComplete_done {a b : Nat} {u v : State} (ht : s.task t.id = some t) (hphase : t.phase = .done a b)
    (hwindows : ∀ w ∈ t.windows, s.applying t.id w = false)
    (hstatus : (if t.status ≠ 0 ∧ t.status.toNat % 8 = 0 then
      (s.untracked t.id).writeV none t.ctx t.status.toNat (leBytes 8 (b % 256 * 256 + a)) else .ok (s.untracked t.id)) = .ok u)
    (hsignal : (if t.sigAddr ≠ 0 ∧ t.sigAddr.toNat % 8 = 0 then u.writeV none t.ctx t.sigAddr.toNat (leBytes 8 t.sigVal.toNat) else .ok u)
      = .ok v) :
    exec (.taskComplete t.id) s = .next (match t.node with | some n => v.nodeDone n | none => v) := by
  have hno : t.windows.any (s.applying t.id ·) = false := by simpa using hwindows
  have h1 := completionStore_done 5 hstatus
  have h2 := completionStore_done 6 hsignal
  rw [State.untracked] at h1
  rw [exec_taskComplete, execTaskComplete]
  simp only [ht, hphase, hno, Bool.false_eq_true, if_false, h1, h2] <;> rfl

end

-- Nodes (17 R455).

section
variable {s : State} {n : Node}

/-- A node whose work is not done yet waits for it; with the last task it makes its decrements (17 R455). -/
theorem nodeDone_running (hn : (s.nodes.find? fun y => y.id == n.id && y.stage == .running) = some n) :
    ((∃ t ∈ s.tasks, t.node = some n.id) → s.nodeDone n.id = s) ∧
    ((∀ t ∈ s.tasks, t.node ≠ some n.id) → s.nodeDone n.id = s.finishNode n) := by
  have hany : (s.tasks.any fun t => t.node == some n.id) = true ↔ ∃ t ∈ s.tasks, t.node = some n.id := by simp
  refine ⟨fun h => ?_, fun h => ?_⟩
  · simp only [State.nodeDone, hn, hany.2 h, if_true]
  · have hno : ¬ (s.tasks.any fun t => t.node == some n.id) = true := fun hyes => by
      obtain ⟨t, ht, hnode⟩ := hany.1 hyes
      exact h t ht hnode
    simp only [State.nodeDone, hn, if_neg hno]

/-- A decrement that can be made writes the counter less 1 (17 R455). -/
theorem decrement_mem {ctx pa : Nat} {c : Word} (htrans : s.translate none ctx c.toNat .both = .ok pa) (halign : c.toNat % 8 = 0)
    (hclean : s.poisoned pa 8 = false) : (s.decrement ctx c).mem = s.mem.put pa (leBytes 8 (s.mem.word pa - 1).toNat) := by
  have hgo : c.toNat % 8 = 0 ∧ (!s.poisoned pa 8) = true := ⟨halign, by rw [hclean]; rfl⟩
  have hbytes : leBytes 8 (s.mem.word pa - 1).toNat ≠ [] := List.ne_nil_of_length_pos (by rw [leBytes_length]; decide)
  simp only [State.decrement, htrans, if_pos hgo, agentWrite_mem s ctx pa hbytes]

/-- A decrement waits while its page is to be served (17 R446). -/
theorem decrement_owed {ctx : Nat} {c : Word} {e : Cause} (htrans : s.translate none ctx c.toNat .both = .error e)
    (hpage : e = .pageR ∨ e = .pageW) (hserve : Config.policy s.tick 7 = false) : s.decrement ctx c = { s with owed := s.owed ++ [(ctx, c)] } := by
  rcases hpage with rfl | rfl <;> simp only [State.decrement, htrans, State.cpFault, hserve, Bool.false_eq_true, if_false]

theorem settleDecrement_oldest {ctx : Nat} {c : Word} {rest : List (Nat × Word)} (howed : s.owed = (ctx, c) :: rest) :
    s.settleDecrement = ({ s with owed := rest } : State).decrement ctx c := by
  simp only [State.settleDecrement, howed]

section
variable (hn : (s.nodes.find? fun y => y.id == n.id) = some n)
include hn

theorem exec_nodeFire_running (hst : n.stage = .running) : exec (.nodeFire n.id) s = .next s := by
  rw [exec_nodeFire, execNodeFire]
  simp only [hn, hst]

/-- An armed node whose counter reads above 0 stays armed (17 R455). -/
theorem exec_nodeFire_above {bs : List Byte} (hst : n.stage = .armed) (hread : s.readV none n.ctx n.counter.toNat 8 = .ok bs)
    (hpos : 0 < (BitVec.ofNat 64 (leNat bs) : Word).toInt) : exec (.nodeFire n.id) s = .next s := by
  have hno : ¬ (BitVec.ofNat 64 (leNat bs) : Word).sle 0 = true := by
    rw [BitVec.sle_iff_toInt_le]
    exact Int.not_le.2 hpos
  rw [exec_nodeFire, execNodeFire]
  simp only [hn, hst, hread, if_neg hno]

/-- A node whose counter reads at most 0, or that has fired, goes on with its payload (17 R455). -/
theorem exec_nodeFire_runs {k : Nat} (hfires : n.stage = .fired k ∨ k = 0 ∧ n.stage = .armed ∧
      ∃ bs, s.readV none n.ctx n.counter.toNat 8 = .ok bs ∧ (BitVec.ofNat 64 (leNat bs) : Word).toInt ≤ 0) :
    exec (.nodeFire n.id) s = .next (s.runPayload n k) := by
  rw [exec_nodeFire, execNodeFire]
  rcases hfires with hst | ⟨rfl, hst, bs, hread, hle⟩
  · simp only [hn, hst]
  · have hyes : (BitVec.ofNat 64 (leNat bs) : Word).sle 0 = true := BitVec.sle_iff_toInt_le.2 hle
    simp only [hn, hst, hread, if_pos hyes]

end

/-- A launch as a payload goes on with its records (17 R455). -/
theorem runPayload_launch {h : Pkt} {first : Word} {count : Nat} (hp : s.payload n = .ok (some (.launch h first count))) (k : Nat) :
    s.runPayload n k = s.nodeRecords n first.toNat (count - k) k := by
  simp only [State.runPayload, hp]

/-- The table of tracked tasks has no place for one more (17 R452). -/
theorem trackRoom_full (hfull : 1024 ≤ s.tasks.length) : s.trackRoom 1 = false :=
  Bool.eq_false_iff.2 fun h => absurd ((trackRoom_one s).1 h) (Nat.not_lt.2 hfull)

section
variable {i : Instr} {h : Pkt} (hp : s.payload n = .ok (some i)) (hi : transformOf i = some h) (k : Nat)
include hp hi

/-- While the table is full a transform waits to be tracked (17 R455, R452). -/
theorem runPayload_transform_full (hfull : 1024 ≤ s.tasks.length) :
    s.runPayload n k = s.modNode n.id fun x => { x with stage := .fired k } := by
  unfold transformOf at hi
  split at hi <;> cases hi <;> simp only [State.runPayload, hp, trackRoom_full hfull, Bool.not_false, if_true]

/-- With a place in the table a transform is tracked, and its node waits for it (17 R455, R452). -/
theorem runPayload_transform_tracked {t : State} (hroom : s.tasks.length < 1024)
    (haccept : s.acceptTransform none (some n.id) n.ctx i = some t) : s.runPayload n k = t.nodeRuns n := by
  unfold transformOf at hi
  split at hi <;> cases hi <;>
    simp only [State.runPayload, hp, (trackRoom_one s).2 hroom, haccept, Bool.not_true, Bool.false_eq_true, if_false]

end

theorem runPayload_malformed (hp : s.payload n = .ok none) (k : Nat) : s.runPayload n k = s.badPayload n := by
  simp only [State.runPayload, hp]

section
variable {first k left : Nat}

/-- While the table is full the payload waits at its next record (17 R452). -/
theorem nodeRecords_full (hfull : 1024 ≤ s.tasks.length) :
    s.nodeRecords n first (left + 1) k = s.modNode n.id fun x => { x with stage := .fired k } := by
  simp only [State.nodeRecords, trackRoom_full hfull, Bool.not_false, if_true]

/-- With a place in the table the next record is accepted, and the payload goes on behind it (17 R452). -/
theorem nodeRecords_accepts {bs : List Byte} {t : State} (hroom : s.tasks.length < 1024)
    (hread : s.readV none n.ctx (first + 64 * k) 64 = .ok bs)
    (haccept : s.acceptRecord none (some n.id) n.ctx (opRecordOf bs) = some t) :
    s.nodeRecords n first (left + 1) k = t.nodeRecords n first left (k + 1) := by
  simp only [State.nodeRecords, (trackRoom_one s).2 hroom, Bool.not_true, Bool.false_eq_true, if_false, cpRead_ok hread, haccept]

end

end

/-- Settles O49: each clause by the lemma on it. -/
theorem ringAndTaskSteps : Obligations.RingAndTaskSteps := by
  intro s r x change armed
  refine ⟨fun grant base logSize stateAddr slice bs hslot howner h12 h24 hbase haddr hup =>
      setRing_written hslot howner ⟨h12, h24⟩ hbase haddr hup,
    fun ctx root => setRoot_written, fun w => ringReady_ready, exec_slotGrant_ready, exec_ringSliceExpiry_between, exec_ringPark_waiting,
    fun bs h a v c w hpub hdec => ?waiting, fun _ => exec_ringRearm_quiesced, fun ridx t w => exec_ringRestart_stopped,
    fun t ht hphase hdeps hplace => ⟨fun i u => exec_taskDispatch_image ht hphase hdeps hplace,
      fun i => exec_taskDispatch_transform ht hphase hdeps hplace⟩,
    fun t i g ht hwork => ⟨pieceStart_takes ht hwork, fun p hpiece htask =>
      ⟨fun hpart u => pieceStep_works ht hwork hpiece htask hpart, pieceStep_ends ht hwork hpiece htask⟩⟩,
    fun t a b u v => exec_taskComplete_done, fun n v => nodeDone_running,
    fun ctx c => ⟨fun pa => decrement_mem, fun e => decrement_owed, fun rest => settleDecrement_oldest⟩,
    fun n hn => ⟨exec_nodeFire_running hn, fun bs => exec_nodeFire_above hn, fun k hfires => ?fires⟩⟩
  case waiting =>
    refine ⟨exec_ringRearm_ready hpub hdec, exec_ringRearm_absent hpub hdec, fun hst hwait data u hread => ?_⟩
    rw [exec_waitSatisfied_reads hpub hdec hst hwait]
    exact ⟨exec_wait_satisfied hread, exec_wait_holds hread⟩
  case fires =>
    intro stage runs
    rw [exec_nodeFire_runs hn hfires]
    refine ⟨fun h first count hp => ?launch, fun i h hp hi => ?transform, fun hp => ?malformed⟩
    case launch =>
      refine ⟨congrArg Outcome.next (runPayload_launch hp k), fun hdone => ?_, fun hmore hfull => ?_, fun hmore hroom bs t hread haccept => ?_⟩
      · rw [Nat.sub_eq_zero_of_le hdone]
        rfl
      · obtain ⟨left, hleft⟩ := Nat.exists_eq_succ_of_ne_zero (Nat.sub_ne_zero_of_lt hmore)
        rw [hleft]
        exact nodeRecords_full hfull
      · rw [show count - k = count - (k + 1) + 1 by omega]
        exact nodeRecords_accepts hroom hread haccept
    case transform =>
      exact ⟨fun hfull => congrArg Outcome.next (runPayload_transform_full hp hi k hfull),
        fun hroom t haccept => congrArg Outcome.next (runPayload_transform_tracked hp hi k hroom haccept)⟩
    case malformed =>
      rw [runPayload_malformed hp]
      rfl

end Sys2Proof.Machine
end

section
/-! A store of no bytes by the host, over memory that is not in canonical form (18 R460, R461; LOG 3). -/

namespace Sys2Proof.Machine

open Host

/-- Memory with two listed bytes out of order, which no step from the start state gives (LOG 3). -/
def unsortedMemory : State := { State.reset with mem := [(1, 1), (0, 1)] }

/-- Refutes O50, in its clause on a store of the host that lands: of no bytes, in `unsortedMemory`. The store leaves memory as it is,
(1, 1) before (0, 1); the clause says that it gives `s.mem.put 1 []`, which puts the two bytes in order. -/
theorem not_linkAndHostSteps : ¬ Obligations.LinkAndHostSteps := by
  intro h
  obtain ⟨-, -, -, -, -, -, -, -, -, -, -, -, -, -, hhost⟩ := h unsortedMemory 0 rfl
  obtain ⟨hwrite, -⟩ := hhost rfl rfl 1 (by decide)
  obtain ⟨hlands, -⟩ := hwrite [] (by decide)
  obtain ⟨-, hmem⟩ := hlands (by decide +kernel)
  rw [agentWrite_empty] at hmem
  exact absurd hmem (by decide +kernel)

end Sys2Proof.Machine
end
